-- ==== Sys2Proof/Word.lean ====
section
/-!
DEFINITION. The machine's words (R1: little-endian bytes, bit 0 least significant) and the plainest
arithmetic on them, and the sorted tables that sparse storage is held in.
-/

namespace Sys2Proof

abbrev Byte := BitVec 8
abbrev Word := BitVec 32
abbrev DWord := BitVec 64

/-- A sparse table by key. Its canonical form (`Tab.Wf`) has strictly rising keys and lists no entry that
equals what an unlisted key reads as, so equal tables are equal data. -/
abbrev Tab (α : Type) := List (Nat × α)

/-- All ones or zero, as the compares write (R71). -/
def Word.ofBool (b : Bool) : Word := if b then 0xFFFFFFFF#32 else 0#32

/-- The low and the high word of a pair, in register order (R49). -/
def DWord.lo (x : DWord) : Word := x.truncate 32
def DWord.hi (x : DWord) : Word := (x >>> 32).truncate 32
def DWord.mk (lo hi : Word) : DWord := hi ++ lo

end Sys2Proof
end

