-- ==== Sys2Proof/Syntax.lean ====
section
/-!
DEFINITION. The instructions: one constructor for each row of the opcode table (R51, R272 and the device's
own steps). Core instructions hold the fields of their format (R45) as the word holds them; the meaning
checks what a field may hold (R46 to R49), so that an illegal field traps as the manual says. Walker words
hold the fields of R271. The device's steps hold the parameters that say where the step happens.
-/

namespace Sys2Proof

/-- A unit that a failure or a command can fence (R107, R112, R356). -/
inductive DeviceUnit where
  | core (n : Nat)    -- a physical core: 4 * hub + rank
  | slice (n : Nat)   -- a shared-cache slice, 0-127
  | stack (n : Nat)   -- a near-memory stack, 0-7
  deriving DecidableEq, Repr

/-- Where an error of R327 strikes. -/
inductive ErrorSite where
  | sector (n : Nat)              -- a 32-byte sector: memory key / 32
  | reg (team thr n : Nat)        -- an allocation register of a thread
  | spad (team word : Nat)        -- a scratchpad word of a team
  deriving DecidableEq, Repr

/-- Where a soft error is corrected, each with a count of its own (R327). -/
inductive ErrorPlace where
  | memory | cache | store | buffer | link
  deriving DecidableEq, Repr

/-- A firmware image: its version and its contents (R353). -/
structure FwImage where
  version : Nat
  body : List Byte
  deriving DecidableEq, Repr

/-- A device of the fabric domain, and the number of its request (R202). -/
structure Sender where
  node : Nat
  seq : Nat
  deriving DecidableEq, Repr

/-- What a remote device or the host asks of this device's memory (R188, R214): a read, an atomic by its code
(R52) with its operand words and, for an add to accumulators, their exponent, a compare and swap, or a versioned one
(R210; `fused` for the advance of R225). -/
inductive AgentAccess where
  | read (len : Nat)
  | atomic (code : BitVec 7) (operand : List Word) (accE : Int)
  | cas (expect new : Word)
  | casv (version : BitVec 48) (new : Word) (fused : Bool)
  deriving DecidableEq, Repr

/-- The rows of the opcode table. -/
inductive Instr where
  -- core instructions (R45, R51)
  | nop
  | exit
  | reform
  | reformB
  | yield
  | bkpt
  | iadd (d a b : BitVec 7)
  | isub (d a b : BitVec 7)
  | imul (d a b : BitVec 7)
  | imulhS (d a b : BitVec 7)
  | imulhN (d a b : BitVec 7)
  | imad (d a b : BitVec 7)
  | iminS (d a b : BitVec 7)
  | iminN (d a b : BitVec 7)
  | imaxS (d a b : BitVec 7)
  | imaxN (d a b : BitVec 7)
  | iabs (d a : BitVec 7)
  | and (d a b : BitVec 7)
  | or (d a b : BitVec 7)
  | xor (d a b : BitVec 7)
  | andn (d a b : BitVec 7)
  | shl (d a b : BitVec 7)
  | shr (d a b : BitVec 7)
  | sha (d a b : BitVec 7)
  | rotl (d a b : BitVec 7)
  | popc (d a : BitVec 7)
  | clz (d a : BitVec 7)
  | bfx (d a b : BitVec 7)
  | bfi (d a b : BitVec 7)
  | isetEq (d a b : BitVec 7)
  | isetNe (d a b : BitVec 7)
  | isetLt (d a b : BitVec 7)
  | isetLe (d a b : BitVec 7)
  | isetGt (d a b : BitVec 7)
  | isetGe (d a b : BitVec 7)
  | isetLtN (d a b : BitVec 7)
  | isetLeN (d a b : BitVec 7)
  | isetGtN (d a b : BitVec 7)
  | isetGeN (d a b : BitVec 7)
  | mov (d a : BitVec 7)
  | sel (d a b : BitVec 7)
  | add64 (d a b : BitVec 7)
  | sub64 (d a b : BitVec 7)
  | shl64 (d a b : BitVec 7)
  | shr64 (d a b : BitVec 7)
  | mul64 (d a b : BitVec 7)
  | lea0 (d a b : BitVec 7)
  | lea1 (d a b : BitVec 7)
  | lea2 (d a b : BitVec 7)
  | lea3 (d a b : BitVec 7)
  | iset64Eq (d a b : BitVec 7)
  | iset64LtN (d a b : BitVec 7)
  | iaddi (d a : BitVec 7) (i : BitVec 11)
  | andi (d a : BitVec 7) (i : BitVec 11)
  | ori (d a : BitVec 7) (i : BitVec 11)
  | shli (d a : BitVec 7) (i : BitVec 5)
  | shri (d a : BitVec 7) (i : BitVec 5)
  | ldi (d : BitVec 7) (i : BitVec 18)
  | ldhi (d : BitVec 7) (i : BitVec 14)
  | win (i : BitVec 18)
  | part (i : BitVec 18)
  | prio (i : BitVec 18)
  | sleep (i : BitVec 18)
  | waitf (d : BitVec 7) (i : BitVec 18)
  | bra (s : BitVec 18)
  | beqz (a : BitVec 7) (s : BitVec 18)
  | bnez (a : BitVec 7) (s : BitVec 18)
  | bltz (a : BitVec 7) (s : BitVec 18)
  | bgez (a : BitVec 7) (s : BitVec 18)
  | call (a : BitVec 7) (s : BitVec 18)
  | jmp (a : BitVec 7)
  | ret (a : BitVec 7)
  | callr (d a : BitVec 7)
  | qpost (d a b : BitVec 7) (f : BitVec 4)
  | jdecl (j a : BitVec 7)
  | jsign (j : BitVec 7)
  | jleave (j : BitVec 7)
  | jcancel (j : BitVec 7)
  | jstat (d j : BitVec 7)
  | lanePick (d a b : BitVec 7)
  | laneBack (d a b : BitVec 7)
  | laneFwd (d a b : BitVec 7)
  | laneFlip (d a b : BitVec 7)
  | laneRot (d a b : BitVec 7)
  | pollEvery (d a : BitVec 7)
  | pollSome (d a : BitVec 7)
  | pollMask (d a : BitVec 7)
  | pollSame (d a : BitVec 7)
  | pollPres (d : BitVec 7)
  | pollCnt (d a : BitVec 7)
  | matchLanes (d a : BitVec 7)
  | mrank (d a : BitVec 7)
  | mcnt (d a : BitVec 7)
  | mlead (d a : BitVec 7)
  | tscanAddI (d a : BitVec 7)
  | tscanAddF (d a : BitVec 7)
  | tscanMaxS (d a : BitVec 7)
  | tscanMinS (d a : BitVec 7)
  | tscanExAddI (d a : BitVec 7)
  | tscanExAddF (d a : BitVec 7)
  | tscanSegAddI (d a b : BitVec 7)
  | tscanSegAddF (d a b : BitVec 7)
  | tredAddI (d a : BitVec 7)
  | tredAddF (d a : BitVec 7)
  | tredMaxS (d a : BitVec 7)
  | tredMinS (d a : BitVec 7)
  | tredMaxF (d a : BitVec 7)
  | tredMinF (d a : BitVec 7)
  | tredAnd (d a : BitVec 7)
  | tredOr (d a : BitVec 7)
  | ldlB (d a o : BitVec 7) (f : BitVec 4)
  | ldlH (d a o : BitVec 7) (f : BitVec 4)
  | ldlW (d a o : BitVec 7) (f : BitVec 4)
  | ldlD (d a o : BitVec 7) (f : BitVec 4)
  | ldlQ (d a o : BitVec 7) (f : BitVec 4)
  | stlB (d a o : BitVec 7) (f : BitVec 4)
  | stlH (d a o : BitVec 7) (f : BitVec 4)
  | stlW (d a o : BitVec 7) (f : BitVec 4)
  | stlD (d a o : BitVec 7) (f : BitVec 4)
  | stlQ (d a o : BitVec 7) (f : BitVec 4)
  | atl (d a c : BitVec 7) (f : BitVec 4)
  | tap (a b : BitVec 7) (f : BitVec 4)
  | tapNorm (a b : BitVec 7) (f : BitVec 4)
  | tapq (a b : BitVec 7)
  | spoke (a b : BitVec 7) (f : BitVec 4)
  | barInit (a b : BitVec 7)
  | barArrive (a : BitVec 7)
  | barWait (a b : BitVec 7)
  | barSync (a : BitVec 7)
  | barExpect (a b : BitVec 7)
  | barPhase (d a : BitVec 7)
  | barInval (a : BitVec 7)
  | fadd (d a b : BitVec 7)
  | fsub (d a b : BitVec 7)
  | fmul (d a b : BitVec 7)
  | ffma (d a b : BitVec 7)
  | fmin (d a b : BitVec 7)
  | fmax (d a b : BitVec 7)
  | fneg (d a : BitVec 7)
  | fabs (d a : BitVec 7)
  | fsetEq (d a b : BitVec 7)
  | fsetNe (d a b : BitVec 7)
  | fsetLt (d a b : BitVec 7)
  | fsetLe (d a b : BitVec 7)
  | fsetGt (d a b : BitVec 7)
  | fsetGe (d a b : BitVec 7)
  | fsetUn (d a b : BitVec 7)
  | fclass (d a : BitVec 7)
  | frcp (d a : BitVec 7)
  | frsq (d a : BitVec 7)
  | fsqrt (d a : BitVec 7)
  | fex2 (d a : BitVec 7)
  | flg2 (d a : BitVec 7)
  | fexp (d a : BitVec 7)
  | fln (d a : BitVec 7)
  | fsinp (d a : BitVec 7)
  | fcosp (d a : BitVec 7)
  | ftanh (d a : BitVec 7)
  | fsig (d a : BitVec 7)
  | h2add (d a b : BitVec 7)
  | h2mul (d a b : BitVec 7)
  | h2fma (d a b : BitVec 7)
  | b2add (d a b : BitVec 7)
  | b2mul (d a b : BitVec 7)
  | b2fma (d a b : BitVec 7)
  | xadd (d a b : BitVec 7)
  | xmul (d a b : BitVec 7)
  | xexp (d a : BitVec 7)
  | xcvt (d a : BitVec 7)
  | xfrom (d a : BitVec 7)
  | xratio (d a b : BitVec 7)
  | cvt (d a c : BitVec 7) (t : BitVec 1) (r : BitVec 3)
  | bytp (d a b : BitVec 7)
  | hpk (d a b : BitVec 7)
  | reqI8 (d a b : BitVec 7)
  | reqI4 (d a b : BitVec 7)
  | reqN8 (d a b : BitVec 7)
  | reqN4 (d a b : BitVec 7)
  | rng (d a b : BitVec 7)
  | gumb (d a : BitVec 7)
  | unif (d a : BitVec 7)
  | softmax (d a b : BitVec 7)
  | rmsnE12 (d a b : BitVec 7)
  | rmsnE14 (d a b : BitVec 7)
  | rmsnE16 (d a b : BitVec 7)
  | rmsnE18 (d a b : BitVec 7)
  | rmsnE20 (d a b : BitVec 7)
  | kvtag (d a : BitVec 7) (f : BitVec 4)
  | bnds (d a : BitVec 7) (f : BitVec 4)
  | kvmove (d a : BitVec 7) (f : BitVec 4)
  | topk (d a : BitVec 7) (f : BitVec 4)
  | ldgB (d a o : BitVec 7) (f : BitVec 4)
  | ldgH (d a o : BitVec 7) (f : BitVec 4)
  | ldgW (d a o : BitVec 7) (f : BitVec 4)
  | ldgD (d a o : BitVec 7) (f : BitVec 4)
  | ldgQ (d a o : BitVec 7) (f : BitVec 4)
  | stgB (d a o : BitVec 7) (f : BitVec 4)
  | stgH (d a o : BitVec 7) (f : BitVec 4)
  | stgW (d a o : BitVec 7) (f : BitVec 4)
  | stgD (d a o : BitVec 7) (f : BitVec 4)
  | stgQ (d a o : BitVec 7) (f : BitVec 4)
  | ldf (d a o : BitVec 7) (f : BitVec 4)
  | stf (d a o : BitVec 7) (f : BitVec 4)
  | stfRs (d a o : BitVec 7) (f : BitVec 4)
  | pref (a o : BitVec 7)
  | cfill (a b : BitVec 7) (f : BitVec 4)
  | gathW (d a b : BitVec 7) (f : BitVec 4)
  | gathD (d a b : BitVec 7) (f : BitVec 4)
  | gathF (d a b : BitVec 7) (f : BitVec 4)
  | scatW (d a b : BitVec 7) (f : BitVec 4)
  | scatD (d a b : BitVec 7) (f : BitVec 4)
  | kvrot (d a b : BitVec 7) (f : BitVec 4)
  | copy (a b : BitVec 7) (f : BitVec 4)
  | bcopy (d a b : BitVec 7) (f : BitVec 4)
  | copyx (a b : BitVec 7) (f : BitVec 4)
  | mma (j a b : BitVec 7) (f : BitVec 4)
  | mmas (a b : BitVec 7) (f : BitVec 4)
  | accz (a b : BitVec 7) (f : BitVec 4)
  | attn (d a b : BitVec 7) (f : BitVec 4)
  | attnr (d a b : BitVec 7) (f : BitVec 4)
  | kvap (d a b : BitVec 7) (f : BitVec 4)
  | kvrq (d a b : BitVec 7) (f : BitVec 4)
  | ldvsW (d a o : BitVec 7) (f : BitVec 4)
  | ldvsD (d a o : BitVec 7) (f : BitVec 4)
  | ldvsQ (d a o : BitVec 7) (f : BitVec 4)
  | valid (d k : BitVec 7) (f : BitVec 4)
  | verr (d a : BitVec 7) (f : BitVec 4)
  | casv (d a b : BitVec 7) (f : BitVec 4)
  | atom (d a c : BitVec 7) (f : BitVec 4)
  | cas (d a b : BitVec 7) (f : BitVec 4)
  | red (c a b : BitVec 7) (f : BitVec 4)
  | fenceAcq (s : BitVec 7)
  | fenceRel (s : BitVec 7)
  | fenceAr (s : BitVec 7)
  | fenceSc (s : BitVec 7)
  | ldacqW (d a s : BitVec 7) (f : BitVec 4)
  | ldacqD (d a s : BitVec 7) (f : BitVec 4)
  | strelW (d a s : BitVec 7) (f : BitVec 4)
  | strelD (d a s : BitVec 7) (f : BitVec 4)
  | trap (c : BitVec 7)
  | rett
  | gets (d n : BitVec 7)
  | sets (a n : BitVec 7)
  | snap
  | tlbinv (a b : BitVec 7)
  | ctxsv (a b : BitVec 7)
  | ctxld (a b : BitVec 7)
  | halt
  | tapld (a b : BitVec 7)
  | launch (d a : BitVec 7) (f : BitVec 4)
  -- walker words (R271, R272)
  | haltw
  | ldp (d a : BitVec 4) (i : BitVec 15)
  | ldx (d a : BitVec 4) (i : BitVec 15)
  | ldval (d a : BitVec 4) (i : BitVec 15)
  | addw (d a b : BitVec 4) (i : BitVec 15)
  | subw (d a b : BitVec 4) (i : BitVec 15)
  | cmpw (d a b : BitVec 4)
  | bltw (a b : BitVec 4) (i : BitVec 15)
  | bnew (a b : BitVec 4) (i : BitVec 15)
  | loop (d : BitVec 4) (i : BitVec 15)
  | skip (a b : BitVec 4)
  | sett (a b : BitVec 4)
  | emit (d a b : BitVec 4)
  | flush (a : BitVec 4)
  -- the device's own steps, its management commands and what arrives from outside
  | bundleEntry (team group : Nat)
  | flagWaitRelease (team group : Nat)
  | operationComplete (op : Nat)
  | binAgeRelease (core bin : Nat)
  | binIdleRelease (core bin : Nat)
  | binRefill (core : Nat)
  | issuePromotion (team group : Nat)
  | sleepWake (team thr : Nat)
  | waitfTimeout (team thr : Nat)
  | waitfWriteWake (team thr : Nat)
  | waitfEarlyWake (team thr : Nat)
  | pageWalk (core fn : Nat) (va : DWord)
  | storePerform (core : Nat)
  | scratchpadLineArrival (op team line : Nat)
  | pannierSend (entry : Nat)
  | residencyExpire (line : Nat)
  | copyComplete (op : Nat)
  | copyFault (op : Nat)
  | mmaGrant (hub : Nat)
  | reservationPromotion (hub call : Nat)
  | mmaCallEnd (hub : Nat)
  | bufferEviction (hub buf : Nat)
  | heldSumFlush (hub buf : Nat)
  | attnStop (op : Nat)
  | kvOpComplete (op : Nat)
  | tapComplete (op : Nat)
  | tapGenerationRetire
  | spokeComplete (ctx : Nat)
  | snapshotLatch
  | qbaseWrite (q : Nat) (v : DWord)
  | qlog2Write (q : Nat) (v : Word)
  | queueEnable (q : Nat)
  | qtailWrite (q : Nat) (v : DWord)
  | errClear (q : Nat)
  | packetRead (q : Nat)
  | dependencePoll (q : Nat)
  | placement (q : Nat)
  | csigWrite (grid : Nat)
  | remoteWriteArrival (src seq pa : Nat) (bytes : List Byte) (trapped : Bool)
  | remoteAccessArrival (src : Sender) (pa : Nat) (acc : AgentAccess) (trapped : Bool)
  | hostWriteArrival (link pa : Nat) (bytes : List Byte)
  | hostReadArrival (link pa len : Nat)
  | atomicopCompletion (op : Nat) (supported : Bool)
  | fabricLinkFailure (port : Nat)
  | deviceLost (node : Nat)
  | pcieLinkDown (link : Nat)
  | correctedError (p : ErrorPlace)
  | uncorrectableError (u : ErrorSite)
  | unitFailure (u : DeviceUnit)
  | thermalTrip
  | currentLimit
  | hostReset
  | attestation
  | health
  | snapread
  | snapRearm
  | snaptrig
  | fwupdate (image : FwImage) (signature : List Byte)
  | reset
  | pcap (watts : Nat)
  | fence (u : DeviceUnit)
  | fenceClear
  | fwcommit
  | pcieLinkUp (link : Nat)
  | remoteWriteAcknowledged (dst seq : Nat)
  | hostAtomicopArrival (link pa : Nat) (acc : AgentAccess)
  | powerLoss
  deriving DecidableEq, Repr

/-- The two word formats an instruction word is read under: core code (R45) or a walker program (R271). -/
inductive WordSpace where
  | core
  | walker
  deriving DecidableEq, Repr

end Sys2Proof
end

