-- ==== Sys2Proof/Decode.lean ====
section
/-!
DEFINITION. Reading an instruction word (R45, R46, R51 for core code; R271, R272 for a walker program), and
after it the encoder, written from the same tables. Every reader is total. A word that is no instruction is
refused by name: a major opcode or function code the opcode map does not list, or a field the entry lists as
unused that is not zero. What a field may hold beyond that (register fields, flags, scopes, codes) is
`Instr.wf` (Sys2Proof/WellFormed.lean).
-/

namespace Sys2Proof

/-- Why a word, or a list of bytes, is no instruction. -/
inductive DecodeError where
  | reserved      -- a major opcode, or a function code of it, that is not listed (R51, R271)
  | unusedField   -- an unused field that is not zero (R46)
  | truncated     -- fewer bytes than an instruction word has
  deriving DecidableEq, Repr

/-- A little-endian value (R1). -/
def leNat : List Byte → Nat
  | [] => 0
  | b :: bs => b.toNat + 256 * leNat bs

/-- The low `n` bytes of a value, lowest first (R1). -/
def leBytes : Nat → Nat → List Byte
  | 0, _ => []
  | n + 1, v => BitVec.ofNat 8 v :: leBytes n (v / 256)

/-! ## Core words -/

/-- A core word from its fields (R45): major opcode, d, a, b and x or f. -/
def coreWord (op d a b : BitVec 7) (x : BitVec 4) : Word := op ++ d ++ a ++ b ++ x

def majorOf (w : Word) : BitVec 7 := w.extractLsb' 25 7
def fieldD (w : Word) : BitVec 7 := w.extractLsb' 18 7
def fieldA (w : Word) : BitVec 7 := w.extractLsb' 11 7
def fieldB (w : Word) : BitVec 7 := w.extractLsb' 4 7
def fieldX (w : Word) : BitVec 4 := w.extractLsb' 0 4

/-- An instruction if its unused fields are zero (R46). -/
def ifZero (b : Bool) (i : Instr) : Except DecodeError Instr := if b then .ok i else .error .unusedField

/-- Major 0x00: NOP, EXIT, REFORM, REFORM.B, YIELD, BKPT. -/
def readOp00 (d a b : BitVec 7) (x : BitVec 4) : Except DecodeError Instr :=
  if x = 0#4 then ifZero (decide (d = 0#7) && decide (a = 0#7) && decide (b = 0#7)) (.nop)
  else if x = 1#4 then ifZero (decide (d = 0#7) && decide (a = 0#7) && decide (b = 0#7)) (.exit)
  else if x = 2#4 then ifZero (decide (d = 0#7) && decide (a = 0#7) && decide (b = 0#7)) (.reform)
  else if x = 3#4 then ifZero (decide (d = 0#7) && decide (a = 0#7) && decide (b = 0#7)) (.reformB)
  else if x = 4#4 then ifZero (decide (d = 0#7) && decide (a = 0#7) && decide (b = 0#7)) (.yield)
  else if x = 5#4 then ifZero (decide (d = 0#7) && decide (a = 0#7) && decide (b = 0#7)) (.bkpt)
  else .error .reserved

/-- Major 0x01: IADD, ISUB, IMUL, IMULH.S, IMULH.N, IMAD, IMIN.S, IMIN.N, IMAX.S, IMAX.N, IABS. -/
def readOp01 (d a b : BitVec 7) (x : BitVec 4) : Except DecodeError Instr :=
  if x = 0#4 then .ok (.iadd d a b)
  else if x = 1#4 then .ok (.isub d a b)
  else if x = 2#4 then .ok (.imul d a b)
  else if x = 3#4 then .ok (.imulhS d a b)
  else if x = 4#4 then .ok (.imulhN d a b)
  else if x = 5#4 then .ok (.imad d a b)
  else if x = 6#4 then .ok (.iminS d a b)
  else if x = 7#4 then .ok (.iminN d a b)
  else if x = 8#4 then .ok (.imaxS d a b)
  else if x = 9#4 then .ok (.imaxN d a b)
  else if x = 10#4 then ifZero (decide (b = 0#7)) (.iabs d a)
  else .error .reserved

/-- Major 0x02: AND, OR, XOR, ANDN, SHL, SHR, SHA, ROTL, POPC, CLZ, BFX, BFI. -/
def readOp02 (d a b : BitVec 7) (x : BitVec 4) : Except DecodeError Instr :=
  if x = 0#4 then .ok (.and d a b)
  else if x = 1#4 then .ok (.or d a b)
  else if x = 2#4 then .ok (.xor d a b)
  else if x = 3#4 then .ok (.andn d a b)
  else if x = 4#4 then .ok (.shl d a b)
  else if x = 5#4 then .ok (.shr d a b)
  else if x = 6#4 then .ok (.sha d a b)
  else if x = 7#4 then .ok (.rotl d a b)
  else if x = 8#4 then ifZero (decide (b = 0#7)) (.popc d a)
  else if x = 9#4 then ifZero (decide (b = 0#7)) (.clz d a)
  else if x = 10#4 then .ok (.bfx d a b)
  else if x = 11#4 then .ok (.bfi d a b)
  else .error .reserved

/-- Major 0x03: ISET.EQ, ISET.NE, ISET.LT, ISET.LE, ISET.GT, ISET.GE, ISET.LT.N, ISET.LE.N, ISET.GT.N, ISET.GE.N. -/
def readOp03 (d a b : BitVec 7) (x : BitVec 4) : Except DecodeError Instr :=
  if x = 0#4 then .ok (.isetEq d a b)
  else if x = 1#4 then .ok (.isetNe d a b)
  else if x = 2#4 then .ok (.isetLt d a b)
  else if x = 3#4 then .ok (.isetLe d a b)
  else if x = 4#4 then .ok (.isetGt d a b)
  else if x = 5#4 then .ok (.isetGe d a b)
  else if x = 6#4 then .ok (.isetLtN d a b)
  else if x = 7#4 then .ok (.isetLeN d a b)
  else if x = 8#4 then .ok (.isetGtN d a b)
  else if x = 9#4 then .ok (.isetGeN d a b)
  else .error .reserved

/-- Major 0x04: MOV, SEL. -/
def readOp04 (d a b : BitVec 7) (x : BitVec 4) : Except DecodeError Instr :=
  if x = 0#4 then ifZero (decide (b = 0#7)) (.mov d a)
  else if x = 1#4 then .ok (.sel d a b)
  else .error .reserved

/-- Major 0x05: ADD64, SUB64, SHL64, SHR64, MUL64, LEA.0, LEA.1, LEA.2, LEA.3, ISET64.EQ, ISET64.LT.N. -/
def readOp05 (d a b : BitVec 7) (x : BitVec 4) : Except DecodeError Instr :=
  if x = 0#4 then .ok (.add64 d a b)
  else if x = 1#4 then .ok (.sub64 d a b)
  else if x = 2#4 then .ok (.shl64 d a b)
  else if x = 3#4 then .ok (.shr64 d a b)
  else if x = 4#4 then .ok (.mul64 d a b)
  else if x = 5#4 then .ok (.lea0 d a b)
  else if x = 6#4 then .ok (.lea1 d a b)
  else if x = 7#4 then .ok (.lea2 d a b)
  else if x = 8#4 then .ok (.lea3 d a b)
  else if x = 9#4 then .ok (.iset64Eq d a b)
  else if x = 10#4 then .ok (.iset64LtN d a b)
  else .error .reserved

/-- Major 0x08: IADDI. -/
def readOp08 (d a b : BitVec 7) (x : BitVec 4) : Except DecodeError Instr :=
  .ok (.iaddi d a (b ++ x))

/-- Major 0x09: ANDI. -/
def readOp09 (d a b : BitVec 7) (x : BitVec 4) : Except DecodeError Instr :=
  .ok (.andi d a (b ++ x))

/-- Major 0x0A: ORI. -/
def readOp0A (d a b : BitVec 7) (x : BitVec 4) : Except DecodeError Instr :=
  .ok (.ori d a (b ++ x))

/-- Major 0x0B: SHLI. -/
def readOp0B (d a b : BitVec 7) (x : BitVec 4) : Except DecodeError Instr :=
  ifZero (decide (b.extractLsb' 1 6 = 0#6)) (.shli d a (b.extractLsb' 0 1 ++ x))

/-- Major 0x0C: SHRI. -/
def readOp0C (d a b : BitVec 7) (x : BitVec 4) : Except DecodeError Instr :=
  ifZero (decide (b.extractLsb' 1 6 = 0#6)) (.shri d a (b.extractLsb' 0 1 ++ x))

/-- Major 0x10: LDI. -/
def readOp10 (d a b : BitVec 7) (x : BitVec 4) : Except DecodeError Instr :=
  .ok (.ldi d (a ++ b ++ x))

/-- Major 0x11: LDHI. -/
def readOp11 (d a b : BitVec 7) (x : BitVec 4) : Except DecodeError Instr :=
  ifZero (decide (a.extractLsb' 3 4 = 0#4)) (.ldhi d (a.extractLsb' 0 3 ++ b ++ x))

/-- Major 0x12: WIN. -/
def readOp12 (d a b : BitVec 7) (x : BitVec 4) : Except DecodeError Instr :=
  ifZero (decide (d = 0#7)) (.win (a ++ b ++ x))

/-- Major 0x13: PART. -/
def readOp13 (d a b : BitVec 7) (x : BitVec 4) : Except DecodeError Instr :=
  ifZero (decide (d = 0#7)) (.part (a ++ b ++ x))

/-- Major 0x14: PRIO. -/
def readOp14 (d a b : BitVec 7) (x : BitVec 4) : Except DecodeError Instr :=
  ifZero (decide (d = 0#7)) (.prio (a ++ b ++ x))

/-- Major 0x15: SLEEP. -/
def readOp15 (d a b : BitVec 7) (x : BitVec 4) : Except DecodeError Instr :=
  ifZero (decide (d = 0#7)) (.sleep (a ++ b ++ x))

/-- Major 0x16: WAITF. -/
def readOp16 (d a b : BitVec 7) (x : BitVec 4) : Except DecodeError Instr :=
  .ok (.waitf d (a ++ b ++ x))

/-- Major 0x18: BRA. -/
def readOp18 (d a b : BitVec 7) (x : BitVec 4) : Except DecodeError Instr :=
  ifZero (decide (d = 0#7)) (.bra (a ++ b ++ x))

/-- Major 0x19: BEQZ. -/
def readOp19 (d a b : BitVec 7) (x : BitVec 4) : Except DecodeError Instr :=
  .ok (.beqz d (a ++ b ++ x))

/-- Major 0x1A: BNEZ. -/
def readOp1A (d a b : BitVec 7) (x : BitVec 4) : Except DecodeError Instr :=
  .ok (.bnez d (a ++ b ++ x))

/-- Major 0x1B: BLTZ. -/
def readOp1B (d a b : BitVec 7) (x : BitVec 4) : Except DecodeError Instr :=
  .ok (.bltz d (a ++ b ++ x))

/-- Major 0x1C: BGEZ. -/
def readOp1C (d a b : BitVec 7) (x : BitVec 4) : Except DecodeError Instr :=
  .ok (.bgez d (a ++ b ++ x))

/-- Major 0x1D: CALL. -/
def readOp1D (d a b : BitVec 7) (x : BitVec 4) : Except DecodeError Instr :=
  .ok (.call d (a ++ b ++ x))

/-- Major 0x1E: JMP, RET, CALLR. -/
def readOp1E (d a b : BitVec 7) (x : BitVec 4) : Except DecodeError Instr :=
  if x = 0#4 then ifZero (decide (d = 0#7) && decide (b = 0#7)) (.jmp a)
  else if x = 1#4 then ifZero (decide (d = 0#7) && decide (b = 0#7)) (.ret a)
  else if x = 2#4 then ifZero (decide (b = 0#7)) (.callr d a)
  else .error .reserved

/-- Major 0x1F: QPOST.Fk. -/
def readOp1F (d a b : BitVec 7) (x : BitVec 4) : Except DecodeError Instr :=
  .ok (.qpost d a b x)

/-- Major 0x20: JDECL, JSIGN, JLEAVE, JCANCEL, JSTAT. -/
def readOp20 (d a b : BitVec 7) (x : BitVec 4) : Except DecodeError Instr :=
  if x = 0#4 then ifZero (decide (b = 0#7)) (.jdecl d a)
  else if x = 1#4 then ifZero (decide (a = 0#7) && decide (b = 0#7)) (.jsign d)
  else if x = 2#4 then ifZero (decide (a = 0#7) && decide (b = 0#7)) (.jleave d)
  else if x = 3#4 then ifZero (decide (a = 0#7) && decide (b = 0#7)) (.jcancel d)
  else if x = 4#4 then ifZero (decide (b = 0#7)) (.jstat d a)
  else .error .reserved

/-- Major 0x24: LANE.PICK, LANE.BACK, LANE.FWD, LANE.FLIP, LANE.ROT. -/
def readOp24 (d a b : BitVec 7) (x : BitVec 4) : Except DecodeError Instr :=
  if x = 0#4 then .ok (.lanePick d a b)
  else if x = 1#4 then .ok (.laneBack d a b)
  else if x = 2#4 then .ok (.laneFwd d a b)
  else if x = 3#4 then .ok (.laneFlip d a b)
  else if x = 4#4 then .ok (.laneRot d a b)
  else .error .reserved

/-- Major 0x25: POLL.EVERY, POLL.SOME, POLL.MASK, POLL.SAME, POLL.PRES, POLL.CNT. -/
def readOp25 (d a b : BitVec 7) (x : BitVec 4) : Except DecodeError Instr :=
  if x = 0#4 then ifZero (decide (b = 0#7)) (.pollEvery d a)
  else if x = 1#4 then ifZero (decide (b = 0#7)) (.pollSome d a)
  else if x = 2#4 then ifZero (decide (b = 0#7)) (.pollMask d a)
  else if x = 3#4 then ifZero (decide (b = 0#7)) (.pollSame d a)
  else if x = 4#4 then ifZero (decide (a = 0#7) && decide (b = 0#7)) (.pollPres d)
  else if x = 5#4 then ifZero (decide (b = 0#7)) (.pollCnt d a)
  else .error .reserved

/-- Major 0x26: MATCH, MRANK, MCNT, MLEAD. -/
def readOp26 (d a b : BitVec 7) (x : BitVec 4) : Except DecodeError Instr :=
  if x = 0#4 then ifZero (decide (b = 0#7)) (.matchLanes d a)
  else if x = 1#4 then ifZero (decide (b = 0#7)) (.mrank d a)
  else if x = 2#4 then ifZero (decide (b = 0#7)) (.mcnt d a)
  else if x = 3#4 then ifZero (decide (b = 0#7)) (.mlead d a)
  else .error .reserved

/-- Major 0x27: TSCAN.ADD.I, TSCAN.ADD.F, TSCAN.MAX.S, TSCAN.MIN.S, TSCAN.EX.ADD.I, TSCAN.EX.ADD.F, TSCAN.SEG.ADD.I,
TSCAN.SEG.ADD.F. -/
def readOp27 (d a b : BitVec 7) (x : BitVec 4) : Except DecodeError Instr :=
  if x = 0#4 then ifZero (decide (b = 0#7)) (.tscanAddI d a)
  else if x = 1#4 then ifZero (decide (b = 0#7)) (.tscanAddF d a)
  else if x = 2#4 then ifZero (decide (b = 0#7)) (.tscanMaxS d a)
  else if x = 3#4 then ifZero (decide (b = 0#7)) (.tscanMinS d a)
  else if x = 4#4 then ifZero (decide (b = 0#7)) (.tscanExAddI d a)
  else if x = 5#4 then ifZero (decide (b = 0#7)) (.tscanExAddF d a)
  else if x = 8#4 then .ok (.tscanSegAddI d a b)
  else if x = 9#4 then .ok (.tscanSegAddF d a b)
  else .error .reserved

/-- Major 0x28: TRED.ADD.I, TRED.ADD.F, TRED.MAX.S, TRED.MIN.S, TRED.MAX.F, TRED.MIN.F, TRED.AND, TRED.OR. -/
def readOp28 (d a b : BitVec 7) (x : BitVec 4) : Except DecodeError Instr :=
  if x = 0#4 then ifZero (decide (b = 0#7)) (.tredAddI d a)
  else if x = 1#4 then ifZero (decide (b = 0#7)) (.tredAddF d a)
  else if x = 2#4 then ifZero (decide (b = 0#7)) (.tredMaxS d a)
  else if x = 3#4 then ifZero (decide (b = 0#7)) (.tredMinS d a)
  else if x = 4#4 then ifZero (decide (b = 0#7)) (.tredMaxF d a)
  else if x = 5#4 then ifZero (decide (b = 0#7)) (.tredMinF d a)
  else if x = 6#4 then ifZero (decide (b = 0#7)) (.tredAnd d a)
  else if x = 7#4 then ifZero (decide (b = 0#7)) (.tredOr d a)
  else .error .reserved

/-- Major 0x30: LDL.B.Fk. -/
def readOp30 (d a b : BitVec 7) (x : BitVec 4) : Except DecodeError Instr :=
  .ok (.ldlB d a b x)

/-- Major 0x31: LDL.H.Fk. -/
def readOp31 (d a b : BitVec 7) (x : BitVec 4) : Except DecodeError Instr :=
  .ok (.ldlH d a b x)

/-- Major 0x32: LDL.W.Fk. -/
def readOp32 (d a b : BitVec 7) (x : BitVec 4) : Except DecodeError Instr :=
  .ok (.ldlW d a b x)

/-- Major 0x33: LDL.D.Fk. -/
def readOp33 (d a b : BitVec 7) (x : BitVec 4) : Except DecodeError Instr :=
  .ok (.ldlD d a b x)

/-- Major 0x34: LDL.Q.Fk. -/
def readOp34 (d a b : BitVec 7) (x : BitVec 4) : Except DecodeError Instr :=
  .ok (.ldlQ d a b x)

/-- Major 0x35: STL.B. -/
def readOp35 (d a b : BitVec 7) (x : BitVec 4) : Except DecodeError Instr :=
  .ok (.stlB d a b x)

/-- Major 0x36: STL.H. -/
def readOp36 (d a b : BitVec 7) (x : BitVec 4) : Except DecodeError Instr :=
  .ok (.stlH d a b x)

/-- Major 0x37: STL.W. -/
def readOp37 (d a b : BitVec 7) (x : BitVec 4) : Except DecodeError Instr :=
  .ok (.stlW d a b x)

/-- Major 0x38: STL.D. -/
def readOp38 (d a b : BitVec 7) (x : BitVec 4) : Except DecodeError Instr :=
  .ok (.stlD d a b x)

/-- Major 0x39: STL.Q. -/
def readOp39 (d a b : BitVec 7) (x : BitVec 4) : Except DecodeError Instr :=
  .ok (.stlQ d a b x)

/-- Major 0x3A: ATL.Fk. -/
def readOp3A (d a b : BitVec 7) (x : BitVec 4) : Except DecodeError Instr :=
  .ok (.atl d a b x)

/-- Major 0x3B: TAP.Fk, TAP.NORM.Fk. -/
def readOp3B (d a b : BitVec 7) (x : BitVec 4) : Except DecodeError Instr :=
  if d = 0#7 then .ok (.tap a b x)
  else if d = 1#7 then .ok (.tapNorm a b x)
  else .error .reserved

/-- Major 0x3C: TAPQ. -/
def readOp3C (d a b : BitVec 7) (x : BitVec 4) : Except DecodeError Instr :=
  if x = 0#4 then ifZero (decide (d = 0#7)) (.tapq a b)
  else .error .reserved

/-- Major 0x3D: SPOKE.Fk. -/
def readOp3D (d a b : BitVec 7) (x : BitVec 4) : Except DecodeError Instr :=
  ifZero (decide (d = 0#7)) (.spoke a b x)

/-- Major 0x3E: BAR.INIT, BAR.ARRIVE, BAR.WAIT, BAR.SYNC, BAR.EXPECT, BAR.PHASE, BAR.INVAL. -/
def readOp3E (d a b : BitVec 7) (x : BitVec 4) : Except DecodeError Instr :=
  if x = 0#4 then ifZero (decide (d = 0#7)) (.barInit a b)
  else if x = 1#4 then ifZero (decide (d = 0#7) && decide (b = 0#7)) (.barArrive a)
  else if x = 2#4 then ifZero (decide (d = 0#7)) (.barWait a b)
  else if x = 3#4 then ifZero (decide (d = 0#7) && decide (b = 0#7)) (.barSync a)
  else if x = 4#4 then ifZero (decide (d = 0#7)) (.barExpect a b)
  else if x = 5#4 then ifZero (decide (b = 0#7)) (.barPhase d a)
  else if x = 6#4 then ifZero (decide (d = 0#7) && decide (b = 0#7)) (.barInval a)
  else .error .reserved

/-- Major 0x40: FADD, FSUB, FMUL, FFMA, FMIN, FMAX, FNEG, FABS. -/
def readOp40 (d a b : BitVec 7) (x : BitVec 4) : Except DecodeError Instr :=
  if x = 0#4 then .ok (.fadd d a b)
  else if x = 1#4 then .ok (.fsub d a b)
  else if x = 2#4 then .ok (.fmul d a b)
  else if x = 3#4 then .ok (.ffma d a b)
  else if x = 4#4 then .ok (.fmin d a b)
  else if x = 5#4 then .ok (.fmax d a b)
  else if x = 6#4 then ifZero (decide (b = 0#7)) (.fneg d a)
  else if x = 7#4 then ifZero (decide (b = 0#7)) (.fabs d a)
  else .error .reserved

/-- Major 0x41: FSET.EQ, FSET.NE, FSET.LT, FSET.LE, FSET.GT, FSET.GE, FSET.UN, FCLASS. -/
def readOp41 (d a b : BitVec 7) (x : BitVec 4) : Except DecodeError Instr :=
  if x = 0#4 then .ok (.fsetEq d a b)
  else if x = 1#4 then .ok (.fsetNe d a b)
  else if x = 2#4 then .ok (.fsetLt d a b)
  else if x = 3#4 then .ok (.fsetLe d a b)
  else if x = 4#4 then .ok (.fsetGt d a b)
  else if x = 5#4 then .ok (.fsetGe d a b)
  else if x = 6#4 then .ok (.fsetUn d a b)
  else if x = 7#4 then ifZero (decide (b = 0#7)) (.fclass d a)
  else .error .reserved

/-- Major 0x43: FRCP, FRSQ, FSQRT, FEX2, FLG2, FEXP, FLN, FSINP, FCOSP, FTANH, FSIG. -/
def readOp43 (d a b : BitVec 7) (x : BitVec 4) : Except DecodeError Instr :=
  if x = 0#4 then ifZero (decide (b = 0#7)) (.frcp d a)
  else if x = 1#4 then ifZero (decide (b = 0#7)) (.frsq d a)
  else if x = 2#4 then ifZero (decide (b = 0#7)) (.fsqrt d a)
  else if x = 3#4 then ifZero (decide (b = 0#7)) (.fex2 d a)
  else if x = 4#4 then ifZero (decide (b = 0#7)) (.flg2 d a)
  else if x = 5#4 then ifZero (decide (b = 0#7)) (.fexp d a)
  else if x = 6#4 then ifZero (decide (b = 0#7)) (.fln d a)
  else if x = 7#4 then ifZero (decide (b = 0#7)) (.fsinp d a)
  else if x = 8#4 then ifZero (decide (b = 0#7)) (.fcosp d a)
  else if x = 9#4 then ifZero (decide (b = 0#7)) (.ftanh d a)
  else if x = 10#4 then ifZero (decide (b = 0#7)) (.fsig d a)
  else .error .reserved

/-- Major 0x44: H2ADD, H2MUL, H2FMA, B2ADD, B2MUL, B2FMA. -/
def readOp44 (d a b : BitVec 7) (x : BitVec 4) : Except DecodeError Instr :=
  if x = 0#4 then .ok (.h2add d a b)
  else if x = 1#4 then .ok (.h2mul d a b)
  else if x = 2#4 then .ok (.h2fma d a b)
  else if x = 4#4 then .ok (.b2add d a b)
  else if x = 5#4 then .ok (.b2mul d a b)
  else if x = 6#4 then .ok (.b2fma d a b)
  else .error .reserved

/-- Major 0x45: XADD, XMUL, XEXP, XCVT, XFROM, XRATIO. -/
def readOp45 (d a b : BitVec 7) (x : BitVec 4) : Except DecodeError Instr :=
  if x = 0#4 then .ok (.xadd d a b)
  else if x = 1#4 then .ok (.xmul d a b)
  else if x = 2#4 then ifZero (decide (b = 0#7)) (.xexp d a)
  else if x = 3#4 then ifZero (decide (b = 0#7)) (.xcvt d a)
  else if x = 4#4 then ifZero (decide (b = 0#7)) (.xfrom d a)
  else if x = 5#4 then .ok (.xratio d a b)
  else .error .reserved

/-- Major 0x46: CVT.from.to.rnd.S. -/
def readOp46 (d a b : BitVec 7) (x : BitVec 4) : Except DecodeError Instr :=
  .ok (.cvt d a b (x.extractLsb' 3 1) (x.extractLsb' 0 3))

/-- Major 0x47: BYTP, HPK. -/
def readOp47 (d a b : BitVec 7) (x : BitVec 4) : Except DecodeError Instr :=
  if x = 0#4 then .ok (.bytp d a b)
  else if x = 1#4 then .ok (.hpk d a b)
  else .error .reserved

/-- Major 0x48: REQ.I8, REQ.I4, REQ.N8, REQ.N4. -/
def readOp48 (d a b : BitVec 7) (x : BitVec 4) : Except DecodeError Instr :=
  if x = 0#4 then .ok (.reqI8 d a b)
  else if x = 1#4 then .ok (.reqI4 d a b)
  else if x = 2#4 then .ok (.reqN8 d a b)
  else if x = 3#4 then .ok (.reqN4 d a b)
  else .error .reserved

/-- Major 0x49: RNG, GUMB, UNIF. -/
def readOp49 (d a b : BitVec 7) (x : BitVec 4) : Except DecodeError Instr :=
  if x = 0#4 then .ok (.rng d a b)
  else if x = 1#4 then ifZero (decide (b = 0#7)) (.gumb d a)
  else if x = 2#4 then ifZero (decide (b = 0#7)) (.unif d a)
  else .error .reserved

/-- Major 0x4A: SOFTMAX, RMSN.E12, RMSN.E14, RMSN.E16, RMSN.E18, RMSN.E20. -/
def readOp4A (d a b : BitVec 7) (x : BitVec 4) : Except DecodeError Instr :=
  if x = 0#4 then .ok (.softmax d a b)
  else if x = 1#4 then .ok (.rmsnE12 d a b)
  else if x = 2#4 then .ok (.rmsnE14 d a b)
  else if x = 3#4 then .ok (.rmsnE16 d a b)
  else if x = 4#4 then .ok (.rmsnE18 d a b)
  else if x = 5#4 then .ok (.rmsnE20 d a b)
  else .error .reserved

/-- Major 0x4C: KVTAG.Fk. -/
def readOp4C (d a b : BitVec 7) (x : BitVec 4) : Except DecodeError Instr :=
  ifZero (decide (b = 0#7)) (.kvtag d a x)

/-- Major 0x4D: BNDS.Fk. -/
def readOp4D (d a b : BitVec 7) (x : BitVec 4) : Except DecodeError Instr :=
  ifZero (decide (b = 0#7)) (.bnds d a x)

/-- Major 0x4E: KVMOVE.Fk. -/
def readOp4E (d a b : BitVec 7) (x : BitVec 4) : Except DecodeError Instr :=
  ifZero (decide (b = 0#7)) (.kvmove d a x)

/-- Major 0x4F: TOPK.Fk. -/
def readOp4F (d a b : BitVec 7) (x : BitVec 4) : Except DecodeError Instr :=
  ifZero (decide (b = 0#7)) (.topk d a x)

/-- Major 0x50: LDG.B.Fk. -/
def readOp50 (d a b : BitVec 7) (x : BitVec 4) : Except DecodeError Instr :=
  .ok (.ldgB d a b x)

/-- Major 0x51: LDG.H.Fk. -/
def readOp51 (d a b : BitVec 7) (x : BitVec 4) : Except DecodeError Instr :=
  .ok (.ldgH d a b x)

/-- Major 0x52: LDG.W.Fk. -/
def readOp52 (d a b : BitVec 7) (x : BitVec 4) : Except DecodeError Instr :=
  .ok (.ldgW d a b x)

/-- Major 0x53: LDG.D.Fk. -/
def readOp53 (d a b : BitVec 7) (x : BitVec 4) : Except DecodeError Instr :=
  .ok (.ldgD d a b x)

/-- Major 0x54: LDG.Q.Fk. -/
def readOp54 (d a b : BitVec 7) (x : BitVec 4) : Except DecodeError Instr :=
  .ok (.ldgQ d a b x)

/-- Major 0x55: STG.B. -/
def readOp55 (d a b : BitVec 7) (x : BitVec 4) : Except DecodeError Instr :=
  .ok (.stgB d a b x)

/-- Major 0x56: STG.H. -/
def readOp56 (d a b : BitVec 7) (x : BitVec 4) : Except DecodeError Instr :=
  .ok (.stgH d a b x)

/-- Major 0x57: STG.W. -/
def readOp57 (d a b : BitVec 7) (x : BitVec 4) : Except DecodeError Instr :=
  .ok (.stgW d a b x)

/-- Major 0x58: STG.D. -/
def readOp58 (d a b : BitVec 7) (x : BitVec 4) : Except DecodeError Instr :=
  .ok (.stgD d a b x)

/-- Major 0x59: STG.Q. -/
def readOp59 (d a b : BitVec 7) (x : BitVec 4) : Except DecodeError Instr :=
  .ok (.stgQ d a b x)

/-- Major 0x5A: LDF.Fk. -/
def readOp5A (d a b : BitVec 7) (x : BitVec 4) : Except DecodeError Instr :=
  .ok (.ldf d a b x)

/-- Major 0x5B: STF. -/
def readOp5B (d a b : BitVec 7) (x : BitVec 4) : Except DecodeError Instr :=
  .ok (.stf d a b x)

/-- Major 0x5C: STF.RS. -/
def readOp5C (d a b : BitVec 7) (x : BitVec 4) : Except DecodeError Instr :=
  .ok (.stfRs d a b x)

/-- Major 0x5D: PREF. -/
def readOp5D (d a b : BitVec 7) (x : BitVec 4) : Except DecodeError Instr :=
  if x = 0#4 then ifZero (decide (d = 0#7)) (.pref a b)
  else .error .reserved

/-- Major 0x5E: CFILL.Fk. -/
def readOp5E (d a b : BitVec 7) (x : BitVec 4) : Except DecodeError Instr :=
  ifZero (decide (d = 0#7)) (.cfill a b x)

/-- Major 0x60: GATH.W.Fk. -/
def readOp60 (d a b : BitVec 7) (x : BitVec 4) : Except DecodeError Instr :=
  .ok (.gathW d a b x)

/-- Major 0x61: GATH.D.Fk. -/
def readOp61 (d a b : BitVec 7) (x : BitVec 4) : Except DecodeError Instr :=
  .ok (.gathD d a b x)

/-- Major 0x62: GATH.F.Fk. -/
def readOp62 (d a b : BitVec 7) (x : BitVec 4) : Except DecodeError Instr :=
  .ok (.gathF d a b x)

/-- Major 0x63: SCAT.W. -/
def readOp63 (d a b : BitVec 7) (x : BitVec 4) : Except DecodeError Instr :=
  .ok (.scatW d a b x)

/-- Major 0x64: SCAT.D. -/
def readOp64 (d a b : BitVec 7) (x : BitVec 4) : Except DecodeError Instr :=
  .ok (.scatD d a b x)

/-- Major 0x65: KVROT.Fk. -/
def readOp65 (d a b : BitVec 7) (x : BitVec 4) : Except DecodeError Instr :=
  .ok (.kvrot d a b x)

/-- Major 0x66: COPY.Fk. -/
def readOp66 (d a b : BitVec 7) (x : BitVec 4) : Except DecodeError Instr :=
  ifZero (decide (d = 0#7)) (.copy a b x)

/-- Major 0x67: BCOPY.Fk. -/
def readOp67 (d a b : BitVec 7) (x : BitVec 4) : Except DecodeError Instr :=
  .ok (.bcopy d a b x)

/-- Major 0x68: COPYX.Fk. -/
def readOp68 (d a b : BitVec 7) (x : BitVec 4) : Except DecodeError Instr :=
  ifZero (decide (d = 0#7)) (.copyx a b x)

/-- Major 0x69: MMA.Fk. -/
def readOp69 (d a b : BitVec 7) (x : BitVec 4) : Except DecodeError Instr :=
  .ok (.mma d a b x)

/-- Major 0x6A: MMAS.Fk. -/
def readOp6A (d a b : BitVec 7) (x : BitVec 4) : Except DecodeError Instr :=
  ifZero (decide (d = 0#7)) (.mmas a b x)

/-- Major 0x6B: ACCZ.Fk. -/
def readOp6B (d a b : BitVec 7) (x : BitVec 4) : Except DecodeError Instr :=
  ifZero (decide (d = 0#7)) (.accz a b x)

/-- Major 0x6C: ATTN.Fk. -/
def readOp6C (d a b : BitVec 7) (x : BitVec 4) : Except DecodeError Instr :=
  .ok (.attn d a b x)

/-- Major 0x6D: ATTNR.Fk. -/
def readOp6D (d a b : BitVec 7) (x : BitVec 4) : Except DecodeError Instr :=
  .ok (.attnr d a b x)

/-- Major 0x6E: KVAP.Fk. -/
def readOp6E (d a b : BitVec 7) (x : BitVec 4) : Except DecodeError Instr :=
  .ok (.kvap d a b x)

/-- Major 0x6F: KVRQ.Fk. -/
def readOp6F (d a b : BitVec 7) (x : BitVec 4) : Except DecodeError Instr :=
  .ok (.kvrq d a b x)

/-- Major 0x70: LDVS.W.Fk. -/
def readOp70 (d a b : BitVec 7) (x : BitVec 4) : Except DecodeError Instr :=
  .ok (.ldvsW d a b x)

/-- Major 0x71: LDVS.D.Fk. -/
def readOp71 (d a b : BitVec 7) (x : BitVec 4) : Except DecodeError Instr :=
  .ok (.ldvsD d a b x)

/-- Major 0x72: LDVS.Q.Fk. -/
def readOp72 (d a b : BitVec 7) (x : BitVec 4) : Except DecodeError Instr :=
  .ok (.ldvsQ d a b x)

/-- Major 0x73: VALID.Fk. -/
def readOp73 (d a b : BitVec 7) (x : BitVec 4) : Except DecodeError Instr :=
  ifZero (decide (a = 0#7)) (.valid d b x)

/-- Major 0x74: VERR.Fk. -/
def readOp74 (d a b : BitVec 7) (x : BitVec 4) : Except DecodeError Instr :=
  ifZero (decide (b = 0#7)) (.verr d a x)

/-- Major 0x75: CASV.Fk. -/
def readOp75 (d a b : BitVec 7) (x : BitVec 4) : Except DecodeError Instr :=
  .ok (.casv d a b x)

/-- Major 0x76: ATOM.op.Fk. -/
def readOp76 (d a b : BitVec 7) (x : BitVec 4) : Except DecodeError Instr :=
  .ok (.atom d a b x)

/-- Major 0x77: CAS.Fk. -/
def readOp77 (d a b : BitVec 7) (x : BitVec 4) : Except DecodeError Instr :=
  .ok (.cas d a b x)

/-- Major 0x78: RED.op. -/
def readOp78 (d a b : BitVec 7) (x : BitVec 4) : Except DecodeError Instr :=
  .ok (.red d a b x)

/-- Major 0x79: FENCE.ACQ.sc, FENCE.REL.sc, FENCE.AR.sc, FENCE.SC.sc. -/
def readOp79 (d a b : BitVec 7) (x : BitVec 4) : Except DecodeError Instr :=
  if x = 0#4 then ifZero (decide (a = 0#7) && decide (b = 0#7)) (.fenceAcq d)
  else if x = 1#4 then ifZero (decide (a = 0#7) && decide (b = 0#7)) (.fenceRel d)
  else if x = 2#4 then ifZero (decide (a = 0#7) && decide (b = 0#7)) (.fenceAr d)
  else if x = 3#4 then ifZero (decide (a = 0#7) && decide (b = 0#7)) (.fenceSc d)
  else .error .reserved

/-- Major 0x7A: LDACQ.W.sc.Fk. -/
def readOp7A (d a b : BitVec 7) (x : BitVec 4) : Except DecodeError Instr :=
  .ok (.ldacqW d a b x)

/-- Major 0x7B: LDACQ.D.sc.Fk. -/
def readOp7B (d a b : BitVec 7) (x : BitVec 4) : Except DecodeError Instr :=
  .ok (.ldacqD d a b x)

/-- Major 0x7C: STREL.W.sc. -/
def readOp7C (d a b : BitVec 7) (x : BitVec 4) : Except DecodeError Instr :=
  .ok (.strelW d a b x)

/-- Major 0x7D: STREL.D.sc. -/
def readOp7D (d a b : BitVec 7) (x : BitVec 4) : Except DecodeError Instr :=
  .ok (.strelD d a b x)

/-- Major 0x7E: TRAP, RETT, GETS, SETS, SNAP, TLBINV, CTXSV, CTXLD, HALT, TAPLD. -/
noncomputable def readOp7E (d a b : BitVec 7) (x : BitVec 4) : Except DecodeError Instr :=
  if x = 0#4 then ifZero (decide (d = 0#7) && decide (a = 0#7)) (.trap b)
  else if x = 1#4 then ifZero (decide (d = 0#7) && decide (a = 0#7) && decide (b = 0#7)) (.rett)
  else if x = 2#4 then ifZero (decide (a = 0#7)) (.gets d b)
  else if x = 3#4 then ifZero (decide (d = 0#7)) (.sets a b)
  else if x = 4#4 then ifZero (decide (d = 0#7) && decide (a = 0#7) && decide (b = 0#7)) (.snap)
  else if x = 5#4 then ifZero (decide (d = 0#7)) (.tlbinv a b)
  else if x = 6#4 then ifZero (decide (d = 0#7)) (.ctxsv a b)
  else if x = 7#4 then ifZero (decide (d = 0#7)) (.ctxld a b)
  else if x = 8#4 then ifZero (decide (d = 0#7) && decide (a = 0#7) && decide (b = 0#7)) (.halt)
  else if x = 9#4 then ifZero (decide (d = 0#7)) (.tapld a b)
  else .error .reserved

/-- Major 0x7F: LAUNCH.Fk. -/
noncomputable def readOp7F (d a b : BitVec 7) (x : BitVec 4) : Except DecodeError Instr :=
  ifZero (decide (b = 0#7)) (.launch d a x)

/-- The opcode map (R51): from the major opcode to the reader of its words. -/
noncomputable def readCore (op d a b : BitVec 7) (x : BitVec 4) : Except DecodeError Instr :=
  if op = 0x00#7 then readOp00 d a b x
  else if op = 0x01#7 then readOp01 d a b x
  else if op = 0x02#7 then readOp02 d a b x
  else if op = 0x03#7 then readOp03 d a b x
  else if op = 0x04#7 then readOp04 d a b x
  else if op = 0x05#7 then readOp05 d a b x
  else if op = 0x08#7 then readOp08 d a b x
  else if op = 0x09#7 then readOp09 d a b x
  else if op = 0x0A#7 then readOp0A d a b x
  else if op = 0x0B#7 then readOp0B d a b x
  else if op = 0x0C#7 then readOp0C d a b x
  else if op = 0x10#7 then readOp10 d a b x
  else if op = 0x11#7 then readOp11 d a b x
  else if op = 0x12#7 then readOp12 d a b x
  else if op = 0x13#7 then readOp13 d a b x
  else if op = 0x14#7 then readOp14 d a b x
  else if op = 0x15#7 then readOp15 d a b x
  else if op = 0x16#7 then readOp16 d a b x
  else if op = 0x18#7 then readOp18 d a b x
  else if op = 0x19#7 then readOp19 d a b x
  else if op = 0x1A#7 then readOp1A d a b x
  else if op = 0x1B#7 then readOp1B d a b x
  else if op = 0x1C#7 then readOp1C d a b x
  else if op = 0x1D#7 then readOp1D d a b x
  else if op = 0x1E#7 then readOp1E d a b x
  else if op = 0x1F#7 then readOp1F d a b x
  else if op = 0x20#7 then readOp20 d a b x
  else if op = 0x24#7 then readOp24 d a b x
  else if op = 0x25#7 then readOp25 d a b x
  else if op = 0x26#7 then readOp26 d a b x
  else if op = 0x27#7 then readOp27 d a b x
  else if op = 0x28#7 then readOp28 d a b x
  else if op = 0x30#7 then readOp30 d a b x
  else if op = 0x31#7 then readOp31 d a b x
  else if op = 0x32#7 then readOp32 d a b x
  else if op = 0x33#7 then readOp33 d a b x
  else if op = 0x34#7 then readOp34 d a b x
  else if op = 0x35#7 then readOp35 d a b x
  else if op = 0x36#7 then readOp36 d a b x
  else if op = 0x37#7 then readOp37 d a b x
  else if op = 0x38#7 then readOp38 d a b x
  else if op = 0x39#7 then readOp39 d a b x
  else if op = 0x3A#7 then readOp3A d a b x
  else if op = 0x3B#7 then readOp3B d a b x
  else if op = 0x3C#7 then readOp3C d a b x
  else if op = 0x3D#7 then readOp3D d a b x
  else if op = 0x3E#7 then readOp3E d a b x
  else if op = 0x40#7 then readOp40 d a b x
  else if op = 0x41#7 then readOp41 d a b x
  else if op = 0x43#7 then readOp43 d a b x
  else if op = 0x44#7 then readOp44 d a b x
  else if op = 0x45#7 then readOp45 d a b x
  else if op = 0x46#7 then readOp46 d a b x
  else if op = 0x47#7 then readOp47 d a b x
  else if op = 0x48#7 then readOp48 d a b x
  else if op = 0x49#7 then readOp49 d a b x
  else if op = 0x4A#7 then readOp4A d a b x
  else if op = 0x4C#7 then readOp4C d a b x
  else if op = 0x4D#7 then readOp4D d a b x
  else if op = 0x4E#7 then readOp4E d a b x
  else if op = 0x4F#7 then readOp4F d a b x
  else if op = 0x50#7 then readOp50 d a b x
  else if op = 0x51#7 then readOp51 d a b x
  else if op = 0x52#7 then readOp52 d a b x
  else if op = 0x53#7 then readOp53 d a b x
  else if op = 0x54#7 then readOp54 d a b x
  else if op = 0x55#7 then readOp55 d a b x
  else if op = 0x56#7 then readOp56 d a b x
  else if op = 0x57#7 then readOp57 d a b x
  else if op = 0x58#7 then readOp58 d a b x
  else if op = 0x59#7 then readOp59 d a b x
  else if op = 0x5A#7 then readOp5A d a b x
  else if op = 0x5B#7 then readOp5B d a b x
  else if op = 0x5C#7 then readOp5C d a b x
  else if op = 0x5D#7 then readOp5D d a b x
  else if op = 0x5E#7 then readOp5E d a b x
  else if op = 0x60#7 then readOp60 d a b x
  else if op = 0x61#7 then readOp61 d a b x
  else if op = 0x62#7 then readOp62 d a b x
  else if op = 0x63#7 then readOp63 d a b x
  else if op = 0x64#7 then readOp64 d a b x
  else if op = 0x65#7 then readOp65 d a b x
  else if op = 0x66#7 then readOp66 d a b x
  else if op = 0x67#7 then readOp67 d a b x
  else if op = 0x68#7 then readOp68 d a b x
  else if op = 0x69#7 then readOp69 d a b x
  else if op = 0x6A#7 then readOp6A d a b x
  else if op = 0x6B#7 then readOp6B d a b x
  else if op = 0x6C#7 then readOp6C d a b x
  else if op = 0x6D#7 then readOp6D d a b x
  else if op = 0x6E#7 then readOp6E d a b x
  else if op = 0x6F#7 then readOp6F d a b x
  else if op = 0x70#7 then readOp70 d a b x
  else if op = 0x71#7 then readOp71 d a b x
  else if op = 0x72#7 then readOp72 d a b x
  else if op = 0x73#7 then readOp73 d a b x
  else if op = 0x74#7 then readOp74 d a b x
  else if op = 0x75#7 then readOp75 d a b x
  else if op = 0x76#7 then readOp76 d a b x
  else if op = 0x77#7 then readOp77 d a b x
  else if op = 0x78#7 then readOp78 d a b x
  else if op = 0x79#7 then readOp79 d a b x
  else if op = 0x7A#7 then readOp7A d a b x
  else if op = 0x7B#7 then readOp7B d a b x
  else if op = 0x7C#7 then readOp7C d a b x
  else if op = 0x7D#7 then readOp7D d a b x
  else if op = 0x7E#7 then readOp7E d a b x
  else if op = 0x7F#7 then readOp7F d a b x
  else .error .reserved

/-- The core instruction a word holds. -/
noncomputable def decodeCore (w : Word) : Except DecodeError Instr :=
  readCore (majorOf w) (fieldD w) (fieldA w) (fieldB w) (fieldX w)

/-! ## Walker words (R271) -/

/-- A walker word from its fields: opcode, d, a, b and imm15. -/
def walkerWord (op : BitVec 5) (d a b : BitVec 4) (i : BitVec 15) : Word := op ++ d ++ a ++ b ++ i

def walkOp (w : Word) : BitVec 5 := w.extractLsb' 27 5
def walkD (w : Word) : BitVec 4 := w.extractLsb' 23 4
def walkA (w : Word) : BitVec 4 := w.extractLsb' 19 4
def walkB (w : Word) : BitVec 4 := w.extractLsb' 15 4
def walkI (w : Word) : BitVec 15 := w.extractLsb' 0 15

/-- The walker instruction of an opcode and its fields (R272). -/
noncomputable def readWalker (op : BitVec 5) (d a b : BitVec 4) (i : BitVec 15) : Except DecodeError Instr :=
  if op = 0#5 then ifZero (decide (d = 0#4) && decide (a = 0#4) && decide (b = 0#4) && decide (i = 0#15)) (.haltw)
  else if op = 1#5 then ifZero (decide (b = 0#4)) (.ldp d a i)
  else if op = 2#5 then ifZero (decide (b = 0#4)) (.ldx d a i)
  else if op = 3#5 then ifZero (decide (b = 0#4)) (.ldval d a i)
  else if op = 4#5 then .ok (.addw d a b i)
  else if op = 5#5 then .ok (.subw d a b i)
  else if op = 6#5 then ifZero (decide (i = 0#15)) (.cmpw d a b)
  else if op = 7#5 then ifZero (decide (d = 0#4)) (.bltw a b i)
  else if op = 8#5 then ifZero (decide (d = 0#4)) (.bnew a b i)
  else if op = 9#5 then ifZero (decide (a = 0#4) && decide (b = 0#4)) (.loop d i)
  else if op = 10#5 then ifZero (decide (d = 0#4) && decide (i = 0#15)) (.skip a b)
  else if op = 11#5 then ifZero (decide (d = 0#4) && decide (i = 0#15)) (.sett a b)
  else if op = 12#5 then ifZero (decide (i = 0#15)) (.emit d a b)
  else if op = 13#5 then ifZero (decide (d = 0#4) && decide (b = 0#4) && decide (i = 0#15)) (.flush a)
  else .error .reserved

/-- The walker instruction a word holds. -/
noncomputable def decodeWalker (w : Word) : Except DecodeError Instr :=
  readWalker (walkOp w) (walkD w) (walkA w) (walkB w) (walkI w)

/-- The word under either format. -/
noncomputable def decodeWord : WordSpace → Word → Except DecodeError Instr
  | .core, w => decodeCore w
  | .walker, w => decodeWalker w

/-- Decoding of any bytes: the first word, little-endian (R1), and the bytes after it. -/
noncomputable def decode (sp : WordSpace) : List Byte → Except DecodeError (Instr × List Byte)
  | b0 :: b1 :: b2 :: b3 :: rest =>
    match decodeWord sp (b3 ++ b2 ++ b1 ++ b0) with
    | .ok i => .ok (i, rest)
    | .error e => .error e
  | _ => .error .truncated

/-- The instruction read from a word of the opcode table: the bytes are laid out little-endian and read as a
core word, and as a walker word where the core's map refuses them (the two word formats share the 32 bits, and
the table numbers both from bit 0). -/
noncomputable def decodeTableWord (nbits w : Nat) : Option Instr :=
  if nbits ≤ 32 then
    match decode .core (leBytes 4 w) with
    | .ok (i, _) => some i
    | .error _ =>
      match decode .walker (leBytes 4 w) with
      | .ok (i, _) => some i
      | .error _ => none
  else none

/-! ## The encoder -/

/-- The words of the B and L formats (R45): an opcode, the field at bits 24:18 and an 18-bit field. -/
def longWord (op d : BitVec 7) (i : BitVec 18) : Word :=
  coreWord op d (i.extractLsb' 11 7) (i.extractLsb' 4 7) (i.extractLsb' 0 4)

/-- The words of the I format (R45). -/
def immWord (op d a : BitVec 7) (i : BitVec 11) : Word :=
  coreWord op d a (i.extractLsb' 4 7) (i.extractLsb' 0 4)

/-- The core word of an instruction (R45, R51). -/
def encodeCore : Instr → Option Word
  | .nop => some (coreWord 0x00#7 0#7 0#7 0#7 0#4)
  | .exit => some (coreWord 0x00#7 0#7 0#7 0#7 1#4)
  | .reform => some (coreWord 0x00#7 0#7 0#7 0#7 2#4)
  | .reformB => some (coreWord 0x00#7 0#7 0#7 0#7 3#4)
  | .yield => some (coreWord 0x00#7 0#7 0#7 0#7 4#4)
  | .bkpt => some (coreWord 0x00#7 0#7 0#7 0#7 5#4)
  | .iadd d a b => some (coreWord 0x01#7 d a b 0#4)
  | .isub d a b => some (coreWord 0x01#7 d a b 1#4)
  | .imul d a b => some (coreWord 0x01#7 d a b 2#4)
  | .imulhS d a b => some (coreWord 0x01#7 d a b 3#4)
  | .imulhN d a b => some (coreWord 0x01#7 d a b 4#4)
  | .imad d a b => some (coreWord 0x01#7 d a b 5#4)
  | .iminS d a b => some (coreWord 0x01#7 d a b 6#4)
  | .iminN d a b => some (coreWord 0x01#7 d a b 7#4)
  | .imaxS d a b => some (coreWord 0x01#7 d a b 8#4)
  | .imaxN d a b => some (coreWord 0x01#7 d a b 9#4)
  | .iabs d a => some (coreWord 0x01#7 d a 0#7 10#4)
  | .and d a b => some (coreWord 0x02#7 d a b 0#4)
  | .or d a b => some (coreWord 0x02#7 d a b 1#4)
  | .xor d a b => some (coreWord 0x02#7 d a b 2#4)
  | .andn d a b => some (coreWord 0x02#7 d a b 3#4)
  | .shl d a b => some (coreWord 0x02#7 d a b 4#4)
  | .shr d a b => some (coreWord 0x02#7 d a b 5#4)
  | .sha d a b => some (coreWord 0x02#7 d a b 6#4)
  | .rotl d a b => some (coreWord 0x02#7 d a b 7#4)
  | .popc d a => some (coreWord 0x02#7 d a 0#7 8#4)
  | .clz d a => some (coreWord 0x02#7 d a 0#7 9#4)
  | .bfx d a b => some (coreWord 0x02#7 d a b 10#4)
  | .bfi d a b => some (coreWord 0x02#7 d a b 11#4)
  | .isetEq d a b => some (coreWord 0x03#7 d a b 0#4)
  | .isetNe d a b => some (coreWord 0x03#7 d a b 1#4)
  | .isetLt d a b => some (coreWord 0x03#7 d a b 2#4)
  | .isetLe d a b => some (coreWord 0x03#7 d a b 3#4)
  | .isetGt d a b => some (coreWord 0x03#7 d a b 4#4)
  | .isetGe d a b => some (coreWord 0x03#7 d a b 5#4)
  | .isetLtN d a b => some (coreWord 0x03#7 d a b 6#4)
  | .isetLeN d a b => some (coreWord 0x03#7 d a b 7#4)
  | .isetGtN d a b => some (coreWord 0x03#7 d a b 8#4)
  | .isetGeN d a b => some (coreWord 0x03#7 d a b 9#4)
  | .mov d a => some (coreWord 0x04#7 d a 0#7 0#4)
  | .sel d a b => some (coreWord 0x04#7 d a b 1#4)
  | .add64 d a b => some (coreWord 0x05#7 d a b 0#4)
  | .sub64 d a b => some (coreWord 0x05#7 d a b 1#4)
  | .shl64 d a b => some (coreWord 0x05#7 d a b 2#4)
  | .shr64 d a b => some (coreWord 0x05#7 d a b 3#4)
  | .mul64 d a b => some (coreWord 0x05#7 d a b 4#4)
  | .lea0 d a b => some (coreWord 0x05#7 d a b 5#4)
  | .lea1 d a b => some (coreWord 0x05#7 d a b 6#4)
  | .lea2 d a b => some (coreWord 0x05#7 d a b 7#4)
  | .lea3 d a b => some (coreWord 0x05#7 d a b 8#4)
  | .iset64Eq d a b => some (coreWord 0x05#7 d a b 9#4)
  | .iset64LtN d a b => some (coreWord 0x05#7 d a b 10#4)
  | .iaddi d a i => some (immWord 0x08#7 d a i)
  | .andi d a i => some (immWord 0x09#7 d a i)
  | .ori d a i => some (immWord 0x0A#7 d a i)
  | .shli d a i => some (immWord 0x0B#7 d a (0#6 ++ i))
  | .shri d a i => some (immWord 0x0C#7 d a (0#6 ++ i))
  | .ldi d i => some (longWord 0x10#7 d i)
  | .ldhi d i => some (longWord 0x11#7 d (0#4 ++ i))
  | .win i => some (longWord 0x12#7 0#7 i)
  | .part i => some (longWord 0x13#7 0#7 i)
  | .prio i => some (longWord 0x14#7 0#7 i)
  | .sleep i => some (longWord 0x15#7 0#7 i)
  | .waitf d i => some (longWord 0x16#7 d i)
  | .bra s => some (longWord 0x18#7 0#7 s)
  | .beqz a s => some (longWord 0x19#7 a s)
  | .bnez a s => some (longWord 0x1A#7 a s)
  | .bltz a s => some (longWord 0x1B#7 a s)
  | .bgez a s => some (longWord 0x1C#7 a s)
  | .call a s => some (longWord 0x1D#7 a s)
  | .jmp a => some (coreWord 0x1E#7 0#7 a 0#7 0#4)
  | .ret a => some (coreWord 0x1E#7 0#7 a 0#7 1#4)
  | .callr d a => some (coreWord 0x1E#7 d a 0#7 2#4)
  | .qpost d a b f => some (coreWord 0x1F#7 d a b f)
  | .jdecl j a => some (coreWord 0x20#7 j a 0#7 0#4)
  | .jsign j => some (coreWord 0x20#7 j 0#7 0#7 1#4)
  | .jleave j => some (coreWord 0x20#7 j 0#7 0#7 2#4)
  | .jcancel j => some (coreWord 0x20#7 j 0#7 0#7 3#4)
  | .jstat d j => some (coreWord 0x20#7 d j 0#7 4#4)
  | .lanePick d a b => some (coreWord 0x24#7 d a b 0#4)
  | .laneBack d a b => some (coreWord 0x24#7 d a b 1#4)
  | .laneFwd d a b => some (coreWord 0x24#7 d a b 2#4)
  | .laneFlip d a b => some (coreWord 0x24#7 d a b 3#4)
  | .laneRot d a b => some (coreWord 0x24#7 d a b 4#4)
  | .pollEvery d a => some (coreWord 0x25#7 d a 0#7 0#4)
  | .pollSome d a => some (coreWord 0x25#7 d a 0#7 1#4)
  | .pollMask d a => some (coreWord 0x25#7 d a 0#7 2#4)
  | .pollSame d a => some (coreWord 0x25#7 d a 0#7 3#4)
  | .pollPres d => some (coreWord 0x25#7 d 0#7 0#7 4#4)
  | .pollCnt d a => some (coreWord 0x25#7 d a 0#7 5#4)
  | .matchLanes d a => some (coreWord 0x26#7 d a 0#7 0#4)
  | .mrank d a => some (coreWord 0x26#7 d a 0#7 1#4)
  | .mcnt d a => some (coreWord 0x26#7 d a 0#7 2#4)
  | .mlead d a => some (coreWord 0x26#7 d a 0#7 3#4)
  | .tscanAddI d a => some (coreWord 0x27#7 d a 0#7 0#4)
  | .tscanAddF d a => some (coreWord 0x27#7 d a 0#7 1#4)
  | .tscanMaxS d a => some (coreWord 0x27#7 d a 0#7 2#4)
  | .tscanMinS d a => some (coreWord 0x27#7 d a 0#7 3#4)
  | .tscanExAddI d a => some (coreWord 0x27#7 d a 0#7 4#4)
  | .tscanExAddF d a => some (coreWord 0x27#7 d a 0#7 5#4)
  | .tscanSegAddI d a b => some (coreWord 0x27#7 d a b 8#4)
  | .tscanSegAddF d a b => some (coreWord 0x27#7 d a b 9#4)
  | .tredAddI d a => some (coreWord 0x28#7 d a 0#7 0#4)
  | .tredAddF d a => some (coreWord 0x28#7 d a 0#7 1#4)
  | .tredMaxS d a => some (coreWord 0x28#7 d a 0#7 2#4)
  | .tredMinS d a => some (coreWord 0x28#7 d a 0#7 3#4)
  | .tredMaxF d a => some (coreWord 0x28#7 d a 0#7 4#4)
  | .tredMinF d a => some (coreWord 0x28#7 d a 0#7 5#4)
  | .tredAnd d a => some (coreWord 0x28#7 d a 0#7 6#4)
  | .tredOr d a => some (coreWord 0x28#7 d a 0#7 7#4)
  | .ldlB d a o f => some (coreWord 0x30#7 d a o f)
  | .ldlH d a o f => some (coreWord 0x31#7 d a o f)
  | .ldlW d a o f => some (coreWord 0x32#7 d a o f)
  | .ldlD d a o f => some (coreWord 0x33#7 d a o f)
  | .ldlQ d a o f => some (coreWord 0x34#7 d a o f)
  | .stlB d a o f => some (coreWord 0x35#7 d a o f)
  | .stlH d a o f => some (coreWord 0x36#7 d a o f)
  | .stlW d a o f => some (coreWord 0x37#7 d a o f)
  | .stlD d a o f => some (coreWord 0x38#7 d a o f)
  | .stlQ d a o f => some (coreWord 0x39#7 d a o f)
  | .atl d a c f => some (coreWord 0x3A#7 d a c f)
  | .tap a b f => some (coreWord 0x3B#7 0#7 a b f)
  | .tapNorm a b f => some (coreWord 0x3B#7 1#7 a b f)
  | .tapq a b => some (coreWord 0x3C#7 0#7 a b 0#4)
  | .spoke a b f => some (coreWord 0x3D#7 0#7 a b f)
  | .barInit a b => some (coreWord 0x3E#7 0#7 a b 0#4)
  | .barArrive a => some (coreWord 0x3E#7 0#7 a 0#7 1#4)
  | .barWait a b => some (coreWord 0x3E#7 0#7 a b 2#4)
  | .barSync a => some (coreWord 0x3E#7 0#7 a 0#7 3#4)
  | .barExpect a b => some (coreWord 0x3E#7 0#7 a b 4#4)
  | .barPhase d a => some (coreWord 0x3E#7 d a 0#7 5#4)
  | .barInval a => some (coreWord 0x3E#7 0#7 a 0#7 6#4)
  | .fadd d a b => some (coreWord 0x40#7 d a b 0#4)
  | .fsub d a b => some (coreWord 0x40#7 d a b 1#4)
  | .fmul d a b => some (coreWord 0x40#7 d a b 2#4)
  | .ffma d a b => some (coreWord 0x40#7 d a b 3#4)
  | .fmin d a b => some (coreWord 0x40#7 d a b 4#4)
  | .fmax d a b => some (coreWord 0x40#7 d a b 5#4)
  | .fneg d a => some (coreWord 0x40#7 d a 0#7 6#4)
  | .fabs d a => some (coreWord 0x40#7 d a 0#7 7#4)
  | .fsetEq d a b => some (coreWord 0x41#7 d a b 0#4)
  | .fsetNe d a b => some (coreWord 0x41#7 d a b 1#4)
  | .fsetLt d a b => some (coreWord 0x41#7 d a b 2#4)
  | .fsetLe d a b => some (coreWord 0x41#7 d a b 3#4)
  | .fsetGt d a b => some (coreWord 0x41#7 d a b 4#4)
  | .fsetGe d a b => some (coreWord 0x41#7 d a b 5#4)
  | .fsetUn d a b => some (coreWord 0x41#7 d a b 6#4)
  | .fclass d a => some (coreWord 0x41#7 d a 0#7 7#4)
  | .frcp d a => some (coreWord 0x43#7 d a 0#7 0#4)
  | .frsq d a => some (coreWord 0x43#7 d a 0#7 1#4)
  | .fsqrt d a => some (coreWord 0x43#7 d a 0#7 2#4)
  | .fex2 d a => some (coreWord 0x43#7 d a 0#7 3#4)
  | .flg2 d a => some (coreWord 0x43#7 d a 0#7 4#4)
  | .fexp d a => some (coreWord 0x43#7 d a 0#7 5#4)
  | .fln d a => some (coreWord 0x43#7 d a 0#7 6#4)
  | .fsinp d a => some (coreWord 0x43#7 d a 0#7 7#4)
  | .fcosp d a => some (coreWord 0x43#7 d a 0#7 8#4)
  | .ftanh d a => some (coreWord 0x43#7 d a 0#7 9#4)
  | .fsig d a => some (coreWord 0x43#7 d a 0#7 10#4)
  | .h2add d a b => some (coreWord 0x44#7 d a b 0#4)
  | .h2mul d a b => some (coreWord 0x44#7 d a b 1#4)
  | .h2fma d a b => some (coreWord 0x44#7 d a b 2#4)
  | .b2add d a b => some (coreWord 0x44#7 d a b 4#4)
  | .b2mul d a b => some (coreWord 0x44#7 d a b 5#4)
  | .b2fma d a b => some (coreWord 0x44#7 d a b 6#4)
  | .xadd d a b => some (coreWord 0x45#7 d a b 0#4)
  | .xmul d a b => some (coreWord 0x45#7 d a b 1#4)
  | .xexp d a => some (coreWord 0x45#7 d a 0#7 2#4)
  | .xcvt d a => some (coreWord 0x45#7 d a 0#7 3#4)
  | .xfrom d a => some (coreWord 0x45#7 d a 0#7 4#4)
  | .xratio d a b => some (coreWord 0x45#7 d a b 5#4)
  | .cvt d a c t r => some (coreWord 0x46#7 d a c (t ++ r))
  | .bytp d a b => some (coreWord 0x47#7 d a b 0#4)
  | .hpk d a b => some (coreWord 0x47#7 d a b 1#4)
  | .reqI8 d a b => some (coreWord 0x48#7 d a b 0#4)
  | .reqI4 d a b => some (coreWord 0x48#7 d a b 1#4)
  | .reqN8 d a b => some (coreWord 0x48#7 d a b 2#4)
  | .reqN4 d a b => some (coreWord 0x48#7 d a b 3#4)
  | .rng d a b => some (coreWord 0x49#7 d a b 0#4)
  | .gumb d a => some (coreWord 0x49#7 d a 0#7 1#4)
  | .unif d a => some (coreWord 0x49#7 d a 0#7 2#4)
  | .softmax d a b => some (coreWord 0x4A#7 d a b 0#4)
  | .rmsnE12 d a b => some (coreWord 0x4A#7 d a b 1#4)
  | .rmsnE14 d a b => some (coreWord 0x4A#7 d a b 2#4)
  | .rmsnE16 d a b => some (coreWord 0x4A#7 d a b 3#4)
  | .rmsnE18 d a b => some (coreWord 0x4A#7 d a b 4#4)
  | .rmsnE20 d a b => some (coreWord 0x4A#7 d a b 5#4)
  | .kvtag d a f => some (coreWord 0x4C#7 d a 0#7 f)
  | .bnds d a f => some (coreWord 0x4D#7 d a 0#7 f)
  | .kvmove d a f => some (coreWord 0x4E#7 d a 0#7 f)
  | .topk d a f => some (coreWord 0x4F#7 d a 0#7 f)
  | .ldgB d a o f => some (coreWord 0x50#7 d a o f)
  | .ldgH d a o f => some (coreWord 0x51#7 d a o f)
  | .ldgW d a o f => some (coreWord 0x52#7 d a o f)
  | .ldgD d a o f => some (coreWord 0x53#7 d a o f)
  | .ldgQ d a o f => some (coreWord 0x54#7 d a o f)
  | .stgB d a o f => some (coreWord 0x55#7 d a o f)
  | .stgH d a o f => some (coreWord 0x56#7 d a o f)
  | .stgW d a o f => some (coreWord 0x57#7 d a o f)
  | .stgD d a o f => some (coreWord 0x58#7 d a o f)
  | .stgQ d a o f => some (coreWord 0x59#7 d a o f)
  | .ldf d a o f => some (coreWord 0x5A#7 d a o f)
  | .stf d a o f => some (coreWord 0x5B#7 d a o f)
  | .stfRs d a o f => some (coreWord 0x5C#7 d a o f)
  | .pref a o => some (coreWord 0x5D#7 0#7 a o 0#4)
  | .cfill a b f => some (coreWord 0x5E#7 0#7 a b f)
  | .gathW d a b f => some (coreWord 0x60#7 d a b f)
  | .gathD d a b f => some (coreWord 0x61#7 d a b f)
  | .gathF d a b f => some (coreWord 0x62#7 d a b f)
  | .scatW d a b f => some (coreWord 0x63#7 d a b f)
  | .scatD d a b f => some (coreWord 0x64#7 d a b f)
  | .kvrot d a b f => some (coreWord 0x65#7 d a b f)
  | .copy a b f => some (coreWord 0x66#7 0#7 a b f)
  | .bcopy d a b f => some (coreWord 0x67#7 d a b f)
  | .copyx a b f => some (coreWord 0x68#7 0#7 a b f)
  | .mma j a b f => some (coreWord 0x69#7 j a b f)
  | .mmas a b f => some (coreWord 0x6A#7 0#7 a b f)
  | .accz a b f => some (coreWord 0x6B#7 0#7 a b f)
  | .attn d a b f => some (coreWord 0x6C#7 d a b f)
  | .attnr d a b f => some (coreWord 0x6D#7 d a b f)
  | .kvap d a b f => some (coreWord 0x6E#7 d a b f)
  | .kvrq d a b f => some (coreWord 0x6F#7 d a b f)
  | .ldvsW d a o f => some (coreWord 0x70#7 d a o f)
  | .ldvsD d a o f => some (coreWord 0x71#7 d a o f)
  | .ldvsQ d a o f => some (coreWord 0x72#7 d a o f)
  | .valid d k f => some (coreWord 0x73#7 d 0#7 k f)
  | .verr d a f => some (coreWord 0x74#7 d a 0#7 f)
  | .casv d a b f => some (coreWord 0x75#7 d a b f)
  | .atom d a c f => some (coreWord 0x76#7 d a c f)
  | .cas d a b f => some (coreWord 0x77#7 d a b f)
  | .red c a b f => some (coreWord 0x78#7 c a b f)
  | .fenceAcq s => some (coreWord 0x79#7 s 0#7 0#7 0#4)
  | .fenceRel s => some (coreWord 0x79#7 s 0#7 0#7 1#4)
  | .fenceAr s => some (coreWord 0x79#7 s 0#7 0#7 2#4)
  | .fenceSc s => some (coreWord 0x79#7 s 0#7 0#7 3#4)
  | .ldacqW d a s f => some (coreWord 0x7A#7 d a s f)
  | .ldacqD d a s f => some (coreWord 0x7B#7 d a s f)
  | .strelW d a s f => some (coreWord 0x7C#7 d a s f)
  | .strelD d a s f => some (coreWord 0x7D#7 d a s f)
  | .trap c => some (coreWord 0x7E#7 0#7 0#7 c 0#4)
  | .rett => some (coreWord 0x7E#7 0#7 0#7 0#7 1#4)
  | .gets d n => some (coreWord 0x7E#7 d 0#7 n 2#4)
  | .sets a n => some (coreWord 0x7E#7 0#7 a n 3#4)
  | .snap => some (coreWord 0x7E#7 0#7 0#7 0#7 4#4)
  | .tlbinv a b => some (coreWord 0x7E#7 0#7 a b 5#4)
  | .ctxsv a b => some (coreWord 0x7E#7 0#7 a b 6#4)
  | .ctxld a b => some (coreWord 0x7E#7 0#7 a b 7#4)
  | .halt => some (coreWord 0x7E#7 0#7 0#7 0#7 8#4)
  | .tapld a b => some (coreWord 0x7E#7 0#7 a b 9#4)
  | .launch d a f => some (coreWord 0x7F#7 d a 0#7 f)
  | _ => none

/-- The walker word of an instruction (R271, R272). -/
def encodeWalker : Instr → Option Word
  | .haltw => some (walkerWord 0#5 0#4 0#4 0#4 0#15)
  | .ldp d a i => some (walkerWord 1#5 d a 0#4 i)
  | .ldx d a i => some (walkerWord 2#5 d a 0#4 i)
  | .ldval d a i => some (walkerWord 3#5 d a 0#4 i)
  | .addw d a b i => some (walkerWord 4#5 d a b i)
  | .subw d a b i => some (walkerWord 5#5 d a b i)
  | .cmpw d a b => some (walkerWord 6#5 d a b 0#15)
  | .bltw a b i => some (walkerWord 7#5 0#4 a b i)
  | .bnew a b i => some (walkerWord 8#5 0#4 a b i)
  | .loop d i => some (walkerWord 9#5 d 0#4 0#4 i)
  | .skip a b => some (walkerWord 10#5 0#4 a b 0#15)
  | .sett a b => some (walkerWord 11#5 0#4 a b 0#15)
  | .emit d a b => some (walkerWord 12#5 d a b 0#15)
  | .flush a => some (walkerWord 13#5 0#4 a 0#4 0#15)
  | _ => none

/-- The word of an instruction with the format it is written in; none for a step of the device, which no word
encodes. -/
def encode (i : Instr) : Option (WordSpace × Word) :=
  match encodeCore i with
  | some w => some (.core, w)
  | none =>
    match encodeWalker i with
    | some w => some (.walker, w)
    | none => none

end Sys2Proof
end

