-- ==== Sys2Proof/Config.lean ====
section
/-!
DEFINITION. What the manual leaves open and the model fixes nowhere: constants without a body, so that no
proof can see a value and a statement about them holds for every value. Each is named in the assumption log.
-/

namespace Sys2Proof

/-- The free choices the manual leaves to the device, one for each draw of the counter `State.fresh`: when
within its latency a result lands (R39), whether an access hits in L1 (R109), and the like. -/
opaque Config.free : Nat → Nat

/-- A value the manual does not state, drawn with the counter `State.fresh`. -/
opaque Config.freeWord : Nat → Word

/-- The vendor part of the health answer (R355), which the manual gives no contents. -/
opaque Config.vendor : Nat → Word

/-- The bytes of the key that firmware signatures are checked with (R353), which the manual gives no contents. -/
opaque Config.fwKey : Nat → Byte

/-- The bytes of an image, of a version and contents, that its signature signs (R353), which the manual does not define. -/
opaque Config.signedBytes : Nat → List Byte → List Byte

/-- The measurement of an image's contents (R354), which the manual does not define. -/
opaque Config.measure : List Byte → List Byte

/-- The attestation signature of an index, a measurement, a tap generation and `HEALTH` (R354), under the identity key. -/
opaque Config.attestSign : Nat → List Byte → Nat → DWord → List Byte

end Sys2Proof
end

