-- ==== Sys2Proof/Machine/Num.lean ====
section
/-!
DEFINITION. Exact numbers and their rounding (R132 to R135). A finite number is a sign, a magnitude and a
power of two. A floating format is read through its ordinals: the code of a magnitude, without the sign, in
which the next larger magnitude is one higher, so rounding up adds 1 whatever the exponent does.
-/

namespace Sys2Proof.Machine

/-- A value of a floating format or of a register: (-1)^neg * m * 2^e, an infinity, or NaN. -/
inductive FVal where
  | nan
  | inf (neg : Bool)
  | fin (neg : Bool) (m : Nat) (e : Int)
  deriving DecidableEq, Repr

/-- Rounding modes (R132). `rs r` rounds stochastically with the rotated state word r (R134). -/
inductive RMode where
  | rn | rz | rd | ru
  | rs (r : Word)
  deriving DecidableEq, Repr

/-- Rounding is upward in magnitude when the dropped part is `rem` of `2^k` and the kept code is `code`. -/
def RMode.up (mode : RMode) (neg : Bool) (code rem k : Nat) : Bool :=
  match mode with
  | .rn => decide (2 * rem > 2 ^ k) || (decide (2 * rem = 2 ^ k) && decide (code % 2 = 1))
  | .rz => false
  | .rd => neg && decide (rem ≠ 0)
  | .ru => !neg && decide (rem ≠ 0)
  | .rs r =>
    let k' := min k 32
    decide (rem >>> (k - k') + r.toNat >>> (32 - k') ≥ 2 ^ k')

/-- The ordinal of m * 2^e in the format of precision p whose least normal exponent is emin, rounded by the
mode, with no upper bound. -/
def roundOrd (p : Nat) (emin : Int) (mode : RMode) (neg : Bool) (m : Nat) (e : Int) : Nat :=
  if m = 0 then 0
  else
    let qmin := emin - (p - 1 : Int)
    let q := max (e + (Nat.log2 m : Int) - (p - 1 : Int)) qmin
    let base := (q - qmin).toNat * 2 ^ (p - 1)
    if q ≤ e then base + m <<< (e - q).toNat
    else
      let k := (q - e).toNat
      let code := base + m >>> k
      if mode.up neg code (m % 2 ^ k) k then code + 1 else code

/-- The magnitude an ordinal stands for. -/
def ordMag (p : Nat) (emin : Int) (o : Nat) : Nat × Int :=
  let qmin := emin - (p - 1 : Int)
  let h := 2 ^ (p - 1)
  if o < h then (o, qmin) else (h + o % h, qmin + (o / h : Nat) - 1)

/-- m * 2^e with one bit more, set when something smaller is lost below m: enough for every rounding of at
least two bits. -/
def withSticky (m : Nat) (lost : Bool) : Nat := 2 * m + if lost then 1 else 0

/-! ## Exact arithmetic -/

def FVal.isNan : FVal → Bool
  | .nan => true
  | _ => false

def FVal.neg : FVal → FVal
  | .nan => .nan
  | .inf s => .inf (!s)
  | .fin s m e => .fin (!s) m e

def FVal.isZero : FVal → Bool
  | .fin _ m _ => m = 0
  | _ => false

def FVal.sign : FVal → Bool
  | .nan => false
  | .inf s => s
  | .fin s _ _ => s

/-- The signed magnitude of a finite value at exponent `e'`, which is at most its own. -/
def signedAt (neg : Bool) (m : Nat) (e e' : Int) : Int :=
  let v : Int := ((m <<< (e - e').toNat : Nat) : Int)
  if neg then -v else v

/-- The exact sum (R145): ∞ - ∞ is NaN, and an exact zero is +0 unless both operands are −0. -/
def FVal.add : FVal → FVal → FVal
  | .nan, _ => .nan
  | _, .nan => .nan
  | .inf s, .inf t => if s = t then .inf s else .nan
  | .inf s, _ => .inf s
  | _, .inf t => .inf t
  | .fin s m e, .fin t n f =>
    let g := min e f
    let v := signedAt s m e g + signedAt t n f g
    if v = 0 then .fin (s && t) 0 0 else .fin (decide (v < 0)) v.natAbs g

/-- The exact product (R145): 0 * ∞ is NaN, and the sign is the exclusive or. -/
def FVal.mul : FVal → FVal → FVal
  | .nan, _ => .nan
  | _, .nan => .nan
  | .inf s, .inf t => .inf (s != t)
  | .inf s, .fin t n _ => if n = 0 then .nan else .inf (s != t)
  | .fin s m _, .inf t => if m = 0 then .nan else .inf (s != t)
  | .fin s m e, .fin t n f => .fin (s != t) (m * n) (e + f)

/-- a < b for values that are not NaN. -/
def FVal.lt : FVal → FVal → Bool
  | .nan, _ => false
  | _, .nan => false
  | .inf s, .inf t => s && !t
  | .inf s, _ => s
  | _, .inf t => !t
  | .fin s m e, .fin t n f =>
    let g := min e f
    decide (signedAt s m e g < signedAt t n f g)

/-- a = b as numbers, for values that are not NaN. -/
def FVal.eqv (x y : FVal) : Bool := !x.isNan && !y.isNan && !x.lt y && !y.lt x

/-- The value scaled by 2^k. -/
def FVal.scale (k : Int) : FVal → FVal
  | .fin s m e => .fin s m (e + k)
  | v => v

def FVal.ofInt (i : Int) : FVal := .fin (decide (i < 0)) i.natAbs 0

/-- The integer a finite value rounds to (R133), by magnitude with the sign. -/
def roundInt (mode : RMode) (neg : Bool) (m : Nat) (e : Int) : Int :=
  let n : Nat :=
    if 0 ≤ e then m <<< e.toNat
    else
      let k := (-e).toNat
      let n := m >>> k
      if mode.up neg n (m % 2 ^ k) k then n + 1 else n
  if neg then -(n : Int) else n

/-! ## Square roots and quotients, with a sticky bit -/

/-- The integer square root, bit by bit from bit `i`. -/
def isqrtFrom : Nat → Nat → Nat → Nat
  | 0, n, r => if (r + 1) * (r + 1) ≤ n then r + 1 else r
  | i + 1, n, r =>
    let r' := r + 2 ^ (i + 1)
    isqrtFrom i n (if r' * r' ≤ n then r' else r)

/-- The integer square root. -/
def isqrt (n : Nat) : Nat := isqrtFrom (Nat.log2 n / 2) n 0

/-- sqrt(num / den) as a magnitude and exponent good for any rounding to at most 60 bits: two extra bits and
a sticky bit. -/
def sqrtRat (num den : Nat) : Nat × Int :=
  let s : Nat := 130 + Nat.log2 den - min (Nat.log2 num) (Nat.log2 den)
  let r := isqrt ((num <<< (2 * s)) / den)
  (withSticky r (r * r * den != num <<< (2 * s)), -(s : Int) - 1)

/-- num / den likewise. -/
def divRat (num den : Nat) : Nat × Int :=
  let s : Nat := 70 + Nat.log2 den
  let q := (num <<< s) / den
  (withSticky q (q * den != num <<< s), -(s : Int) - 1)

/-- The quotient, good for any one rounding. -/
def FVal.div : FVal → FVal → FVal
  | .nan, _ => .nan
  | _, .nan => .nan
  | .inf _, .inf _ => .nan
  | .inf s, .fin t _ _ => .inf (s != t)
  | .fin s _ _, .inf t => .fin (s != t) 0 0
  | .fin s m e, .fin t n f =>
    if n = 0 then if m = 0 then .nan else .inf (s != t)
    else if m = 0 then .fin (s != t) 0 0
    else let (q, k) := divRat m n; .fin (s != t) q (k + e - f)

/-- A number, neither NaN nor infinite. -/
def FVal.finite : FVal → Bool
  | .fin .. => true
  | _ => false

/-- The magnitude. -/
def FVal.abs : FVal → FVal
  | .inf _ => .inf false
  | .fin _ m e => .fin false m e
  | .nan => .nan

/-! ## FP32 (R129, R145) -/

def f32NaN : Word := 0x7FC00000#32
def f32Inf (neg : Bool) : Word := if neg then 0xFF800000#32 else 0x7F800000#32

/-- The value of an FP32 word. -/
def f32Val (w : Word) : FVal :=
  let o := (w &&& 0x7FFFFFFF#32).toNat
  if o > 0x7F800000 then .nan
  else if o = 0x7F800000 then .inf w.msb
  else let (m, e) := ordMag 24 (-126) o; .fin w.msb m e

/-- A word from a sign and an ordinal. -/
def f32Word (neg : Bool) (o : Nat) : Word :=
  BitVec.ofNat 32 (if neg then 0x80000000 + o else o)

/-- RN to FP32 (R145): the canonical NaN, overflow to infinity, subnormals kept. -/
def f32Round : FVal → Word
  | .nan => f32NaN
  | .inf s => f32Inf s
  | .fin s m e =>
    let o := roundOrd 24 (-126) .rn s m e
    if o > 0x7F7FFFFF then f32Inf s else f32Word s o

def f32Add (a b : Word) : Word := f32Round ((f32Val a).add (f32Val b))
def f32Sub (a b : Word) : Word := f32Round ((f32Val a).add (f32Val b).neg)
def f32Mul (a b : Word) : Word := f32Round ((f32Val a).mul (f32Val b))
/-- a * b + c with one rounding (R146). -/
def f32Fma (a b c : Word) : Word := f32Round (((f32Val a).mul (f32Val b)).add (f32Val c))

def f32IsNaN (w : Word) : Bool := (f32Val w).isNan

/-- A key in which FP32 words that are not NaN stand in order, −0 below +0 (R147). -/
def f32Key (w : Word) : Nat := if w.msb then 0xFFFFFFFF - w.toNat else w.toNat + 0x80000000

/-- The smaller operand (R147). -/
def f32Min (a b : Word) : Word :=
  if f32IsNaN a || f32IsNaN b then f32NaN else if f32Key b < f32Key a then b else a

/-- The larger operand (R147). -/
def f32Max (a b : Word) : Word :=
  if f32IsNaN a || f32IsNaN b then f32NaN else if f32Key a < f32Key b then b else a

def f32Neg (a : Word) : Word := if f32IsNaN a then f32NaN else a ^^^ 0x80000000#32
def f32Abs (a : Word) : Word := if f32IsNaN a then f32NaN else a &&& 0x7FFFFFFF#32

/-- The quotient a / b rounded to FP32, for the cases of R154 and R150. -/
def FVal.ratioF32 : FVal → FVal → Word
  | .nan, _ => f32NaN
  | _, .nan => f32NaN
  | .inf _, .inf _ => f32NaN
  | .inf s, .fin t _ _ => f32Inf (s != t)
  | .fin s _ _, .inf t => f32Word (s != t) 0
  | .fin s m e, .fin t n f =>
    if n = 0 then if m = 0 then f32NaN else f32Inf (s != t)
    else
      let (q, g) := divRat m n
      f32Round (.fin (s != t) q (g + e - f))

/-! ## X64 (R130, R153, R154) -/

def x64NaN : DWord := 0x7FFFC00000000000#64
def x64Inf (neg : Bool) : DWord := if neg then 0xFFFF800000000000#64 else 0x7FFF800000000000#64

/-- The value of an X64 pair. A zero exponent is zero whatever the fraction holds. -/
def x64Val (x : DWord) : FVal :=
  let ex := (x >>> 47).toNat % 65536
  let f := x.toNat % 2 ^ 47
  if ex = 0 then .fin x.msb 0 0
  else if ex = 0xFFFF then if f = 0 then .inf x.msb else .nan
  else .fin x.msb (2 ^ 47 + f) (ex - 32767 - 47 : Int)

/-- A finite magnitude rounded to X64 by RN or RU, with no subnormals (R130). -/
def x64Fin (mode : RMode) (neg : Bool) (m : Nat) (e : Int) : DWord :=
  let sb : DWord := if neg then 0x8000000000000000#64 else 0#64
  if m = 0 then sb
  else
    let lead := e + (Nat.log2 m : Int)
    let q := lead - 47
    let n : Nat :=
      if q ≤ e then m <<< (e - q).toNat
      else
        let k := (q - e).toNat
        let n := m >>> k
        if mode.up neg n (m % 2 ^ k) k then n + 1 else n
    let (n, q) := if n = 2 ^ 48 then (2 ^ 47, q + 1) else (n, q)
    let ex := q + 47 + 32767
    if ex < 1 then
      if mode = .ru ∧ ¬ neg then 0x0000800000000000#64 else sb
    else if ex > 0xFFFE then x64Inf neg
    else sb ||| BitVec.ofNat 64 (ex.toNat * 2 ^ 47 + n % 2 ^ 47)

/-- Rounding to X64. -/
def x64Round (mode : RMode) : FVal → DWord
  | .nan => x64NaN
  | .inf s => x64Inf s
  | .fin s m e => x64Fin mode s m e

def x64Add (a b : DWord) : DWord := x64Round .rn ((x64Val a).add (x64Val b))
def x64Mul (a b : DWord) : DWord := x64Round .rn ((x64Val a).mul (x64Val b))
/-- Sums rounded up, for the suffix sums of R245. -/
def x64AddUp (a b : DWord) : DWord := x64Round .ru ((x64Val a).add (x64Val b))
/-- An FP32 word as X64, exactly (R153). -/
def x64OfF32 (a : Word) : DWord := x64Round .rn (f32Val a)
/-- An X64 pair as FP32 (R154). -/
def x64ToF32 (x : DWord) : Word := f32Round (x64Val x)
/-- The quotient as FP32 (R154). -/
def x64Ratio (a b : DWord) : Word := (x64Val a).ratioF32 (x64Val b)

/-! ## Half pairs (R152) -/

/-- An IEEE format by its precision, exponent range and infinity code. -/
structure Ieee where
  p : Nat
  emin : Int
  inf : Nat        -- the ordinal of +∞
  nan : Nat        -- the canonical NaN
  sbit : Nat       -- 2 to the sign bit
  deriving DecidableEq, Repr

def fp16 : Ieee := { p := 11, emin := -14, inf := 0x7C00, nan := 0x7E00, sbit := 0x8000 }
def bf16 : Ieee := { p := 8, emin := -126, inf := 0x7F80, nan := 0x7FC0, sbit := 0x8000 }
def fp32 : Ieee := { p := 24, emin := -126, inf := 0x7F800000, nan := 0x7FC00000, sbit := 0x80000000 }

def Ieee.val (f : Ieee) (c : Nat) : FVal :=
  let o := c % f.sbit
  let s := decide (f.sbit ≤ c)
  if o > f.inf then .nan
  else if o = f.inf then .inf s
  else let (m, e) := ordMag f.p f.emin o; .fin s m e

def Ieee.round (f : Ieee) : FVal → Nat
  | .nan => f.nan
  | .inf s => if s then f.sbit + f.inf else f.inf
  | .fin s m e =>
    let o := min (roundOrd f.p f.emin .rn s m e) f.inf
    if s then f.sbit + o else o

/-- An operation on each element of a pair of halves (R152). -/
def pairMap (f : Ieee) (op : FVal → FVal → FVal → FVal) (a b d : Word) : Word :=
  let el (w : Word) (i : Nat) : FVal := f.val ((w.toNat / 65536 ^ i) % 65536)
  let out (i : Nat) : Nat := f.round (op (el a i) (el b i) (el d i))
  BitVec.ofNat 32 (out 0 + 65536 * out 1)

end Sys2Proof.Machine
end

