-- ==== Sys2Proof/Machine/Formats.lean ====
section
/-!
DEFINITION. The format codes (R123), their decoding (R126 to R131) and encoding (R132, R133), conversions
(R136) and requantisation (R137).
-/

namespace Sys2Proof.Machine

/-- What a conversion reports in FPSTAT or in an engine's status. -/
structure NumStat where
  sat : Bool
  narrow : Bool
  deriving DecidableEq, Repr

def NumStat.none : NumStat := { sat := false, narrow := false }
def NumStat.or (x y : NumStat) : NumStat := { sat := x.sat || y.sat, narrow := x.narrow || y.narrow }

/-- Bits per element of a format code (R123); 0 for one that has no elements. -/
def fmtBits (f : Nat) : Nat :=
  if 1 ≤ f ∧ f ≤ 14 then 8
  else if 15 ≤ f ∧ f ≤ 17 then 4
  else if f = 18 then 2
  else if f = 19 ∨ f = 20 then 8
  else if f = 21 ∨ f = 22 then 16
  else if f = 23 ∨ f = 24 ∨ f = 26 then 32
  else if f = 25 then 64
  else 0

/-- A floating format of the table: precision, least normal exponent, whether it has a sign bit and where,
the ordinals of the largest finite values of both domains, its infinity and NaN codes, whether a zero keeps
its sign, and how many bits below the ordinal are written as 0. -/
structure FloatFmt where
  p : Nat
  emin : Int
  sbit : Nat
  maxExt : Nat
  maxFin : Nat
  inf : Nat
  nan : Nat
  keepZero : Bool
  pad : Nat
  deriving DecidableEq, Repr

/-- The floating formats by code: signed and unsigned binary8 (R126, R127), FP16, BF16, E8M10, FP32. -/
def floatFmt (f : Nat) : Option FloatFmt :=
  if 1 ≤ f ∧ f ≤ 7 then
    some { p := f, emin := 1 - (2 ^ (7 - f) : Nat), sbit := 0x80, maxExt := 0x7E, maxFin := 0x7F, inf := 0x7F,
           nan := 0x80, keepZero := false, pad := 0 }
  else if 8 ≤ f ∧ f ≤ 14 then
    some { p := f - 7, emin := 1 - (2 ^ (15 - f) : Nat), sbit := 0, maxExt := 0xFD, maxFin := 0xFE, inf := 0xFE,
           nan := 0xFF, keepZero := false, pad := 0 }
  else if f = 21 then
    some { p := 11, emin := -14, sbit := 0x8000, maxExt := 0x7BFF, maxFin := 0x7BFF, inf := 0x7C00,
           nan := 0x7E00, keepZero := true, pad := 0 }
  else if f = 22 then
    some { p := 8, emin := -126, sbit := 0x8000, maxExt := 0x7F7F, maxFin := 0x7F7F, inf := 0x7F80,
           nan := 0x7FC0, keepZero := true, pad := 0 }
  else if f = 23 then
    some { p := 11, emin := -126, sbit := 0x80000000, maxExt := 0x3FBFF, maxFin := 0x3FBFF, inf := 0x3FC00,
           nan := 0x7FC00000, keepZero := true, pad := 13 }
  else if f = 24 then
    some { p := 24, emin := -126, sbit := 0x80000000, maxExt := 0x7F7FFFFF, maxFin := 0x7F7FFFFF,
           inf := 0x7F800000, nan := 0x7FC00000, keepZero := true, pad := 0 }
  else none

/-- The bounds of an integer format (R133); the ternary format counts as one. -/
def intFmt (f : Nat) : Option (Int × Int) :=
  if f = 16 then some (-8, 7)
  else if f = 17 then some (0, 15)
  else if f = 18 then some (-1, 1)
  else if f = 19 then some (-128, 127)
  else if f = 20 then some (0, 255)
  else if f = 26 then some (-2147483648, 2147483647)
  else none

/-- A two's complement value of `bits` bits. -/
def signedOf (bits c : Nat) : Int :=
  if c % 2 ^ bits < 2 ^ (bits - 1) then ((c % 2 ^ bits : Nat) : Int) else ((c % 2 ^ bits : Nat) : Int) - 2 ^ bits

/-- Two's complement of an integer in `bits` bits. -/
def bitsOf (bits : Nat) (i : Int) : Nat := (i % (2 ^ bits : Nat)).toNat

/-- An integer clamped to bounds, and whether clamping changed it. -/
def clampInt (lo hi v : Int) : Int × Bool :=
  if v < lo then (lo, true) else if v > hi then (hi, true) else (v, false)

/-- The value of a code (R126, R127, R129). `finite` selects the finite domain of a binary8 code. A code with
no value decodes as 0 with NARROW. -/
def decodeFmt (f : Nat) (finite : Bool) (c : Nat) : FVal × NumStat :=
  match floatFmt f with
  | some ff =>
    if ff.sbit = 0 then
      if c = ff.nan then (.nan, .none)
      else if c = ff.inf ∧ ¬ finite then (.inf false, .none)
      else let (m, e) := ordMag ff.p ff.emin c; (.fin false m e, .none)
    else if ff.keepZero then
      let s := decide (ff.sbit ≤ c)
      let o := c % ff.sbit / 2 ^ ff.pad
      if o > ff.inf then (.nan, .none)
      else if o = ff.inf then (.inf s, .none)
      else let (m, e) := ordMag ff.p ff.emin o; (.fin s m e, .none)
    else
      let s := decide (ff.sbit ≤ c)
      let o := c % ff.sbit
      if c = ff.nan then (.nan, .none)
      else if o = ff.inf ∧ ¬ finite then (.inf s, .none)
      else let (m, e) := ordMag ff.p ff.emin o; (.fin s m e, .none)
  | none =>
    if f = 15 then
      let (m, e) := ordMag 2 0 (c % 8)
      (.fin (decide (8 ≤ c)) m e, .none)
    else if f = 18 then
      if c = 0 then (.fin false 0 0, .none)
      else if c = 1 then (.fin false 1 0, .none)
      else if c = 3 then (.fin true 1 0, .none)
      else (.fin false 0 0, { sat := false, narrow := true })
    else
      match intFmt f with
      | some (lo, _) => (FVal.ofInt (if lo < 0 then signedOf (fmtBits f) c else (c : Int)), .none)
      | none => (.fin false 0 0, .none)

/-- Encoding to a floating format (R132). -/
def encodeFloat (ff : FloatFmt) (finite : Bool) (mode : RMode) (v : FVal) : Nat × NumStat :=
  let sat : NumStat := { sat := true, narrow := false }
  let put (s : Bool) (o : Nat) : Nat := (if s then ff.sbit else 0) + o * 2 ^ ff.pad
  match v with
  | .nan => (ff.nan, .none)
  | .inf s =>
    if ff.sbit = 0 ∧ s then (0, sat)
    else if finite then (put s ff.maxFin, sat)
    else (put s ff.inf, .none)
  | .fin s m e =>
    if ff.sbit = 0 ∧ s ∧ m ≠ 0 then (0, sat)
    else
      let o := roundOrd ff.p ff.emin mode s m e
      if o = 0 then (if ff.keepZero then put s 0 else 0, .none)
      else if finite then
        if o > ff.maxFin then (put s ff.maxFin, sat) else (put s o, .none)
      else if o > ff.maxExt then
        match mode with
        | .rz => (put s ff.maxExt, .none)
        | .rd => (if s then put s ff.inf else put s ff.maxExt, .none)
        | .ru => (if s then put s ff.maxExt else put s ff.inf, .none)
        | _ => (put s ff.inf, .none)
      else (put s o, .none)

/-- Encoding to `E2M1` (R133). -/
def encodeE2M1 (mode : RMode) (v : FVal) : Nat × NumStat :=
  let sat : NumStat := { sat := true, narrow := false }
  match v with
  | .nan => (0, { sat := false, narrow := true })
  | .inf s => ((if s then 8 else 0) + 7, sat)
  | .fin s m e =>
    let o := roundOrd 2 0 mode s m e
    if o > 7 then ((if s then 8 else 0) + 7, sat) else ((if s then 8 else 0) + o, .none)

/-- Encoding to an integer format with bounds (R133). -/
def encodeInt (bits : Nat) (lo hi : Int) (mode : RMode) (v : FVal) : Nat × NumStat :=
  match v with
  | .nan => (0, { sat := false, narrow := true })
  | .inf s => (bitsOf bits (if s then lo else hi), { sat := true, narrow := false })
  | .fin s m e =>
    let (y, c) := clampInt lo hi (roundInt mode s m e)
    (bitsOf bits y, { sat := c, narrow := false })

/-- Encoding of an exact value to a format (R132, R133). -/
def encodeFmt (f : Nat) (finite : Bool) (mode : RMode) (v : FVal) : Nat × NumStat :=
  match floatFmt f with
  | some ff => encodeFloat ff finite mode v
  | none =>
    if f = 15 then encodeE2M1 mode v
    else match intFmt f with
      | some (lo, hi) => encodeInt (fmtBits f) lo hi mode v
      | none => (0, .none)

/-- The largest finite value of a format in a domain (R128, R129). -/
def largestFmt (f : Nat) (finite : Bool) : FVal :=
  match floatFmt f with
  | some ff => (let (m, e) := ordMag ff.p ff.emin (if finite then ff.maxFin else ff.maxExt); .fin false m e)
  | none =>
    if f = 15 then .fin false 6 0
    else match intFmt f with
      | some (_, hi) => FVal.ofInt hi
      | none => .fin false 0 0

/-- An FP32 word rounded in a direction (R132). -/
def f32By (mode : RMode) (v : FVal) : Word := BitVec.ofNat 32 (encodeFmt 24 false mode v).1

/-- An ACC64 word as a value: n * 2^E (R131). -/
def accVal (n : Int) (E : Int) : FVal := .fin (decide (n < 0)) n.natAbs E

def accLo : Int := -9223372036854775808
def accHi : Int := 9223372036854775807

/-- Encoding to ACC64 (R131, R141): the integer nearest to v / 2^E by the mode, clamped. -/
def encodeAcc (E : Int) (mode : RMode) (v : FVal) : Nat × NumStat := encodeInt 64 accLo accHi mode (v.scale (-E))

/-- Addition of ACC64 words, clamped (R131, R139). -/
def accAdd (x y : DWord) : DWord × Bool :=
  let (v, c) := clampInt accLo accHi (x.toInt + y.toInt)
  (BitVec.ofInt 64 v, c)

/-! ## CVT (R136, R156) -/

/-- The rounding mode of a `CVT` rounding field, with the lane's rotated state word for RS. -/
def cvtMode (r : BitVec 3) (rs : Word) : RMode :=
  match r.toNat with
  | 1 => .rz
  | 2 => .rd
  | 3 => .ru
  | 4 => .rs rs
  | _ => .rn

/-- The result of `CVT` with conversion code c, rounding field r and S bit, and its status (R136). -/
def cvt (c : BitVec 7) (t : BitVec 1) (r : BitVec 3) (rs a : Word) : Word × NumStat :=
  let f := c.toNat % 32
  let s := decide (t = 1#1)
  let mode := cvtMode r rs
  let src (bits : Nat) : Nat := a.toNat % 2 ^ bits
  match c.toNat / 32 with
  | 0 => let (n, st) := encodeFmt f s mode (f32Val a); (BitVec.ofNat 32 n, st)
  | 1 => let (v, st) := decodeFmt f s (src (fmtBits f)); (f32Round v, st)
  | 2 => let (n, st) := encodeFmt f s mode (FVal.ofInt a.toInt); (BitVec.ofNat 32 n, st)
  | _ =>
    let (v, st) := decodeFmt f s (src (fmtBits f))
    let (n, st') := encodeInt 32 (-2147483648) 2147483647 mode v
    (BitVec.ofNat 32 n, st.or st')

/-! ## REQ (R137) -/

/-- Requantisation to bounds lo, hi: one rounding, half away from zero, then the offset, then the clamp. -/
def requant (bits : Nat) (lo hi z : Int) (a m : Word) (sh : Nat) : Word × Bool :=
  let n : Int := a.toInt * m.toInt
  let y : Int := ((2 * n.natAbs + 2 ^ (31 + sh)) / 2 ^ (32 + sh) : Nat)
  let (v, c) := clampInt lo hi ((if n < 0 then -y else y) + z)
  (BitVec.ofNat 32 (bitsOf bits v), c)

end Sys2Proof.Machine
end

