-- ==== Sys2Proof/Machine/Special.lean ====
section
/-!
DEFINITION. The correctly rounded special functions (R150, R151, R153, R161). Each is enclosed between two
fixed-point numbers by interval arithmetic; where both ends round to one value that value is the correctly
rounded result, else the enclosure is computed again with twice the bits (log entry 43).
-/

namespace Sys2Proof.Machine

/-- An interval of integers that stand for multiples of 2^-P. -/
structure Iv where
  lo : Int
  hi : Int
  deriving DecidableEq, Repr

namespace Iv

/-- Division by 2^k, downward and upward. -/
def dn (x : Int) (k : Nat) : Int := x / (2 ^ k : Nat)
def upw (x : Int) (k : Nat) : Int := -((-x) / (2 ^ k : Nat))

def exact (x : Int) : Iv := ⟨x, x⟩
def add (a b : Iv) : Iv := ⟨a.lo + b.lo, a.hi + b.hi⟩
def neg (a : Iv) : Iv := ⟨-a.hi, -a.lo⟩
def sub (a b : Iv) : Iv := a.add b.neg
/-- The product at scale P. -/
def mul (P : Nat) (a b : Iv) : Iv :=
  let p := a.lo * b.lo; let q := a.lo * b.hi; let r := a.hi * b.lo; let s := a.hi * b.hi
  ⟨dn (min (min p q) (min r s)) P, upw (max (max p q) (max r s)) P⟩
/-- Division by a positive integer. -/
def divNat (a : Iv) (n : Nat) : Iv := ⟨a.lo / (n : Int), -((-a.hi) / (n : Int))⟩
/-- The quotient at scale P, for a positive divisor. -/
def div (P : Nat) (a b : Iv) : Iv :=
  let q (x y : Int) : Int := (x * (2 ^ P : Nat)) / y
  ⟨min (q a.lo b.lo) (q a.lo b.hi), -(min (q (-a.hi) b.lo) (q (-a.hi) b.hi))⟩
/-- A product with an integer. -/
def mulInt (a : Iv) (k : Int) : Iv := if 0 ≤ k then ⟨a.lo * k, a.hi * k⟩ else ⟨a.hi * k, a.lo * k⟩

end Iv

/-- The number m * 2^e at scale P. -/
def ivOf (P : Nat) (neg : Bool) (m : Nat) (e : Int) : Iv :=
  let k := e + (P : Int)
  let x : Int := if neg then -(m : Int) else m
  if 0 ≤ k then .exact (x * (2 ^ k.toNat : Nat)) else ⟨Iv.dn x (-k).toNat, Iv.upw x (-k).toNat⟩

/-- e^x for |x| ≤ 1 by its series: 1 + x/1 (1 + x/2 (1 + …)), the innermost factor between 0 and 3. -/
def expSeries (P : Nat) (x : Iv) : Nat → Nat → Iv
  | 0, _ => ⟨0, 3 * (2 ^ P : Nat)⟩
  | n + 1, i => (Iv.exact (2 ^ P : Nat)).add ((x.mul P (expSeries P x n (i + 1))).divNat i)

/-- atanh z / z for 0 ≤ z² ≤ 1/9: 1/(i) + z² (1/(i+2) + …), the innermost factor between 0 and 2. -/
def atanhSeries (P : Nat) (z2 : Iv) : Nat → Nat → Iv
  | 0, _ => ⟨0, 2 * (2 ^ P : Nat)⟩
  | n + 1, i => ((Iv.exact (2 ^ P : Nat)).divNat i).add (z2.mul P (atanhSeries P z2 n (i + 2)))

/-- atan z / z for a small z: 1/i - z² (1/(i+2) - …). -/
def atanSeries (P : Nat) (z2 : Iv) : Nat → Nat → Iv
  | 0, _ => ⟨0, (2 ^ P : Nat)⟩
  | n + 1, i => ((Iv.exact (2 ^ P : Nat)).divNat i).sub (z2.mul P (atanSeries P z2 n (i + 2)))

/-- sin t / t: 1 - t²/(i(i+1)) (1 - …), the innermost factor between 0 and 1. -/
def sinSeries (P : Nat) (t2 : Iv) : Nat → Nat → Iv
  | 0, _ => ⟨0, (2 ^ P : Nat)⟩
  | n + 1, i => (Iv.exact (2 ^ P : Nat)).sub ((t2.mul P (sinSeries P t2 n (i + 2))).divNat (i * (i + 1)))

/-- ln 2 = 2 atanh (1/3). -/
def ln2Iv (P : Nat) : Iv :=
  let z := (Iv.exact (2 ^ P : Nat)).divNat 3
  ((z.mul P (atanhSeries P (z.mul P z) (P / 3 + 8) 1))).mulInt 2

/-- π = 16 atan (1/5) - 4 atan (1/239). -/
def piIv (P : Nat) : Iv :=
  let at' (n : Nat) : Iv :=
    let z := (Iv.exact (2 ^ P : Nat)).divNat n
    z.mul P (atanSeries P (z.mul P z) (P / 4 + 8) 1)
  ((at' 5).mulInt 16).sub ((at' 239).mulInt 4)

/-- e^x as an interval at scale P and a power of two, for x at scale P. -/
def expIv (P : Nat) (x : Iv) : Iv × Int :=
  let l2 := ln2Iv P
  let k := (2 * x.lo + l2.lo) / (2 * l2.lo)
  (expSeries P (x.sub (l2.mulInt k)) (P / 4 + 8) 1, k)

/-- ln (m * 2^e) at scale P: m * 2^e = y * 2^k with y in [2/3, 4/3], and ln y = 2 atanh ((y-1)/(y+1)). -/
def lnIv (P : Nat) (m : Nat) (e : Int) : Iv :=
  let lg := Nat.log2 m
  -- y = m / 2^lg in [1, 2), or half of it when above 4/3
  let d := if 3 * m > 4 * 2 ^ lg then lg + 1 else lg
  let k := e + (d : Int)
  let num : Int := (m : Int) - (2 ^ d : Nat)
  let z : Iv :=
    let n := num * (2 ^ P : Nat)
    let den : Int := (m : Int) + (2 ^ d : Nat)
    ⟨n / den, -((-n) / den)⟩
  let s := atanhSeries P (let q := z.mul P z; ⟨max q.lo 0, q.hi⟩) (P / 4 + 8) 1
  ((z.mul P s).mulInt 2).add ((ln2Iv P).mulInt k)

/-- An end of an enclosure as a value: n * 2^(k - P). -/
def endVal (P : Nat) (n : Int) (k : Int) : FVal := .fin (decide (n < 0)) n.natAbs (k - P)

/-- The rounding of an exact value, from the first of its enclosures, the precision doubled each time, whose ends round
alike (log entry 43). -/
def decideRound {α : Type} [DecidableEq α] (round : FVal → α) (f : Nat → Iv × Int) : Nat → Nat → α
  | 0, P => round (endVal P (f P).1.lo (f P).2)
  | n + 1, P =>
    let (v, k) := f P
    let a := round (endVal P v.lo k)
    if round (endVal P v.hi k) = a then a else decideRound round f n (2 * P)

/-- How often the precision may double. -/
def doublings : Nat := 64

/-- The same for an FP32 result, when the operand or the result is of the order 2^-extra. -/
def roundTo {α : Type} [DecidableEq α] (round : FVal → α) (extra : Nat) (f : Nat → Iv × Int) : α :=
  decideRound round f doublings (96 + extra)

/-- How far below 1 a magnitude lies, in bits. -/
def smallness (m : Nat) (e : Int) : Nat := (-(e + (Nat.log2 m : Int))).toNat

/-- e^x correctly rounded for finite non-zero x = ±m * 2^e, by a rounding function. -/
def expRound {α : Type} [DecidableEq α] (round : FVal → α) (neg : Bool) (m : Nat) (e : Int) : α :=
  roundTo round 16 (fun P => expIv P (ivOf P neg m e))

/-- FEXP (R150). -/
def fexp (a : Word) : Word :=
  match f32Val a with
  | .nan => f32NaN
  | .inf s => if s then 0 else f32Inf false
  | .fin s m e =>
    if m = 0 then f32Word false 0x3F800000
    else if e + (Nat.log2 m : Int) ≥ 7 then if s then 0 else f32Inf false
    else expRound f32Round s m e

/-- XEXP (R153, R154). -/
def xexp (a : Word) : DWord :=
  match f32Val a with
  | .nan => x64NaN
  | .inf s => if s then 0 else x64Inf false
  | .fin s m e =>
    if m = 0 then x64OfF32 0x3F800000
    else if e + (Nat.log2 m : Int) ≥ 15 then if s then 0 else x64Inf false
    else expRound (x64Round .rn) s m e

/-- FEX2 (R150, R151): an integer exponent is exact. -/
def fex2 (a : Word) : Word :=
  match f32Val a with
  | .nan => f32NaN
  | .inf s => if s then 0 else f32Inf false
  | .fin s m e =>
    if m = 0 then f32Word false 0x3F800000
    else if e + (Nat.log2 m : Int) ≥ 8 then if s then 0 else f32Inf false
    else
      let isInt := decide (0 ≤ e) || decide (m % 2 ^ (-e).toNat = 0)
      if isInt then f32Round (.fin false 1 (roundInt .rz s m e))
      else roundTo f32Round 16 (fun P => expIv P ((ivOf P s m e).mul P (ln2Iv P)))

/-- ln of a positive finite value, correctly rounded; ln 1 is +0 (R150). -/
def lnPos (m : Nat) (e : Int) : Word :=
  if e ≤ 0 ∧ m = 2 ^ (-e).toNat then 0
  else roundTo f32Round 32 (fun P => (lnIv P m e, 0))

/-- FLN (R150). -/
def fln (a : Word) : Word :=
  match f32Val a with
  | .nan => f32NaN
  | .inf s => if s then f32NaN else f32Inf false
  | .fin s m e =>
    if m = 0 then f32Inf true
    else if s then f32NaN
    else lnPos m e

/-- FLG2 (R150, R151): a power of two is exact. -/
def flg2 (a : Word) : Word :=
  match f32Val a with
  | .nan => f32NaN
  | .inf s => if s then f32NaN else f32Inf false
  | .fin s m e =>
    if m = 0 then f32Inf true
    else if s then f32NaN
    else if m = 2 ^ Nat.log2 m then f32Round (FVal.ofInt (e + (Nat.log2 m : Int)))
    else roundTo f32Round 32 (fun P => ((lnIv P m e).div P (ln2Iv P), 0))

/-- sin (π r) at scale P for a magnitude r = m * 2^e of at most one half. -/
def sinPiIv (P : Nat) (m : Nat) (e : Int) : Iv :=
  let t := (ivOf P false m e).mul P (piIv P)
  t.mul P (sinSeries P (t.mul P t) (P / 6 + 12) 2)

/-- sin (π x) for x = ±m * 2^e with e < 0, by reduction to a half turn: x = q + r with q an integer. -/
def sinPi (neg : Bool) (m : Nat) (e : Int) : Word :=
  let one := 2 ^ (-e).toNat
  let q := m / one
  let r := m % one
  let neg' := neg != decide (q % 2 = 1)
  let r' := min r (one - r)
  if 2 * r' = one then f32Word neg' 0x3F800000
  else
    let sgn (w : Word) : Word := if neg' then w ^^^ 0x80000000#32 else w
    sgn (roundTo f32Round (16 + smallness r' e) (fun P => (sinPiIv P r' e, 0)))

/-- FSINP (R150): sin (πa). A non-zero integer gives 0 with the sign of a. -/
def fsinp (a : Word) : Word :=
  match f32Val a with
  | .nan => f32NaN
  | .inf _ => f32NaN
  | .fin s m e =>
    if m = 0 ∨ 0 ≤ e ∨ m % 2 ^ (-e).toNat = 0 then f32Word s 0
    else sinPi s m e

/-- FCOSP (R150): cos (πa) = sin (π(|a| + 1/2)). -/
def fcosp (a : Word) : Word :=
  match f32Val a with
  | .nan => f32NaN
  | .inf _ => f32NaN
  | .fin _ m e =>
    if m = 0 then f32Word false 0x3F800000
    else
      let (m, e) := if e < -1 then (m, e) else (m * 2 ^ (e + 2).toNat, -2)
      let one := 2 ^ (-e).toNat
      let m' := m + one / 2
      if m' % one = 0 then f32Word false 0
      else sinPi false m' e

/-- FTANH (R150): (e^2|a| - 1) / (e^2|a| + 1), with the sign of a. -/
def ftanh (a : Word) : Word :=
  match f32Val a with
  | .nan => f32NaN
  | .inf s => f32Word s 0x3F800000
  | .fin s m e =>
    if m = 0 then f32Word s 0
    else if e + (Nat.log2 m : Int) ≥ 5 then f32Word s 0x3F800000
    else
      let f (P : Nat) : Iv × Int :=
        let (v, k) := expIv P (ivOf P false m (e + 1))
        let v := v.mulInt (2 ^ k.toNat : Nat)
        let one := Iv.exact (2 ^ P : Nat)
        ((v.sub one).div P (v.add one), 0)
      let sgn (w : Word) : Word := if s then w ^^^ 0x80000000#32 else w
      sgn (roundTo f32Round (16 + smallness m e) f)

/-- FSIG (R150): 1 / (1 + e^-a). -/
def fsig (a : Word) : Word :=
  match f32Val a with
  | .nan => f32NaN
  | .inf s => if s then 0 else f32Word false 0x3F800000
  | .fin s m e =>
    if m = 0 then f32Word false 0x3F000000
    else if e + (Nat.log2 m : Int) ≥ 7 then if s then 0 else f32Word false 0x3F800000
    else
      -- with y = e^-|a|: 1/(1+y) for a > 0 and y/(1+y) for a < 0
      let f (P : Nat) : Iv × Int :=
        let (v, k) := expIv P (ivOf P true m e)
        let one := Iv.exact (2 ^ P : Nat)
        let y : Iv := ⟨Iv.dn v.lo (-k).toNat, Iv.upw v.hi (-k).toNat⟩
        ((if s then y else one).div P (one.add y), 0)
      roundTo f32Round 200 f

/-- FSQRT (R150). -/
def fsqrt (a : Word) : Word :=
  match f32Val a with
  | .nan => f32NaN
  | .inf s => if s then f32NaN else f32Inf false
  | .fin s m e =>
    if m = 0 then f32Word s 0
    else if s then f32NaN
    else
      let (m, e) := if e % 2 = 0 then (m, e) else (2 * m, e - 1)
      let (r, g) := sqrtRat m 1
      f32Round (.fin false r (g + e / 2))

/-- 1 / sqrt (num / den * 2^e) rounded once, for positive num and den. -/
def rsqrtRat (num den : Nat) (e : Int) : Word :=
  let (num, e) := if e % 2 = 0 then (num, e) else (2 * num, e - 1)
  let (r, g) := sqrtRat den num
  f32Round (.fin false r (g - e / 2))

/-- FRSQ (R150). -/
def frsq (a : Word) : Word :=
  match f32Val a with
  | .nan => f32NaN
  | .inf s => if s then f32NaN else 0
  | .fin s m e =>
    if m = 0 then f32Inf s
    else if s then f32NaN
    else rsqrtRat m 1 e

/-- FRCP (R150). -/
def frcp (a : Word) : Word := (FVal.fin false 1 0).ratioF32 (f32Val a)

/-- UNIF (R160): ((a >> 8) + 1/2) * 2^-24, toward zero. -/
def unif (a : Word) : Word :=
  let m := 2 * (a.toNat / 256) + 1
  f32Word false (roundOrd 24 (-126) .rz false m (-25))

/-- GUMB (R161). -/
def gumb (a : Word) : Word := (fln ((fln (unif a)) ^^^ 0x80000000#32)) ^^^ 0x80000000#32

/-- RNG (R159). -/
def rng (a b : Word) : Word :=
  let x := b ^^^ a.rotateLeft 16
  let x := x ^^^ (x >>> 16)
  let x := x * 0x7FEB352D#32
  let x := x ^^^ (x >>> 15)
  let x := x * 0x846CA68B#32
  let x := x ^^^ (x >>> 16)
  let x := x ^^^ a
  let x := x * 0x9E3779B1#32
  x ^^^ (x >>> 16)

end Sys2Proof.Machine
end

