-- ==== Sys2Proof/Machine/State.lean ====
section
/-!
DEFINITION. The machine's state as plain data: everything the manual gives the device, from a thread's
registers to the fence record, and the two things the model adds (which agent moves next, and a counter
from which free values are drawn). Each field names the rule that gives it.
-/

namespace Sys2Proof.Machine

/-! ## How a step can stop -/

/-- What stops the machine with a fault. -/
inductive Fault where
  /-- Raised by `exec` of a core instruction or a walker word when the state names no issuing group or no
  walker context for it: such a call stands for no moment of the device. It is a safe stop: `step` sets the
  issuer before it calls `exec`, so no run meets it. -/
  | noIssuer
  deriving DecidableEq, Repr

/-- What is refused without a meaning. -/
inductive Refusal where
  /-- Raised by `exec` for an instruction that has no meaning in the model, by its mnemonic. It is a safe
  stop: nothing is claimed about the instruction. -/
  | notModelled (mnemonic : String)
  deriving DecidableEq, Repr

/-! ## Causes -/

/-- Trap causes, and the engine detail `notpres` (R321). -/
inductive Cause where
  | illop | illbun | priv | align | page | prot | spadbound | rankbad | nanfirst | taphit | tapmode
  | partmix | regrange | mchk | vsetfull | joinbad | engfault | swtrap | fmtbad | bounds | bkpt | notpres
  deriving DecidableEq, Repr

/-- A trap about to be taken: its cause, and what `TRAPADDR` and `TRAPINFO` receive (R322). -/
structure Trap where
  cause : Cause
  addr : DWord
  info : DWord
  deriving DecidableEq, Repr

/-- A deferred cause held on a flag (R324). Flag 0: held until the next `FENCE` or `EXIT`. -/
structure Deferred where
  flag : Nat
  order : Nat          -- issue order of the operation that left it
  trap : Trap
  deriving DecidableEq, Repr

/-! ## Threads (R8) -/

/-- Thread states (R9). -/
inductive TState where
  | active | filed | queued | parked | sleeping | trapped | saved | exited
  deriving DecidableEq, Repr

/-- What a parked or sleeping thread waits for (R9, R10). -/
inductive Why where
  | none
  | collector                              -- FILED in its home block's collector (R17)
  | barWait (obj : Nat) (phase : Word)     -- `BAR.WAIT`: until PHASE differs
  | barSync (obj : Nat) (phase : Word)     -- `BAR.SYNC`: until the phase its arrival was counted in completes
  | line (team line : Nat)                 -- an absent scratchpad line of that team (R91)
  | jsign (j : Nat)                        -- until the join register releases (R24)
  | jdecl (j : Nat)                        -- until the join register is IDLE (R24)
  | exit                                   -- until the flag counters are zero (R11)
  | tapld (gen : Nat)                      -- until an older tap generation retires (R282)
  | ctxsv                                  -- until the area of its `CTXSV` is written (R343)
  | ctxld                                  -- until the cycle ends in which its `CTXLD` restored its teams (R344)
  | sleep (left : Nat) (exact : Bool)      -- resident cycles still to pass; `SLEEP #0` ends with the cycle (R79)
  | waitf (deadline line : Nat) (dirty : Option Nat)   -- R80: timeout, line, when it was changed
  /-- R342: a `TLBINV` with its control word's fields and its address. Until `dropped` it waits for its thread's
  store-queue entries before number `mark`; from then on for the accesses before that number. -/
  | tlbinv (kind scope : Nat) (va : DWord) (mark : Nat) (dropped : Bool)
  deriving DecidableEq, Repr

/-- One effect of a fixed-latency instruction that is not yet certain to be visible (R39). -/
inductive Landing where
  | reg (n : Nat) (v : Word)       -- an allocation register
  | win (base : Nat)               -- the window base
  | part (t : Nat)                 -- the partition setting
  | stat (bits : Word)             -- bits set in FPSTAT
  deriving DecidableEq, Repr

/-- The effects of one instruction in one lane: certain at `due`, landing together at `lands` (R39, R40). -/
structure Pend where
  order : Nat              -- its place in issue order
  due : Nat
  lands : Nat
  writes : List Landing
  deriving DecidableEq, Repr

/-- One entry of a validation set (R207): the line, the `LDVS` that entered it, and the version that load
recorded; none until it has read. -/
structure VEntry where
  line : Nat
  src : Nat
  version : Option (BitVec 48)
  deriving DecidableEq, Repr

/-- The last outcome of a thread at a join register (R25 `MINE`). -/
inductive Mine where
  | none | done | cancelled | withdrawn
  deriving DecidableEq, Repr

/-- The architected state of a thread (R8). -/
structure Thread where
  idx : Nat                -- team-local index
  role : Nat               -- role index (R19)
  st : TState              -- R9
  left : TState            -- the state recorded on parking, sleeping or being saved (R10)
  why : Why                -- what a parked or sleeping thread waits for
  whySaved : Why           -- the same, while the thread is SAVED
  stSaved : TState         -- the state a SAVED thread returns to
  pc : DWord               -- R31
  regs : List Word         -- the register allocation (R8)
  poisonRegs : List Nat    -- allocation registers that are poisoned (R327)
  pend : List Pend         -- results not yet certain to be visible (R39)
  win : Nat                -- window base (R76)
  part : Nat               -- partition setting (R77)
  flags : List Nat         -- completion flag counters f1-f12 (R43)
  cls : Nat                -- own priority class (R78)
  lclass : Nat             -- launch class (R28)
  seq : Word               -- sequence tag (R315)
  vset : List VEntry       -- validation set (R207)
  stale : Bool             -- its STALE bit (R207)
  joinMask : BitVec 64     -- join registers in which the thread is enrolled and unsigned (R8)
  mine : Tab Mine          -- last outcome at each join register (R25)
  fpstat : Word            -- FPSTAT (R124)
  trapPc : DWord           -- R322
  trapCause : Word
  trapAddr : DWord
  trapInfo : DWord
  sword : Option Word      -- the S-word of the bundle the thread has entered (R34); none before entry
  waited : Bool            -- the bundle's wait has been made (R37)
  lastIssue : Option Nat   -- cycle of the thread's previous instruction (R38)
  held : List Deferred     -- deferred causes held on flags (R324)
  freeAt : Nat             -- the thread issues nothing before this cycle (R163)
  nanAt : Option Nat       -- `NANFIRST` follows in that cycle, with this TRAPINFO (R163)
  deriving DecidableEq, Repr

/-! ## Teams, groups and bins (R12 to R20) -/

/-- A group: threads of one team with distinct home lanes and one next program counter (R12, R13). -/
structure Group where
  members : List Nat
  readyAt : Nat       -- since when the group has been ready (R28)
  passed : Nat        -- times passed over while ready (R28)
  boost : Nat         -- classes of promotion (R28)
  born : Option Nat   -- the cycle in which a release formed it (R12)
  since : Option Nat  -- the cycle of a `YIELD`, from which R28 counts it as ready (R63)
  deriving DecidableEq, Repr

/-- A barrier object (R95). `arr` and `arrn` list the threads whose arrivals are counted, so the counters
ARR and ARRN are their lengths, and R99 and R29 know who arrived. -/
structure Barrier where
  phase : Word
  count : Option Nat    -- MODE: none is team mode, some n is count mode with EXPARR = n
  arr : List Nat
  arrn : List Nat
  p : Word
  engPend : Bool        -- engine bytes have been counted into the current phase (R109)
  engDone : Bool        -- such a phase has completed since the core last dropped its L1 sectors (R109)
  deriving DecidableEq, Repr

/-- A role declaration (R19). -/
structure Role where
  count : Nat
  regs : Nat
  deriving DecidableEq, Repr

/-- A thread queued at `REFORM` (R14). -/
structure Queued where
  thr : Nat
  key : DWord
  arrived : Nat
  deriving DecidableEq, Repr

inductive TeamStatus where
  | resident
  | stopped (held : Bool)  -- pre-empted; it holds its slot and its resources until its context is saved (R328);
                           -- held: by a double trap, so that only a `CTXLD` restores it (R325)
  | saved                  -- its context is saved, and its resources are released
  | gone                   -- every thread has exited, or the grid was halted
  deriving DecidableEq, Repr

structure Team where
  grid : Nat               -- position in State.grids
  gridIdx : Nat            -- team index in the grid (`vteam`)
  hubset : Nat             -- position in State.hubsets (R316)
  fn : Nat                 -- the PCI Express function whose address space it runs in (R348)
  core : Nat               -- physical core: 4 * hub + rank
  slot : Nat               -- TSLOT (R336)
  status : TeamStatus
  roles : List Role
  threads : List Thread
  groups : List Group
  spadBytes : Nat          -- scratchpad allocation
  spad : Tab Byte          -- its contents (unlisted bytes read 0, R4)
  spadPoison : List Nat    -- poisoned bytes of the scratchpad, by offset (R327, R167)
  absent : Tab Nat         -- pending count of each 128-byte line (R104)
  bars : List Barrier
  age : Word               -- AGE (R14)
  pwin : Word              -- PWIN (R120)
  seed : Word              -- FPENV (R125)
  rs : List Word           -- the stochastic states x0-x3 (R125)
  queue : List Queued      -- threads QUEUED at REFORM (R14)
  deriving DecidableEq, Repr

/-- A REFORM bin (R14): one of the 64 of its core. -/
structure Bin where
  core : Nat
  team : Nat
  key : DWord
  threads : List Nat       -- occupants; their home lanes are distinct
  opened : Nat
  deriving DecidableEq, Repr

/-- The matrix engine descriptor (R253). -/
structure MxDesc where
  aaddr : Nat
  afmt : Nat
  adom : Bool
  sparse : Bool
  apitch : Nat
  bfmt : Nat
  bdom : Bool
  baddr : Nat
  klen : Nat
  caddr : DWord
  cpitch : Nat
  e : Int
  chain : Bool
  flush : Bool
  maddr : Nat
  nsp : Nat
  saddr : Nat
  sgeo : Nat
  staddr : Nat
  nostat : Bool
  deriving DecidableEq, Repr

/-! ## Join registers (R24) -/

inductive JState where
  | idle | opened | busy | drain
  deriving DecidableEq, Repr

/-- What the first signing fixes (R24). -/
inductive JKind where
  | jsign
  | mma (addr : DWord) (desc : MxDesc)     -- the descriptor's address, and what the first signing read there
  deriving DecidableEq, Repr

structure Sign where
  team : Nat
  thr : Nat
  col : Nat            -- column: core rank * 32 + home lane (R255)
  op : Nat             -- the signer's MMA operation; 0 for JSIGN
  flag : Nat           -- and its flag
  base : Nat           -- allocation register of the B column's first register
  nanTrap : Bool       -- NANTRAP at the sign (R265)
  priv : Bool          -- the signer was in TRAPPED (R358)
  deriving DecidableEq, Repr

structure Join where
  st : JState
  n : Nat
  enrolled : List (Nat × Nat)      -- every (team, thread) that enrolled in the round
  unsigned : List (Nat × Nat)      -- those not yet signed or withdrawn
  signs : List Sign
  wd : Nat
  kind : Option JKind
  deriving DecidableEq, Repr

/-- A hub set with its reservation of join registers (R316). -/
structure HubSet where
  hub : Nat
  teams : List Nat
  joins : List Join
  deriving DecidableEq, Repr

/-! ## Memory side -/

/-- Where a cached translation stands: in the TLB of a core, or in the one that the cores of a hub share (R118). -/
inductive TlbPlace where
  | core (n : Nat)
  | hub (n : Nat)
  deriving DecidableEq, Repr

/-- A cached translation (R118): one 64 KiB page of one address space, with the level its leaf came from. -/
structure TlbEntry where
  place : TlbPlace
  fn : Nat
  page : Nat           -- virtual address / 65536
  pte : BitVec 128
  level : Nat
  deriving DecidableEq, Repr

/-- A non-leaf entry held in the walk caches (R118): level 3 for a root entry, by the address's bits 51:40, and 2 for
a level-2 entry, by bits 51:28. -/
structure WalkEntry where
  fn : Nat
  level : Nat
  index : Nat
  pte : BitVec 128
  deriving DecidableEq, Repr

/-- A sector held in a core's L1 portion (R109). -/
structure L1Sector where
  core : Nat
  sector : Nat         -- memory key / 32
  bytes : List Byte
  deriving DecidableEq, Repr

/-- A read-modify-write performed at a home slice (R210 to R212). -/
inductive Rmw where
  | atom (code : Nat) (operand : List Word) (accE : Int)
  | cas (expect new : Word)
  | casv (version : BitVec 48) (new : Word) (fused : Bool)     -- R225
  deriving DecidableEq, Repr

/-- A place in scratchpad or in register space (R89, R90). -/
inductive LocalLoc where
  | spad (team off : Nat)
  | reg (team thr n byte : Nat)
  deriving DecidableEq, Repr

inductive SqAct where
  | store (loc : Nat) (bytes : List Byte)                  -- generic store at a memory key
  | localStore (loc : LocalLoc) (bytes : List Byte)
  | localLoad (loc : LocalLoc) (size : Nat) (addr : Word)
  | localAtomic (loc : LocalLoc) (code : Nat) (operand : Word) (addr : Word)
  | rmw (loc : Nat) (act : Rmw) (va : DWord)
  | scatter (entry : Nat)                                  -- the place of a Pannier write entry
  | fence (scope : Nat)                                    -- a release fence's place (R215)
  | copy                                                   -- a copy's place, until it ends (R195)
  deriving DecidableEq, Repr

/-- An entry of a core's store queue (R195). -/
structure SqEntry where
  id : Nat               -- its place in issue order
  ins : Nat              -- the instruction it comes from
  core : Nat
  team : Nat
  thr : Nat
  op : Nat               -- the operation that waits on it, 0 for none
  release : Option Nat   -- scope code of a release (R191)
  act : SqAct
  deriving DecidableEq, Repr

/-- One lane's request in the Pannier (R120). -/
structure PannierReq where
  team : Nat
  thr : Nat
  op : Nat
  loc : Nat              -- memory key of the element
  len : Nat
  word : Nat             -- the aligned word that the lane asks for, and its width in bytes (R175)
  width : Nat
  data : List Byte       -- the bytes of a write lane
  pwin : Nat
  part : Nat             -- 0 the element, 1 its scale byte (R175)
  deriving DecidableEq, Repr

structure PannierEntry where
  id : Nat
  core : Nat
  sector : Nat
  write : Bool
  born : Nat
  sent : Bool            -- sent, it takes no more requests (R120)
  reqs : List PannierReq
  deriving DecidableEq, Repr

/-! ## Operations in flight -/

/-- How a load's bytes become register words. -/
inductive LoadForm where
  | raw (size : Nat)
  | elem (fmt : Nat) (finite : Bool) (accE : Int) (scaled : Bool)   -- LDF, GATH.F: R141
  deriving DecidableEq, Repr

/-- One row of a copy: destination and source places (R178). -/
inductive CopyEnd where
  | mem (va : DWord)
  | spad (team off : Nat)
  deriving DecidableEq, Repr

/-- What the bytes of a copy's rows come from: rows of bytes (R179), blocks through their block table entries
with the offset of the row inside a block (R183), or several sources under XOR (R184). -/
inductive CopySrc where
  | rows (start : CopyEnd) (pitch len : Nat)
  | blocks (entries : List DWord) (pool : DWord) (inner blkb rstr : Nat) (lgrows fmt len : Nat)
  | xor (srcs : List DWord)
  | zeros                                -- ACCZ (R263)
  deriving DecidableEq, Repr

/-- Destination bytes of one 32-byte sector that a copy has still to write. -/
structure CopyChunk where
  off : Nat                            -- destination bytes before it in copy order (R181)
  row : Nat
  col : Nat                            -- its first byte's place in the row
  dst : CopyEnd
  len : Nat
  deriving DecidableEq, Repr

/-- What a copy read at issue, for the reading at a restore (R177, R329): its control block or descriptor, and the
indices of a `BCOPY`'s lanes. -/
inductive CopyBlock where
  | copy (cb : DWord)
  | copyx (cb : DWord)
  | bcopy (desc : DWord) (idx : List Word)
  | accz
  deriving DecidableEq, Repr

structure CopyJob where
  block : CopyBlock
  fn : Nat
  priv : Bool
  unit : Nat                           -- which of the hub's copy engines (R323)
  obj : Option Nat                     -- barrier object
  members : List Nat                   -- the threads on whose flag it counts
  src : CopySrc
  total : Nat                          -- destination bytes
  all : List CopyChunk                 -- every chunk, in copy order
  todo : List CopyChunk                -- what is still to be written, in copy order
  cache : List (Nat × List (Option Byte))   -- source sectors already read, each once; none for a poisoned byte (R179)
  lines : List (Nat × Nat)             -- (team, line) still counted absent for this copy
  deriving DecidableEq, Repr

/-- What an engine got from one access: a fault with its address, or the bytes with the version of their line
and the format fields of the page. -/
structure Answer where
  fault : Option (Cause × DWord)
  bytes : List Byte
  version : BitVec 48
  line : Nat
  fmt : Nat
  finite : Bool
  geo : Nat
  deriving DecidableEq, Repr

/-- The fields of a KV map entry (R227). -/
structure KvEntry where
  btab : DWord
  pool : DWord
  sumb : DWord
  btlen : Nat
  blkb : Nat
  rstr : Nat
  hstr : Nat
  tstr : Nat
  lstr : Nat
  sbstr : Nat
  slstr : Nat
  shstr : Nat
  hdim : Nat
  heads : Nat
  layers : Nat
  lgrows : Nat
  first : Nat           -- the first layer the entry covers
  deriving DecidableEq, Repr

/-- Which maintenance operation a KV job is (R297, R305). -/
inductive KvOp where
  | kvap | kvrq | kvrot | bnds | kvmove | kvtag | topk
  deriving DecidableEq, Repr

/-- A maintenance operation in progress: what it took at issue (R297, R305), and the answers its accesses have
got so far. -/
structure KvJob where
  op : KvOp
  fn : Nat
  priv : Bool
  core : Nat
  seqrec : DWord
  layer : Nat
  head : Nat
  block : Nat
  opaddr : DWord
  oparg : Nat
  firstPos : Nat
  b : Word               -- position, scale or Δ
  tag : Word             -- KVAP: the row tag
  pos : Nat              -- POS and DGEN as read at issue
  dgen : Nat
  kvmap : DWord
  entry : KvEntry
  fmt : Nat              -- pool format and domain
  finite : Bool
  vec : DWord            -- TOPK: vector, output, N, K
  out : DWord
  n : Nat
  k : Nat
  log : List Answer
  deriving DecidableEq, Repr

/-- A bounded attention call in progress: its descriptor (R241), the head of the state record an `ATTNR` read at
issue, and the answers its accesses have got so far. -/
structure AttnJob where
  fn : Nat
  priv : Bool
  core : Nat
  resume : Bool
  nanTrap : Bool
  tol : Word
  qaddr : DWord
  seqrec : DWord
  strec : DWord
  outaddr : DWord
  layer : Nat
  head : Nat
  limit : Nat
  scale : Word
  qfmt : Nat
  qfinite : Bool
  acc : Bool
  scores : DWord
  amask : DWord
  recHead : List Byte
  recBody : Option (List Byte)   -- the rest of the record, where issue could tell its length (R243)
  log : List Answer
  deriving DecidableEq, Repr

/-- A tap in progress (R283, R306). -/
structure TapJob where
  fn : Nat
  priv : Bool
  core : Nat
  gen : Nat
  point : Nat
  record : Option DWord  -- the thread's sequence record at issue, where the region has it (R224)
  row : DWord
  out : Option DWord
  log : List Answer
  deriving DecidableEq, Repr

inductive OpKind where
  /-- A generic load that has not read yet: memory keys of its element and scale byte (R168, R170). -/
  | load (locs : List Nat) (form : LoadForm) (acquire : Option Nat) (coherent : Bool) (va : DWord)
  /-- `LDVS`: reads data and version in one step (R207). -/
  | ldvs (loc size : Nat) (va : DWord)
  /-- `VALID`: the set as it stood at issue (R208). -/
  | valid (set : List VEntry) (stale : Bool)
  /-- `VERR` (R209). -/
  | verr (loc : Nat) (va : DWord)
  /-- Waits for its store-queue entry to be performed. -/
  | queued
  /-- The result is known; the operation only has to complete (R43). -/
  | ready (result : List Word)
  /-- A PCI Express AtomicOp in flight (R214). -/
  | hostAtomic (loc : Nat) (act : Rmw)
  /-- The lanes of a gather or scatter: the members with their destinations and lane addresses, the requests
  still unserved, and the bytes gathered so far, none for poisoned ones (R122). -/
  | lanes (members : List (Nat × List Nat × LoadForm × DWord)) (waiting : List (Nat × Nat)) (got : List (Nat × Nat × Option (List Byte)))
  | copy (job : CopyJob)
  | attn (job : AttnJob)
  | kv (job : KvJob)
  | tap (job : TapJob)
  | matrix (call : Nat)       -- an MMA or MMAS call by its number
  | spoke (ctx : Nat)
  | launch (queue : Nat)      -- the private queue of a LAUNCH (R347)
  deriving DecidableEq, Repr

/-- An operation in flight, counted on its flag (R43). -/
structure Op where
  id : Nat
  ins : Nat                  -- the instruction it comes from
  team : Nat
  thr : Nat
  flag : Nat
  dst : List Nat             -- allocation registers that receive the result
  trap : Option Trap         -- a cause to be held on the flag at completion (R324)
  passed : List Nat          -- threads with a later store that has been performed first (R196)
  seen : List Nat            -- lines whose read transaction the instruction has already made (R110)
  ldvs : Bool                -- an `LDVS`, whatever its kind has become (R208)
  kind : OpKind
  deriving DecidableEq, Repr

/-! ## Hub engines -/

/-- A thread on whose flag an engine call completes. -/
structure Issuer where
  team : Nat
  thr : Nat
  op : Nat
  flag : Nat
  deriving DecidableEq, Repr

/-- A call in a reservation table (R257): its first 32 entries are the table, the join calls behind them wait
for an entry. -/
structure MxCall where
  id : Nat
  hub : Nat
  join : Option (Nat × Nat)    -- hub set and join register of an MMA call
  signers : List Sign          -- of an MMA call
  issuers : List Issuer        -- the signers, or the thread of an MMAS or of the walk
  desc : MxDesc
  fn : Nat
  priv : Bool
  cls : Nat
  passed : Nat                 -- times passed over
  obj : Option Nat             -- barrier object of an MMAS
  nanTrap : Bool
  walk : Bool                  -- a walker context posted it (R274)
  tile : List Nat              -- the codes of its A tile when a walker posted it, row by row
  cols : List (Nat × List Word)     -- B registers read at the grant: column, words
  deriving DecidableEq, Repr

/-- What ended a call before its last pass: a NaN case with its row block, column block and pass (R265), or
poisoned operand data (R359). -/
inductive MxStop where
  | nan (row col step : Nat)
  | poison
  deriving DecidableEq, Repr

/-- The granted call: the buffer it took, none while it waits for one; its next pass; what stopped it; the
status bits it has met (R264). -/
structure MxRun where
  call : MxCall
  buf : Option Nat
  pass : Nat
  stop : Option MxStop
  status : Word
  deriving DecidableEq, Repr

inductive MxPhase where
  | running | held | flushing
  deriving DecidableEq, Repr

/-- A tile buffer in use (R258): its key, its sums row by row, and for elements that met an infinite product
or a NaN case which: 1 for +∞, 2 for −∞, 4 for NaN (R138). -/
structure MxBuf where
  id : Nat
  phase : MxPhase
  fn : Nat
  caddr : DWord
  e : Int
  sums : List Int
  marks : Tab Nat
  teams : List Nat             -- teams that issued into it (R259)
  call : MxCall                -- the call that last added to it
  ends : Bool                  -- the flush completes that call
  stop : Option MxStop         -- what ended that call
  status : Word                -- the status its flush reports
  order : Nat                  -- when it became held, or its flush began
  next : Nat                   -- the sector that the flush sends next
  deriving DecidableEq, Repr

/-- A call whose own flush is over, its flag still waiting for earlier flushes of the same key (R260). -/
structure MxEnd where
  call : MxCall
  causes : List Trap
  counts : Bool
  order : Nat
  deriving DecidableEq, Repr

structure MxEngine where
  table : List MxCall
  running : Option MxRun
  bufs : List MxBuf
  ends : List MxEnd
  deriving DecidableEq, Repr

/-- A Spoke walker context (R270). -/
structure Walker where
  ctx : Nat                  -- 4 * hub + context; from 192 on it holds none and waits for one
  last : Nat                 -- the context it holds or held last (R276)
  team : Nat
  thr : Nat
  op : Nat
  fn : Nat
  priv : Bool
  core : Nat
  obj : Option Nat
  nanTrap : Bool
  regs : List DWord          -- w0-w15
  wpc : Nat
  row0 : DWord
  k0 : DWord
  prog : List Word
  tk : Nat
  vfmt : Nat
  iw : Nat                   -- index and pointer widths in bytes
  pw : Nat
  nnz : Nat
  np : Nat
  val : DWord
  idx : DWord
  ptr : DWord
  tile : List Nat            -- the current buffer's codes, row by row
  buf : Bool                 -- which of the two buffers that is
  busy : List (Nat × Bool)   -- the calls whose passes still read a buffer, each with its buffer (R274)
  posted : List Nat          -- calls posted and not yet completed
  counted : Nat              -- bytes of flushes performed without fault
  causes : List (Nat × Trap) -- causes of posted calls, by the call
  halted : Bool              -- HALTW reached
  stopped : Option (Cause × DWord)   -- a walker fault (R276)
  deriving DecidableEq, Repr

/-- One generation of the tap tables (R282). -/
structure TapGen where
  gen : Nat
  probe : List Byte
  steer : List Byte
  deriving DecidableEq, Repr

/-! ## Queues and grids (R312 to R320) -/

/-- A packet under examination (R317). -/
structure Packet where
  no : Nat                    -- packet number
  bytes : List Byte
  poster : Option (Nat × Bool)     -- launch class and TRAPPED state of the posting thread (R346); none for a host's
  parent : Nat                -- the LAUNCH operation, 0 for a queue
  deps : List (DWord × DWord × Bool)   -- address, value, met
  depsRead : Bool
  met : Option Nat            -- its place in the order in which packets had their dependences met (R319)
  checked : Bool              -- the map has been checked
  map : List Nat              -- logical cores
  deriving DecidableEq, Repr

structure Queue where
  key : Nat
  fn : Nat
  base : DWord
  en : Bool
  log2 : Nat
  tail : DWord
  head : DWord
  err : Bool
  ecode : BitVec 8
  epkt : DWord
  posted : List (Nat × Nat × Bool)   -- packet number, class and TRAPPED state of its poster (R346)
  cur : Option Packet
  reserved : List Nat         -- cores reserved for the packet (R319)
  deriving DecidableEq, Repr

structure Grid where
  fn : Nat
  queue : Nat                 -- key of its queue
  pktNo : Nat
  parent : Nat                -- LAUNCH operation, 0 for none
  priv : Bool                 -- a host or a thread in TRAPPED posted its packet (R224)
  csig : DWord
  cval : DWord
  teams : List Nat
  ended : Bool                -- CSIG has been written, or the grid was halted
  deriving DecidableEq, Repr

/-- The registers of an address space (R336, R348). -/
structure ASpace where
  tvb : DWord
  ptroot : DWord
  ssb : DWord
  sqbase : DWord
  sqlen : Word
  deriving DecidableEq, Repr

/-- A write to a special register whose effect is not yet certain (R337). -/
structure SregPend where
  issued : Nat
  lands : Nat
  reg : Nat
  team : Nat
  thr : Nat
  value : DWord
  deriving DecidableEq, Repr

/-! ## Fabric, host and management (R348 to R357) -/

/-- A write sent to a remote device or host and not yet acknowledged (R202). -/
structure Unacked where
  dst : Nat
  seq : Nat
  team : Nat
  thr : Nat
  deriving DecidableEq, Repr

/-- A snapshot header (R333). -/
structure SnapHeader where
  source : Nat
  cycle : DWord
  cause : Word
  core : Nat
  thr : Nat
  deriving DecidableEq, Repr

/-- What the snapshot registers latch (R332): of the cores their teams and store queues, of the hub engines their calls,
walks and operations, of the shared-cache slices their residency counts and translations, of the memory side its pending
requests, of the link ports what is not acknowledged. DESIGN CHOICE (log entry 63): the manual gives no register lists. -/
structure SnapRegs where
  teams : List Team
  sq : List SqEntry
  pannier : List PannierEntry
  ops : List Op
  engines : Tab MxEngine
  walkers : List Walker
  resid : Tab Nat
  tlb : List TlbEntry
  unacked : List Unacked
  deriving DecidableEq, Repr

structure Snap where
  pending : Option SnapHeader   -- triggered, latching at its cycle
  held : Option (SnapHeader × SnapRegs)
  missed : Nat
  deriving DecidableEq, Repr

structure Mgmt where
  state : Nat                  -- HEALTH STATE (R355): 0 OK, 1 DEGRADED, 2 FAILED
  replace : Bool
  cores : List Nat             -- fenced cores
  slices : List Nat
  hbmStacks : List Nat
  fencing : List DeviceUnit    -- units whose fencing has not reached the end of step 3 (R356)
  hot : Bool                   -- the junction temperature has reached the trip, and is not below it since (R352, R357)
  record : List DeviceUnit     -- the non-volatile fence record (R357)
  clearRecord : Bool
  corrected : List Nat         -- corrected-error counts, by place (R327)
  pcap : Nat                   -- power cap in watts (R351)
  running : FwImage            -- the running image (R353)
  staged : Option (FwImage × List Byte)   -- a staged image with its signature
  rollback : Nat
  attest : Nat                 -- attestation counter (R354)
  link0Up : Bool               -- R349
  link1Up : Bool
  lost : List Nat              -- devices the fabric reports lost (R350)
  failedPorts : List Nat       -- fabric ports down (R205)
  deriving DecidableEq, Repr

/-- What the device sends out: interrupts, answers to reads, answers to commands. -/
inductive Out where
  | irq (fn vector : Nat)
  | alert
  | hostRead (link : Nat) (bytes : Option (List Byte))       -- none: the memory gives no data
  | hostResult (link : Nat) (old : Option (List Byte))       -- of an AtomicOp; none: it is not supported
  | remoteRead (src : Nat) (data : Option (List Byte × BitVec 48))
  | remoteResult (src : Nat) (words : Option (List Word))    -- of an atomic
  | ack (dst seq : Nat)
  | register (fn offset : Nat) (value : Option DWord)        -- a read of BAR 0 (R348); none where no register stands
  | toHost (link loc : Nat)                                  -- a write or an AtomicOp of the device's own (R349)
  | health (word : DWord) (corrected : List Nat) (vendor : Word)
  | snapshot (h : Option (SnapHeader × SnapRegs)) (missed : Nat)
  | attestation (index : Nat) (measure : List Byte) (tapGen : Nat) (health : DWord) (signature : List Byte)
  | refused (cmd : Nat)
  deriving DecidableEq, Repr

/-! ## The whole machine -/

/-- What the next-slot word is to an instruction that names `lit` (R48). -/
inductive Lit where
  | none
  | word (w : Word)
  | poisoned
  deriving DecidableEq, Repr

/-- The issuing group of the instruction being executed, set by `step`. -/
structure Cur where
  team : Nat
  members : List Nat
  lit : Lit
  walker : Nat             -- the walker context, for a walker word
  promo : Nat := 0         -- the classes by which the group was promoted when it was chosen (R28)
  deriving DecidableEq, Repr

/-- A group taken for issue at an instruction whose threads act in one order over the cores of a hub (R24, R97):
the threads that have still to act. -/
structure Turn where
  core : Nat
  slot : Nat
  team : Nat
  members : List Nat
  left : List Nat
  ins : Instr
  lit : Lit
  promo : Nat := 0         -- the group's promotion (R28)
  deriving DecidableEq, Repr

/-- A thread that has trapped while it was enrolled and unsigned in a join register, with the cycle in whose order of
R24 it leaves. -/
structure Leave where
  team : Nat
  thr : Nat
  since : Nat
  deriving DecidableEq, Repr

/-- What reaches the device from outside and has no row of the opcode table. -/
inductive Input where
  | read (fn offset : Nat)                              -- a function reads a register of its BAR 0 (R348, R355)
  | write (fn offset : Nat) (value : DWord)             -- a function writes one (R312)
  | request (kind : Byte) (vendor : Word) (cmd : Byte) (payload : List Byte)   -- a request to the management port (R351)
  | number (n : Nat)                                    -- firmware gives the device its number (R350)
  | cooled                                              -- the junction temperature is below the trip (R357)
  deriving DecidableEq, Repr

/-- A save in progress (R343): its number in issue order, the thread of the `CTXSV`, the keys of its area, and the teams
that it stopped. -/
structure Save where
  id : Nat
  team : Nat
  thr : Nat
  keys : List Nat
  teams : List Nat
  deriving DecidableEq, Repr

/-- What a context holds (R330): its teams by the positions they had in the state, the join registers of their hub set,
and the operations in flight that a context keeps. Every number of an operation or a call in it is below `top`. -/
structure CtxBody where
  top : Nat
  teams : List (Nat × Team)
  joins : List Join
  ops : List Op
  walkers : List Walker
  calls : List MxCall
  deriving DecidableEq, Repr

/-- What has become of a context: its teams stand saved in the state; they have been restored, or a reset has ended
them; its grid was halted, which discarded it (R341). -/
inductive CtxFate where
  | waiting | spent | discarded
  deriving DecidableEq, Repr

/-- A context that `CTXSV` has saved: the bytes of its area, the teams it holds, and what the bytes say. -/
structure Context where
  area : List Byte
  teams : List Nat
  fate : CtxFate
  body : CtxBody
  deriving DecidableEq, Repr

/-- Which agent moves. -/
inductive Move where
  | issue (core slot : Nat)    -- an issue slot of a core issues (R27)
  | walker (ctx : Nat)         -- a walker context executes its next word (R277)
  | engine (op : Nat)          -- an engine makes one access of an operation
  | matrix (hub : Nat)         -- a matrix engine runs one pass of its call (R254)
  | flush (hub buf : Nat)      -- a matrix engine sends one sector of a flush (R260)
  | event (i : Instr)          -- a step of the device, or an input from outside
  | input (i : Input)          -- an input that has no row of the table
  | tick (n : Nat)             -- n cycles pass
  deriving DecidableEq, Repr

structure State where
  now : Nat                    -- core clock cycles since device reset (R47)
  fresh : Nat                  -- the model's counter of free values drawn
  nextId : Nat                 -- the model's counter for operations and other numbered things
  agenda : List Move           -- the model's: which agent moves next, and what arrives from outside
  cur : Cur
  issued : List (Nat × Nat)    -- the issue slots (core, slot) that have issued in this cycle (R27)
  walked : List Nat            -- the walker contexts that have run a word in this cycle (R277)
  turns : List Turn            -- the groups of this cycle whose threads act in order (R24, R97)
  leaving : List Leave         -- threads that have trapped and have still to leave their join registers (R24)
  binsDone : List Nat          -- cores whose step 3 of R14 is over in this cycle
  reforms : List (Nat × Nat)   -- threads (team, index) whose REFORM issued in this cycle (R14, step 1)
  teams : List Team
  bins : List Bin
  hubsets : List HubSet
  grids : List Grid
  mem : Tab Byte               -- every byte of memory by key: own device, other devices, host
  vers : Tab (BitVec 48)       -- line versions (R201)
  resid : Tab Nat              -- residency counts and 1: 0 uncounted, 1 a count that has reached 0 (R110)
  poison : List Nat            -- poisoned bytes of memory, by key (R327, R167)
  tlb : List TlbEntry
  walkCache : List WalkEntry   -- shared by the walkers of every slice (R118)
  l1 : List L1Sector
  sq : List SqEntry            -- the cores' store queues, each oldest first
  pannier : List PannierEntry  -- oldest first
  ops : List Op                -- operations in flight, in issue order
  engines : Tab MxEngine       -- by hub
  walkers : List Walker
  tapGens : List TapGen        -- newest first, at most two (R282)
  tapGen : Nat                 -- TGEN (R307)
  tapWait : List (Nat × Nat × List Byte × List Byte)   -- TAPLDs waiting to install: team, thread, tables
  queues : List Queue
  spaces : List ASpace         -- one for each of the 17 functions
  sregs : List SregPend
  devid : Word                 -- DEVID (R336)
  snapmask : Word
  snap : Snap
  saves : List Save            -- saves in progress, in issue order (R343)
  contexts : List Context      -- contexts that CTXSV has saved, newest first (R343)
  unacked : List Unacked
  txSeq : Tab Nat              -- next sequence number to each destination (R202)
  rxSeq : Tab Nat              -- next sequence number expected from each source
  mgmt : Mgmt
  out : List Out               -- newest first
  deriving DecidableEq, Repr

/-- The matrix engine of a hub with nothing in it. -/
def MxEngine.idle : MxEngine := { table := [], running := none, bufs := [], ends := [] }

/-- The registers of an address space after reset (R336). -/
def ASpace.reset : ASpace := { tvb := 0, ptroot := 0, ssb := 0, sqbase := 0, sqlen := 0 }

/-- The machine right after reset: nothing is placed, no queue is set up, memory lists nothing, every
version is 0 (R201), and the special registers hold the reset values of R336. -/
def State.reset : State where
  now := 0
  fresh := 0
  nextId := 1
  agenda := []
  cur := { team := 0, members := [], lit := .none, walker := 0 }
  issued := []
  walked := []
  turns := []
  leaving := []
  binsDone := []
  reforms := []
  teams := []
  bins := []
  hubsets := []
  grids := []
  mem := []
  vers := []
  resid := []
  poison := []
  tlb := []
  walkCache := []
  l1 := []
  sq := []
  pannier := []
  ops := []
  engines := []
  walkers := []
  tapGens := []
  tapGen := 0
  tapWait := []
  queues := []
  spaces := List.replicate 17 ASpace.reset
  sregs := []
  devid := 0
  snapmask := 0
  snap := { pending := none, held := none, missed := 0 }
  saves := []
  contexts := []
  unacked := []
  txSeq := []
  rxSeq := []
  mgmt := {
    state := 0, replace := false, cores := [], slices := [], hbmStacks := [], fencing := [], hot := false, record := [],
    clearRecord := false, corrected := [0, 0, 0, 0, 0], pcap := 2600
    running := { version := 0, body := [] }, staged := none,
    rollback := 0, attest := 0, link0Up := true, link1Up := true,
    lost := [], failedPorts := [] }
  out := []

end Sys2Proof.Machine
end

