-- ==== Sys2Proof/Machine/Mem.lean ====
section
/-!
DEFINITION. Sparse tables in canonical form, and the memory of the device by key: its bytes, the versions of
its lines (R201), residency counts (R110), poison (R327) and the L1 sectors that follow a write (R109). A key
is the physical address for the device's own memory, with the domain number above bit 51 for another device
and 257 there for the host (R113).
-/

namespace Sys2Proof

namespace Tab

/-- The value at a key, `d` where the table lists none. -/
def get {α : Type} (t : Tab α) (k : Nat) (d : α) : α :=
  match t with
  | [] => d
  | (k', v) :: r => if k = k' then v else if k < k' then d else get r k d

/-- The table with key k removed. -/
def del {α : Type} (t : Tab α) (k : Nat) : Tab α :=
  match t with
  | [] => []
  | (k', v) :: r => if k = k' then r else if k < k' then (k', v) :: r else (k', v) :: del r k

/-- The table with key k listed with v. -/
def set {α : Type} (t : Tab α) (k : Nat) (v : α) : Tab α :=
  match t with
  | [] => [(k, v)]
  | (k', v') :: r =>
    if k = k' then (k, v) :: r else if k < k' then (k, v) :: (k', v') :: r else (k', v') :: set r k v

/-- The table that reads v at k, where an unlisted key reads d: storing d removes the entry. -/
def put {α : Type} [DecidableEq α] (t : Tab α) (k : Nat) (v d : α) : Tab α :=
  if v = d then t.del k else t.set k v

/-- Every key of the table is above b, keys rise strictly, and no entry equals the default. -/
def okAbove {α : Type} [DecidableEq α] (d : α) (b : Option Nat) (t : Tab α) : Bool :=
  match t with
  | [] => true
  | (k, v) :: r => (match b with | none => true | some b => decide (b < k)) && decide (v ≠ d) && okAbove d (some k) r

/-- The canonical form: keys rise strictly and no entry equals what an unlisted key reads as. -/
def wf {α : Type} [DecidableEq α] (d : α) (t : Tab α) : Bool := okAbove d none t

end Tab

namespace Machine

/-! ## Bytes -/

/-- What a byte that nothing has written reads as: 0 (DESIGN CHOICE, log entry 1). -/
def emptyByte : Byte := 0

/-- The canonical form of a memory. -/
def Memory.wf (m : Tab Byte) : Bool := Tab.wf emptyByte m

/-- One byte of memory. -/
def memByte (m : Tab Byte) (k : Nat) : Byte := Tab.get m k emptyByte

/-- n bytes from a key. -/
def memBytes (m : Tab Byte) (k : Nat) : Nat → List Byte
  | 0 => []
  | n + 1 => memByte m k :: memBytes m (k + 1) n

/-- A little-endian number of n bytes (R1). -/
def memNat (m : Tab Byte) (k n : Nat) : Nat := leNat (memBytes m k n)

/-- Memory with bytes stored from a key. -/
def memPut (m : Tab Byte) (k : Nat) : List Byte → Tab Byte
  | [] => m
  | b :: bs => memPut (Tab.put m k b emptyByte) (k + 1) bs

/-! ## Keys (R113) -/

def nodeSpan : Nat := 2 ^ 52

/-- The key of physical address `pa` at a node, `own` being the device's own domain number. -/
def keyOf (own node pa : Nat) : Nat :=
  if node = own then pa else if node = 255 then 257 * nodeSpan + pa else (node + 1) * nodeSpan + pa

/-- The key lies in the device's own memory. -/
def keyOwn (k : Nat) : Bool := k < nodeSpan
/-- The key lies in host memory. -/
def keyHost (k : Nat) : Bool := 257 * nodeSpan ≤ k
/-- The remote device of a key that is neither own nor host. -/
def keyNode (k : Nat) : Nat := k / nodeSpan - 1

def lineOf (k : Nat) : Nat := k / 128
def sectorOf (k : Nat) : Nat := k / 32

/-- Bits [hi:lo] of a number. -/
def bits (x hi lo : Nat) : Nat := x / 2 ^ lo % 2 ^ (hi - lo + 1)

/-- The home slice of a physical address before fencing (R106). -/
def homeHash (pa : Nat) : Nat :=
  bits pa 13 7 ^^^ bits pa 20 14 ^^^ bits pa 27 21 ^^^ bits pa 34 28 ^^^ bits pa 41 35 ^^^ bits pa 47 42

/-- The home slice with fenced slices replaced (R107); none when a whole quartet is fenced. -/
def homeSlice (fenced : List Nat) (pa : Nat) : Option Nat :=
  let h := homeHash pa
  [h, h ^^^ 1, h ^^^ 2, h ^^^ 3].find? (fun x => !fenced.contains x)

/-- The stack of near memory that holds a key of the device's own memory (R112). -/
def stackOf (k : Nat) : Option Nat := if k < 0x008000000000 then some (k / 0x001000000000) else none

/-! ## The memory of the device -/

/-- The device's own domain number (R113, R336). -/
def State.ownNode (s : State) : Nat := s.devid.toNat % 256

def State.byte (s : State) (k : Nat) : Byte := memByte s.mem k
def State.bytesAt (s : State) (k n : Nat) : List Byte := memBytes s.mem k n
def State.natAt (s : State) (k n : Nat) : Nat := memNat s.mem k n
def State.version (s : State) (line : Nat) : BitVec 48 := Tab.get s.vers line 0

/-- A byte range holds a poisoned byte (R327). -/
def State.poisoned (s : State) (k n : Nat) : Bool :=
  s.poison.any (fun x => decide (k ≤ x) && decide (x < k + n))

/-- A byte range lies in a fenced stack (R112). -/
def State.fencedMem (s : State) (k : Nat) : Bool :=
  match stackOf k with
  | some st => s.mgmt.hbmStacks.contains st
  | none => false

/-- The lines of a byte range. -/
def linesOf (k n : Nat) : List Nat := if n = 0 then [] else List.range' (lineOf k) (lineOf (k + n - 1) - lineOf k + 1)

/-- Bytes written over a list of bytes that starts at key k. -/
def overlay (k : Nat) (old : List Byte) (at' : Nat) (new : List Byte) : List Byte :=
  old.mapIdx (fun i b => if at' ≤ k + i then new.getD (k + i - at') b else b)

/-- A thread that waits on a line notes when one of its bytes changed (R80). -/
def Thread.noteWrite (now line : Nat) (t : Thread) : Thread :=
  match t.why with
  | .waitf dl l none => if l = line then { t with why := .waitf dl l (some now) } else t
  | _ => t

def State.noteChange (s : State) (line : Nat) : State :=
  { s with teams := s.teams.map (fun tm => { tm with threads := tm.threads.map (Thread.noteWrite s.now line) }) }

/-- The version of a line advanced by one write event (R201); host lines carry none (R113). -/
def State.bumpVersion (s : State) (line : Nat) : State :=
  if keyHost (line * 128) then s else { s with vers := Tab.put s.vers line (s.version line + 1) 0 }

/-- Bytes stored, without a step of the versions: the waiters of a line with a changed byte note it (R80). -/
def State.storeBytes (core : Option Nat) (s : State) (w : Nat × List Byte) : State :=
  let k := w.1
  let bs := w.2
  let n := bs.length
  let changed := (linesOf k n).filter (fun l => (List.range n).any (fun i => lineOf (k + i) = l && s.byte (k + i) != bs.getD i 0))
  let s := changed.foldl State.noteChange s
  { s with
    mem := memPut s.mem k bs
    poison := s.poison.filter (fun x => !(decide (k ≤ x) && decide (x < k + n)))
    l1 := s.l1.map (fun e => if some e.core = core then { e with bytes := overlay (e.sector * 32) e.bytes k bs } else e) }

/-- One write event that a home slice applies (R106, R201): the bytes, one version step for each line it
touches, the residency counts of R110 cleared, the poison of the bytes it writes gone (R167), and the storing
core's L1 copies updated (R109). -/
def State.writeParts (s : State) (core : Option Nat) (ws : List (Nat × List Byte)) : State :=
  let lines := (ws.flatMap (fun w => linesOf w.1 w.2.length)).eraseDups
  let s := ws.foldl (State.storeBytes core) s
  let s := lines.foldl State.bumpVersion s
  { s with resid := lines.foldl (fun t l => Tab.del t l) s.resid }

/-- A write event of consecutive bytes. -/
def State.writeMem (s : State) (core : Option Nat) (k : Nat) (bs : List Byte) : State := s.writeParts core [(k, bs)]

/-- The link on which the device sends its own requests to a host (R349). -/
def State.hostLink (s : State) : Option Nat := if s.mgmt.link0Up then some 0 else if s.mgmt.link1Up then some 1 else none

/-- A place at a host to which no link goes. -/
def State.hostAway (s : State) (k : Nat) : Bool := keyHost k && s.hostLink.isNone

/-- A request of the device's own goes to a host on the link that is used (R349). -/
def State.sendHost (s : State) (k : Nat) : State :=
  match s.hostLink with
  | some link => { s with out := .toHost link k :: s.out }
  | none => s

/-- What the device reads at some keys it asks of a host where they lie there: one request for each line. -/
def State.askHost (s : State) (keys : List Nat) : State :=
  ((keys.filter keyHost).map (fun k => lineOf k * 128)).eraseDups.foldl State.sendHost s

/-- A read transaction at the home slice (R110): a counted line's count falls by one, down to 0. A line of a host is asked
for on a link. -/
def State.readTransaction (s : State) (line : Nat) : State :=
  let s := if keyHost (line * 128) then s.sendHost (line * 128) else s
  let c := Tab.get s.resid line 0
  { s with resid := if 2 ≤ c then Tab.put s.resid line (c - 1) 0 else s.resid }

/-- The core drops its L1 sectors (R109). -/
def State.dropL1 (s : State) (core : Nat) : State :=
  { s with l1 := s.l1.filter (fun e => e.core ≠ core) }

/-- A free choice of the device: one number for each draw of a step (log entry 7). -/
def State.draw (s : State) (lane what : Nat) : Nat := Config.free (s.fresh * 65536 + lane * 32 + what)

end Machine
end Sys2Proof
end

