-- ==== Sys2Proof/Machine/Walk.lean ====
section
/-!
DEFINITION. Translation of generic addresses (R102, R111 to R118). A walk reads the tables in the device's own
memory; an access may also use a translation that the TLB of its core still holds (R118).
-/

namespace Sys2Proof.Machine

/-- The kinds of access, by the permission they need (R116). -/
inductive Access where
  | load | store | atomic | fetch
  deriving DecidableEq, Repr

/-- A translated page: what its leaf says. -/
structure Leaf where
  base : Nat        -- physical address of the page or group
  size : Nat        -- its size in bytes
  node : Nat
  rd : Bool
  wr : Bool
  ex : Bool
  sup : Bool
  fmt : Nat
  dom : Bool        -- finite domain
  geo : Nat
  e : Int
  deriving DecidableEq, Repr

/-- An address is a sign-extended 52-bit address (R102). -/
def canonical (va : DWord) : Bool :=
  let t := va.toNat / 2 ^ 51
  t = 0 || t = 2 ^ 13 - 1

/-- A byte range lies inside near memory or inside deep memory (R111). The tier is 0 for near memory. -/
def inRange (base size tier : Nat) : Bool :=
  if tier = 0 then decide (base + size ≤ 0x008000000000)
  else decide (0x020000000000 ≤ base) && decide (base + size ≤ 0x040000000000)

/-- What a leaf entry says at a level (1 or 2), none when it is malformed (R115 to R117). -/
def leafOf (pte : BitVec 128) (level : Nat) : Option Leaf :=
  let w := pte.toNat
  let contig := bits w 6 6 = 1
  let size := if level = 1 then (if contig then 0x200000 else 0x10000)
    else if contig then 0x1000000000 else 0x10000000
  let base := bits w 51 16 * 65536
  let node := bits w 15 8
  let tier := bits w 7 7
  if bits w 0 0 = 1 ∧ bits w 5 5 = 1 ∧ bits w 127 80 = 0 ∧ bits w 63 52 = 0 ∧ bits w 68 64 ≤ 26 ∧
      (bits w 79 72 = 0 ∨ bits w 68 64 = 25) ∧ base % size = 0 ∧ (node ≤ 143 ∨ node = 255) ∧
      (node = 255 ∨ inRange base size tier) then
    some {
      base := base, size := size, node := node
      rd := bits w 1 1 = 1, wr := bits w 2 2 = 1, ex := bits w 3 3 = 1, sup := bits w 4 4 = 1
      fmt := bits w 68 64, dom := bits w 69 69 = 1, geo := bits w 71 70
      e := if bits w 79 79 = 1 then (bits w 79 72 : Int) - 256 else (bits w 79 72 : Int) }
  else none

/-- The table a non-leaf entry names, none when it is malformed (R111, R116). -/
def tableOf (pte : BitVec 128) : Option Nat :=
  let w := pte.toNat
  let base := bits w 51 16 * 65536
  if bits w 0 0 = 1 ∧ bits w 5 5 = 0 ∧ bits w 4 1 = 0 ∧ bits w 15 6 = 0 ∧ bits w 63 52 = 0 ∧ bits w 127 64 = 0 ∧
      (inRange base 65536 0 ∨ inRange base 65536 1) then some base
  else none

/-- What an access meets: a translation, or a cause. -/
abbrev Walked (α : Type) := Except Cause α

/-- A page table entry read at its home slice: a poisoned entry, or one in a fenced stack, gives MCHK (R112,
R327). -/
def State.readPte (s : State) (pa : Nat) : Walked (BitVec 128) :=
  if s.poisoned pa 16 || s.fencedMem pa then .error .mchk else .ok (BitVec.ofNat 128 (s.natAt pa 16))

/-- The leaf entry of a contiguous group that translates: any one of the group's leaf entries (R117), chosen
freely, an entry that is none being cached nowhere (R118). `group` is the group's number of entries. -/
def State.contigPte (s : State) (table index level : Nat) (pte : BitVec 128) (group pick : Nat) : BitVec 128 :=
  if bits pte.toNat 6 6 = 1 ∧ bits pte.toNat 5 5 = 1 then
    match s.readPte (table + (index / group * group + pick % group) * 16) with
    | .ok other => if bits other.toNat 6 6 = 1 ∧ (leafOf other level).isSome then other else pte
    | .error _ => pte
  else pte

/-- The registers of a function's address space (R336, R348). -/
def State.space (s : State) (fn : Nat) : ASpace := s.spaces.getD fn ASpace.reset

/-- A non-leaf entry as a walk uses it: the one that the walk caches hold or the one in memory, as the device
chooses (R118). -/
def State.nonLeaf (s : State) (fn level index pick : Nat) (fresh : Walked (BitVec 128)) : Walked (BitVec 128) :=
  match s.walkCache.find? (fun e => e.fn = fn && e.level = level && e.index = index) with
  | some e => if pick % 2 = 0 then .ok e.pte else fresh
  | none => fresh

/-- The root entry of an address. -/
def State.rootPte (s : State) (fn : Nat) (va : DWord) (pick : Nat) : Walked (BitVec 128) :=
  s.nonLeaf fn 3 (bits va.toNat 51 40) (pick / 256) (s.readPte ((s.space fn).ptroot.toNat + bits va.toNat 51 40 * 16))

/-- The level-2 entry of an address in a table. -/
def State.midPte (s : State) (fn table : Nat) (va : DWord) (pick : Nat) : Walked (BitVec 128) :=
  s.nonLeaf fn 2 (bits va.toNat 51 28) (pick / 512) (s.readPte (table + bits va.toNat 39 28 * 16))

/-- The walk of R114 and R116 in a function's address space: the leaf entry and its level. -/
def State.walk (s : State) (fn : Nat) (va : DWord) (pick : Nat) : Walked (BitVec 128 × Nat) := do
  let a := va.toNat
  if !canonical va then .error .page
  let e0 ← s.rootPte fn va pick
  match tableOf e0 with
  | none => .error .page
  | some t2 =>
    let e2 ← s.midPte fn t2 va pick
    if bits e2.toNat 5 5 = 1 then
      let e2 := s.contigPte t2 (bits a 39 28) 2 e2 256 pick
      match leafOf e2 2 with
      | some _ => .ok (e2, 2)
      | none => .error .page
    else
      match tableOf e2 with
      | none => .error .page
      | some t1 =>
        let e1 ← s.readPte (t1 + bits a 27 16 * 16)
        let e1 := s.contigPte t1 (bits a 27 16) 1 e1 32 pick
        match leafOf e1 1 with
        | some _ => .ok (e1, 1)
        | none => .error .page

/-- The valid non-leaf entries that such a walk reads. -/
def State.walkPath (s : State) (fn : Nat) (va : DWord) (pick : Nat) : List WalkEntry :=
  if !canonical va then []
  else match s.rootPte fn va pick with
  | .error _ => []
  | .ok e0 => match tableOf e0 with
    | none => []
    | some t2 => ({ fn := fn, level := 3, index := bits va.toNat 51 40, pte := e0 } : WalkEntry) ::
      (match s.midPte fn t2 va pick with
       | .error _ => []
       | .ok e2 => match tableOf e2 with
         | none => []
         | some _ => [({ fn := fn, level := 2, index := bits va.toNat 51 28, pte := e2 } : WalkEntry)])

/-- Who accesses: the core whose TLB is used, the address space, whether with privilege, and a number that
tells this access's free choices from others of the same step. -/
structure Accessor where
  core : Nat
  fn : Nat
  priv : Bool
  lane : Nat
  deriving DecidableEq, Repr

/-- A translation that a TLB holds for a page. -/
def State.tlbLeaf (s : State) (place : TlbPlace) (fn page : Nat) : Option (Walked Leaf) :=
  (s.tlb.find? (fun e => e.place = place && e.fn = fn && e.page = page)).map (fun e =>
    match leafOf e.pte e.level with
    | some l => .ok l
    | none => .error .page)

/-- The leaf that translates an address: the one that its core's TLB or its hub's holds, or the walk's (R118), as the
device chooses. -/
def State.leafFor (s : State) (who : Accessor) (va : DWord) : Walked Leaf :=
  if !canonical va then .error .page
  else
    let page := va.toNat % 2 ^ 52 / 65536
    let walked : Walked Leaf := do
      let (pte, level) ← s.walk who.fn va (s.draw who.lane 0)
      match leafOf pte level with
      | some l => .ok l
      | none => .error .page
    match s.tlbLeaf (.core who.core) who.fn page, s.tlbLeaf (.hub (who.core / 4)) who.fn page with
    | none, none => walked
    | near, far =>
      let pick := s.draw who.lane 1 % 3
      if pick = 0 then near.getD walked else if pick = 1 then far.getD walked else walked

/-- The permissions of R116, with `SUP` (R358). -/
def Leaf.permits (l : Leaf) (kind : Access) (priv : Bool) : Bool :=
  (match kind with
   | .load => l.rd
   | .store => l.wr
   | .atomic => l.rd && l.wr
   | .fetch => l.ex) && (priv || !l.sup)

/-- The key of an address in a translated page. -/
def State.keyIn (s : State) (l : Leaf) (va : DWord) : Nat :=
  keyOf s.ownNode l.node (l.base + va.toNat % l.size)

/-- Bytes 0-7 and 128-255 of a sequence record are written by privileged code only (R224): some byte of the
range is one of them. -/
def State.seqProtected (s : State) (fn : Nat) (va : DWord) (len : Nat) : Bool :=
  let base := (s.space fn).sqbase.toNat
  let size := (s.space fn).sqlen.toNat
  (List.range len).any (fun i =>
    let a := va.toNat + i
    let o := (a - base) % 512
    decide (base ≤ a) && decide (a < base + size) && (decide (o < 8) || (decide (128 ≤ o) && decide (o < 256))))

/-- Memory that no access reaches: a fenced stack (R112), or a device reported lost (R240). -/
def State.unreachable (s : State) (k : Nat) : Bool :=
  s.fencedMem k || (!keyOwn k && !keyHost k && s.mgmt.lost.contains (keyNode k))

/-- The page of an address with the permissions of R116. -/
def State.pageOf (s : State) (who : Accessor) (kind : Access) (va : DWord) : Walked Leaf := do
  let l ← s.leafFor who va
  if !l.permits kind who.priv then .error .prot
  .ok l

/-- Translation with its checks, for `len` bytes at `va` inside one page (R102, R116, R224): the memory key
and the page's leaf. Memory of a fenced stack (R112) and a device reported lost (R240) give MCHK. `fused` is set
for the one user write that R225 permits. -/
def State.translateFor (s : State) (who : Accessor) (kind : Access) (va : DWord) (len : Nat) (fused : Bool) :
    Walked (Nat × Leaf) := do
  let l ← s.pageOf who kind va
  if (kind = .store || kind = .atomic) && !who.priv && !fused && s.seqProtected who.fn va len then .error .prot
  let k := s.keyIn l va
  if s.unreachable k then .error .mchk
  .ok (k, l)

/-- The translation of every access but a fused advance. -/
def State.translate (s : State) (who : Accessor) (kind : Access) (va : DWord) (len : Nat) : Walked (Nat × Leaf) :=
  s.translateFor who kind va len false

/-- Bytes of n from an address lie at a host to which no link goes. -/
def State.placesAway (s : State) (who : Accessor) (kind : Access) (va : DWord) (n : Nat) : Bool :=
  s.hostLink.isNone && (List.range n).any (fun i => match s.translate who kind (va + BitVec.ofNat 64 i) 1 with
    | .ok (k, _) => keyHost k
    | .error _ => false)

end Sys2Proof.Machine
end

