-- ==== Sys2Proof/Machine/Ops.lean ====
section
/-!
DEFINITION. The named operations over threads, groups, registers, barrier objects and join registers, and
taking an exception and returning from one (R322 to R325). A family's meaning is written over these.
-/

namespace Sys2Proof.Machine

/-! ## Teams and threads -/

def State.thread? (s : State) (k j : Nat) : Option Thread := (s.teams[k]?).bind (fun t => t.threads[j]?)

def Team.modThread (t : Team) (j : Nat) (f : Thread → Thread) : Team := { t with threads := t.threads.modify j f }

def State.modTeam (s : State) (k : Nat) (f : Team → Team) : State := { s with teams := s.teams.modify k f }

def State.modThread (s : State) (k j : Nat) (f : Thread → Thread) : State := s.modTeam k (fun t => t.modThread j f)

/-- Threads that a group can run (R9). -/
def Thread.runnable (t : Thread) : Bool := t.st = .active || t.st = .trapped

/-- Home lane (R8) and home block (R8). -/
def laneOf (j : Nat) : Nat := j % 32
def blockOf (j : Nat) : Nat := j / 32

/-- The hub and the rank of a physical core. -/
def hubOf (core : Nat) : Nat := core / 4
def rankOf (core : Nat) : Nat := core % 4

/-- The logical number of a physical core: the unfenced cores counted in hub and rank order (R356). -/
def State.logicalCore (s : State) (core : Nat) : Nat :=
  ((List.range core).filter (fun c => !s.mgmt.cores.contains c)).length

/-- How many cores are unfenced. -/
def State.coreCount (s : State) : Nat := s.logicalCore 192

/-- The physical core of a logical number (R356). -/
def State.physCore (s : State) (n : Nat) : Option Nat :=
  ((List.range 192).filter (fun c => !s.mgmt.cores.contains c))[n]?

def State.send (s : State) (o : Out) : State := { s with out := o :: s.out }

/-! ## Results becoming visible (R39, R40) -/

/-- One effect becomes visible. Writing a register clears its poison (R327). -/
def Landing.apply (t : Thread) : Landing → Thread
  | .reg n v => { t with regs := t.regs.set n v, poisonRegs := t.poisonRegs.filter (· ≠ n) }
  | .win b => { t with win := b }
  | .part p => { t with part := p }
  | .stat b => { t with fpstat := t.fpstat ||| b }

def Pend.apply (t : Thread) (p : Pend) : Thread := p.writes.foldl Landing.apply t

/-- The thread with every result that has landed by `now`. -/
def Thread.settle (now : Nat) (t : Thread) : Thread :=
  { (t.pend.filter (fun p => p.lands ≤ now)).foldl Pend.apply t with
    pend := t.pend.filter (fun p => !decide (p.lands ≤ now)) }

/-- The thread once every outstanding result has landed. -/
def Thread.final (t : Thread) : Thread := { t.pend.foldl Pend.apply t with pend := [] }

/-- The same place is written. -/
def Landing.same : Landing → Landing → Bool
  | .reg n _, .reg m _ => n = m
  | .win _, .win _ => true
  | .part _, .part _ => true
  | _, _ => false

/-- Results in landing order, an equal one after those that stand before it. -/
def insertPend (p : Pend) : List Pend → List Pend
  | [] => [p]
  | q :: qs => if p.lands < q.lands then p :: q :: qs else q :: insertPend p qs

/-- The cycle an instruction issued at `now` with latency L lands in: any of the L cycles after its issue
(R39), and not before an older result of the same place that is due earlier, so that the later value remains
(R40). -/
def landsAt (now lat pick : Nat) (ws : List Landing) (pend : List Pend) : Nat :=
  pend.foldl (fun m p =>
    if p.due < now + lat && p.writes.any (fun w => ws.any w.same) then max m p.lands else m)
    (now + 1 + pick % lat)

/-- The thread with the results of an instruction issued at `now` outstanding. -/
def Thread.addPend (now lat pick order : Nat) (ws : List Landing) (t : Thread) : Thread :=
  if ws.isEmpty then t
  else { t with pend := insertPend { order := order, due := now + lat, lands := landsAt now lat pick ws t.pend, writes := ws } t.pend }

/-! ## Program counters (R31 to R33) -/

def bundleOf (pc : DWord) : DWord := pc &&& ~~~15#64
def slotNo (pc : DWord) : Nat := (pc.toNat / 4) % 4
/-- Slot s of a bundle is marked as data (R34). -/
def isData (sword : Word) (slot : Nat) : Bool := sword.getLsbD (2 + slot)
/-- The next slot to run after the one at pc (R32): a later slot of the bundle that is not data, or slot 1 of
the next bundle. -/
def nextPc (sword : Word) (pc : DWord) : DWord :=
  if slotNo pc < 2 && !isData sword 2 then bundleOf pc + 8
  else if slotNo pc < 3 && !isData sword 3 then bundleOf pc + 12
  else bundleOf pc + 20
/-- The slot a target names, slot 1 for the bundle address itself (R32). -/
def enterPc (target : DWord) : DWord := if slotNo target = 0 then bundleOf target + 4 else target

/-- The thread continues at pc. Inside the bundle it keeps the S-word it entered with; elsewhere it enters
anew (R34, R37). -/
def Thread.runTo (pc : DWord) (t : Thread) : Thread :=
  if bundleOf pc = bundleOf t.pc then { t with pc := pc }
  else { t with pc := pc, sword := none, waited := false }

/-- The thread enters a bundle anew at a target, as a taken branch, a trap and a trap return do. -/
def Thread.jumpTo (pc : DWord) (t : Thread) : Thread := { t with pc := pc, sword := none, waited := false }

/-- The thread continues at the next slot. -/
def Thread.advance (t : Thread) : Thread := t.runTo (nextPc (t.sword.getD 0) t.pc)

/-! ## Groups (R12, R13) -/

/-- A list with x inserted before the first element of greater key. -/
def insertBy (key : Nat → Nat) (x : Nat) : List Nat → List Nat
  | [] => [x]
  | y :: ys => if key x < key y then x :: y :: ys else y :: insertBy key x ys

def sortBy (key : Nat → Nat) (l : List Nat) : List Nat := l.foldr (insertBy key) []

/-- A new group, its members in lane order; it is ready from the next cycle. -/
def mkGroup (now : Nat) (members : List Nat) : Group :=
  { members := sortBy laneOf members, readyAt := now + 1, passed := 0, boost := 0, born := none, since := none }

/-- A thread put into the first of some member lists in which its home lane is free. -/
def placeLane (j : Nat) : List (List Nat) → List (List Nat)
  | [] => [[j]]
  | g :: gs => if g.any (fun i => laneOf i = laneOf j) then g :: placeLane j gs else (g ++ [j]) :: gs

/-- Threads with one next program counter as groups of distinct home lanes: for each lane the lowest index
joins the first group, the next lowest the second (R12). -/
def splitLanes (js : List Nat) : List (List Nat) := (sortBy id js).foldl (fun gs j => placeLane j gs) []

/-- The distinct program counters of some threads, lowest first. -/
def distinctPcs (t : Team) (js : List Nat) : List Nat :=
  sortBy id (js.filterMap (fun j => (t.threads[j]?).map (fun th => th.pc.toNat))).eraseDups

/-- The threads among js that stand at a program counter. -/
def atPc (t : Team) (js : List Nat) (pc : Nat) : List Nat :=
  js.filter (fun j => match t.threads[j]? with | some th => th.pc.toNat = pc | none => false)

/-- Threads released in one cycle as groups (R12); one in TRAPPED is a group of its own (R10). -/
def groupUp (now : Nat) (t : Team) (js : List Nat) : List Group :=
  let st (j : Nat) : TState := match t.threads[j]? with | some th => th.st | none => .exited
  let act := js.filter (fun j => st j = .active)
  let trp := js.filter (fun j => st j = .trapped)
  ((distinctPcs t act).flatMap (fun pc => (splitLanes (atPc t act pc)).map (mkGroup now))) ++
    trp.map (fun j => mkGroup now [j])

/-- Threads leave their groups (R13). -/
def Team.leave (js : List Nat) (t : Team) : Team :=
  let gs := t.groups.map (fun g => { g with members := g.members.filter (fun j => !js.contains j) })
  { t with groups := gs.filter (fun g => !g.members.isEmpty) }

/-- The pieces of a group after it has issued: one for each program counter its members now stand at, each
with the members it held before; a member that no longer runs belongs to none (R13, R66). -/
def pieces (now : Nat) (t : Team) (members : List Nat) : List Group :=
  let st (j : Nat) : TState := match t.threads[j]? with | some th => th.st | none => .exited
  let act := members.filter (fun j => st j = .active)
  let trp := members.filter (fun j => st j = .trapped)
  ((distinctPcs t act).map (fun pc => mkGroup now (atPc t act pc))) ++ trp.map (fun j => mkGroup now [j])

/-- The members of a group whose threads have acted one by one (R24, R97), a group of one each unless they parked,
trapped or were released, are the pieces of that group. -/
def Team.mergeTurn (now : Nat) (members : List Nat) (t : Team) : Team :=
  let gs := t.groups.filter (fun g => !(decide (g.born = none) && members.any (fun j => decide (g.members = [j]))))
  let rest := members.filter (fun j => !gs.any (fun g => g.members.contains j))
  { t with groups := gs ++ pieces now t rest }

/-- The issuing group replaced by its pieces. -/
def Team.regroup (now : Nat) (members : List Nat) (t : Team) : Team :=
  { t with groups := t.groups.filter (fun g => g.members ≠ members) ++ pieces now t members }

/-- Threads that parked or slept leave that state together, with those of their team that already left it in
this cycle (R10, R12). -/
def Team.releaseAt (now : Nat) (js : List Nat) (t : Team) : Team :=
  let t := js.foldl (fun t j => t.modThread j (fun th => { th with st := th.left, left := .active, why := .none })) t
  let same := t.groups.filter (fun g => g.born = some now)
  let rest := t.groups.filter (fun g => !decide (g.born = some now))
  { t with groups := rest ++ (groupUp now t (same.flatMap Group.members ++ js)).map (fun g => { g with born := some now }) }

def State.release (s : State) (k : Nat) (js : List Nat) : State :=
  if js.isEmpty then s else s.modTeam k (Team.releaseAt s.now js)

/-- The parked or sleeping threads of a team that meet a condition. -/
def Team.waiting (t : Team) (p : Nat → Thread → Bool) : List Nat :=
  (List.range t.threads.length).filter (fun j =>
    match t.threads[j]? with
    | some th => (th.st = .parked || th.st = .sleeping) && p j th
    | none => false)

/-- Every parked or sleeping thread that meets a condition is released. -/
def State.releaseWhere (s : State) (p : Nat → Nat → Thread → Bool) : State :=
  (List.range s.teams.length).foldl (fun s k =>
    match s.teams[k]? with
    | some t => s.release k (t.waiting (p k))
    | none => s) s

/-- The thread parks or sleeps, its state recorded (R10). -/
def Thread.park (why : Why) (t : Thread) : Thread := { t with st := .parked, left := t.st, why := why }
def Thread.doze (why : Why) (t : Thread) : Thread := { t with st := .sleeping, left := t.st, why := why }

/-! ## The L1 portion and engine bytes (R109) -/

/-- The core drops its L1 sectors, for which the barrier objects of its teams no longer record engine bytes
(R109). -/
def State.acquireL1 (s : State) (core : Nat) : State :=
  let s := s.dropL1 core
  { s with teams := s.teams.map (fun t =>
      if t.core = core then { t with bars := t.bars.map (fun b => { b with engDone := false }) } else t) }

/-! ## Barrier objects (R95 to R99) -/

def Team.bar? (t : Team) (o : Nat) : Option Barrier := t.bars[o]?

def Team.modBar (o : Nat) (f : Barrier → Barrier) (t : Team) : Team := { t with bars := t.bars.modify o f }

/-- Arrivals the current phase expects: in team mode the threads that have not exited, and those that exited
after arriving in it (R97, R99); in count mode EXPARR. -/
def Team.expected (t : Team) (b : Barrier) : Nat :=
  match b.count with
  | some n => n
  | none =>
    let live := (t.threads.filter (fun th => th.st ≠ .exited)).length
    let gone := (b.arr.eraseDups.filter (fun j =>
      match t.threads[j]? with | some th => th.st = .exited | none => false)).length
    live + gone

/-- The waiters of a completed phase continue (R96, R98). The core drops its L1 sectors where engine bytes
were counted into a phase completed since it last did so (R109). -/
def State.wakeBar (s : State) (k o : Nat) (phase : Word) : State :=
  match s.teams[k]? with
  | none => s
  | some t =>
    let js := t.waiting (fun _ th => th.why = .barWait o phase || th.why = .barSync o phase)
    let s := s.release k js
    let eng := match t.bar? o with | some b => b.engDone | none => false
    if eng && !js.isEmpty then s.acquireL1 t.core else s

/-- The check of R97, at most twice: after the phase completes, the arrivals counted ahead can complete the
next, and then ARR is 0. Where no arrival is expected, nothing completes (DESIGN CHOICE, log entry 74). -/
def State.barCheck : Nat → State → Nat → Nat → State
  | 0, s, _, _ => s
  | n + 1, s, k, o =>
    match s.teams[k]? with
    | none => s
    | some t =>
      match t.bar? o with
      | none => s
      | some b =>
        if t.expected b ≠ 0 ∧ b.arr.length = t.expected b ∧ b.p = 0 then
          let s := s.modTeam k (Team.modBar o (fun b =>
            { b with phase := b.phase + 1, arr := b.arrn, arrn := [],
                     engDone := b.engDone || b.engPend, engPend := false }))
          State.barCheck n (s.wakeBar k o b.phase) k o
        else s

/-- An engine operation that names an object counts bytes into it (R96). -/
def State.barCount (s : State) (k o bytes : Nat) : State :=
  let s := s.modTeam k (Team.modBar o (fun b => { b with p := b.p - BitVec.ofNat 32 bytes, engPend := true }))
  s.barCheck 2 k o

/-- A change of the team's non-exited threads is a change of E in every team-mode object (R97). -/
def State.barCheckAll (s : State) (k : Nat) : State :=
  match s.teams[k]? with
  | none => s
  | some t => (List.range t.bars.length).foldl (fun s o => s.barCheck 2 k o) s

/-! ## Classes and inheritance (R28, R29) -/

/-- A waiting thread y waits for thread x of team k: at a barrier phase to which x still owes an arrival
(R99), or as a JSIGN signer on a join register where x is enrolled and unsigned. -/
def State.waitsFor (s : State) (k' : Nat) (y : Thread) (k j : Nat) : Bool :=
  let owes (o : Nat) (phase : Word) : Bool :=
    k = k' &&
    match s.teams[k]? with
    | none => false
    | some t =>
      match t.bar? o, t.threads[j]? with
      | some b, some x =>
        x.st ≠ .exited && !(if phase = b.phase then b.arr.contains j else b.arrn.contains j)
      | _, _ => false
  match y.why with
  | .barWait o p => owes o p
  | .barSync o p => owes o p
  | .jsign n =>
    (match s.teams[k]?, s.teams[k']? with
     | some t, some t' => t.hubset = t'.hubset &&
         (match s.hubsets[t.hubset]? with
          | some h => (match h.joins[n]? with | some jn => jn.unsigned.contains (k, j) | none => false)
          | none => false)
     | _, _ => false)
  | _ => false

/-- The classes by which a group is promoted (R28). -/
def Group.promotion (g : Group) : Nat := g.boost + g.passed / 64

/-- The classes by which a thread's group is promoted. -/
def Team.promotion (t : Team) (j : Nat) : Nat :=
  match t.groups.find? (fun g => g.members.contains j) with
  | some g => g.promotion
  | none => 0

/-- The same, where the thread may be one of the group that issues, which keeps its promotion until it has issued. -/
def State.promotion (s : State) (k : Nat) (t : Team) (j : Nat) : Nat :=
  if s.cur.promo ≠ 0 ∧ s.cur.team = k ∧ s.cur.members.contains j then s.cur.promo else t.promotion j

/-- The own classes of all threads, team by team, with their promotions. -/
def State.ownClasses (s : State) : List (List Nat) :=
  s.teams.mapIdx (fun k t => t.threads.map (fun th => min 3 (th.cls + s.promotion k t th.idx)))

/-- One round of inheritance: each thread takes the highest class of the threads that wait for it. -/
def State.inheritOnce (s : State) (cl : List (List Nat)) : List (List Nat) :=
  s.teams.mapIdx (fun k t => t.threads.mapIdx (fun j _ =>
    (s.teams.zipIdx.foldl (fun m tk => tk.1.threads.zipIdx.foldl (fun m yj =>
      if yj.1.st = .parked && s.waitsFor tk.2 yj.1 k j then max m ((cl.getD tk.2 []).getD yj.2 0) else m) m)
      ((cl.getD k []).getD j 0))))

/-- The effective classes: inheritance is transitive, so it is applied once for every waiting thread. -/
def State.classes (s : State) : List (List Nat) :=
  let n := (s.teams.map (fun t => (t.threads.filter (fun th => th.st = .parked)).length)).sum
  (List.range n).foldl (fun cl _ => s.inheritOnce cl) s.ownClasses

def State.effClass (s : State) (k j : Nat) : Nat := (s.classes.getD k []).getD j 0

/-! ## Join registers (R24) -/

def Join.idle : Join :=
  { st := .idle, n := 0, enrolled := [], unsigned := [], signs := [], wd := 0, kind := none }

def State.join? (s : State) (hs n : Nat) : Option Join := (s.hubsets[hs]?).bind (fun h => h.joins[n]?)

def State.modJoin (s : State) (hs n : Nat) (f : Join → Join) : State :=
  { s with hubsets := s.hubsets.modify hs (fun h => { h with joins := h.joins.modify n f }) }

/-- A thread's outcome at a join register, and its bit in the membership mask (R8, R25). -/
def Thread.outcome (n : Nat) (m : Mine) (t : Thread) : Thread :=
  { t with mine := Tab.put t.mine n m .none, joinMask := t.joinMask &&& ~~~(1#64 <<< n) }

/-- The register returns to IDLE, and the threads parked at a JDECL of it continue (R24). -/
def State.joinIdle (s : State) (hs n : Nat) : State :=
  let s := s.modJoin hs n (fun _ => Join.idle)
  s.releaseWhere (fun k _ th =>
    th.why = .jdecl n && (match s.teams[k]? with | some t => t.hubset = hs | none => false))

/-- The JSIGN signers of a register are released with an outcome; DONE drops their cores' L1 sectors (R109). -/
def State.releaseSigners (s : State) (n : Nat) (signs : List Sign) (m : Mine) : State :=
  let s := signs.foldl (fun s g => s.modThread g.team g.thr (Thread.outcome n m)) s
  let s := s.releaseWhere (fun k j th => th.why = .jsign n && signs.any (fun g => g.team = k && g.thr = j))
  if m = .done then
    signs.foldl (fun s g => match s.teams[g.team]? with | some t => s.acquireL1 t.core | none => s) s
  else s

def State.engine (s : State) (hub : Nat) : MxEngine := Tab.get s.engines hub .idle

def State.setEngine (s : State) (hub : Nat) (e : MxEngine) : State :=
  { s with engines := Tab.put s.engines hub e .idle }

/-- A completed join call enters the reservation table with the highest class among its signers (R257). -/
def State.postJoin (s : State) (hs n : Nat) (jn : Join) (d : MxDesc) : State :=
  match s.hubsets[hs]? with
  | none => s
  | some h =>
    let cls := jn.signs.foldl (fun m g => max m (s.effClass g.team g.thr)) 0
    let fn := match jn.signs with
      | g :: _ => (match s.teams[g.team]? with | some t => t.fn | none => 0)
      | [] => 0
    let call : MxCall := {
      id := s.nextId, hub := h.hub, join := some (hs, n), signers := jn.signs
      issuers := jn.signs.map (fun g => ({ team := g.team, thr := g.thr, op := g.op, flag := g.flag } : Issuer))
      desc := d, fn := fn, priv := jn.signs.all (fun g => g.priv), cls := cls, passed := 0, obj := none
      nanTrap := jn.signs.any (fun g => g.nanTrap), walk := false, tile := [], cols := [] }
    let e := s.engine h.hub
    { s.setEngine h.hub { e with table := e.table ++ [call] } with nextId := s.nextId + 1 }

/-- An OPEN register completes once SG + WD = N (R24). -/
def State.joinCheck (s : State) (hs n : Nat) : State :=
  match s.join? hs n with
  | none => s
  | some jn =>
    if jn.st = .opened ∧ jn.signs.length + jn.wd = jn.n then
      match jn.kind with
      | some (.mma _ d) =>
        if jn.signs.isEmpty then s.joinIdle hs n
        else (s.postJoin hs n jn d).modJoin hs n (fun jn => { jn with st := .busy })
      | _ => (s.releaseSigners n jn.signs .done).joinIdle hs n
    else s

/-- An enrolled, unsigned thread leaves one register: withdrawn while it is OPEN, cancelled while it drains
(R24). -/
def State.leaveJoin (s : State) (k j hs n : Nat) : State :=
  match s.join? hs n with
  | none => s
  | some jn =>
    if !jn.unsigned.contains (k, j) then s
    else
      let rest := jn.unsigned.filter (· ≠ (k, j))
      if jn.st = .drain then
        let s := s.modThread k j (Thread.outcome n .cancelled)
        let s := s.modJoin hs n (fun jn => { jn with unsigned := rest })
        if rest.isEmpty then s.joinIdle hs n else s
      else
        let s := s.modThread k j (Thread.outcome n .withdrawn)
        (s.modJoin hs n (fun jn => { jn with unsigned := rest, wd := jn.wd + 1 })).joinCheck hs n

/-- A thread that traps or exits leaves every join register in which it is enrolled and unsigned (R24). -/
def State.withdraw (s : State) (k j : Nat) : State :=
  match s.teams[k]? with
  | none => s
  | some t =>
    match s.hubsets[t.hubset]? with
    | none => s
    | some h => (List.range h.joins.length).foldl (fun s n => s.leaveJoin k j t.hubset n) s

/-- A thread is enrolled and unsigned in some join register. -/
def State.enrolled (s : State) (k j : Nat) : Bool :=
  match s.teams[k]? with
  | none => false
  | some t => match s.hubsets[t.hubset]? with
    | none => false
    | some h => h.joins.any (fun jn => jn.unsigned.contains (k, j))

/-- A thread that traps leaves its join registers in the order of R24: among the operations of the cycle `since`. -/
def State.leaveLater (s : State) (since k j : Nat) : State :=
  if s.enrolled k j then { s with leaving := s.leaving ++ [{ team := k, thr := j, since := since }] } else s

/-- The place of a thread in the order of R24 and R97, over all cores. -/
def State.orderPlace (s : State) (k j : Nat) : Nat :=
  match s.teams[k]? with
  | some t => t.core * 65536 + j
  | none => 0

def State.insertLeave (s : State) (x : Leave) : List Leave → List Leave
  | [] => [x]
  | y :: ys => if s.orderPlace x.team x.thr < s.orderPlace y.team y.thr then x :: y :: ys else y :: s.insertLeave x ys

/-- Threads that have trapped leave their join registers, in order. -/
def State.leaveWhere (s : State) (p : Leave → Bool) : State :=
  ((s.leaving.filter p).foldr s.insertLeave []).foldl (fun s x => s.withdraw x.team x.thr)
    { s with leaving := s.leaving.filter (fun x => !p x) }

/-- Those of the cycle whose place comes before a thread's of the same hub, and the thread itself. -/
def State.leaveBefore (s : State) (k j : Nat) : State :=
  s.leaveWhere (fun x => decide (x.since ≤ s.now) && decide (s.orderPlace x.team x.thr ≤ s.orderPlace k j) &&
    decide (hubOf (s.orderPlace x.team x.thr / 65536) = hubOf (s.orderPlace k j / 65536)))

/-- Those whose cycle ends. -/
def State.leaveAll (s : State) : State := s.leaveWhere (fun x => decide (x.since ≤ s.now))

/-- A core of the hub has issued in this cycle. -/
def State.hubIssued (s : State) (hub : Nat) : Bool := s.issued.any (fun x => decide (hubOf x.1 = hub))

/-! ## Snapshots and interrupts (R332, R333, R312) -/

/-- A snapshot trigger: latching follows 64 cycles later; while one is held or latching it is only counted. -/
def State.triggerSnap (s : State) (source : Nat) (cause : Word) (core thr : Nat) : State :=
  if s.snap.pending.isSome || s.snap.held.isSome then
    { s with snap := { s.snap with missed := min (s.snap.missed + 1) 0xFFFF } }
  else
    { s with snap := { s.snap with pending := some {
        source := source, cycle := BitVec.ofNat 64 (s.now + 64), cause := cause, core := s.logicalCore core, thr := thr } } }

/-- The error interrupt of a queue: vector q for host queue q, vector 16 for a device queue (R348); the
private queue of a LAUNCH has none. -/
def State.queueIrq (s : State) (key : Nat) : State :=
  if key < 17 * 128 then
    s.send (.irq (key / 128) (if key % 128 < 16 then key % 128 else 16))
  else s

/-! ## Stopping a team (R328, R330) -/

/-- What pre-emption does to a thread: its results are in their registers, its state is recorded, and its
validation set is stale (R207). -/
def Thread.save (t : Thread) : Thread :=
  if t.st = .exited then t
  else { t.final with st := .saved, stSaved := t.st, whySaved := t.why, why := .none, stale := true }

/-- A team stops: no thread runs, and its bins and queues are gone, kept as each thread's state. Its groups stand
still. -/
def Team.stop (held : Bool) (t : Team) : Team :=
  if t.status ≠ .resident then t
  else { t with status := .stopped held, threads := t.threads.map Thread.save, queue := [] }

/-- A team holds a resident slot and its resources: it is resident, or stopped and not yet saved (R328). -/
def Team.seated (t : Team) : Bool :=
  match t.status with
  | .resident | .stopped _ => true
  | .saved | .gone => false

/-- Destination bytes that a copy has still to write. -/
def CopyJob.left (j : CopyJob) : Nat := (j.todo.map (fun c => c.len)).sum

/-- A pre-emption stops the copy: more than 64 KiB remain (R329), and it is no `ACCZ` (R293). -/
def CopyJob.stops (j : CopyJob) : Bool :=
  decide (65536 < j.left) && (match j.src with | .zeros => false | _ => true)

/-- The 32-byte sector of a destination. -/
def CopyEnd.sector (e : CopyEnd) : Nat × Nat :=
  match e with
  | .mem va => (0, va.toNat / 32)
  | .spad k o => (k + 1, o / 32)

/-- The copy stands inside a destination sector: its last chunk and its next one lie in the same. -/
def CopyJob.midSector (j : CopyJob) : Bool :=
  match j.todo with
  | [] => false
  | c :: _ => match (j.all.takeWhile (fun d => decide (d ≠ c))).getLast? with
    | some d => decide (d.dst.sector = c.dst.sector)
    | none => false

/-- The copy has come to a 32-byte boundary of its destination, where a pre-emption stops it (R329). -/
def CopyJob.halts (j : CopyJob) : Bool := j.stops && !j.midSector

/-- The teams a pre-emption of team k stops: its whole hub set when one of its threads is enrolled in a join
register that is not IDLE (R26), else itself. -/
def State.widened (s : State) (k : Nat) : List Nat :=
  match s.teams[k]? with
  | none => []
  | some t =>
    match s.hubsets[t.hubset]? with
    | none => [k]
    | some h =>
      if h.joins.any (fun jn => jn.st ≠ .idle && jn.enrolled.any (fun e => e.1 = k)) then
        h.teams.filter (fun k' => match s.teams[k']? with | some t => t.seated | none => false)
      else [k]

/-- The groups of some turns are their pieces again (R13). -/
def State.endTurns (s : State) (p : Turn → Bool) : State :=
  (s.turns.filter p).foldl (fun s t => s.modTeam t.team (Team.mergeTurn s.now t.members)) s

/-- An entry of the store queue is the place of a copy that the pre-emption of some teams stops. -/
def State.stopsPlace (s : State) (ks : List Nat) (e : SqEntry) : Bool :=
  decide (e.act = .copy) && ks.contains e.team &&
  (match s.ops.find? (fun o => o.id = e.op) with
   | some o => (match o.kind with | .copy j => j.halts | _ => false)
   | none => false)

/-- Teams stop at their instruction boundaries (R328, step 1). What is in flight for them goes on to its own
completion, or stops as R293 and R329 say. -/
def State.stopTeams (s : State) (ks : List Nat) (held : Bool) : State :=
  let s := { (s.endTurns (fun t => ks.contains t.team)) with turns := s.turns.filter (fun t => !ks.contains t.team) }
  let s := ks.foldl (fun s k => s.modTeam k (Team.stop held)) s
  { s with
    bins := s.bins.filter (fun b => !ks.contains b.team)
    sq := s.sq.filter (fun e => !s.stopsPlace ks e)
    reforms := s.reforms.filter (fun r => !ks.contains r.1) }

/-- A stopped team's context is saved, and its resources are released. -/
def Team.release (t : Team) : Team :=
  match t.status with
  | .stopped _ => { t with status := .saved }
  | _ => t

/-- Stopped teams are saved: their resources are released, and their walkers give their contexts back and have numbers
past every context (R277, R328, step 4). -/
def State.releaseTeams (s : State) (ks : List Nat) : State :=
  { ks.foldl (fun s k => s.modTeam k Team.release) s with
    walkers := s.walkers.map (fun w => if ks.contains w.team then { w with ctx := 192 + w.op } else w) }

/-! ## Taking an exception and returning from one -/

/-- The cause codes (R321). -/
def Cause.code : Cause → Nat
  | .illop => 0x01 | .illbun => 0x02 | .priv => 0x03 | .align => 0x04 | .page => 0x05 | .prot => 0x06
  | .spadbound => 0x07 | .rankbad => 0x08 | .nanfirst => 0x09 | .taphit => 0x0A | .tapmode => 0x0B
  | .partmix => 0x0C | .regrange => 0x0D | .mchk => 0x0E | .vsetfull => 0x0F | .joinbad => 0x10
  | .engfault => 0x11 | .swtrap => 0x12 | .fmtbad => 0x13 | .bounds => 0x14 | .bkpt => 0x15 | .notpres => 0x20

/-- A cause with TRAPADDR and TRAPINFO 0. -/
def Trap.of (c : Cause) : Trap := { cause := c, addr := 0, info := 0 }
/-- A cause with its address in TRAPADDR. -/
def Trap.atAddr (c : Cause) (a : DWord) : Trap := { cause := c, addr := a, info := 0 }

/-- TRAPCAUSE (R322). -/
def trapWord (c : Cause) (defer : Bool) : Word := BitVec.ofNat 32 (c.code + if defer then 256 else 0)

/-- The first slot of a cause's vector (R324). -/
def vectorPc (tvb : DWord) (c : Cause) : DWord := tvb + BitVec.ofNat 64 (64 * c.code) + 4

/-- What a trap does to its thread (R322, R324): the trap registers are written and the thread enters TRAPPED
at the vector. -/
def Thread.trapEntry (tvb : DWord) (t : Trap) (defer : Bool) (th : Thread) : Thread :=
  { th with
    trapPc := th.pc, trapCause := trapWord t.cause defer, trapAddr := t.addr, trapInfo := t.info
    st := .trapped, why := .none, pc := vectorPc tvb t.cause, sword := none, waited := false }

/-- A cause in TRAPPED (R325): the trap registers keep the first trap, the team or its hub set is pre-empted
at once, a DOUBLE snapshot is triggered and the interrupt and the alert are sent. No save area is named: what the teams
have in flight drains, and they stand stopped until a `CTXSV` names their slot (log entry 50). -/
def State.doubleTrap (s : State) (k j : Nat) (c : Cause) : State :=
  match s.teams[k]? with
  | none => s
  | some t =>
    let s := s.stopTeams (s.widened k) true
    let s := s.triggerSnap 2 (BitVec.ofNat 32 c.code) t.core j
    let s := match s.grids[t.grid]? with | some g => s.queueIrq g.queue | none => s
    s.send .alert

/-- Taking a trap, for one thread, in one step (R324): the trap registers, the thread's own group of one, and the
snapshot that SNAPMASK asks for (R332); it leaves its join registers in its place among the operations of the cycle
`since` (R24). `defer` is the DEFER bit. -/
def State.takeTrapIn (s : State) (since k j : Nat) (t : Trap) (defer : Bool) : State :=
  match s.teams[k]?, s.thread? k j with
  | some tm, some th =>
    if th.st = .trapped then s.doubleTrap k j t.cause
    else
      let s := s.modThread k j (fun th => (th.settle s.now).trapEntry (s.space tm.fn).tvb t defer)
      let s := s.modTeam k (fun tm => { tm.leave [j] with groups := (tm.leave [j]).groups ++ [mkGroup s.now [j]] })
      let s := s.leaveLater since k j
      if s.snapmask.getLsbD t.cause.code then s.triggerSnap 3 (BitVec.ofNat 32 t.cause.code) tm.core j else s
  | _, _ => s

/-- The cycle in whose order of R24 a trap that no issue raises counts: the present one, and the next once the thread's
hub has issued, as the groups that issue in a cycle stand from its start. -/
def State.trapCycle (s : State) (k : Nat) : Nat :=
  match s.teams[k]? with
  | some t => if s.hubIssued (hubOf t.core) then s.now + 1 else s.now
  | none => s.now

/-- A trap taken at an entry, a wait, a fetch or after `SOFTMAX`. -/
def State.takeTrap (s : State) (k j : Nat) (t : Trap) (defer : Bool) : State := s.takeTrapIn (s.trapCycle k) k j t defer

/-- A trap that an instruction raises when it issues: the instruction is the thread's previous one from then on
(R38). -/
def State.trapIssued (s : State) (k j : Nat) (t : Trap) : State :=
  (s.modThread k j (fun th => { th with lastIssue := some s.now })).takeTrapIn s.now k j t false

/-- Returning from a trap (R324, R339): the thread resumes at TRAPPC in ACTIVE. -/
def Thread.trapReturn (th : Thread) : Thread := { th with st := .active }.jumpTo (enterPc th.trapPc)

/-! ## The end of a thread (R11) -/

/-- The threads of a home block that have not exited. -/
def Team.blockThreads (t : Team) (b : Nat) : List Nat :=
  (List.range t.threads.length).filter (fun j =>
    blockOf j = b && (match t.threads[j]? with | some th => th.st ≠ .exited | none => false))

/-- A collector releases its home block once every non-exited thread of it stands there: one group for each
next program counter, lowest first (R17, R18). -/
def State.collectorCheck (s : State) (k b : Nat) : State :=
  match s.teams[k]? with
  | none => s
  | some t =>
    let js := t.blockThreads b
    let all := js.all (fun j => match t.threads[j]? with | some th => th.st = .filed && th.why = .collector | none => false)
    if all && !js.isEmpty then
      s.modTeam k (fun t =>
        let t := js.foldl (fun t j => t.modThread j (fun th => { th with st := .active, why := .none })) t
        { t with groups := t.groups ++ (distinctPcs t js).map (fun pc => mkGroup s.now (atPc t js pc)) })
    else s

/-- The resources of a team whose threads have all exited are returned (R9, R316). -/
def Team.closeIfDone (t : Team) : Team :=
  if t.threads.all (fun th => th.st = .exited) then { t with status := .gone, groups := [] } else t

/-- A thread becomes EXITED (R11): team-mode barriers expect one arrival less (R99), and its home block's
collector may release (R17). -/
def State.exitThread (s : State) (k j : Nat) : State :=
  let s := s.modThread k j (fun th => { th with st := .exited, why := .none })
  let s := s.modTeam k (fun t => (t.leave [j]).closeIfDone)
  (s.barCheckAll k).collectorCheck k (blockOf j)

end Sys2Proof.Machine
end

