-- ==== Sys2Proof/Machine/Flags.lean ====
section
/-!
DEFINITION. The status bits of FPSTAT (R124), the completion flag counters (R43), the deferred causes held on
them (R324), and the completion of an operation in flight.
-/

namespace Sys2Proof.Machine

/-! ## FPSTAT (R124) -/

def statSat : Word := 1#32
def statNarrow : Word := 2#32
def statEmpty : Word := 4#32

/-- The FPSTAT bits that a conversion's status sets. -/
def NumStat.bits (st : NumStat) : Word := (if st.sat then statSat else 0) ||| (if st.narrow then statNarrow else 0)

/-- The landing that sets status bits; none when there are none. -/
def statLanding (b : Word) : List Landing := if b = 0 then [] else [.stat b]

/-- NANTRAP (R124). -/
def Thread.nanTrap (t : Thread) : Bool := t.fpstat.getLsbD 31

/-! ## Completion flags (R43) -/

/-- The counter of flag k; flag 0 is no flag. -/
def Thread.flag (t : Thread) (k : Nat) : Nat := if k = 0 then 0 else t.flags.getD (k - 1) 0

def Thread.setFlag (t : Thread) (k v : Nat) : Thread :=
  if k = 0 then t else { t with flags := t.flags.set (k - 1) v }

def Thread.flagUp (k : Nat) (t : Thread) : Thread := t.setFlag k (t.flag k + 1)
def Thread.flagDown (k : Nat) (t : Thread) : Thread := t.setFlag k (t.flag k - 1)

/-- Every counter is zero. -/
def Thread.flagsZero (t : Thread) : Bool := t.flags.all (fun n => n = 0)

/-- The flags a wait names: bit 19 + k names flag k (R34). -/
def waitFlags (sword : Word) : List Nat := (List.range' 1 12).filter (fun k => sword.getLsbD (19 + k))

def waitSlot (sword : Word) : Nat := bits sword.toNat 19 18
/-- The issue distance field of slot s (R34). -/
def distance (sword : Word) (slot : Nat) : Nat :=
  if slot = 1 then bits sword.toNat 17 15 else if slot = 2 then bits sword.toNat 14 12 else bits sword.toNat 11 9

/-! ## Deferred causes (R324) -/

/-- The earliest issued of the causes held on some flags. -/
def Thread.firstHeld (t : Thread) (flags : List Nat) : Option Deferred :=
  (t.held.filter (fun d => flags.contains d.flag)).foldl (fun m d =>
    match m with
    | none => some d
    | some e => if d.order < e.order then some d else m) none

/-- One held cause is delivered as a trap at the thread's program counter (R324), in the order of R24 of a cycle. -/
def State.deliverIn (s : State) (since k j : Nat) (d : Deferred) : State :=
  (s.modThread k j (fun th => { th with held := th.held.erase d })).takeTrapIn since k j d.trap true

/-- One is delivered at a wait. -/
def State.deliver (s : State) (k j : Nat) (d : Deferred) : State := s.deliverIn (s.trapCycle k) k j d

/-- An atomic or a format store of the thread that counts on no flag is in flight: a cause that it leaves is delivered at
the next `FENCE` or `EXIT` (R171, R206, R324), which waits for it. -/
def State.unflagged (s : State) (k j : Nat) : Bool :=
  s.ops.any (fun o => decide (o.team = k) && decide (o.thr = j) && decide (o.flag = 0) &&
    (match o.kind with | .queued | .hostAtomic .. | .ready _ => true | _ => false))

/-- A thread parked at EXIT whose counters are zero takes a cause it still holds, else it exits (R11, R324). -/
def State.exitCheck (s : State) (k j : Nat) : State :=
  match s.thread? k j with
  | none => s
  | some th =>
    if th.st = .parked ∧ th.why = .exit ∧ th.flagsZero ∧ !s.unflagged k j then
      match th.firstHeld (List.range 13) with
      | some d => (s.modThread k j (fun th => { th with st := th.left, why := .none })).deliver k j d
      | none => s.exitThread k j
    else s

/-! ## Operations in flight -/

def State.op? (s : State) (id : Nat) : Option Op := s.ops.find? (fun o => o.id = id)

/-- An operation is over, with the place of a copy in the store queue (R195). -/
def State.dropOp (s : State) (id : Nat) : State :=
  { s with ops := s.ops.filter (fun o => o.id ≠ id)
           sq := s.sq.filter (fun e => !(decide (e.op = id) && decide (e.act = .copy))) }

def State.setOpKind (s : State) (id : Nat) (kd : OpKind) : State :=
  { s with ops := s.ops.map (fun o => if o.id = id then { o with kind := kd } else o) }

/-- Words written to allocation registers, together (R39, R43). -/
def Thread.writeRegs (dst : List Nat) (ws : List Word) (t : Thread) : Thread :=
  (dst.zip ws).foldl (fun t p => Landing.apply t (.reg p.1 p.2)) t

/-- The older fixed-latency writes of some registers no longer land: a variable-latency result has been written
over them (R44). -/
def Thread.overtake (order : Nat) (dst : List Nat) (t : Thread) : Thread :=
  { t with pend := t.pend.map (fun p =>
      if p.order < order then
        { p with writes := p.writes.filter (fun w => match w with | .reg n _ => !dst.contains n | _ => true) }
      else p) }

/-- An operation ends (R43): its result is written, or its cause is held on its flag (R324), and the counter
falls by one. A thread waiting at EXIT may end with it (R11). -/
def State.completeOp (s : State) (o : Op) (result : List Word) (trap : Option Trap) : State :=
  let s := s.dropOp o.id
  let s := s.modThread o.team o.thr (fun th =>
    let th := match trap with
      | none => (th.overtake o.ins o.dst).writeRegs o.dst result
      | some t => { th with held := th.held ++ [({ flag := o.flag, order := o.id, trap := t } : Deferred)] }
    th.flagDown o.flag)
  s.exitCheck o.team o.thr

/-- The same, the result written beside a held cause (an engine's status words). -/
def State.completeOpBoth (s : State) (o : Op) (result : List Word) (trap : Option Trap) : State :=
  let s := s.modThread o.team o.thr (fun th => (th.overtake o.ins o.dst).writeRegs o.dst result)
  match trap with
  | none => s.completeOp { o with dst := [] } [] none
  | some t => s.completeOp { o with dst := [] } [] (some t)

end Sys2Proof.Machine
end

