-- ==== Sys2Proof/Machine/Fields.lean ====
section
/-!
DEFINITION. The operand fields of the core instructions: for each instruction the registers its fields name,
how many, and whether it reads or writes them, and what its immediate fields may hold (R42, R45 to R53 and the
entries). `Instr.wf`, the register checks of R48 and the poison check of R62 all read this one table.
-/

namespace Sys2Proof

/-- One register operand: the first register of 1, 2, 4 or 8, and whether the instruction reads or writes it. -/
structure RegUse where
  reg : BitVec 7
  n : Nat
  src : Bool
  dst : Bool
  deriving DecidableEq, Repr

def RegUse.read (r : BitVec 7) (n : Nat) : RegUse := { reg := r, n := n, src := true, dst := false }
def RegUse.write (r : BitVec 7) (n : Nat) : RegUse := { reg := r, n := n, src := false, dst := true }
def RegUse.both (r : BitVec 7) (n : Nat) : RegUse := { reg := r, n := n, src := true, dst := true }

/-- What a register field may hold (R48, R49): a single source anything, a single destination v0-v119 or `vz`,
a pair, quad or eight registers a window name that is a multiple of their number. -/
def RegUse.legal (u : RegUse) : Bool :=
  if u.n = 1 then !u.dst || decide (u.reg.toNat ≤ 120)
  else decide (u.reg.toNat % u.n = 0) && decide (u.reg.toNat + u.n ≤ 120)

/-- The atomics on a pair (R212). -/
def atomPair (c : BitVec 7) : Bool := decide (16 ≤ c.toNat) && decide (c.toNat ≤ 20)

/-- The special registers of 64 bits (R336). -/
def sregWide (n : BitVec 7) : Bool := decide (n.toNat = 8) || (decide (10 ≤ n.toNat) && decide (n.toNat ≤ 15))

/-- The register operands of an instruction. -/
def Instr.regUses : Instr → List RegUse
  | .iadd d a b | .isub d a b | .imul d a b | .imulhS d a b | .imulhN d a b | .iminS d a b | .iminN d a b
  | .imaxS d a b | .imaxN d a b | .and d a b | .or d a b | .xor d a b | .andn d a b | .shl d a b
  | .shr d a b | .sha d a b | .rotl d a b | .bfx d a b | .isetEq d a b | .isetNe d a b | .isetLt d a b
  | .isetLe d a b | .isetGt d a b | .isetGe d a b | .isetLtN d a b | .isetLeN d a b | .isetGtN d a b
  | .isetGeN d a b | .lanePick d a b | .laneFlip d a b | .laneRot d a b | .tscanSegAddI d a b
  | .tscanSegAddF d a b | .fadd d a b | .fsub d a b | .fmul d a b | .fmin d a b | .fmax d a b
  | .fsetEq d a b | .fsetNe d a b | .fsetLt d a b | .fsetLe d a b | .fsetGt d a b | .fsetGe d a b
  | .fsetUn d a b | .h2add d a b | .h2mul d a b | .b2add d a b | .b2mul d a b | .hpk d a b | .rng d a b
  | .softmax d a b | .rmsnE12 d a b | .rmsnE14 d a b | .rmsnE16 d a b | .rmsnE18 d a b | .rmsnE20 d a b =>
    [.write d 1, .read a 1, .read b 1]
  | .imad d a b | .bfi d a b | .sel d a b | .laneBack d a b | .laneFwd d a b | .ffma d a b | .h2fma d a b
  | .b2fma d a b =>
    [.both d 1, .read a 1, .read b 1]
  | .iabs d a | .popc d a | .clz d a | .mov d a | .iaddi d a _ | .andi d a _ | .ori d a _ | .shli d a _
  | .shri d a _ | .pollEvery d a | .pollSome d a | .pollMask d a | .pollSame d a | .pollCnt d a
  | .matchLanes d a | .mrank d a | .mcnt d a | .mlead d a | .tscanAddI d a | .tscanAddF d a
  | .tscanMaxS d a | .tscanMinS d a | .tscanExAddI d a | .tscanExAddF d a | .tredAddI d a | .tredAddF d a
  | .tredMaxS d a | .tredMinS d a | .tredMaxF d a | .tredMinF d a | .tredAnd d a | .tredOr d a
  | .ldlB d a _ _ | .ldlH d a _ _ | .ldlW d a _ _ | .barPhase d a | .fneg d a | .fabs d a | .fclass d a
  | .frcp d a | .frsq d a | .fsqrt d a | .fex2 d a | .flg2 d a | .fexp d a | .fln d a | .fsinp d a
  | .fcosp d a | .ftanh d a | .fsig d a | .cvt d a _ _ _ | .gumb d a | .unif d a | .launch d a _ =>
    [.write d 1, .read a 1]
  | .add64 d a b | .sub64 d a b | .mul64 d a b | .xadd d a b | .xmul d a b =>
    [.write d 2, .read a 2, .read b 2]
  | .shl64 d a b | .shr64 d a b | .lea0 d a b | .lea1 d a b | .lea2 d a b | .lea3 d a b | .gathD d a b _ =>
    [.write d 2, .read a 2, .read b 1]
  | .iset64Eq d a b | .iset64LtN d a b | .xratio d a b =>
    [.write d 1, .read a 2, .read b 2]
  | .ldi d _ | .jstat d _ | .pollPres d | .valid d _ _ =>
    [.write d 1]
  | .ldhi d _ =>
    [.both d 1]
  | .waitf d _ =>
    [.read d 2]
  | .beqz a _ | .bnez a _ | .bltz a _ | .bgez a _ | .jdecl _ a | .barArrive a | .barSync a | .barInval a =>
    [.read a 1]
  | .call a _ =>
    [.write a 2]
  | .jmp a | .ret a | .pref a _ | .mma _ a _ _ =>
    [.read a 2]
  | .callr d a | .ldgD d a _ _ | .ldvsD d a _ _ | .verr d a _ | .ldacqD d a _ _ =>
    [.write d 2, .read a 2]
  | .qpost d a b _ | .bytp d a b | .gathW d a b _ | .gathF d a b _ | .kvrot d a b _ | .kvrq d a b _ =>
    [.write d 1, .read a 2, .read b 1]
  | .stlB d a _ _ | .stlH d a _ _ | .stlW d a _ _ =>
    [.read d 1, .read a 1]
  | .ldgB d a _ _ | .ldgH d a _ _ | .ldgW d a _ _ | .xcvt d a | .kvtag d a _ | .bnds d a _ | .kvmove d a _
  | .topk d a _ | .ldf d a _ _ | .ldvsW d a _ _ | .ldacqW d a _ _ =>
    [.write d 1, .read a 2]
  | .stgB d a _ _ | .stgH d a _ _ | .stgW d a _ _ | .stf d a _ _ | .stfRs d a _ _ | .strelW d a _ _ =>
    [.read d 1, .read a 2]
  | .ldlD d a _ _ | .xexp d a | .xfrom d a =>
    [.write d 2, .read a 1]
  | .stlD d a _ _ =>
    [.read d 2, .read a 1]
  | .stgD d a _ _ | .strelD d a _ _ =>
    [.read d 2, .read a 2]
  | .ldlQ d a _ _ =>
    [.write d 4, .read a 1]
  | .stlQ d a _ _ =>
    [.read d 4, .read a 1]
  | .ldgQ d a _ _ | .ldvsQ d a _ _ =>
    [.write d 4, .read a 2]
  | .stgQ d a _ _ =>
    [.read d 4, .read a 2]
  | .atl d a _ _ =>
    [.both d 1, .read a 1]
  | .tap a b _ | .tapq a b | .spoke a b _ | .cfill a b _ | .copy a b _ | .copyx a b _ | .mmas a b _
  | .accz a b _ | .tlbinv a b | .ctxsv a b | .ctxld a b =>
    [.read a 2, .read b 1]
  | .tapNorm a b _ =>
    [.read a 4, .read b 1]
  | .barInit a b | .barWait a b | .barExpect a b =>
    [.read a 1, .read b 1]
  | .reqI8 d a b | .reqI4 d a b | .reqN8 d a b | .reqN4 d a b =>
    [.write d 1, .read a 1, .read b 2]
  | .scatW d a b _ | .bcopy d a b _ =>
    [.read d 1, .read a 2, .read b 1]
  | .scatD d a b _ =>
    [.read d 2, .read a 2, .read b 1]
  | .kvap d a b _ | .cas d a b _ =>
    [.both d 1, .read a 2, .read b 1]
  | .attn d a b _ | .attnr d a b _ =>
    [.write d 4, .read a 2, .read b 1]
  | .casv d a b _ =>
    [.both d 2, .read a 2, .read b 1]
  | .atom d a c _ =>
    [.both d (if atomPair c then 2 else 1), .read a 2]
  | .red c a b _ =>
    [.read a 2, .read b (if c = 21#7 then 8 else if atomPair c then 2 else 1)]
  | .gets d n =>
    [.write d (if sregWide n then 2 else 1)]
  | .sets a n =>
    [.read a (if sregWide n then 2 else 1)]
  | .tapld a b =>
    [.read a 2, .read b 2]
  | _ => []

/-- A required flag field: f1 to f12 (R42, R45). -/
def flagNeeded (f : BitVec 4) : Bool := decide (1 ≤ f.toNat) && decide (f.toNat ≤ 12)
/-- A flag field that may be empty (R42, R45). -/
def flagMay (f : BitVec 4) : Bool := decide (f.toNat ≤ 12)
/-- A scope code (R53). -/
def scopeOk (s : BitVec 7) : Bool := decide (s.toNat ≤ 5)
/-- A join number (R82). -/
def joinOk (j : BitVec 7) : Bool := decide (j.toNat ≤ 63)
/-- An operation code of `ATOM` (R52, R212). -/
def atomOk (c : BitVec 7) : Bool := decide (c.toNat ≤ 11) || atomPair c
/-- A conversion code of `CVT` with its rounding field (R136). -/
def cvtOk (c : BitVec 7) (r : BitVec 3) : Bool :=
  let f := c.toNat % 32
  let dir := c.toNat / 32
  decide (1 ≤ f) && decide (f ≤ 26) && decide (f ≠ 25) && decide (r.toNat ≤ 4) &&
    (decide (dir = 0) || decide (f ≠ 26)) && (decide (dir ≠ 1) || decide (r.toNat = 0))

/-- What an instruction's immediate fields may hold: flags, scopes, join numbers, operation codes, special
register numbers and the limits of `WIN`, `PART`, `PRIO`, `WAITF` and `VALID`. -/
def Instr.fieldsOk : Instr → Bool
  | .win i =>
    decide (i.toNat < 32)
  | .part i =>
    [2, 4, 8, 16, 32].contains i.toNat
  | .prio i =>
    decide (i.toNat < 4)
  | .waitf _ i =>
    decide (i.toNat ≠ 0)
  | .qpost _ _ _ f | .ldlB _ _ _ f | .ldgB _ _ _ f | .ldlH _ _ _ f | .ldgH _ _ _ f | .ldlW _ _ _ f
  | .ldgW _ _ _ f | .ldlD _ _ _ f | .ldgD _ _ _ f | .ldlQ _ _ _ f | .ldgQ _ _ _ f | .tap _ _ f
  | .tapNorm _ _ f | .spoke _ _ f | .kvtag _ _ f | .bnds _ _ f | .kvmove _ _ f | .topk _ _ f | .ldf _ _ _ f
  | .gathW _ _ _ f | .gathF _ _ _ f | .gathD _ _ _ f | .kvrot _ _ _ f | .kvrq _ _ _ f | .kvap _ _ _ f
  | .copy _ _ f | .copyx _ _ f | .bcopy _ _ _ f | .mmas _ _ f | .attn _ _ _ f | .attnr _ _ _ f
  | .ldvsW _ _ _ f | .ldvsD _ _ _ f | .ldvsQ _ _ _ f | .verr _ _ f | .casv _ _ _ f | .cas _ _ _ f
  | .launch _ _ f =>
    flagNeeded f
  | .jdecl j _ | .jsign j | .jleave j | .jcancel j | .jstat _ j =>
    joinOk j
  | .stlB _ _ _ f | .stgB _ _ _ f | .stlH _ _ _ f | .stgH _ _ _ f | .stlW _ _ _ f | .stgW _ _ _ f
  | .stlD _ _ _ f | .stgD _ _ _ f | .stlQ _ _ _ f | .stgQ _ _ _ f | .stf _ _ _ f | .stfRs _ _ _ f
  | .cfill _ _ f | .scatW _ _ _ f | .scatD _ _ _ f | .accz _ _ f =>
    flagMay f
  | .atl _ _ c f =>
    decide (c.toNat ≤ 7) && flagNeeded f
  | .cvt _ _ c _ r =>
    cvtOk c r
  | .mma j _ b f =>
    joinOk j && flagNeeded f && decide (b.toNat ≤ 119)
  | .valid _ k f =>
    decide (k.toNat ≤ 1) && flagNeeded f
  | .atom _ _ c f =>
    atomOk c && flagNeeded f
  | .red c _ _ f =>
    (atomOk c || decide (c = 21#7)) && flagMay f
  | .fenceAcq s | .fenceRel s | .fenceAr s | .fenceSc s =>
    scopeOk s
  | .ldacqW _ _ s f | .ldacqD _ _ s f =>
    scopeOk s && flagNeeded f
  | .strelW _ _ s f | .strelD _ _ s f =>
    scopeOk s && flagMay f
  | .gets _ n | .sets _ n =>
    decide (n.toNat ≤ 17)
  | _ => true

/-- The flag field of an instruction that has one; 0 names no flag (R42). -/
def Instr.flagField : Instr → Nat
  | .qpost _ _ _ f | .ldlB _ _ _ f | .stlB _ _ _ f | .ldgB _ _ _ f | .stgB _ _ _ f | .ldlH _ _ _ f
  | .stlH _ _ _ f | .ldgH _ _ _ f | .stgH _ _ _ f | .ldlW _ _ _ f | .stlW _ _ _ f | .ldgW _ _ _ f
  | .stgW _ _ _ f | .ldlD _ _ _ f | .stlD _ _ _ f | .ldgD _ _ _ f | .stgD _ _ _ f | .ldlQ _ _ _ f
  | .stlQ _ _ _ f | .ldgQ _ _ _ f | .stgQ _ _ _ f | .atl _ _ _ f | .tap _ _ f | .tapNorm _ _ f
  | .spoke _ _ f | .kvtag _ _ f | .bnds _ _ f | .kvmove _ _ f | .topk _ _ f | .ldf _ _ _ f | .stf _ _ _ f
  | .stfRs _ _ _ f | .cfill _ _ f | .gathW _ _ _ f | .gathF _ _ _ f | .gathD _ _ _ f | .scatW _ _ _ f
  | .scatD _ _ _ f | .kvrot _ _ _ f | .kvrq _ _ _ f | .kvap _ _ _ f | .copy _ _ f | .copyx _ _ f
  | .bcopy _ _ _ f | .mma _ _ _ f | .mmas _ _ f | .accz _ _ f | .attn _ _ _ f | .attnr _ _ _ f
  | .ldvsW _ _ _ f | .ldvsD _ _ _ f | .ldvsQ _ _ _ f | .valid _ _ f | .verr _ _ f | .casv _ _ _ f
  | .cas _ _ _ f | .atom _ _ _ f | .red _ _ _ f | .ldacqW _ _ _ f | .ldacqD _ _ _ f | .strelW _ _ _ f
  | .strelD _ _ _ f | .launch _ _ f =>
    f.toNat
  | _ => 0

/-- The instruction reads the word of the next slot (R48). -/
def Instr.namesLit (i : Instr) : Bool := i.regUses.any (fun u => u.src && decide (u.n = 1) && decide (u.reg = 127#7))

end Sys2Proof
end

