-- ==== Sys2Proof/WellFormed.lean ====
section
/-!
DEFINITION. When an instruction's fields hold only what its entry allows (R42, R45 to R49, R51 to R53). The
rest, that `lit` needs a data slot after the instruction, depends on where the word stands and is checked
where the instruction issues.
-/

namespace Sys2Proof

/-- Every register field names registers the instruction may name, and every immediate field holds a listed
value. An instruction that is not well formed traps with `ILLOP`. -/
def Instr.wf (i : Instr) : Bool := i.regUses.all RegUse.legal && i.fieldsOk

end Sys2Proof
end

