-- ==== Sys2Proof/Machine/Operands.lean ====
section
/-!
DEFINITION. The operand forms of a core instruction in one lane (R41, R47 to R49), the checks every
instruction makes at issue in the order of R62, and the one shape all core instructions have: each member of
the issuing group traps, completes or holds the group (R61), and the group is regrouped (R13).
-/

namespace Sys2Proof.Machine

/-- What the checks at issue look at: whether the word's fields are legal, and its register operands. -/
structure Form where
  ok : Bool
  uses : List RegUse

/-- An operand names `lit` (R48). -/
def Form.namesLit (fm : Form) : Bool := fm.uses.any (fun u => u.src && decide (u.n = 1) && decide (u.reg = 127#7))

/-- The form of an instruction. -/
def instrForm (i : Instr) : Form := { ok := i.wf, uses := i.regUses }

/-- One member of the issuing group, as it stands at issue: its results that have landed are in its
registers (R39). -/
structure Lane where
  s : State
  tm : Team
  th : Thread

/-- A form written out: its register operands, and whether its other fields are legal. -/
def Form.of (uses : List RegUse) (fields : Bool) : Form := { ok := uses.all RegUse.legal && fields, uses := uses }

namespace Lane

/-- The allocation register a window name names (R47). -/
def alloc (l : Lane) (r : BitVec 7) : Nat := 8 * l.th.win + r.toNat

/-- The value of a register field (R47). -/
def reg (l : Lane) (r : BitVec 7) : Word :=
  match r.toNat with
  | 120 => 0
  | 121 => BitVec.ofNat 32 (laneOf l.th.idx)
  | 122 => BitVec.ofNat 32 l.th.idx
  | 123 => BitVec.ofNat 32 l.tm.gridIdx
  | 124 => BitVec.ofNat 32 (l.s.logicalCore l.tm.core)
  | 125 => BitVec.ofNat 32 l.th.role
  | 126 => BitVec.ofNat 32 l.s.now
  | 127 => (match l.s.cur.lit with | .word w => w | _ => 0)
  | _ => l.th.regs.getD (l.alloc r) 0

/-- The value of a pair (R49). -/
def pair (l : Lane) (r : BitVec 7) : DWord := DWord.mk (l.reg r) (l.reg (r + 1))

/-- Words from n registers from r up. -/
def words (l : Lane) (r : BitVec 7) (n : Nat) : List Word := (List.range n).map (fun i => l.reg (r + BitVec.ofNat 7 i))

/-- The allocation registers that n words from r up are written to; a write of `vz` is discarded (R47). -/
def dsts (l : Lane) (r : BitVec 7) (n : Nat) : List Nat :=
  if r = 120#7 then [] else (List.range n).map (fun i => l.alloc r + i)

/-- A write of one register (R47). -/
def wr (l : Lane) (r : BitVec 7) (v : Word) : List Landing := if r = 120#7 then [] else [.reg (l.alloc r) v]

/-- A write of a pair (R49). -/
def wr2 (l : Lane) (r : BitVec 7) (v : DWord) : List Landing :=
  [.reg (l.alloc r) v.lo, .reg (l.alloc r + 1) v.hi]

def privileged (l : Lane) : Bool := l.th.st = .trapped

/-- Whose access a lane makes (R116, R358). -/
def who (l : Lane) : Accessor := { core := l.tm.core, fn := l.tm.fn, priv := l.privileged, lane := laneOf l.th.idx }

/-- A use of window names that reaches beyond the allocation (R48). -/
def outside (l : Lane) (u : RegUse) : Bool := u.reg.toNat < 120 && decide (l.th.regs.length < l.alloc u.reg + u.n)

/-- A source register that is poisoned, or a poisoned data slot read as `lit` (R62, R327). -/
def poisonedUse (l : Lane) (u : RegUse) : Bool :=
  u.src && (if u.reg = 127#7 then decide (l.s.cur.lit = .poisoned)
    else decide (u.reg.toNat < 120) && l.th.poisonRegs.any (fun n => decide (l.alloc u.reg ≤ n) && decide (n < l.alloc u.reg + u.n)))

/-- The checks of R62 that the instruction word and its register operands allow: ILLOP (R42, R46 to R49, R51
to R53), REGRANGE (R48), MCHK for a poisoned source (R327). -/
def check (l : Lane) (fm : Form) : Option Trap :=
  if !fm.ok || (fm.namesLit && decide (l.s.cur.lit = .none)) then some (.of .illop)
  else if fm.uses.any l.outside then some (.of .regrange)
  else if fm.uses.any l.poisonedUse then some (.of .mchk)
  else none

end Lane

/-- What an instruction does in one member that completes it. -/
structure Done where
  writes : List Landing := []        -- fixed-latency results (R39)
  lat : Nat := 0
  goto : Option DWord := none        -- a taken branch's target
  stay : Bool := false               -- the program counter stays at this instruction
  flag : Nat := 0                    -- the flag it counts on (R43)
  dst : List Nat := []               -- where an operation in flight writes its result
  trap : Option Trap := none         -- a cause its operation holds
  op : Option OpKind := none         -- the operation in flight
  acts : List (Option Nat × SqAct) := []   -- entries for the store queue (R195)
  upd : Thread → Thread := id        -- the thread's own state

/-- What an instruction does in one member (R61). -/
inductive LaneOut where
  | trap (t : Trap)
  | done (d : Done)
  /-- A cause held until the thread's next FENCE is delivered (R206, R324). -/
  | deliver (d : Deferred)
  /-- The whole group is held at issue. -/
  | hold

/-- A refused condition traps; otherwise on. -/
def LaneOut.guard (bad : Bool) (t : Trap) (k : LaneOut) : LaneOut := if bad then .trap t else k

/-- A member after it has completed an instruction (R38, R39, R43). -/
def Done.apply (d : Done) (now pick order : Nat) (th : Thread) : Thread :=
  let th := { th with lastIssue := some now }
  let th := if d.stay then th else match d.goto with
    | some pc => th.jumpTo pc
    | none => th.advance
  d.upd ((th.addPend now d.lat pick order d.writes).flagUp d.flag)

/-- The lane of a member of a team. -/
def State.laneFor (s : State) (tm : Team) (j : Nat) : Option Lane :=
  (tm.threads[j]?).map (fun th => { s := s, tm := tm, th := th.settle s.now })

/-- The issuing group's team and its lanes, in the order of their home lanes. -/
def State.issuer (s : State) : Option (Team × List Lane) :=
  match s.teams[s.cur.team]? with
  | none => none
  | some tm =>
    let ls := s.cur.members.filterMap (s.laneFor tm)
    if ls.isEmpty then none else some (tm, ls)

/-- The group is held at issue: it has not issued, and is ready again in the next cycle at the earliest. DESIGN CHOICE
(log entry 71): it has taken its slot for this cycle, and the other ready groups of the slot were passed over. -/
def State.holdGroup (s : State) : State :=
  s.modTeam s.cur.team (fun t =>
    { t with groups := t.groups.map (fun g => if g.members = s.cur.members then { g with readyAt := s.now + 1 } else g) })

/-- A member's outcome with the checks every instruction makes, and a full flag counter that holds the group
(R43). -/
def Lane.outcome (l : Lane) (fm : Form) (f : Lane → LaneOut) : LaneOut :=
  match l.check fm with
  | some t => .trap t
  | none =>
    match f l with
    | .done d => if d.flag ≠ 0 ∧ 15 ≤ l.th.flag d.flag then .hold else .done d
    | o => o

def LaneOut.isHold : LaneOut → Bool
  | .hold => true
  | _ => false

/-- The operation is an `LDVS` (R207). -/
def OpKind.isLdvs : OpKind → Bool
  | .ldvs .. => true
  | _ => false

/-- The operation of a completed member. -/
def Done.opOf (d : Done) (l : Lane) (ins id : Nat) : List Op :=
  match d.op with
  | some kd => [{ id := id, ins := ins, team := l.s.cur.team, thr := l.th.idx, flag := d.flag, dst := d.dst,
                  trap := d.trap, passed := [], seen := [], ldvs := kd.isLdvs, kind := kd }]
  | none => []

/-- Its entries for the store queue. -/
def Done.sqOf (d : Done) (l : Lane) (ins id : Nat) : List SqEntry :=
  d.acts.map (fun a => { id := id, ins := ins, core := l.tm.core, team := l.s.cur.team, thr := l.th.idx,
                         op := if d.op.isSome then id else 0, release := a.1, act := a.2 })

/-- The effect of an instruction on the whole state once no member holds it: members that complete take their
new state, operations and store-queue entries follow in lane order, the group becomes its pieces, and the
members that trap take their traps in index order (R61, R13). -/
def State.commit (s : State) (outs : List (Lane × LaneOut)) : State :=
  let new (th : Thread) : Thread :=
    match outs.find? (fun o => o.1.th.idx = th.idx) with
    | some (l, .done d) => d.apply s.now (s.draw (laneOf th.idx) 2) s.nextId l.th
    | _ => th
  let s1 := s.modTeam s.cur.team (fun t => { t with threads := t.threads.map new })
  let per : List (List Op × List SqEntry) := outs.zipIdx.map (fun (p : (Lane × LaneOut) × Nat) => match p.1.2 with
    | .done d => (d.opOf p.1.1 s.nextId (s.nextId + p.2), d.sqOf p.1.1 s.nextId (s.nextId + p.2))
    | _ => ([], []))
  let s2 := { s1 with
    ops := s1.ops ++ per.flatMap Prod.fst
    sq := s1.sq ++ per.flatMap Prod.snd
    nextId := s1.nextId + outs.length }
  let s3 := s2.modTeam s.cur.team (Team.regroup s.now s.cur.members)
  let traps := outs.filterMap (fun o => match o.2 with | .trap t => some (o.1.th.idx, t) | _ => none)
  (sortBy id (traps.map (fun p => p.1))).foldl (fun s j =>
    match traps.find? (fun p => p.1 = j) with
    | some p => s.trapIssued s.cur.team j p.2
    | none => s) s3

/-- An instruction whose members act each on its own (R61), with what follows it in the state. -/
def runFormThen (fm : Form) (s : State) (f : Lane → LaneOut) (after : List Lane → State → State) :
    Host.Outcome State Fault Refusal :=
  match s.issuer with
  | none => .fault .noIssuer
  | some (_, ls) =>
    let outs := ls.map (fun l => (l, l.outcome fm f))
    if outs.any (fun o => o.2.isHold) then .next s.holdGroup
    else
      let completed := outs.filterMap (fun o => match o.2 with | .done _ => some o.1 | _ => none)
      .next (after completed (s.commit outs))

/-- The same for an instruction. -/
def runLanesThen (i : Instr) (s : State) (f : Lane → LaneOut) (after : List Lane → State → State) :
    Host.Outcome State Fault Refusal := runFormThen (instrForm i) s f after

/-- An instruction whose members act each on its own (R61). -/
def runLanes (i : Instr) (s : State) (f : Lane → LaneOut) : Host.Outcome State Fault Refusal :=
  runLanesThen i s f (fun _ s => s)

/-! ## Members taken one after another -/

/-- A member completes: its new state, its operation and its store-queue entries. -/
def State.finishMember (s : State) (l : Lane) (d : Done) : State :=
  let s1 := s.modThread s.cur.team l.th.idx (fun _ => d.apply s.now (s.draw (laneOf l.th.idx) 2) s.nextId l.th)
  { s1 with ops := s1.ops ++ d.opOf l s.nextId s.nextId, sq := s1.sq ++ d.sqOf l s.nextId s.nextId, nextId := s.nextId + 1 }

/-- An instruction that a member completes would raise its flag's counter above 15 (R43). -/
def Lane.full (l : Lane) (d : Done) : Bool := decide (d.flag ≠ 0) && decide (15 ≤ l.th.flag d.flag)

/-- One member acts on the state the members before it have left: its outcome, and for a member that completes
what follows in the state. A member that no longer runs is passed over, and one that is held stays where it is. -/
def State.member (fm : Form) (f : Lane → LaneOut × (State → State)) (s : State) (j : Nat) : State :=
  match s.teams[s.cur.team]? with
  | none => s
  | some tm =>
    match s.laneFor tm j with
    | none => s
    | some l =>
      if !l.th.runnable then s
      else
        match l.check fm with
        | some t => s.trapIssued s.cur.team j t
        | none =>
          match f l with
          | (.trap t, _) => s.trapIssued s.cur.team j t
          | (.deliver c, _) => s.deliverIn s.now s.cur.team j c
          | (.done d, after) => if l.full d then s else after (s.finishMember l d)
          | (.hold, _) => s

/-- A member passes the checks and would complete, but its flag's counter is full (R43). -/
def State.memberFull (fm : Form) (f : Lane → LaneOut × (State → State)) (s : State) (j : Nat) : Bool :=
  match s.teams[s.cur.team]? with
  | none => false
  | some tm =>
    match s.laneFor tm j with
    | none => false
    | some l =>
      l.th.runnable && (l.check fm).isNone &&
      (match (f l).1 with
       | .done d => l.full d
       | _ => false)

/-- The issuing group is dissolved while its members act. -/
def State.dissolve (s : State) : State :=
  s.modTeam s.cur.team (fun t => { t with groups := t.groups.filter (fun g => g.members ≠ s.cur.members) })

/-- The members that are in no group are the pieces of the issuing group (R13). -/
def Team.gather (now : Nat) (members : List Nat) (t : Team) : Team :=
  let rest := members.filter (fun j => !t.groups.any (fun g => g.members.contains j))
  { t with groups := t.groups ++ pieces now t rest }

/-- An instruction whose members act one after another, in ascending team-local index (R24, R97), each after what
`before` does for it. `held` and a full flag counter (R43) hold the whole group. -/
def runSeqAfter (before : State → Nat → State) (fm : Form) (s : State) (held : Lane → Bool)
    (f : Lane → LaneOut × (State → State)) : Host.Outcome State Fault Refusal :=
  match s.issuer with
  | none => .fault .noIssuer
  | some (_, ls) =>
    let js := sortBy id (ls.map (fun l => l.th.idx))
    if ls.any (fun l => (l.check fm).isNone && held l) || js.any (State.memberFull fm f s.dissolve) then .next s.holdGroup
    else
      let s' := js.foldl (fun s j => State.member fm f (before s j) j) s.dissolve
      .next (s'.modTeam s.cur.team (Team.gather s.now s.cur.members))

/-- The same with its form written out and nothing between the members. -/
def runFormSeq (fm : Form) (s : State) (held : Lane → Bool) (f : Lane → LaneOut × (State → State)) :
    Host.Outcome State Fault Refusal := runSeqAfter (fun s _ => s) fm s held f

/-- The same for an instruction. -/
def runSeq (i : Instr) (s : State) (held : Lane → Bool) (f : Lane → LaneOut × (State → State)) :
    Host.Outcome State Fault Refusal := runFormSeq (instrForm i) s held f

/-- An operation on a join register: before each member the threads that trapped in a place before its own have left
(R24). -/
def runJoin (i : Instr) (s : State) (held : Lane → Bool) (f : Lane → LaneOut × (State → State)) :
    Host.Outcome State Fault Refusal := runSeqAfter (fun s j => s.leaveBefore s.cur.team j) (instrForm i) s held f

/-! ## Releases (R191) -/

/-- A memory access of an operation has still to take its place. -/
def OpKind.unbound : OpKind → Bool
  | .load .. | .ldvs .. | .valid .. | .verr .. | .queued | .hostAtomic .. | .lanes .. => true
  | _ => false

/-- The operation is, or is also, this thread's. -/
def Op.involves (o : Op) (k j : Nat) : Bool :=
  decide (o.team = k) && (match o.kind with
    | .lanes ms _ _ => ms.any (fun m => decide (m.1 = j))
    | _ => decide (o.thr = j))

/-- Every earlier access of a thread has taken its place: its reads have read, and its writes have been
performed or accepted by their port (R192, R195). A release waits for it, but for no copy (R180). -/
def State.quiet (s : State) (k j : Nat) : Bool :=
  !s.sq.any (fun e => decide (e.team = k) && decide (e.thr = j) && decide (e.act ≠ .copy)) &&
  !s.pannier.any (fun e => e.reqs.any (fun r => decide (r.team = k) && decide (r.thr = j))) &&
  !s.ops.any (fun o => o.involves k j && o.kind.unbound)

def Lane.quiet (l : Lane) : Bool := l.s.quiet l.s.cur.team l.th.idx

/-- An entry of the store queue is a thread's: its own, or the copy of a group that it belongs to (R182, R195). -/
def State.entryIs (s : State) (e : SqEntry) (k j : Nat) : Bool :=
  decide (e.team = k) && (decide (e.thr = j) || (decide (e.act = .copy) &&
    (match s.op? e.op with
     | some o => (match o.kind with | .copy c => c.members.contains j | _ => false)
     | none => false)))

/-- Every earlier entry of the core's store queue that is a thread's has been performed, copies among them. -/
def State.storesDone (s : State) (k j : Nat) : Bool := !s.sq.any (fun e => s.entryIs e k j)

/-- What holds an `MMA` at issue: an access of its signer that is not in place, an entry of the store queue that is not
performed (R295), or a descriptor at a host to which no link goes (R349). -/
def Lane.signHeld (l : Lane) (a : BitVec 7) : Bool :=
  !l.quiet || !l.s.storesDone l.s.cur.team l.th.idx || l.s.placesAway l.who .load (l.pair a) 64

/-! ## Common shapes -/

/-- A fixed-latency instruction that writes one register from the lane's operands. -/
def fixed (i : Instr) (lat : Nat) (d : BitVec 7) (f : Lane → Word) (s : State) : Host.Outcome State Fault Refusal :=
  runLanes i s (fun l => .done { writes := l.wr d (f l), lat := lat })

/-- The same with a pair as its result. -/
def fixed2 (i : Instr) (lat : Nat) (d : BitVec 7) (f : Lane → DWord) (s : State) : Host.Outcome State Fault Refusal :=
  runLanes i s (fun l => .done { writes := l.wr2 d (f l), lat := lat })

end Sys2Proof.Machine
end

