-- ==== Sys2Proof/Machine/Cross.lean ====
section
/-!
DEFINITION. Cross-lane instructions (R21 to R23, R83 to R88): what one lane receives from the present lanes of
its tile, and one meaning for each instruction.
-/

namespace Sys2Proof.Machine

/-! ## Tiles -/

/-- The present lanes: by home lane, the member there. -/
abbrev Present := Nat → Option Lane

/-- The first lane of the tile of width T that holds lane L. -/
def tileBase (T L : Nat) : Nat := L - L % T

/-- The lanes of a tile in ascending order. -/
def tileLanes (T L : Nat) : List Nat := List.range' (tileBase T L) T

/-- The members that take part: those that meet no trap condition of their own (R61). -/
def partners (i : Instr) (s : State) : List Lane :=
  match s.issuer with
  | none => []
  | some (_, ls) => ls.filter (fun l => (l.check (instrForm i)).isNone)

def presentOf (ls : List Lane) : Present := fun L => ls.find? (fun l => laneOf l.th.idx = L)

/-- The members hold different partition settings (R23). -/
def mixedParts (s : State) : Bool :=
  match s.issuer with
  | some (_, l :: ls) => ls.any (fun m => m.th.part ≠ l.th.part)
  | _ => false

/-- A cross-lane instruction: each lane's word from the present lanes, its partition setting and itself. -/
def cross (i : Instr) (lat : Nat) (d : BitVec 7) (s : State) (f : Present → Nat → Lane → Word) :
    Host.Outcome State Fault Refusal :=
  let at' := presentOf (partners i s)
  let mixed := mixedParts s
  runLanes i s (fun l => .guard mixed (.of .partmix) (.done { writes := l.wr d (f at' l.th.part l), lat := lat }))

/-! ## Lane exchange (R84) -/

/-- What an absent source lane gives (R22). -/
def absentWord : Word := 0x7FA00001#32

/-- The word of the source lane a rule names, the old d where it names none. -/
def fromLane (at' : Present) (a d : BitVec 7) (l : Lane) : Option Nat → Word
  | none => l.reg d
  | some L => match at' L with | some m => m.reg a | none => absentWord

def pickSource (T L b : Nat) : Option Nat := some (tileBase T L + b % T)
def backSource (T L b : Nat) : Option Nat := if T ≤ b ∨ L < tileBase T L + b then none else some (L - b)
def fwdSource (T L b : Nat) : Option Nat := if T ≤ b ∨ tileBase T L + T ≤ L + b then none else some (L + b)
def flipSource (T L b : Nat) : Option Nat := some (tileBase T L + ((L % T) ^^^ (b % T)))
def rotSource (T L b : Nat) : Option Nat := some (tileBase T L + (L % T + b) % T)

def exchange (i : Instr) (d a b : BitVec 7) (s : State) (src : Nat → Nat → Nat → Option Nat) :
    Host.Outcome State Fault Refusal :=
  cross i 6 d s (fun at' T l => fromLane at' a d l (src T (laneOf l.th.idx) (l.reg b).toNat))

/-! ## Polls and matches (R85, R86) -/

/-- The present lanes of the tile, ascending. -/
def tileHere (at' : Present) (T : Nat) (l : Lane) : List Lane := (tileLanes T (laneOf l.th.idx)).filterMap at'

/-- The mask of some lanes. -/
def maskOf (ls : List Lane) : Word := ls.foldl (fun m l => m ||| (1#32 <<< laneOf l.th.idx)) 0

def countOf (ls : List Lane) : Word := BitVec.ofNat 32 ls.length

/-- The present lanes of the tile whose a is not 0. -/
def tileSome (at' : Present) (a : BitVec 7) (T : Nat) (l : Lane) : List Lane :=
  (tileHere at' T l).filter (fun m => decide (m.reg a ≠ 0))

/-- The present lanes of the tile that hold the lane's a (R86). -/
def tileEqual (at' : Present) (a : BitVec 7) (T : Nat) (l : Lane) : List Lane :=
  (tileHere at' T l).filter (fun m => decide (m.reg a = l.reg a))

/-! ## Scans and reductions (R87, R88) -/

/-- One lane of a fold: the accumulator before and after it. A head starts anew; an absent lane is skipped, and
ends a segment. -/
def foldLane (op : Word → Word → Word) (e : Word) (a : BitVec 7) (head : Option (BitVec 7)) (at' : Present)
    (acc : Word × Word) (L : Nat) : Word × Word :=
  match at' L, head with
  | none, none => (acc.2, acc.2)
  | none, some _ => (e, e)
  | some m, none => (acc.2, op acc.2 (m.reg a))
  | some m, some b => if m.reg b ≠ 0 then (e, op e (m.reg a)) else (acc.2, op acc.2 (m.reg a))

/-- The fold over the lanes of the tile up to and with lane `last`: before it and after it. -/
def tileFold (op : Word → Word → Word) (e : Word) (a : BitVec 7) (head : Option (BitVec 7)) (at' : Present)
    (T L last : Nat) : Word × Word :=
  ((tileLanes T L).filter (· ≤ last)).foldl (foldLane op e a head at') (e, e)

def scanIn (op : Word → Word → Word) (e : Word) (a : BitVec 7) (head : Option (BitVec 7)) (at' : Present)
    (T : Nat) (l : Lane) : Word := (tileFold op e a head at' T (laneOf l.th.idx) (laneOf l.th.idx)).2
def scanEx (op : Word → Word → Word) (e : Word) (a : BitVec 7) (at' : Present) (T : Nat) (l : Lane) : Word :=
  (tileFold op e a none at' T (laneOf l.th.idx) (laneOf l.th.idx)).1
def reduceTile (op : Word → Word → Word) (e : Word) (a : BitVec 7) (at' : Present) (T : Nat) (l : Lane) : Word :=
  (tileFold op e a none at' T (laneOf l.th.idx) 31).2

def maxSOp (x y : Word) : Word := if x.slt y then y else x
def minSOp (x y : Word) : Word := if y.slt x then y else x

/-! ## Meanings -/

/-- `LANE.PICK` (R84). -/
def execLanePick (d a b : BitVec 7) (s : State) : Host.Outcome State Fault Refusal :=
  exchange (.lanePick d a b) d a b s pickSource

/-- `LANE.BACK` (R84). -/
def execLaneBack (d a b : BitVec 7) (s : State) : Host.Outcome State Fault Refusal :=
  exchange (.laneBack d a b) d a b s backSource

/-- `LANE.FWD` (R84). -/
def execLaneFwd (d a b : BitVec 7) (s : State) : Host.Outcome State Fault Refusal :=
  exchange (.laneFwd d a b) d a b s fwdSource

/-- `LANE.FLIP` (R84). -/
def execLaneFlip (d a b : BitVec 7) (s : State) : Host.Outcome State Fault Refusal :=
  exchange (.laneFlip d a b) d a b s flipSource

/-- `LANE.ROT` (R84). -/
def execLaneRot (d a b : BitVec 7) (s : State) : Host.Outcome State Fault Refusal :=
  exchange (.laneRot d a b) d a b s rotSource

/-- `POLL.EVERY` (R85). -/
def execPollEvery (d a : BitVec 7) (s : State) : Host.Outcome State Fault Refusal :=
  cross (.pollEvery d a) 6 d s (fun at' T l => Word.ofBool (decide ((tileSome at' a T l).length = (tileHere at' T l).length)))

/-- `POLL.SOME` (R85). -/
def execPollSome (d a : BitVec 7) (s : State) : Host.Outcome State Fault Refusal :=
  cross (.pollSome d a) 6 d s (fun at' T l => Word.ofBool (!(tileSome at' a T l).isEmpty))

/-- `POLL.MASK` (R85). -/
def execPollMask (d a : BitVec 7) (s : State) : Host.Outcome State Fault Refusal :=
  cross (.pollMask d a) 6 d s (fun at' T l => maskOf (tileSome at' a T l))

/-- `POLL.SAME` (R85). -/
def execPollSame (d a : BitVec 7) (s : State) : Host.Outcome State Fault Refusal :=
  cross (.pollSame d a) 6 d s (fun at' T l => Word.ofBool (decide ((tileEqual at' a T l).length = (tileHere at' T l).length)))

/-- `POLL.PRES` (R85). -/
def execPollPres (d : BitVec 7) (s : State) : Host.Outcome State Fault Refusal :=
  cross (.pollPres d) 6 d s (fun at' T l => maskOf (tileHere at' T l))

/-- `POLL.CNT` (R85). -/
def execPollCnt (d a : BitVec 7) (s : State) : Host.Outcome State Fault Refusal :=
  cross (.pollCnt d a) 6 d s (fun at' T l => countOf (tileSome at' a T l))

/-- `MATCH` (R86). -/
def execMatchLanes (d a : BitVec 7) (s : State) : Host.Outcome State Fault Refusal :=
  cross (.matchLanes d a) 6 d s (fun at' T l => maskOf (tileEqual at' a T l))

/-- `MRANK` (R86). -/
def execMrank (d a : BitVec 7) (s : State) : Host.Outcome State Fault Refusal :=
  cross (.mrank d a) 6 d s (fun at' T l => countOf ((tileEqual at' a T l).filter (fun m => decide (laneOf m.th.idx < laneOf l.th.idx))))

/-- `MCNT` (R86). -/
def execMcnt (d a : BitVec 7) (s : State) : Host.Outcome State Fault Refusal :=
  cross (.mcnt d a) 6 d s (fun at' T l => countOf (tileEqual at' a T l))

/-- `MLEAD` (R86). -/
def execMlead (d a : BitVec 7) (s : State) : Host.Outcome State Fault Refusal :=
  cross (.mlead d a) 6 d s (fun at' T l => BitVec.ofNat 32 ((tileEqual at' a T l).foldl (fun n m => min n (laneOf m.th.idx)) (laneOf l.th.idx)))

/-- `TSCAN.ADD.I` (R87). -/
def execTscanAddI (d a : BitVec 7) (s : State) : Host.Outcome State Fault Refusal :=
  cross (.tscanAddI d a) 6 d s (fun at' T l => scanIn (· + ·) 0 a none at' T l)

/-- `TSCAN.ADD.F` (R87). -/
def execTscanAddF (d a : BitVec 7) (s : State) : Host.Outcome State Fault Refusal :=
  cross (.tscanAddF d a) 6 d s (fun at' T l => scanIn f32Add 0x80000000#32 a none at' T l)

/-- `TSCAN.MAX.S` (R87). -/
def execTscanMaxS (d a : BitVec 7) (s : State) : Host.Outcome State Fault Refusal :=
  cross (.tscanMaxS d a) 6 d s (fun at' T l => scanIn maxSOp 0x80000000#32 a none at' T l)

/-- `TSCAN.MIN.S` (R87). -/
def execTscanMinS (d a : BitVec 7) (s : State) : Host.Outcome State Fault Refusal :=
  cross (.tscanMinS d a) 6 d s (fun at' T l => scanIn minSOp 0x7FFFFFFF#32 a none at' T l)

/-- `TSCAN.EX.ADD.I` (R87). -/
def execTscanExAddI (d a : BitVec 7) (s : State) : Host.Outcome State Fault Refusal :=
  cross (.tscanExAddI d a) 6 d s (fun at' T l => scanEx (· + ·) 0 a at' T l)

/-- `TSCAN.EX.ADD.F` (R87). -/
def execTscanExAddF (d a : BitVec 7) (s : State) : Host.Outcome State Fault Refusal :=
  cross (.tscanExAddF d a) 6 d s (fun at' T l => scanEx f32Add 0x80000000#32 a at' T l)

/-- `TSCAN.SEG.ADD.I` (R87). -/
def execTscanSegAddI (d a b : BitVec 7) (s : State) : Host.Outcome State Fault Refusal :=
  cross (.tscanSegAddI d a b) 6 d s (fun at' T l => scanIn (· + ·) 0 a (some b) at' T l)

/-- `TSCAN.SEG.ADD.F` (R87). -/
def execTscanSegAddF (d a b : BitVec 7) (s : State) : Host.Outcome State Fault Refusal :=
  cross (.tscanSegAddF d a b) 6 d s (fun at' T l => scanIn f32Add 0x80000000#32 a (some b) at' T l)

/-- `TRED.ADD.I` (R87, R88). -/
def execTredAddI (d a : BitVec 7) (s : State) : Host.Outcome State Fault Refusal :=
  cross (.tredAddI d a) 6 d s (fun at' T l => reduceTile (· + ·) 0 a at' T l)

/-- `TRED.ADD.F` (R87, R88). -/
def execTredAddF (d a : BitVec 7) (s : State) : Host.Outcome State Fault Refusal :=
  cross (.tredAddF d a) 6 d s (fun at' T l => reduceTile f32Add 0x80000000#32 a at' T l)

/-- `TRED.MAX.S` (R87, R88). -/
def execTredMaxS (d a : BitVec 7) (s : State) : Host.Outcome State Fault Refusal :=
  cross (.tredMaxS d a) 6 d s (fun at' T l => reduceTile maxSOp 0x80000000#32 a at' T l)

/-- `TRED.MIN.S` (R87, R88). -/
def execTredMinS (d a : BitVec 7) (s : State) : Host.Outcome State Fault Refusal :=
  cross (.tredMinS d a) 6 d s (fun at' T l => reduceTile minSOp 0x7FFFFFFF#32 a at' T l)

/-- `TRED.MAX.F` (R87, R88). -/
def execTredMaxF (d a : BitVec 7) (s : State) : Host.Outcome State Fault Refusal :=
  cross (.tredMaxF d a) 6 d s (fun at' T l => reduceTile f32Max 0xFF800000#32 a at' T l)

/-- `TRED.MIN.F` (R87, R88). -/
def execTredMinF (d a : BitVec 7) (s : State) : Host.Outcome State Fault Refusal :=
  cross (.tredMinF d a) 6 d s (fun at' T l => reduceTile f32Min 0x7F800000#32 a at' T l)

/-- `TRED.AND` (R87, R88). -/
def execTredAnd (d a : BitVec 7) (s : State) : Host.Outcome State Fault Refusal :=
  cross (.tredAnd d a) 6 d s (fun at' T l => reduceTile (· &&& ·) 0xFFFFFFFF#32 a at' T l)

/-- `TRED.OR` (R87, R88). -/
def execTredOr (d a : BitVec 7) (s : State) : Host.Outcome State Fault Refusal :=
  cross (.tredOr d a) 6 d s (fun at' T l => reduceTile (· ||| ·) 0 a at' T l)

end Sys2Proof.Machine
end

