-- ==== Sys2Proof/Machine/Float.lean ====
section
/-!
DEFINITION. Floating point, conversion and special functions (R144 to R164): each lane's result, and one
meaning for each instruction.
-/

namespace Sys2Proof.Machine

/-! ## Lane results -/

/-- A compare of FP32 values; an unordered pair answers `un` (R148). -/
def f32Cmp (un : Bool) (p : FVal → FVal → Bool) (a b : Word) : Word :=
  let x := f32Val a
  let y := f32Val b
  Word.ofBool (if x.isNan || y.isNan then un else p x y)

/-- `FCLASS` (R149). -/
def fclass (a : Word) : Word :=
  let e := bits a.toNat 30 23
  let t := bits a.toNat 22 0
  let k :=
    if e = 255 then
      if t = 0 then (if a.msb then 0 else 7) else if a.getLsbD 22 then 8 else 9
    else if e = 0 then
      if t = 0 then (if a.msb then 3 else 4) else (if a.msb then 2 else 5)
    else if a.msb then 1 else 6
  1#32 <<< k

/-- `BYTP` (R157). -/
def bytePick (a : DWord) (b : Word) : Word :=
  let byte (i : Nat) : Nat :=
    let s := bits b.toNat (4 * i + 3) (4 * i)
    if 8 ≤ s then 0 else bits a.toNat (8 * s + 7) (8 * s)
  BitVec.ofNat 32 (byte 0 + byte 1 * 2 ^ 8 + byte 2 * 2 ^ 16 + byte 3 * 2 ^ 24)

/-- `HPK` (R157). -/
def halfPack (a b : Word) : Word := (b <<< 16) ||| (a &&& 0xFFFF#32)

/-- A lane's results with the status they set (R144). -/
def withStat (i : Instr) (lat : Nat) (d : BitVec 7) (s : State) (f : Lane → Word × Word) :
    Host.Outcome State Fault Refusal :=
  runLanes i s (fun l => .done { writes := l.wr d (f l).1 ++ statLanding (f l).2, lat := lat })

/-! ## CVT (R134, R136, R156) -/

/-- The stochastic state advances (R134). -/
def xorshift (x : Word) : Word :=
  let x := x ^^^ (x <<< 13)
  let x := x ^^^ (x >>> 17)
  x ^^^ (x <<< 5)

/-- The issue slot of the issuing group (R27). -/
def State.curSlot (s : State) : Nat := blockOf (s.cur.members.foldl min (s.cur.members.headD 0)) % 4

/-- The advanced state that the RS instruction uses, before it is rotated for a lane (R134). -/
def Lane.rsWord (l : Lane) : Word := xorshift (l.tm.rs.getD l.s.curSlot 0)

/-- The rotated word of a lane (R134). -/
def Lane.rsLane (l : Lane) : Word := l.rsWord.rotateLeft (laneOf l.th.idx)

/-- The state has advanced once, if a member performed the instruction (R156). -/
def State.advanceRs (s : State) (ls : List Lane) : State :=
  match ls with
  | [] => s
  | l :: _ => s.modTeam s.cur.team (fun t => { t with rs := t.rs.set s.curSlot l.rsWord })

/-- `CVT` (R136, R156). -/
def execCvt (d a c : BitVec 7) (t : BitVec 1) (r : BitVec 3) (s : State) : Host.Outcome State Fault Refusal :=
  runLanesThen (.cvt d a c t r) s
    (fun l =>
      let v := cvt c t r l.rsLane (l.reg a)
      .done { writes := l.wr d v.1 ++ statLanding v.2.bits, lat := 6 })
    (fun ls s => if r = 4#3 then s.advanceRs ls else s)

/-! ## REQ (R137, R158) -/

/-- A requantised word and its status: `bits` the width of the result, `lo`, `hi` the bounds. -/
def reqWord (bits : Nat) (lo hi : Int) (signed : Bool) (a m p : Word) : Word × Word :=
  let z8 := Machine.bits p.toNat 15 8
  let z : Int := if signed then signedOf 8 z8 else z8
  let (w, c) := requant bits lo hi z a m (Machine.bits p.toNat 7 0)
  (w, if c then statSat else 0)

def reqForm (i : Instr) (n : Nat) (lo hi : Int) (signed : Bool) (d a b : BitVec 7) (s : State) :
    Host.Outcome State Fault Refusal :=
  withStat i 6 d s (fun l => reqWord n lo hi signed (l.reg a) (l.reg b) (l.reg (b + 1)))

/-! ## Row operations (R140, R162 to R164) -/

/-- What a tile's `SOFTMAX` comes to: each present lane's word, the status, and the TRAPINFO of the NaN row. -/
structure SoftRow where
  value : Lane → Word
  stat : Word
  nan : Option Nat

/-- The `SOFTMAX` of a tile's present lanes (R140). -/
def softRow (a b : BitVec 7) (here : List Lane) : SoftRow :=
  let row := here.filter (fun m => decide (m.reg b = 0))
  match row.find? (fun m => f32IsNaN (m.reg a)) with
  | some m => { value := fun _ => f32NaN, stat := 0, nan := some (laneOf m.th.idx) }
  | none =>
    let c := (row.filter (fun m => decide (m.reg a = f32Inf false))).length
    if 1 ≤ c then
      { value := fun m => if m.reg b = 0 ∧ m.reg a = f32Inf false then (FVal.fin false 1 0).ratioF32 (.fin false c 0) else 0
        stat := 0, nan := none }
    else
      let e (m : Lane) : DWord := if m.reg b = 0 then xexp (m.reg a) else 0
      let sum := here.foldl (fun t m => x64Add t (e m)) 0
      match x64Val sum with
      | .inf _ => { value := fun _ => f32NaN, stat := 0, nan := some 32 }
      | v =>
        if v.isZero then { value := fun _ => 0, stat := statEmpty, nan := none }
        else { value := fun m => x64Ratio (e m) sum, stat := 0, nan := none }

/-- The NaN trap that follows once the result has been written (R163). -/
def Thread.softTrap (now : Nat) (nan : Option Nat) (t : Thread) : Thread :=
  if t.nanTrap then { t with freeAt := now + 16, nanAt := nan } else t

/-- `SOFTMAX` (R140, R162, R163). -/
def execSoftmax (d a b : BitVec 7) (s : State) : Host.Outcome State Fault Refusal :=
  let at' := presentOf (partners (.softmax d a b) s)
  let mixed := mixedParts s
  runLanes (.softmax d a b) s (fun l =>
    let r := softRow a b (tileHere at' l.th.part l)
    .guard mixed (.of .partmix)
      (.done { writes := l.wr d (r.value l) ++ statLanding r.stat, lat := 16, upd := Thread.softTrap s.now r.nan }))

/-- 1 / sqrt(ss / n + 2^-k) for the exact sum of squares of a tile, rounded once (R164). -/
def rmsScale (k n : Nat) (sq : FVal) : Word :=
  match sq with
  | .nan => f32NaN
  | .inf _ => 0
  | .fin _ m e =>
    -- (m * 2^e * 2^k + n) / (n * 2^k)
    let e' := min e (-(k : Int))
    let num := m * 2 ^ (e - e').toNat + n * 2 ^ (-(k : Int) - e').toNat
    rsqrtRat num n e'

/-- `RMSN` for one lane (R164). -/
def rmsWord (k : Nat) (a b : BitVec 7) (here : List Lane) (l : Lane) : Word :=
  let vs := here.map (fun m => f32Val (m.reg a))
  if vs.any FVal.isNan then f32NaN
  else
    let ss := vs.foldl (fun t v => t.add (v.mul v)) (.fin false 0 0)
    f32Mul (f32Mul (l.reg a) (rmsScale k here.length ss)) (l.reg b)

def rmsForm (k : Nat) (i : Instr) (d a b : BitVec 7) (s : State) : Host.Outcome State Fault Refusal :=
  cross i 16 d s (fun at' T l => rmsWord k a b (tileHere at' T l) l)

/-! ## Meanings -/

/-- `FADD` (R146, R147). -/
def execFadd (d a b : BitVec 7) (s : State) : Host.Outcome State Fault Refusal :=
  fixed (.fadd d a b) 5 d (fun l => f32Add (l.reg a) (l.reg b)) s

/-- `FSUB` (R146, R147). -/
def execFsub (d a b : BitVec 7) (s : State) : Host.Outcome State Fault Refusal :=
  fixed (.fsub d a b) 5 d (fun l => f32Sub (l.reg a) (l.reg b)) s

/-- `FMUL` (R146, R147). -/
def execFmul (d a b : BitVec 7) (s : State) : Host.Outcome State Fault Refusal :=
  fixed (.fmul d a b) 5 d (fun l => f32Mul (l.reg a) (l.reg b)) s

/-- `FMIN` (R146, R147). -/
def execFmin (d a b : BitVec 7) (s : State) : Host.Outcome State Fault Refusal :=
  fixed (.fmin d a b) 5 d (fun l => f32Min (l.reg a) (l.reg b)) s

/-- `FMAX` (R146, R147). -/
def execFmax (d a b : BitVec 7) (s : State) : Host.Outcome State Fault Refusal :=
  fixed (.fmax d a b) 5 d (fun l => f32Max (l.reg a) (l.reg b)) s

/-- `FFMA` (R146). -/
def execFfma (d a b : BitVec 7) (s : State) : Host.Outcome State Fault Refusal :=
  fixed (.ffma d a b) 5 d (fun l => f32Fma (l.reg a) (l.reg b) (l.reg d)) s

/-- `FNEG` (R146). -/
def execFneg (d a : BitVec 7) (s : State) : Host.Outcome State Fault Refusal :=
  fixed (.fneg d a) 5 d (fun l => f32Neg (l.reg a)) s

/-- `FABS` (R146). -/
def execFabs (d a : BitVec 7) (s : State) : Host.Outcome State Fault Refusal :=
  fixed (.fabs d a) 5 d (fun l => f32Abs (l.reg a)) s

/-- `FSET.EQ` (R148). -/
def execFsetEq (d a b : BitVec 7) (s : State) : Host.Outcome State Fault Refusal :=
  fixed (.fsetEq d a b) 4 d (fun l => f32Cmp false FVal.eqv (l.reg a) (l.reg b)) s

/-- `FSET.NE` (R148). -/
def execFsetNe (d a b : BitVec 7) (s : State) : Host.Outcome State Fault Refusal :=
  fixed (.fsetNe d a b) 4 d (fun l => f32Cmp true (fun x y => !x.eqv y) (l.reg a) (l.reg b)) s

/-- `FSET.LT` (R148). -/
def execFsetLt (d a b : BitVec 7) (s : State) : Host.Outcome State Fault Refusal :=
  fixed (.fsetLt d a b) 4 d (fun l => f32Cmp false FVal.lt (l.reg a) (l.reg b)) s

/-- `FSET.LE` (R148). -/
def execFsetLe (d a b : BitVec 7) (s : State) : Host.Outcome State Fault Refusal :=
  fixed (.fsetLe d a b) 4 d (fun l => f32Cmp false (fun x y => !y.lt x) (l.reg a) (l.reg b)) s

/-- `FSET.GT` (R148). -/
def execFsetGt (d a b : BitVec 7) (s : State) : Host.Outcome State Fault Refusal :=
  fixed (.fsetGt d a b) 4 d (fun l => f32Cmp false (fun x y => y.lt x) (l.reg a) (l.reg b)) s

/-- `FSET.GE` (R148). -/
def execFsetGe (d a b : BitVec 7) (s : State) : Host.Outcome State Fault Refusal :=
  fixed (.fsetGe d a b) 4 d (fun l => f32Cmp false (fun x y => !x.lt y) (l.reg a) (l.reg b)) s

/-- `FSET.UN` (R148). -/
def execFsetUn (d a b : BitVec 7) (s : State) : Host.Outcome State Fault Refusal :=
  fixed (.fsetUn d a b) 4 d (fun l => f32Cmp true (fun _ _ => false) (l.reg a) (l.reg b)) s

/-- `FCLASS` (R149). -/
def execFclass (d a : BitVec 7) (s : State) : Host.Outcome State Fault Refusal :=
  fixed (.fclass d a) 4 d (fun l => fclass (l.reg a)) s

/-- `FRCP` (R150, R151). -/
def execFrcp (d a : BitVec 7) (s : State) : Host.Outcome State Fault Refusal :=
  fixed (.frcp d a) 12 d (fun l => frcp (l.reg a)) s

/-- `FRSQ` (R150, R151). -/
def execFrsq (d a : BitVec 7) (s : State) : Host.Outcome State Fault Refusal :=
  fixed (.frsq d a) 12 d (fun l => frsq (l.reg a)) s

/-- `FSQRT` (R150, R151). -/
def execFsqrt (d a : BitVec 7) (s : State) : Host.Outcome State Fault Refusal :=
  fixed (.fsqrt d a) 12 d (fun l => fsqrt (l.reg a)) s

/-- `FEX2` (R150, R151). -/
def execFex2 (d a : BitVec 7) (s : State) : Host.Outcome State Fault Refusal :=
  fixed (.fex2 d a) 12 d (fun l => fex2 (l.reg a)) s

/-- `FLG2` (R150, R151). -/
def execFlg2 (d a : BitVec 7) (s : State) : Host.Outcome State Fault Refusal :=
  fixed (.flg2 d a) 12 d (fun l => flg2 (l.reg a)) s

/-- `FEXP` (R150, R151). -/
def execFexp (d a : BitVec 7) (s : State) : Host.Outcome State Fault Refusal :=
  fixed (.fexp d a) 12 d (fun l => fexp (l.reg a)) s

/-- `FLN` (R150, R151). -/
def execFln (d a : BitVec 7) (s : State) : Host.Outcome State Fault Refusal :=
  fixed (.fln d a) 12 d (fun l => fln (l.reg a)) s

/-- `FSINP` (R150, R151). -/
def execFsinp (d a : BitVec 7) (s : State) : Host.Outcome State Fault Refusal :=
  fixed (.fsinp d a) 12 d (fun l => fsinp (l.reg a)) s

/-- `FCOSP` (R150, R151). -/
def execFcosp (d a : BitVec 7) (s : State) : Host.Outcome State Fault Refusal :=
  fixed (.fcosp d a) 12 d (fun l => fcosp (l.reg a)) s

/-- `FTANH` (R150, R151). -/
def execFtanh (d a : BitVec 7) (s : State) : Host.Outcome State Fault Refusal :=
  fixed (.ftanh d a) 12 d (fun l => ftanh (l.reg a)) s

/-- `FSIG` (R150, R151). -/
def execFsig (d a : BitVec 7) (s : State) : Host.Outcome State Fault Refusal :=
  fixed (.fsig d a) 12 d (fun l => fsig (l.reg a)) s

/-- `H2ADD` (R152). -/
def execH2add (d a b : BitVec 7) (s : State) : Host.Outcome State Fault Refusal :=
  fixed (.h2add d a b) 5 d (fun l => pairMap fp16 (fun x y _ => x.add y) (l.reg a) (l.reg b) (l.reg d)) s

/-- `H2MUL` (R152). -/
def execH2mul (d a b : BitVec 7) (s : State) : Host.Outcome State Fault Refusal :=
  fixed (.h2mul d a b) 5 d (fun l => pairMap fp16 (fun x y _ => x.mul y) (l.reg a) (l.reg b) (l.reg d)) s

/-- `H2FMA` (R152). -/
def execH2fma (d a b : BitVec 7) (s : State) : Host.Outcome State Fault Refusal :=
  fixed (.h2fma d a b) 5 d (fun l => pairMap fp16 (fun x y z => (x.mul y).add z) (l.reg a) (l.reg b) (l.reg d)) s

/-- `B2ADD` (R152). -/
def execB2add (d a b : BitVec 7) (s : State) : Host.Outcome State Fault Refusal :=
  fixed (.b2add d a b) 5 d (fun l => pairMap bf16 (fun x y _ => x.add y) (l.reg a) (l.reg b) (l.reg d)) s

/-- `B2MUL` (R152). -/
def execB2mul (d a b : BitVec 7) (s : State) : Host.Outcome State Fault Refusal :=
  fixed (.b2mul d a b) 5 d (fun l => pairMap bf16 (fun x y _ => x.mul y) (l.reg a) (l.reg b) (l.reg d)) s

/-- `B2FMA` (R152). -/
def execB2fma (d a b : BitVec 7) (s : State) : Host.Outcome State Fault Refusal :=
  fixed (.b2fma d a b) 5 d (fun l => pairMap bf16 (fun x y z => (x.mul y).add z) (l.reg a) (l.reg b) (l.reg d)) s

/-- `XADD` (R153). -/
def execXadd (d a b : BitVec 7) (s : State) : Host.Outcome State Fault Refusal :=
  fixed2 (.xadd d a b) 8 d (fun l => x64Add (l.pair a) (l.pair b)) s

/-- `XMUL` (R153). -/
def execXmul (d a b : BitVec 7) (s : State) : Host.Outcome State Fault Refusal :=
  fixed2 (.xmul d a b) 8 d (fun l => x64Mul (l.pair a) (l.pair b)) s

/-- `XEXP` (R153). -/
def execXexp (d a : BitVec 7) (s : State) : Host.Outcome State Fault Refusal :=
  fixed2 (.xexp d a) 8 d (fun l => xexp (l.reg a)) s

/-- `XCVT` (R153). -/
def execXcvt (d a : BitVec 7) (s : State) : Host.Outcome State Fault Refusal :=
  fixed (.xcvt d a) 8 d (fun l => x64ToF32 (l.pair a)) s

/-- `XFROM` (R153). -/
def execXfrom (d a : BitVec 7) (s : State) : Host.Outcome State Fault Refusal :=
  fixed2 (.xfrom d a) 8 d (fun l => x64OfF32 (l.reg a)) s

/-- `XRATIO` (R153). -/
def execXratio (d a b : BitVec 7) (s : State) : Host.Outcome State Fault Refusal :=
  fixed (.xratio d a b) 8 d (fun l => x64Ratio (l.pair a) (l.pair b)) s

/-- `BYTP` (R157). -/
def execBytp (d a b : BitVec 7) (s : State) : Host.Outcome State Fault Refusal :=
  fixed (.bytp d a b) 4 d (fun l => bytePick (l.pair a) (l.reg b)) s

/-- `HPK` (R157). -/
def execHpk (d a b : BitVec 7) (s : State) : Host.Outcome State Fault Refusal :=
  fixed (.hpk d a b) 4 d (fun l => halfPack (l.reg a) (l.reg b)) s

/-- `REQ.I8` (R158). -/
def execReqI8 (d a b : BitVec 7) (s : State) : Host.Outcome State Fault Refusal :=
  reqForm (.reqI8 d a b) 8 (-128) 127 true d a b s

/-- `REQ.I4` (R158). -/
def execReqI4 (d a b : BitVec 7) (s : State) : Host.Outcome State Fault Refusal :=
  reqForm (.reqI4 d a b) 4 (-8) 7 true d a b s

/-- `REQ.N8` (R158). -/
def execReqN8 (d a b : BitVec 7) (s : State) : Host.Outcome State Fault Refusal :=
  reqForm (.reqN8 d a b) 8 0 255 false d a b s

/-- `REQ.N4` (R158). -/
def execReqN4 (d a b : BitVec 7) (s : State) : Host.Outcome State Fault Refusal :=
  reqForm (.reqN4 d a b) 4 0 15 false d a b s

/-- `RNG` (R159). -/
def execRng (d a b : BitVec 7) (s : State) : Host.Outcome State Fault Refusal :=
  fixed (.rng d a b) 8 d (fun l => rng (l.reg a) (l.reg b)) s

/-- `GUMB` (R161). -/
def execGumb (d a : BitVec 7) (s : State) : Host.Outcome State Fault Refusal :=
  fixed (.gumb d a) 8 d (fun l => gumb (l.reg a)) s

/-- `UNIF` (R160). -/
def execUnif (d a : BitVec 7) (s : State) : Host.Outcome State Fault Refusal :=
  fixed (.unif d a) 8 d (fun l => unif (l.reg a)) s

/-- `RMSN.E12` (R164). -/
def execRmsnE12 (d a b : BitVec 7) (s : State) : Host.Outcome State Fault Refusal :=
  rmsForm 12 (.rmsnE12 d a b) d a b s

/-- `RMSN.E14` (R164). -/
def execRmsnE14 (d a b : BitVec 7) (s : State) : Host.Outcome State Fault Refusal :=
  rmsForm 14 (.rmsnE14 d a b) d a b s

/-- `RMSN.E16` (R164). -/
def execRmsnE16 (d a b : BitVec 7) (s : State) : Host.Outcome State Fault Refusal :=
  rmsForm 16 (.rmsnE16 d a b) d a b s

/-- `RMSN.E18` (R164). -/
def execRmsnE18 (d a b : BitVec 7) (s : State) : Host.Outcome State Fault Refusal :=
  rmsForm 18 (.rmsnE18 d a b) d a b s

/-- `RMSN.E20` (R164). -/
def execRmsnE20 (d a b : BitVec 7) (s : State) : Host.Outcome State Fault Refusal :=
  rmsForm 20 (.rmsnE20 d a b) d a b s

end Sys2Proof.Machine
end

