-- ==== Sys2Proof/Machine/Bins.lean ====
section
/-!
DEFINITION. The REFORM bins of a core (R14 to R16): the arrivals of a cycle, the releases and the refills, in
that order.
-/

namespace Sys2Proof.Machine

/-- The place of a thread in R14's order: resident slot of its team, then its index. -/
def State.binOrder (s : State) (r : Nat × Nat) : Nat :=
  (match s.teams[r.1]? with | some t => t.slot | none => 0) * 4096 + r.2

def insertPair (key : Nat × Nat → Nat) (x : Nat × Nat) : List (Nat × Nat) → List (Nat × Nat)
  | [] => [x]
  | y :: ys => if key x < key y then x :: y :: ys else y :: insertPair key x ys

/-- Bins stand in the order they opened. -/
def insertBin (b : Bin) : List Bin → List Bin
  | [] => [b]
  | c :: cs => if b.opened < c.opened then b :: c :: cs else c :: insertBin b cs

/-- How many bins a core has. -/
def binsPerCore : Nat := 64

def State.coreBins (s : State) (core : Nat) : List Bin := s.bins.filter (fun b => b.core = core)

def Bin.takes (b : Bin) (j : Nat) : Bool := !b.threads.any (fun i => laneOf i = laneOf j)

/-- A thread goes into the oldest bin of its key that has its slot empty. -/
def placeBin (core k : Nat) (key : DWord) (j : Nat) : List Bin → Option (List Bin)
  | [] => none
  | b :: bs =>
    if b.core = core ∧ b.team = k ∧ b.key = key ∧ b.takes j then some ({ b with threads := b.threads ++ [j] } :: bs)
    else (placeBin core k key j bs).map (fun bs => b :: bs)

/-- Step 1 of R14 for one arrival. -/
def State.fileThread (s : State) (k j : Nat) : State :=
  match s.teams[k]?, s.thread? k j with
  | some t, some th =>
    let key := th.pc
    let wait := (s.modThread k j (fun th => { th with st := .queued })).modTeam k (fun t =>
      { t with queue := t.queue ++ [({ thr := j, key := key, arrived := s.now } : Queued)] })
    if t.queue.any (fun q => q.key = key) then wait
    else match placeBin t.core k key j s.bins with
      | some bs => { s with bins := bs }
      | none =>
        if (s.coreBins t.core).length < binsPerCore ∧ t.queue.isEmpty then
          { s with bins := insertBin { core := t.core, team := k, key := key, threads := [j], opened := s.now } s.bins }
        else wait
  | _, _ => s

/-- Step 1: the arrivals of this cycle on a core, in order. -/
def State.fileArrivals (s : State) (core : Nat) : State :=
  let mine := s.reforms.filter (fun r => match s.teams[r.1]? with | some t => t.core = core | none => false)
  let order := mine.foldr (insertPair s.binOrder) []
  order.foldl (fun s r => s.fileThread r.1 r.2)
    { s with reforms := s.reforms.filter (fun r => !mine.contains r) }

/-- The distinct home lanes of the threads that have not exited. -/
def Team.lanesLive (t : Team) : Nat :=
  ((t.threads.filter (fun th => th.st ≠ .exited)).map (fun th => laneOf th.idx)).eraseDups.length

def State.binFull (s : State) (b : Bin) : Bool :=
  match s.teams[b.team]? with | some t => b.threads.length = t.lanesLive | none => false

/-- The bin has been open AGE cycles. -/
def State.binAged (s : State) (b : Bin) : Bool :=
  match s.teams[b.team]? with | some t => decide (t.age.toNat ≤ s.now - b.opened) | none => false

/-- No thread of the bin's team is runnable. -/
def State.binIdle (s : State) (b : Bin) : Bool :=
  match s.teams[b.team]? with | some t => t.threads.all (fun th => !th.runnable) | none => false

/-- A bin releases: its occupants form one group. -/
def State.releaseBin (s : State) (b : Bin) : State :=
  let s := { s with bins := s.bins.erase b }
  s.modTeam b.team (fun t =>
    let t := b.threads.foldl (fun t j => t.modThread j (fun th => { th with st := .active })) t
    { t with groups := t.groups ++ [mkGroup s.now b.threads] })

/-- Step 2: every bin of the core that is full, aged or idle, oldest first. -/
def State.releaseBins (s : State) (core : Nat) : State :=
  (s.coreBins core).foldl (fun s b => if s.binFull b || s.binAged b || s.binIdle b then s.releaseBin b else s) s

/-- The queue head of a core that arrived earliest; on a tie the lowest resident slot, then the lowest index. -/
def State.queueHead (s : State) (core : Nat) : Option (Nat × Queued) :=
  s.teams.zipIdx.foldl (fun m tk =>
    if tk.1.core ≠ core then m
    else match tk.1.queue with
      | [] => m
      | q :: _ =>
        match m with
        | none => some (tk.2, q)
        | some (k', q') =>
          if q.arrived < q'.arrived ∨ (q.arrived = q'.arrived ∧ s.binOrder (tk.2, q.thr) < s.binOrder (k', q'.thr))
          then some (tk.2, q) else m) none

/-- Queued threads of a key moved into a new bin while their slot is empty. -/
def takeQueued (key : DWord) : List Queued → List Nat → List Nat × List Queued
  | [], got => (got, [])
  | q :: qs, got =>
    if q.key = key ∧ !got.any (fun i => laneOf i = laneOf q.thr) then takeQueued key qs (got ++ [q.thr])
    else let (g, r) := takeQueued key qs got; (g, q :: r)

/-- Step 3: free bins go to queue heads, one after another. -/
def State.refillBins : Nat → State → Nat → State
  | 0, s, _ => s
  | n + 1, s, core =>
    if (s.coreBins core).length < binsPerCore then
      match s.queueHead core with
      | none => s
      | some (k, h) =>
        match s.teams[k]? with
        | none => s
        | some t =>
          let (got, rest) := takeQueued h.key t.queue []
          let s := s.modTeam k (fun t =>
            let t := got.foldl (fun t j => t.modThread j (fun th => { th with st := .filed })) t
            { t with queue := rest })
          State.refillBins n
            { s with bins := insertBin { core := core, team := k, key := h.key, threads := got, opened := h.arrived } s.bins } core
    else s

/-- A core carries out R14 for this cycle. -/
def State.binCycle (s : State) (core : Nat) : State :=
  State.refillBins binsPerCore ((s.fileArrivals core).releaseBins core) core

/-- The cores whose bins have something to do in this cycle, without those whose step 3 is over. -/
def State.binCores (s : State) : List Nat :=
  (s.bins.map (fun b => b.core) ++
    s.reforms.filterMap (fun r => (s.teams[r.1]?).map (fun t => t.core)) ++
    s.teams.filterMap (fun t => if t.queue.isEmpty then none else some t.core)).eraseDups.filter
      (fun c => !s.binsDone.contains c)

/-- The core's issue slots are used up for this cycle: R14's steps follow the cycle's issues. -/
def State.closeCore (s : State) (core : Nat) : State :=
  { s with issued := s.issued ++ [(core, 0), (core, 1), (core, 2), (core, 3)] }

end Sys2Proof.Machine
end

