-- ==== Sys2Proof/Machine/Sregs.lean ====
section
/-!
DEFINITION. The special registers (R336): reading one, checking a value to be written, and a write that takes
effect within 8 cycles (R337).
-/

namespace Sys2Proof.Machine

/-- Whether a user thread may read and write a register, and a privileged thread write it (R336). -/
def sregUserRead (n : Nat) : Bool := n ≤ 7 || n = 14
def sregUserWrite (n : Nat) : Bool := n ≤ 3
def sregPrivWrite (n : Nat) : Bool := !(n = 5 || n = 6 || n = 7 || n = 9)

/-- The value of a register as its scope holds it, without writes still to take effect. -/
def State.sregHeld (s : State) (tm : Team) (th : Thread) (n : Nat) : DWord :=
  let sp := s.space tm.fn
  let w (x : Word) : DWord := x.zeroExtend 64
  match n with
  | 0 => w th.fpstat
  | 1 => w tm.seed
  | 2 => w tm.age
  | 3 => w tm.pwin
  | 4 => w th.seq
  | 5 => BitVec.ofNat 64 th.lclass
  | 6 => BitVec.ofNat 64 tm.slot
  | 7 => w s.devid
  | 8 => th.trapPc
  | 9 => w th.trapCause
  | 10 => th.trapAddr
  | 11 => th.trapInfo
  | 12 => sp.tvb
  | 13 => sp.ptroot
  | 14 => sp.ssb
  | 15 => sp.sqbase
  | 16 => w sp.sqlen
  | _ => w s.snapmask

/-- Two writes go to one register: the same number, and the same thread, team, address space or device. -/
def State.sregSame (s : State) (p : SregPend) (n k j : Nat) : Bool :=
  p.reg = n &&
  (if n = 0 || n = 4 || (8 ≤ n && n ≤ 11) then p.team = k && p.thr = j
   else if n ≤ 3 then p.team = k
   else if 12 ≤ n && n ≤ 16 then
     (match s.teams[p.team]?, s.teams[k]? with | some t, some t' => t.fn = t'.fn | _, _ => false)
   else true)

/-- What a thread reads (R337): its own last write at once, else what the scope holds. -/
def State.sregRead (s : State) (tm : Team) (th : Thread) (k n : Nat) : DWord :=
  match (s.sregs.filter (fun p => s.sregSame p n k th.idx && p.team = k && p.thr = th.idx)).getLast? with
  | some p => p.value
  | none => s.sregHeld tm th n

/-- The value checks of R337, R322 and R336: BOUNDS for a value beyond the register's limits, ALIGN for a misaligned
base. FPSTAT has none: it follows R124, whose entry states no trap. -/
def sregCheck (n : Nat) (v : DWord) : Option Cause :=
  let x := v.toNat
  match n with
  | 2 => if x > 255 then some .bounds else none
  | 3 => if x > 128 then some .bounds else none
  | 12 => if x % 2048 ≠ 0 then some .align else none
  | 13 => if x % 65536 ≠ 0 then some .align else none
  | 15 => if x % 512 ≠ 0 then some .align else none
  | 16 => if x % 512 ≠ 0 then some .bounds else none
  | 17 => if x % 2 ≠ 0 ∨ x ≥ 2 ^ 22 then some .bounds else none
  | _ => none

/-- The value a register keeps of a written one. DEDUCED (log entry 83): bits 30:3 of FPSTAT read as zero (R2, R124). -/
def sregKept (n : Nat) (v : DWord) : DWord := if n = 0 then v &&& 0x80000007#64 else v

/-- The seed's effect on the stochastic states (R125). -/
def seedStates (a : Word) : List Word :=
  let a' := if a = 0 then 1#32 else a
  [a', a'.rotateLeft 8, a'.rotateLeft 16, a'.rotateLeft 24]

/-- A write takes effect. DESIGN CHOICE (log entry 84): a write of FPENV changes the four stochastic states in one cycle,
so that every slot draws from the new ones from then on. -/
def State.sregApply (s : State) (p : SregPend) : State :=
  let w : Word := p.value.truncate 32
  let onThread (f : Thread → Thread) : State := s.modThread p.team p.thr f
  let onTeam (f : Team → Team) : State := s.modTeam p.team f
  let onSpace (f : ASpace → ASpace) : State :=
    match s.teams[p.team]? with
    | some t => { s with spaces := s.spaces.modify t.fn f }
    | none => s
  match p.reg with
  | 0 => onThread (fun th => { th with fpstat := w })
  | 1 => onTeam (fun t => { t with seed := w, rs := seedStates w })
  | 2 => onTeam (fun t => { t with age := w })
  | 3 => onTeam (fun t => { t with pwin := w })
  | 4 => onThread (fun th => { th with seq := w })
  | 8 => onThread (fun th => { th with trapPc := p.value })
  | 10 => onThread (fun th => { th with trapAddr := p.value })
  | 11 => onThread (fun th => { th with trapInfo := p.value })
  | 12 => onSpace (fun a => { a with tvb := p.value })
  | 13 => onSpace (fun a => { a with ptroot := p.value })
  | 14 => onSpace (fun a => { a with ssb := p.value })
  | 15 => onSpace (fun a => { a with sqbase := p.value })
  | 16 => onSpace (fun a => { a with sqlen := w })
  | 17 => { s with snapmask := w }
  | _ => s

/-- A write's place among the writes of one cycle (R337): logical core, resident slot, index. -/
def State.sregOrder (s : State) (p : SregPend) : Nat :=
  p.issued * 2 ^ 40 +
  (match s.teams[p.team]? with | some t => s.logicalCore t.core * 2 ^ 20 + t.slot * 2 ^ 12 | none => 0) + p.thr

def State.insertSreg (s : State) (p : SregPend) : List SregPend → List SregPend
  | [] => [p]
  | q :: qs => if s.sregOrder p < s.sregOrder q then p :: q :: qs else q :: s.insertSreg p qs

/-- A write is issued: it takes effect in one of the next 8 cycles, never before an older write of the same
register, and in the same cycle as another write issued with it (R337). -/
def State.sregWrite (s : State) (k j n : Nat) (v : DWord) (pick : Nat) : State :=
  let mine := s.sregs.filter (fun p => s.sregSame p n k j)
  let lands :=
    match mine.find? (fun p => p.issued = s.now) with
    | some p => p.lands
    | none => mine.foldl (fun m p => max m p.lands) (s.now + 1 + pick % 8)
  { s with sregs := s.insertSreg { issued := s.now, lands := lands, reg := n, team := k, thr := j, value := sregKept n v } s.sregs }

/-- The writes that take effect by now. -/
def State.sregLand (s : State) : State :=
  let due := s.sregs.filter (fun p => p.lands ≤ s.now)
  due.foldl State.sregApply { s with sregs := s.sregs.filter (fun p => !decide (p.lands ≤ s.now)) }

/-- A thread has writes that have not taken effect. -/
def State.sregPending (s : State) (k j : Nat) : Bool := s.sregs.any (fun p => p.team = k && p.thr = j)

end Sys2Proof.Machine
end

