-- ==== Sys2Proof/Machine/Issue.lean ====
section
/-!
DEFINITION. How a group comes to issue: entering a bundle (R34 to R36), the wait of its S-word (R37), the
choice among ready groups (R27, R28), and the fetch of an instruction word and its literal.
-/

namespace Sys2Proof.Machine

/-! ## Entering a bundle -/

/-- The faults of an S-word (R35). -/
def swordBad (w : Word) : Bool :=
  decide (bits w.toNat 2 0 ≠ 0) || isData w 1 ||
  (decide (waitSlot w = 0) && decide (bits w.toNat 31 20 ≠ 0)) ||
  (decide (waitSlot w ≠ 0) && isData w (waitSlot w)) ||
  [2, 3].any (fun k => isData w k && decide (distance w k ≠ 0))

/-- The first slot a thread that enters at pc runs: a data slot is skipped (R32, R36). -/
def firstSlot (w : Word) (pc : DWord) : DWord := if isData w (slotNo pc) then nextPc w pc else pc

/-- The first slot of the entered bundle, for `TRAPPC` (R35). DESIGN CHOICE (log entry 72): a thread that enters at a
data slot with no later slot to run keeps the slot it entered at. -/
def entrySlot (w : Word) (pc : DWord) : DWord :=
  if bundleOf (firstSlot w pc) = bundleOf pc then firstSlot w pc else pc

/-- A cause that translation meets, with the address in TRAPADDR (R322). -/
def Trap.access (c : Cause) (va : DWord) : Trap := .atAddr c va

/-- Whose access a fetch is. -/
def fetchWho (tm : Team) (th : Thread) : Accessor :=
  { core := tm.core, fn := tm.fn, priv := th.st = .trapped, lane := 64 }

/-- A word fetched as an instruction (R116, R327). -/
def State.fetchWord (s : State) (tm : Team) (th : Thread) (va : DWord) : Except Trap (Word × Nat) :=
  match s.translate (fetchWho tm th) .fetch va 4 with
  | .error c => .error (.access c va)
  | .ok (k, _) => if s.poisoned k 4 then .error (.of .mchk) else .ok (BitVec.ofNat 32 (s.natAt k 4), k)

/-- The S-word of the bundle as memory holds it, poisoned or not; 0 where no memory answers. -/
def State.swordHeld (s : State) (tm : Team) (th : Thread) : Word :=
  match s.translate (fetchWho tm th) .fetch (bundleOf th.pc) 4 with
  | .error _ => 0
  | .ok (k, _) => BitVec.ofNat 32 (s.natAt k 4)

/-- The program counter of a thread that traps at its S-word: for a poisoned one the first slot it would have run
(R62, R327). DESIGN CHOICE (log entry 72): the data marks are read as the poisoned word holds them. -/
def State.swordPc (s : State) (tm : Team) (th : Thread) (c : Cause) : DWord :=
  if c = .mchk then entrySlot (s.swordHeld tm th) th.pc else th.pc

/-- One thread enters the bundle at its program counter: the S-word is read and checked, and it stands at the
first slot it runs, or traps there (R35). -/
def State.enterBundle (s : State) (k j : Nat) : State :=
  match s.teams[k]?, s.thread? k j with
  | some tm, some th =>
    if th.sword.isSome then s
    else
      match s.fetchWord tm th (bundleOf th.pc) with
      | .error t => (s.modThread k j (fun th => { th with pc := s.swordPc tm th t.cause })).takeTrap k j t false
      | .ok (w, _) =>
        if swordBad w then
          (s.modThread k j (fun th => { th with pc := entrySlot w th.pc })).takeTrap k j (.of .illbun) false
        else if bundleOf (firstSlot w th.pc) = bundleOf th.pc then
          s.modThread k j (fun th => { th with pc := firstSlot w th.pc, sword := some w, waited := false })
        else s.modThread k j (Thread.jumpTo (firstSlot w th.pc))
  | _, _ => s

/-- A group's members at more than one program counter are groups of their own. -/
def Team.splitGroup (now : Nat) (g : Group) (t : Team) : Team :=
  if (distinctPcs t g.members).length ≤ 1 then t else t.regroup now g.members

/-- The groups that hold some threads are ready no earlier than a cycle. -/
def Team.readyFrom (c : Nat) (members : List Nat) (t : Team) : Team :=
  { t with groups := t.groups.map (fun h =>
      if h.members.any (fun j => members.contains j) then { h with readyAt := max h.readyAt c } else h) }

/-- Where the words lie that a group fetches next: of each member, its slot's, or its bundle's first where it has still to
enter. -/
def State.fetchKeys (s : State) (t : Team) (g : Group) : List Nat :=
  g.members.filterMap (fun j => (t.threads[j]?).bind (fun th =>
    match s.translate (fetchWho t th) .fetch (if th.sword.isSome then th.pc else bundleOf th.pc) 4 with
    | .ok (k, _) => some k
    | .error _ => none))

/-- A bundle that lies at a host is asked for on a link (R349). -/
def State.askFetch (s : State) (k : Nat) (g : Group) : State :=
  match s.teams[k]? with
  | some t => s.askHost (s.fetchKeys t g)
  | none => s

/-- Every member of a group that has not entered its bundle enters it. Once the hub has issued in this cycle, the
group takes part from the next one on, so that the groups that issue in a cycle stand from its start. -/
def State.enterGroup (s : State) (k : Nat) (g : Group) : State :=
  let s := (sortBy id g.members).foldl (fun s j => s.enterBundle k j) (s.askFetch k g)
  s.modTeam k (fun t =>
    let t := t.splitGroup s.now g
    if s.hubIssued (hubOf t.core) then t.readyFrom (s.now + 1) g.members else t)

def Thread.entered (t : Thread) : Bool := t.sword.isSome

/-- The thread stands behind a `SOFTMAX` whose result it waits for: it issues nothing, and what it would meet next it
meets after `NANFIRST` (R163). -/
def Thread.barred (now : Nat) (t : Thread) : Bool := decide (now < t.freeAt) || t.nanAt.isSome

/-- A member of the group is barred. DESIGN CHOICE (log entry 73): it bars the whole group, whose members with
`NANTRAP` 0 would issue on without it. -/
def Team.barred (now : Nat) (t : Team) (g : Group) : Bool :=
  g.members.any (fun j => match t.threads[j]? with | some th => th.barred now | none => false)

/-- The group has a member that has not entered the bundle and can enter it. -/
def Team.needsEntry (now : Nat) (t : Team) (g : Group) : Bool :=
  g.members.any (fun j => match t.threads[j]? with | some th => !th.entered | none => false) && !t.barred now g

/-- A word that the group would fetch lies at a host to which no link goes: the fetch waits (R349). -/
def State.fetchAway (s : State) (t : Team) (g : Group) : Bool :=
  s.hostLink.isNone && (s.fetchKeys t g).any keyHost

/-- The group enters its bundle next. -/
def State.entryDue (s : State) (t : Team) (g : Group) : Bool := t.needsEntry s.now g && !s.fetchAway t g

/-! ## The wait of an S-word (R37) -/

/-- A wait stands before the thread's next slot and has not been made. -/
def Thread.waitDue (t : Thread) : Bool :=
  match t.sword with
  | none => false
  | some w => decide (waitSlot w ≠ 0) && decide (waitSlot w ≤ slotNo t.pc) && !t.waited

/-- Every counter the wait names is zero. -/
def Thread.waitMet (t : Thread) : Bool :=
  match t.sword with
  | none => true
  | some w => (waitFlags w).all (fun k => decide (t.flag k = 0))

/-- The group's wait can release: some member waits, and every waiting member's counters are zero. -/
def Team.waitReady (now : Nat) (t : Team) (g : Group) : Bool :=
  !t.barred now g &&
  g.members.any (fun j => match t.threads[j]? with | some th => th.waitDue | none => false) &&
  g.members.all (fun j => match t.threads[j]? with | some th => !th.waitDue || th.waitMet | none => true)

/-- The wait releases for one member: a cause held on a named flag is delivered before the held instruction's
own checks (R324), else the wait is made. -/
def State.releaseWait (s : State) (k j : Nat) : State :=
  match s.thread? k j with
  | none => s
  | some th =>
    if th.waitDue then
      match th.firstHeld (waitFlags (th.sword.getD 0)) with
      | some d => s.deliver k j d
      | none => s.modThread k j (fun th => { th with waited := true })
    else s

/-- The wait releases for a group; its instruction issues from the next cycle on. -/
def State.releaseGroup (s : State) (k : Nat) (g : Group) : State :=
  let s := (sortBy id g.members).foldl (fun s j => s.releaseWait k j) s
  s.modTeam k (Team.readyFrom (s.now + 1) g.members)

/-! ## The choice of a group (R27, R28) -/

/-- The lowest-indexed member. -/
def Group.lead (g : Group) : Nat := g.members.foldl min (g.members.headD 0)

/-- The issue slot a group is assigned to (R27). -/
def Group.issueSlot (g : Group) : Nat := blockOf g.lead % 4

/-- The cycle from which one member can issue (R38, R163). -/
def Thread.issueFrom (t : Thread) : Nat :=
  match t.lastIssue with
  | none => t.freeAt
  | some c => max t.freeAt (c + max 1 (distance (t.sword.getD 0) (slotNo t.pc)))

/-- The cycle from which a group has been ready, if it only lacks time. -/
def Team.readyTime (t : Team) (g : Group) : Nat :=
  g.members.foldl (fun m j => match t.threads[j]? with | some th => max m th.issueFrom | none => m) g.readyAt

/-- The group is in its bundle and waits for no flag. -/
def Team.canIssue (t : Team) (g : Group) : Bool :=
  decide (t.status = .resident) && !g.members.isEmpty &&
  g.members.all (fun j => match t.threads[j]? with | some th => th.entered && !th.waitDue | none => false)

def State.groupReady (s : State) (t : Team) (g : Group) : Bool :=
  t.canIssue g && decide (t.readyTime g ≤ s.now) && !s.fetchAway t g

/-- A group's class: the highest effective class of its members, with which their promotions count (R28, R29). -/
def State.groupClass (s : State) (k : Nat) (g : Group) : Nat :=
  let cl := s.classes
  g.members.foldl (fun m j => max m ((cl.getD k []).getD j 0)) 0

/-- The cycle since which R28 counts a group as ready: that of its `YIELD` (R63), else the one from which it was. -/
def Team.readySince (t : Team) (g : Group) : Nat := g.since.getD (t.readyTime g)

/-- The order of R28, the first to issue least. -/
def State.issueKey (s : State) (k : Nat) (t : Team) (g : Group) : List Nat :=
  let pc := match t.threads[g.lead]? with | some th => th.pc.toNat | none => 0
  [3 - s.groupClass k g, t.readySince g, pc, t.slot, g.lead]

def lexLt : List Nat → List Nat → Bool
  | x :: xs, y :: ys => decide (x < y) || (decide (x = y) && lexLt xs ys)
  | [], _ :: _ => true
  | _, [] => false

/-- The ready groups assigned to an issue slot of a core. -/
def State.candidates (s : State) (core slot : Nat) : List (Nat × Team × Group) :=
  s.teams.zipIdx.flatMap (fun tk =>
    if tk.1.core = core then
      (tk.1.groups.filter (fun g => decide (g.issueSlot = slot) && s.groupReady tk.1 g)).map (fun g => (tk.2, tk.1, g))
    else [])

/-- The group that issues (R28). -/
def State.pickGroup (s : State) (core slot : Nat) : Option (Nat × Team × Group) :=
  (s.candidates core slot).foldl (fun m c =>
    match m with
    | none => some c
    | some b => if lexLt (s.issueKey c.1 c.2.1 c.2.2) (s.issueKey b.1 b.2.1 b.2.2) then some c else m) none

/-- The other ready groups of the slot have been passed over once more (R28). -/
def State.passOver (s : State) (core slot k : Nat) (members : List Nat) : State :=
  let others := (s.candidates core slot).filter (fun c => !(c.1 = k && c.2.2.members = members))
  others.foldl (fun s c => s.modTeam c.1 (fun t =>
    { t with groups := t.groups.map (fun h => if h.members = c.2.2.members then { h with passed := h.passed + 1 } else h) })) s

/-- Every member of a group takes a trap, in index order: at its fetch, or as the instruction it issues (R38). -/
def State.trapGroup (s : State) (k : Nat) (members : List Nat) (t : Trap) (issued : Bool) : State :=
  (sortBy id members).foldl (fun s j => if issued then s.trapIssued k j t else s.takeTrapIn s.now k j t false) s

/-- What a move leads to: an instruction to execute, or a state. -/
inductive Stage where
  | run (i : Instr) (s : State)
  | done (s : State)

/-- The literal word of the slot at a key (R48, R327). -/
def State.litAt (s : State) (th : Thread) (key : Nat) : Lit :=
  let n := slotNo th.pc
  if n < 3 && isData (th.sword.getD 0) (n + 1) then
    (if s.poisoned (key + 4) 4 then .poisoned else .word (BitVec.ofNat 32 (s.natAt (key + 4) 4)))
  else .none

/-- What a group finds at its program counter: the instruction with its literal, or the trap of every member and
whether the word had been fetched by then (R51, R116, R327). -/
noncomputable def State.groupInstr (s : State) (t : Team) (g : Group) : Except (Trap × Bool) (Instr × Lit) :=
  match t.threads[g.lead]? with
  | none => .error (.of .illop, false)
  | some th =>
    match s.fetchWord t th th.pc with
    | .error tr => .error (tr, false)
    | .ok (w, key) =>
      match decodeCore w with
      | .error _ => .error (.of .illop, true)
      | .ok i => .ok (i, s.litAt th key)

/-- Threads of a team execute an instruction as the issuing group, with the promotion it was chosen by. -/
def State.runAs (s : State) (k : Nat) (members : List Nat) (promo : Nat) (lit : Lit) (i : Instr) : Stage :=
  .run i { s with cur := { team := k, members := members, lit := lit, walker := 0, promo := promo } }

/-- A group issues the instruction at its program counter. -/
noncomputable def State.issueGroup (s : State) (k : Nat) (t : Team) (g : Group) : Stage :=
  match s.groupInstr t g with
  | .error (tr, issued) => .done (s.trapGroup k g.members tr issued)
  | .ok (i, lit) => s.runAs k g.members g.promotion lit i

/-! ## Instructions that act in order over the cores of a hub (R24, R97) -/

/-- Instructions of one cycle whose threads act by core rank and team-local index: those that change a join register
or a barrier object. -/
def inOrder : Instr → Bool
  | .barInit .. | .barArrive .. | .barWait .. | .barSync .. | .barExpect .. | .barInval .. | .jdecl .. | .jsign ..
  | .jleave .. | .jcancel .. | .mma .. | .exit => true
  | _ => false

/-- An instruction that acts in order is held at issue: a release by a member's earlier accesses, an `MMA` by a full
flag counter (R43, R98, R295). -/
def State.orderHeld (s : State) (k : Nat) (members : List Nat) (lit : Lit) (i : Instr) : Bool :=
  let s := { s with cur := { team := k, members := members, lit := lit, walker := 0 } }
  let any (p : Lane → Bool) : Bool := match s.issuer with
    | none => false
    | some (_, ls) => ls.any (fun l => (l.check (instrForm i)).isNone && p l)
  match i with
  | .barArrive .. | .barSync .. | .jsign .. => any (fun l => !l.quiet)
  | .mma _ a _ f => any (fun l => l.signHeld a || (decide (f.toNat ≠ 0) && decide (15 ≤ l.th.flag f.toNat)))
  | _ => false

/-- The slot's group, where it stands at an instruction that acts in order, and whether it is held there. -/
noncomputable def State.orderedPick (s : State) (core slot : Nat) : Option (Turn × Bool) :=
  match s.pickGroup core slot with
  | none => none
  | some (k, t, g) =>
    match s.groupInstr t g with
    | .error _ => none
    | .ok (i, lit) =>
      if inOrder i then
        some ({ core := core, slot := slot, team := k, members := g.members, left := g.members, ins := i, lit := lit
                promo := g.promotion }, s.orderHeld k g.members lit i)
      else none

/-- The slots of a core's hub that have not issued in this cycle. -/
def State.hubSlots (s : State) (core : Nat) : List (Nat × Nat) :=
  ((List.range 4).flatMap (fun r => (List.range 4).map (fun x => (4 * hubOf core + r, x)))).filter
    (fun x => !s.issued.contains x)

/-- A slot's group is taken for its turn, and is in no list of groups while its threads act; one that is held has used
up its slot. -/
def State.startTurn (s : State) (p : Turn × Bool) : State :=
  let t := p.1
  let s := s.passOver t.core t.slot t.team t.members
  let s := { s with issued := (t.core, t.slot) :: s.issued }
  if p.2 then s.modTeam t.team (Team.readyFrom (s.now + 1) t.members)
  else { s.modTeam t.team (fun tm => { tm with groups := tm.groups.filter (fun g => g.members ≠ t.members) }) with
         turns := s.turns ++ [t] }

/-- The place of a thread in the order of R24 and R97. -/
def Turn.place (t : Turn) (j : Nat) : Nat := rankOf t.core * 65536 + j

/-- The turns of a hub that are not over. -/
def State.openTurns (s : State) (hub : Nat) : List Turn :=
  s.turns.filter (fun t => decide (hubOf t.core = hub) && !t.left.isEmpty)

/-- The thread of a hub whose turn it is. -/
def State.nextTurn (s : State) (hub : Nat) : Option (Turn × Nat) :=
  ((s.openTurns hub).flatMap (fun t => t.left.map (fun j => (t, j)))).foldl (fun m c =>
    match m with
    | none => some c
    | some b => if c.1.place c.2 < b.1.place b.2 then some c else m) none

/-- One thread of the hub takes its turn, unless it runs no longer. -/
def State.takeTurn (s : State) (hub : Nat) : Stage :=
  match s.nextTurn hub with
  | none => .done s
  | some (t, j) =>
    let s' := { s with turns := s.turns.map (fun (u : Turn) =>
      if u.core = t.core ∧ u.slot = t.slot ∧ u.team = t.team then { u with left := u.left.erase j } else u) }
    let runs : Bool := match s.teams[t.team]?, s.thread? t.team j with
      | some tm, some th => decide (tm.status = .resident) && th.runnable
      | _, _ => false
    if runs then s'.runAs t.team [j] t.promo t.lit t.ins else .done s'

/-- A slot's instruction acts on its own: it is none that acts in order, or is held, or no other slot of the hub has a
group that has still to issue in this cycle. Another group's instruction may trap, in a place before this one's. -/
noncomputable def State.aloneInHub (s : State) (core slot : Nat) : Bool :=
  match s.orderedPick core slot with
  | none => true
  | some (_, held) =>
    held || ((s.openTurns (hubOf core)).isEmpty &&
      (s.hubSlots core).all (fun x => decide (x = (core, slot)) || (s.candidates x.1 x.2).isEmpty))

/-- A slot of a hub has a ready group that has still to issue in this cycle. -/
def State.hubOpen (s : State) (hub : Nat) : Bool :=
  (s.hubSlots (4 * hub)).any (fun x => !(s.candidates x.1 x.2).isEmpty)

/-- An issue slot of a core issues, once in a cycle (R27). A device that has FAILED issues nothing (R355). Where other
groups of the hub have still to issue with one that acts in order, all that stand at such instructions are taken, and
their threads act one by one once the hub's slots have issued. -/
noncomputable def State.issue (s : State) (core slot : Nat) : Stage :=
  if s.mgmt.state = 2 then .done s
  else if (s.openTurns (hubOf core)).any (fun t => decide (t.core = core ∧ t.slot = slot)) then
    if s.hubOpen (hubOf core) then .done s else s.takeTurn (hubOf core)
  else if s.issued.contains (core, slot) then .done s
  else
    match s.pickGroup core slot with
    | none => .done s
    | some (k, t, g) =>
      let rivals := if s.aloneInHub core slot then [] else (s.hubSlots core).filterMap (fun x => s.orderedPick x.1 x.2)
      if rivals.isEmpty then
        let s := s.passOver core slot k g.members
        State.issueGroup { s with issued := (core, slot) :: s.issued } k t g
      else .done (rivals.foldl State.startTurn s)

/-! ## Time -/

/-- One more cycle of sleep has passed for a thread of a resident team (R79). -/
def Thread.tickSleep (t : Thread) : Thread :=
  match t.st, t.why with
  | .sleeping, .sleep n x => { t with why := .sleep (n - 1) x }
  | _, _ => t

def Team.tickSleep (t : Team) : Team :=
  if t.status = .resident then { t with threads := t.threads.map Thread.tickSleep } else t

/-- `NANFIRST` after a `SOFTMAX` whose result has been written is due (R163). -/
def Thread.nanDue (now : Nat) (t : Thread) : Bool := t.runnable && t.nanAt.isSome && decide (t.freeAt ≤ now)

/-- It is taken, the DEFER bit set (R322). -/
def State.takeNan (s : State) (k j : Nat) : State :=
  match s.thread? k j with
  | none => s
  | some th =>
    (s.modThread k j (fun th => { th with nanAt := none })).takeTrap k j
      { cause := .nanfirst, addr := 0, info := BitVec.ofNat 64 (th.nanAt.getD 0) } true

def State.nanTraps (s : State) : State :=
  s.teams.zipIdx.foldl (fun s tk =>
    ((tk.1.threads.filter (Thread.nanDue s.now)).map (fun th => th.idx)).foldl (fun s j => s.takeNan tk.2 j) s) s

/-! ## `TLBINV` in progress (R342) -/

/-- The die of a hub: 0 to 23 west, 24 to 47 east (R189). -/
def dieOf (hub : Nat) : Nat := hub / 24

/-- A core is within a scope of another (R53, R189); DOM and SYS act as DEV. -/
def inScope (scope core other : Nat) : Bool :=
  if scope = 0 then decide (other = core) else if scope = 1 then decide (hubOf other = hubOf core)
  else if scope = 2 then decide (dieOf (hubOf other) = dieOf (hubOf core)) else true

/-- A TLB serves a core of the scope of another: its own, or its hub's (R118, R342). -/
def TlbPlace.inScope (scope core : Nat) : TlbPlace → Bool
  | .core n => Machine.inScope scope core n
  | .hub h => Machine.inScope (max 1 scope) core (4 * h)

/-- A cached translation that a `TLBINV` drops: for kind 0 the pages of every size that contain the address. -/
def TlbEntry.dropped (kind scope core fn : Nat) (va : DWord) (e : TlbEntry) : Bool :=
  e.place.inScope scope core &&
  (if kind = 2 then true
   else decide (e.fn = fn) && (if kind = 1 then true
    else
      let size := match leafOf e.pte e.level with | some l => l.size | none => 65536
      decide (e.page * 65536 / size = va.toNat % 2 ^ 52 / size)))

/-- A cached non-leaf entry that a `TLBINV` of any scope drops: for kind 0 those of the address. -/
def WalkEntry.dropped (kind fn : Nat) (va : DWord) (e : WalkEntry) : Bool :=
  if kind = 2 then true
  else decide (e.fn = fn) &&
    (decide (kind = 1) || decide (e.index = if e.level = 3 then bits va.toNat 51 40 else bits va.toNat 51 28))

/-- An access issued before number n, on a core of the scope and in the address space, has still to be performed. The TLB
that the cores of a hub share is dropped at every scope, so at `CORE` those of the whole hub count. -/
def State.accessOut (s : State) (kind scope core fn n : Nat) : Bool :=
  let scope := max 1 scope
  let of (k : Nat) : Bool := match s.teams[k]? with
    | some t => decide (kind = 2 ∨ t.fn = fn)
    | none => false
  s.sq.any (fun e => decide (e.id < n) && inScope scope core e.core && of e.team) ||
  s.saves.any (fun p => decide (p.id < n) && of p.team &&
    (match s.teams[p.team]? with | some t => inScope scope core t.core | none => false)) ||
  s.pannier.any (fun e => inScope scope core e.core && e.reqs.any (fun r => decide (r.op < n) && of r.team)) ||
  s.ops.any (fun o => decide (o.id < n) && o.kind.unbound && of o.team &&
    (match s.teams[o.team]? with | some t => inScope scope core t.core | none => false))

/-- The step a waiting `TLBINV` takes in a cycle, if it can: it drops the translations, or its thread continues. -/
def State.tlbStep (s : State) (k j : Nat) : State :=
  match s.teams[k]?, s.thread? k j with
  | some t, some th =>
    (match th.st, th.why with
     | .parked, .tlbinv kind scope va mark false =>
       if s.sq.any (fun e => s.entryIs e k j && decide (e.id < mark)) then s
       else
         let s := { s with tlb := s.tlb.filter (fun e => !e.dropped kind scope t.core t.fn va)
                           walkCache := s.walkCache.filter (fun e => !e.dropped kind t.fn va) }
         s.modThread k j (fun th => { th with why := .tlbinv kind scope va s.nextId true })
     | .parked, .tlbinv kind scope _ mark true =>
       if s.accessOut kind scope t.core t.fn mark then s else s.release k [j]
     | _, _ => s)
  | _, _ => s

/-- Every `TLBINV` takes its step. -/
def State.tlbSteps (s : State) : State :=
  s.teams.zipIdx.foldl (fun s tk =>
    ((tk.1.threads.filter (fun th => match th.why with | .tlbinv .. => true | _ => false)).map (fun th => th.idx)).foldl
      (fun s j => s.tlbStep tk.2 j) s) s

/-- The threads whose `SLEEP #0` or `CTXLD` ends with the cycle (R79, R344). -/
def State.napWake (s : State) : State :=
  s.releaseWhere (fun k _ th => (decide (th.why = .sleep 0 true) || decide (th.why = .ctxld)) &&
    (match s.teams[k]? with | some t => decide (t.status = .resident) | none => false))

/-- A WAITF thread's timeout or its 256 cycles after a write have come (R80). -/
def Thread.waitfDue (now : Nat) (t : Thread) : Bool :=
  match t.st, t.why with
  | .sleeping, .waitf dl _ dirty =>
    decide (dl ≤ now) || (match dirty with | some c => decide (c + 256 ≤ now) | none => false)
  | _, _ => false

/-- A group of a resident team by its place; none while its threads take turns. -/
def State.groupAt (s : State) (k g : Nat) : Option (Team × Group) :=
  (s.teams[k]?).bind (fun t => if t.status = .resident then (t.groups[g]?).bind (fun gr =>
    if s.turns.any (fun u => decide (u.team = k) && gr.members.any (fun j => u.members.contains j)) then none
    else some (t, gr)) else none)

/-- The first group in need of something, by team and place. -/
def State.firstGroup (s : State) (p : Nat → Team → Group → Bool) : Option (Nat × Nat) :=
  s.teams.zipIdx.findSome? (fun tk =>
    if tk.1.status = .resident then
      (tk.1.groups.zipIdx.find? (fun g => (s.groupAt tk.2 g.2).isSome && p tk.2 tk.1 g.1)).map (fun g => (tk.2, g.2))
    else none)

/-- An issue slot with a ready group that has not issued in this cycle. -/
def State.openSlot (s : State) : Option (Nat × Nat) :=
  if s.mgmt.state = 2 then none
  else s.teams.findSome? (fun t => (t.groups.find? (fun g =>
    s.groupReady t g && !s.issued.contains (t.core, g.issueSlot))).map (fun g => (t.core, g.issueSlot)))

/-- A turn that is not over, in a hub whose slots have issued. -/
def State.openTurn (s : State) : Option (Nat × Nat) :=
  (s.turns.find? (fun t => !t.left.isEmpty && !s.hubOpen (hubOf t.core))).map (fun t => (t.core, t.slot))

/-- The cores have still to act in this cycle: threads take turns, a ready group has not issued, a group enters its
bundle or its wait is over (R27, R30, R35, R37). -/
def State.coresBusy (s : State) : Bool :=
  decide (s.mgmt.state ≠ 2) &&
  (s.openTurn.isSome || s.openSlot.isSome || (s.firstGroup (fun _ t g => s.entryDue t g)).isSome ||
   (s.firstGroup (fun _ t g => t.waitReady s.now g)).isSome)

end Sys2Proof.Machine
end

