-- ==== Sys2Proof/Machine/MemOps.lean ====
section
/-!
DEFINITION. Memory accesses in flight: what a load reads and when it takes its place (R109, R110, R195, R196,
R207 to R209), the read-modify-writes of a home slice (R210 to R212), and the scratchpad and register space
(R89, R90).
-/

namespace Sys2Proof.Machine

/-! ## A thread's own stores that are still to be performed -/

/-- The generic bytes a store-queue entry writes. -/
def SqEntry.writes (e : SqEntry) : List (Nat × List Byte) :=
  match e.act with
  | .store l b => [(l, b)]
  | _ => []

/-- A pending store: its place in issue order, its key and its bytes. -/
abbrev Waiting := Nat × Nat × List Byte

def insertWaiting (x : Waiting) : List Waiting → List Waiting
  | [] => [x]
  | y :: ys => if x.1 < y.1 then x :: y :: ys else y :: insertWaiting x ys

/-- The thread's stores and scatter lanes older than `id` that are not yet performed, in issue order. -/
def State.ownStores (s : State) (k j id : Nat) : List Waiting :=
  let q := (s.sq.filter (fun e => e.team = k && e.thr = j && decide (e.id < id))).flatMap
    (fun e => e.writes.map (fun w => (e.id, w.1, w.2)))
  let p := (s.pannier.filter (fun e => e.write)).flatMap (fun e =>
    (e.reqs.filter (fun r => r.team = k && r.thr = j && decide (r.op < id))).map (fun r => (r.op, r.loc, r.data)))
  (q ++ p).foldr insertWaiting []

/-- Bytes from a key with the thread's own stores over them (R196). -/
def forward (ws : List Waiting) (key : Nat) (old : List Byte) : List Byte :=
  ws.foldl (fun bs w => overlay key bs w.2.1 w.2.2) old

/-- One of the stores covers a byte. -/
def covered (ws : List Waiting) (x : Nat) : Bool :=
  ws.any (fun w => decide (w.2.1 ≤ x) && decide (x < w.2.1 + w.2.2.length))

/-! ## The L1 portion (R103, R109) -/

/-- The bytes of a lane column. -/
def columnSize : Nat := 49152

/-- The column and the sub-bank of a thread's allocation register, and of a scratchpad offset (R103). -/
def regColumn (thr : Nat) : Nat := laneOf thr
def regBank (n : Nat) : Nat := n % 4
def spadColumn (off : Nat) : Nat := (off / 4) % 32
def spadBank (off : Nat) : Nat := (off / 128) % 4

/-- The bytes of a column that the teams of a core take: the registers of the threads whose home lane it is, and a part of
their scratchpads (R20). -/
def columnUsed (ts : List Team) (c : Nat) : Nat :=
  ((ts.flatMap (fun t => t.threads)).filter (fun th => regColumn th.idx = c)).foldl (fun n th => n + 4 * th.regs.length) 0 +
  (ts.map (fun t => t.spadBytes)).sum / 32

def State.l1Sector (s : State) (core sector : Nat) : Option L1Sector :=
  s.l1.find? (fun e => e.core = core && e.sector = sector)

/-- The sector as the home slice holds it. -/
def State.homeSector (s : State) (core sector : Nat) : L1Sector :=
  { core := core, sector := sector, bytes := s.bytesAt (sector * 32) 32 }

/-- The core no longer holds a sector. -/
def State.l1Drop (s : State) (core sector : Nat) : State :=
  { s with l1 := s.l1.filter (fun e => !(e.core = core && e.sector = sector)) }

/-- How many sectors the L1 portion of a core has room for: what its columns leave (R20, R103). -/
def State.l1Room (s : State) (core : Nat) : Nat :=
  let ts := s.teams.filter (fun t => t.core = core && t.seated)
  (((List.range 32).map (fun c => columnSize - columnUsed ts c)).sum) / 32

/-- The newest sectors that a core has room for. -/
def State.l1Trim (s : State) (core : Nat) : State :=
  let mine := s.l1.filter (fun e => e.core = core)
  let extra := mine.length - s.l1Room core
  if extra = 0 then s
  else { s with l1 := s.l1.filter (fun e => !((mine.take extra).contains e)) }

/-- The core holds a sector as the home slice returned it; a poisoned sector is not held, and older sectors leave where
there is no room (R103). -/
def State.l1Fill (s : State) (core sector : Nat) : State :=
  let s' := s.l1Drop core sector
  if !keyOwn (sector * 32) || s.poisoned (sector * 32) 32 then s'
  else State.l1Trim { s' with l1 := s'.l1 ++ [s.homeSector core sector] } core

/-- Returned data replaces a copy the core holds. -/
def State.l1Refresh (s : State) (core sector : Nat) : State :=
  match s.l1Sector core sector with
  | some _ => s.l1Fill core sector
  | none => s

/-! ## Reads -/

/-- A range a read or a write touches: key and length. -/
abbrev Span := Nat × Nat

def Span.meets (a b : Span) : Bool := decide (a.1 < b.1 + b.2) && decide (b.1 < a.1 + a.2)

/-- Bytes of an element by its format code (R141). -/
def elemBytes (fmt : Nat) : Nat :=
  if (1 ≤ fmt ∧ fmt ≤ 14) ∨ fmt = 19 ∨ fmt = 20 then 1
  else if fmt = 21 ∨ fmt = 22 then 2
  else if fmt = 23 ∨ fmt = 24 ∨ fmt = 26 then 4
  else if fmt = 25 then 8 else 0

def LoadForm.size : LoadForm → Nat
  | .raw n => n
  | .elem f _ _ _ => elemBytes f

/-- The ranges a load reads: its element, and its scale byte. -/
def loadSpans (locs : List Nat) (form : LoadForm) : List Span :=
  match locs with
  | [] => []
  | k :: rest => (k, form.size) :: rest.map (fun x => (x, 1))

/-- The ranges an operation has still to read for thread j. -/
def State.spansOf (s : State) (o : Op) (j : Nat) : List Span :=
  match o.kind with
  | .load locs form _ _ _ => loadSpans locs form
  | .ldvs l _ _ => [(l / 128 * 128, 128)]
  | .valid set _ => set.map (fun e => (e.line * 128, 128))
  | .verr l _ => [(l / 128 * 128, 128)]
  | .lanes _ _ got =>
    (s.pannier.filter (fun e => !e.write)).flatMap (fun e =>
      (e.reqs.filter (fun r => r.op = o.id && r.thr = j && !got.any (fun g => decide (g.1 = j) && decide (g.2.1 = r.part)))).map
        (fun r => (r.word, r.width)))
  | _ => []

/-- Two reads of one thread keep their order: both of the device's own memory, or of one place (R193, R196). -/
def spansOrdered (a b : List Span) : Bool :=
  (a.all (fun x => keyOwn x.1) && b.all (fun x => keyOwn x.1)) || a.any (fun x => b.any (fun y => x.meets y))

/-- Bytes of n from a key for an access of thread (k, j) with place `id`: from the core's L1 where it holds the
sector and the device chooses so, else from the home slice; own stores over them. The last part: whether the
home slice served it. -/
def State.readBytes (s : State) (core k j id key n : Nat) (bypass : Bool) : Option (List Byte) × Bool :=
  let own := s.ownStores k j id
  let hit : Option L1Sector :=
    if bypass || !keyOwn key || s.draw (256 + id % 1024) 0 % 2 = 0 then none else s.l1Sector core (sectorOf key)
  match hit with
  | some e => (some (forward own key ((e.bytes.drop (key % 32)).take n)), false)
  | none =>
    if s.unreachable key || (List.range n).any (fun i => s.poison.contains (key + i) && !covered own (key + i)) then
      (none, true)
    else (some (forward own key (s.bytesAt key n)), true)

/-- The home slice has returned data for a read of an instruction: a plain load fills the core's L1, another
refreshes it; the instruction's first read of a line is a transaction (R109, R110). -/
def State.served (s : State) (core ins key : Nat) (fill : Bool) : State :=
  let line := lineOf key
  let s := if fill then s.l1Fill core (sectorOf key) else s.l1Refresh core (sectorOf key)
  if s.ops.any (fun o => o.ins = ins && o.seen.contains line) then s
  else
    let s := s.readTransaction line
    { s with ops := s.ops.map (fun o => if o.ins = ins then { o with seen := line :: o.seen } else o) }

/-- Sectors that home slices return to a core replace the copies it holds (R109). -/
def State.refreshKeys (s : State) (core : Nat) (keys : List Nat) : State :=
  ((keys.map sectorOf).eraseDups).foldl (fun s x => s.l1Refresh core x) s

/-- One instruction's reads of some keys: one read transaction for each line (R110). -/
def State.readKeys (s : State) (core : Nat) (keys : List Nat) : State :=
  ((keys.map lineOf).eraseDups).foldl State.readTransaction (s.refreshKeys core keys)

/-- Words of a list of bytes, the last one zero-extended (R168). -/
def wordsOf : Nat → List Byte → List Word
  | 0, _ => []
  | n + 1, bs => BitVec.ofNat 32 (leNat (bs.take 4)) :: wordsOf n (bs.drop 4)

/-- The FP32 value of an element with its scale byte (R141). -/
def elemWord (fmt : Nat) (finite : Bool) (accE : Int) (bytes : List Byte) (scale : Option Nat) : Word :=
  let n := leNat bytes
  let v := if fmt = 25 then accVal (signedOf 64 n) accE else (decodeFmt fmt finite n).1
  match scale with
  | none => f32Round v
  | some k => if k = 255 then f32NaN else f32Round (v.scale ((k : Int) - 127))

/-- The words a load returns from its element's bytes and its scale byte. -/
def LoadForm.result (form : LoadForm) (bytes : List Byte) (scale : Option Nat) : List Word :=
  match form with
  | .raw n => wordsOf ((n + 3) / 4) bytes
  | .elem f fin e _ => [elemWord f fin e bytes scale]

/-- The operation's result is known. -/
def State.setReady (s : State) (id : Nat) (ws : List Word) (t : Option Trap) : State :=
  { s with ops := s.ops.map (fun o => if o.id = id then { o with kind := .ready ws, trap := t } else o) }

/-- The core on which an operation's thread runs. -/
def State.opCore (s : State) (o : Op) : Nat := match s.teams[o.team]? with | some t => t.core | none => 0

/-- A load reads (R168, R170): poisoned data leaves a cause and no result (R167). -/
def State.bindLoad (s : State) (o : Op) (locs : List Nat) (form : LoadForm) (bypass : Bool) (va : DWord) : State :=
  let core := s.opCore o
  let k0 := locs.headD 0
  let (data, home) := s.readBytes core o.team o.thr o.id k0 form.size bypass
  let s1 := if home && data.isSome then s.served core o.ins k0 (!bypass) else s
  let scale : Option (Option (List Byte) × Bool) :=
    (locs.tail.head?).map (fun x => s.readBytes core o.team o.thr o.id x 1 bypass)
  let s2 := match locs.tail.head?, scale with
    | some x, some (some _, true) => s1.served core o.ins x (!bypass)
    | _, _ => s1
  match data, scale with
  | none, _ => s2.setReady o.id [] (some (.atAddr .mchk va))
  | _, some (none, _) => s2.setReady o.id [] (some (.atAddr .mchk va))
  | some bs, some (some ks, _) => s2.setReady o.id (form.result bs (some (leNat ks))) none
  | some bs, none => s2.setReady o.id (form.result bs none) none

/-- The version an `LDVS` read is recorded in every set that it entered (R207, R208). -/
def recordVersion (id : Nat) (v : BitVec 48) (set : List VEntry) : List VEntry :=
  set.map (fun e => if e.src = id ∧ e.version = none then { e with version := some v } else e)

/-- An operation of the same thread that checks the set learns of the version. -/
def Op.recordVersion (k j id : Nat) (v : BitVec 48) (p : Op) : Op :=
  match p.kind with
  | .valid set st =>
    if p.team = k ∧ p.thr = j then { p with kind := .valid (Machine.recordVersion id v set) st } else p
  | _ => p

/-- An `LDVS` reads data and version in one step (R207). -/
def State.bindLdvs (s : State) (o : Op) (loc size : Nat) (va : DWord) : State :=
  let v := s.version (lineOf loc)
  let (data, _) := s.readBytes (s.opCore o) o.team o.thr o.id loc size true
  let s := s.modThread o.team o.thr (fun th => { th with vset := recordVersion o.id v th.vset })
  let s := { s with ops := s.ops.map (Op.recordVersion o.team o.thr o.id v) }
  match data with
  | none => s.setReady o.id [] (some (.atAddr .mchk va))
  | some bs => (s.served (s.opCore o) o.ins loc false).setReady o.id (wordsOf (size / 4) bs) none

/-- `VALID`'s check of the set as it stood at issue (R208). -/
def State.validWord (s : State) (set : List VEntry) (stale : Bool) : Word :=
  if !stale && set.all (fun e => decide (e.version = some (s.version e.line))) then 1 else 0

/-- What a lane request has read is noted, once. -/
def Op.addGot (id j part : Nat) (bs : Option (List Byte)) (p : Op) : Op :=
  match p.kind with
  | .lanes ms w got =>
    if p.id ≠ id ∨ got.any (fun g => decide (g.1 = j) && decide (g.2.1 = part)) then p
    else { p with kind := .lanes ms w (got ++ [(j, part, bs)]) }
  | _ => p

/-- A lane request of a gather reads (R121), own stores over the bytes. -/
def State.readLane (s : State) (o : Op) (r : PannierReq) : State :=
  let bs := (s.readBytes (s.opCore o) o.team r.thr o.id r.loc r.len true).1
  { s with ops := s.ops.map (Op.addGot o.id r.thr r.part bs) }

/-- The bytes a read-modify-write reads. -/
def Rmw.size : Rmw → Nat
  | .atom c _ _ => if c = 21 then 32 else if 16 ≤ c then 8 else 4
  | .casv _ _ true => 8
  | _ => 4

/-- The entry reads as well as it may write. -/
def SqAct.reads : SqAct → List Span
  | .localLoad .. => [(0, 0)]
  | .localAtomic .. => [(0, 0)]
  | .rmw l act _ => [(l, act.size)]
  | _ => []

/-- What a store-queue entry has still to read comes before a read of thread (k, j) with place `id`. -/
def State.queueBefore (s : State) (k j id : Nat) (spans : List Span) : Bool :=
  s.sq.any (fun e => e.team = k && e.thr = j && decide (e.id < id) && !e.act.reads.isEmpty && spansOrdered e.act.reads spans)

/-- A pending own store writes one of some lines. DESIGN CHOICE (log entry 92): a copy of the thread that is still to write
one of them counts as none (R180, R207). -/
def State.ownWriteTo (s : State) (k j id : Nat) (lines : List Nat) : Bool :=
  (s.ownStores k j id).any (fun w => (linesOf w.2.1 w.2.2.length).any lines.contains) ||
  s.sq.any (fun e => e.team = k && e.thr = j && decide (e.id < id) &&
    (match e.act with | .rmw l _ _ => lines.contains (lineOf l) | _ => false))

/-- A versioned load of the thread that was issued before number n has not completed (R208). -/
def State.ldvsOut (s : State) (k j n : Nat) : Bool :=
  s.ops.any (fun p => p.ldvs && decide (p.team = k) && decide (p.thr = j) && decide (p.id < n))

/-- A read that is no gather's takes its place, unless something of its thread that comes before it is still to be
performed, or no link goes to its host. A version in memory that no access reaches gives MCHK (R240). -/
def State.bindPlain (s : State) (o : Op) : Option State :=
  if s.queueBefore o.team o.thr o.id (s.spansOf o o.thr) || (s.spansOf o o.thr).any (fun x => s.hostAway x.1) then none
  else match o.kind with
    | .load locs form _ bypass va => some (s.bindLoad o locs form bypass va)
    | .ldvs l n va => if s.ownWriteTo o.team o.thr o.id [lineOf l] then none else some (s.bindLdvs o l n va)
    | .valid set stale =>
      if s.ownWriteTo o.team o.thr o.id (set.map (fun e => e.line)) || s.ldvsOut o.team o.thr o.id then none
      else if set.any (fun e => s.unreachable (e.line * 128)) then some (s.setReady o.id [] (some (.of .mchk)))
      else some (s.setReady o.id [s.validWord set stale] none)
    | .verr l va =>
      if s.unreachable l then some (s.setReady o.id [] (some (.atAddr .mchk va)))
      else some (s.setReady o.id [(s.version (lineOf l)).truncate 32, ((s.version (lineOf l)) >>> 32).truncate 32] none)
    | _ => some s

/-- A read that has not taken its place. -/
def OpKind.isRead : OpKind → Bool
  | .load .. | .ldvs .. | .valid .. | .verr .. | .lanes .. => true
  | _ => false

/-- The older reads of thread (k, j) that must take their place before one with some spans does, oldest first
(R196). -/
def State.olderReads (s : State) (k j id : Nat) (spans : List Span) : List Op :=
  let older := s.ops.filter (fun o => decide (o.id < id) && o.involves k j && o.kind.isRead && !(s.spansOf o j).isEmpty)
  (older.foldr (fun o m =>
    if m.2.any (fun x => spansOrdered (s.spansOf o j) x) then (o :: m.1, s.spansOf o j :: m.2) else m)
    (([], [spans]) : List Op × List (List Span))).1

/-- Reads that are no gather's take their place, oldest first. -/
def State.bindPlains : List Op → State → Option State
  | [], s => some s
  | o :: os, s =>
    match s.op? o.id with
    | some o' =>
      if o'.kind.isRead then
        match s.bindPlain o' with
        | some s' => State.bindPlains os s'
        | none => none
      else State.bindPlains os s
    | none => State.bindPlains os s

/-! ## The read entries of the Pannier (R120 to R122) -/

def OpKind.isLanes : OpKind → Bool
  | .lanes .. => true
  | _ => false

/-- A write entry of the same sector that opened before an entry is still to be performed. -/
def State.behindWrite (s : State) (e : PannierEntry) : Bool :=
  s.pannier.any (fun w => w.write && decide (w.core = e.core) && decide (w.sector = e.sector) && decide (w.id < e.id))

/-- The place of a lane request in the order in which the Pannier accepts them: groups in issue order, lanes ascending
(R120). -/
def PannierReq.place (r : PannierReq) : Nat := r.op * 64 + laneOf r.thr * 2 + r.part

/-- The place of the last request of an entry. -/
def PannierEntry.last (e : PannierEntry) : Nat := e.reqs.foldl (fun m r => max m r.place) 0

/-- An entry holds a request that was accepted before the last of another. -/
def PannierEntry.before (x e : PannierEntry) : Bool := x.reqs.any (fun r => decide (r.place < e.last))

/-- Read entries of a core with those that hold earlier requests (R122). -/
def State.withEarlier (s : State) (core : Nat) : Nat → List Nat → List Nat
  | 0, ids => ids
  | n + 1, ids =>
    let reads := s.pannier.filter (fun e => decide (e.core = core) && !e.write)
    let mine := reads.filter (fun e => ids.contains e.id)
    let more := reads.filter (fun x => !ids.contains x.id && mine.any (fun e => x.before e))
    if more.isEmpty then ids else State.withEarlier s core n (ids ++ more.map (fun e => e.id))

/-- A lane request has been served (R122). -/
def Op.serve (id j part : Nat) (o : Op) : Op :=
  match o.kind with
  | .lanes ms w got => if o.id = id then { o with kind := .lanes ms (w.erase (j, part)) got } else o
  | _ => o

/-- The lanes of a read entry, each after its thread's older loads (R121, R196). -/
def State.readReqs : List PannierReq → State → Option State
  | [], s => some s
  | r :: rs, s =>
    match s.op? r.op with
    | none => State.readReqs rs s
    | some o =>
      if s.queueBefore r.team r.thr r.op [(r.word, r.width)] || s.hostAway r.loc then none
      else match State.bindPlains ((s.olderReads r.team r.thr r.op [(r.word, r.width)]).filter (fun o => !o.kind.isLanes)) s with
        | none => none
        | some s =>
          let s := s.readLane o r
          State.readReqs rs { s with ops := s.ops.map (Op.serve r.op r.thr r.part) }

/-- A read entry is one read at the home slice (R109, R110, R121), and is no longer pending. -/
def State.readEntry (s : State) (e : PannierEntry) : Option State :=
  (State.readReqs e.reqs s).map (fun s =>
    let s := (s.l1Refresh e.core e.sector).readTransaction (e.sector / 4)
    { s with pannier := s.pannier.filter (fun x => x.id ≠ e.id) })

/-- Read entries are served in the order they were opened. -/
def State.readEntries : List PannierEntry → State → Option State
  | [], s => some s
  | e :: es, s => (s.readEntry e).bind (State.readEntries es)

/-- Read entries of a core are served, with those that hold earlier requests (R120 to R122); none while one of them has
still to be sent, or is behind a write. They read at one moment, as their requests would one after another. -/
def State.serveReads (s : State) (core : Nat) (ids : List Nat) : Option State :=
  let all := State.withEarlier s core s.pannier.length ids
  let es := s.pannier.filter (fun e => all.contains e.id)
  if es.any (fun e => !e.sent || s.behindWrite e) then none else State.readEntries es s

/-- The entries that hold unread lanes of a gather of thread j. -/
def State.entriesOf (s : State) (o : Op) (j : Nat) : List Nat :=
  (s.pannier.filter (fun e => !e.write && e.reqs.any (fun r => decide (r.op = o.id) && decide (r.thr = j)))).map (fun e => e.id)

/-- One read takes its place. -/
def State.bindOne (s : State) (o : Op) (j : Nat) : Option State :=
  match o.kind with
  | .lanes .. => s.serveReads (s.opCore o) (s.entriesOf o j)
  | _ => s.bindPlain o

/-- Reads take their place, oldest first. -/
def State.bindAll (j : Nat) : List Op → State → Option State
  | [], s => some s
  | o :: os, s =>
    match s.op? o.id with
    | some o' =>
      if o'.kind.isRead then
        match s.bindOne o' j with
        | some s' => State.bindAll j os s'
        | none => none
      else State.bindAll j os s
    | none => State.bindAll j os s

/-- A read of thread j takes its place after the older ones it must follow. -/
def State.bind (s : State) (o : Op) (j : Nat) : Option State :=
  State.bindAll j (s.olderReads o.team j o.id (s.spansOf o j) ++ [o]) s

/-- The threads an operation reads for. -/
def Op.threads (o : Op) : List Nat :=
  match o.kind with
  | .lanes ms _ _ => ms.map (fun m => m.1)
  | _ => [o.thr]

/-- The reads, by operation and thread, that a write of thread (k, j) with place `id` on a core must let pass first: its
own older reads of the written bytes (R193), and the reads of those bytes on its core that a later store of their thread
has already passed (R196). -/
def State.readsBefore (s : State) (core : Option Nat) (k j id : Nat) (ws : List Span) : List (Nat × Nat) :=
  s.ops.flatMap (fun o =>
    if !o.kind.isRead then []
    else (o.threads.filter (fun t =>
      (s.spansOf o t).any (fun x => ws.any (fun y => x.meets y)) &&
      ((decide (o.team = k) && decide (t = j) && decide (o.id < id)) ||
        (some (s.opCore o) = core && o.passed.contains t)))).map (fun t => (o.id, t)))

/-- Reads take their place, each after the older ones of its thread; none while one of them has to wait. -/
def State.bindReads : List (Nat × Nat) → State → Option State
  | [], s => some s
  | d :: ds, s =>
    match s.op? d.1 with
    | some o =>
      if o.kind.isRead then (s.bind o d.2).bind (State.bindReads ds) else State.bindReads ds s
    | none => State.bindReads ds s

/-- An access of thread (k, j) older than place `id` has still to read. -/
def State.unread (s : State) (k j id : Nat) : Bool :=
  s.ops.any (fun o => decide (o.id < id) && o.involves k j && o.kind.isRead && !(s.spansOf o j).isEmpty)

/-- A read of some bytes has still to be made before thread (k, j) may write them from place `id` in the queue of a core:
its own, one that a later store of its thread has passed, or one that an entry of the queue will pass (R193, R196). -/
def State.readOwed (s : State) (core k j id : Nat) (ws : List Span) : Bool :=
  s.ops.any (fun o => o.kind.isRead && o.threads.any (fun t =>
    (s.spansOf o t).any (fun x => ws.any (fun y => x.meets y)) &&
    ((decide (o.team = k) && decide (t = j) && decide (o.id < id)) ||
     (decide (s.opCore o = core) && (o.passed.contains t ||
       s.sq.any (fun y => decide (y.core = core) && decide (y.team = o.team) && decide (y.thr = t) && decide (o.id < y.id)))))))

/-- The lane's request of a write entry that an entry of the store queue is the place of. -/
def State.requestOf (s : State) (e : SqEntry) (w : Nat) : Option (PannierEntry × PannierReq) :=
  (s.pannier.find? (fun x => x.id = w)).bind (fun x =>
    (x.reqs.find? (fun r => decide (r.op = e.id) && decide (r.thr = e.thr))).map (fun r => (x, r)))

/-- The read entries of a sector that opened before a write entry of it. -/
def State.readsAhead (s : State) (e : PannierEntry) : List PannierEntry :=
  s.pannier.filter (fun x => decide (x.core = e.core) && decide (x.sector = e.sector) && !x.write && decide (x.id < e.id))

/-- Reads have still to be made before an entry of the store queue may be performed. -/
def State.owesReads (s : State) (e : SqEntry) : Bool :=
  let older := s.unread e.team e.thr e.id
  match e.act with
  | .store l bs => s.readOwed e.core e.team e.thr e.id [(l, bs.length)] || (e.release.isSome && older)
  | .rmw l a _ => s.readOwed e.core e.team e.thr e.id [(l, a.size)] || older
  | .localLoad .. | .localAtomic .. | .fence _ => older
  | .scatter w =>
    (match s.requestOf e w with
     | some (x, r) => s.readOwed e.core e.team e.thr e.id [(r.loc, r.len)] || !(s.readsAhead x).isEmpty
     | none => false)
  | .localStore .. | .copy => false

/-- The state in which a write may be performed: the reads that it must let pass have taken their place. -/
def State.beforeWrite (s : State) (core : Option Nat) (k j id : Nat) (ws : List Span) : Option State :=
  State.bindReads (s.readsBefore core k j id ws) s

/-- A store of thread (k, j) with place `id` has been performed before its thread's older reads (R196). -/
def Op.markPassed (k j id : Nat) (o : Op) : Op :=
  if decide (o.id < id) && o.involves k j && o.kind.isRead && !o.passed.contains j then { o with passed := j :: o.passed }
  else o

def State.markPassed (s : State) (k j id : Nat) : State := { s with ops := s.ops.map (Op.markPassed k j id) }

/-- Sequence numbers have 48 bits (R350). -/
def seqSpan : Nat := 2 ^ 48

/-- A write to another device carries the next sequence number to it and is unacknowledged (R202); one to a host goes on
the link that is used. -/
def State.sendRemote (s : State) (k j loc : Nat) : State :=
  if keyOwn loc then s
  else if keyHost loc then s.sendHost loc
  else
    let dst := keyNode loc
    let n := Tab.get s.txSeq dst 0
    { s with txSeq := Tab.put s.txSeq dst ((n + 1) % seqSpan) 0
             unacked := s.unacked ++ [({ dst := dst, seq := n, team := k, thr := j } : Unacked)] }

/-! ## Read-modify-writes (R186, R210 to R213) -/

/-- The new 32-bit word of an atomic (R212). -/
def atomWord (code : Nat) (old op : Word) : Word :=
  match code with
  | 0 => old + op
  | 1 => f32Add old op
  | 2 => if op.slt old then op else old
  | 3 => if old.slt op then op else old
  | 4 => if op.ult old then op else old
  | 5 => if old.ult op then op else old
  | 6 => f32Min old op
  | 7 => f32Max old op
  | 8 => old &&& op
  | 9 => old ||| op
  | 10 => old ^^^ op
  | _ => op

/-- The new 64-bit word of an atomic, and whether it clamped (R131, R212). -/
def atomPairWord (code : Nat) (old op : DWord) : DWord × Bool :=
  match code with
  | 16 => (old + op, false)
  | 17 => (if old.ult op then op else old, false)
  | 18 => (if op.ult old then op else old, false)
  | 19 => (op, false)
  | _ => accAdd old op

def bytesOfWord (w : Word) : List Byte := leBytes 4 w.toNat
def bytesOfPair (w : DWord) : List Byte := leBytes 8 w.toNat

/-- What a read-modify-write does to its place: the bytes written, none for a failed comparison; the words
returned; whether it clamped. -/
structure RmwOut where
  write : Option (List Byte)
  words : List Word
  sat : Bool

/-- A read-modify-write of old bytes at a line version (R210 to R212). -/
def Rmw.run (r : Rmw) (old : List Byte) (v : BitVec 48) : RmwOut :=
  let w : Word := BitVec.ofNat 32 (leNat (old.take 4))
  match r with
  | .atom c op _ =>
    if c = 21 then
      { write := some (old.zipWith (· ^^^ ·) (op.flatMap bytesOfWord)), words := [], sat := false }
    else if 16 ≤ c then
      let x : DWord := BitVec.ofNat 64 (leNat (old.take 8))
      let n := atomPairWord c x (DWord.mk (op.getD 0 0) (op.getD 1 0))
      { write := some (bytesOfPair n.1), words := [x.lo, x.hi], sat := n.2 }
    else { write := some (bytesOfWord (atomWord c w (op.getD 0 0))), words := [w], sat := false }
  | .cas e n => { write := if w = e then some (bytesOfWord n) else none, words := [w], sat := false }
  | .casv e n fused =>
    let after := if v = e then v + 1 else v
    let g : Word := BitVec.ofNat 32 (leNat (old.drop 4))
    let gen : Word := (g &&& 0xFFFF0000#32) ||| ((g + 1) &&& 0xFFFF#32)
    { write := if v = e then some (bytesOfWord n ++ if fused then bytesOfWord gen else []) else none
      words := [after.truncate 32, ((after >>> 32).truncate 32) ||| (if v = e then 0 else 0x80000000#32)], sat := false }

/-- A read-modify-write is performed at its home slice for a thread's operation (R206): poisoned or unreachable
bytes are not written and leave a cause on the operation. One at another device goes out under R202. DESIGN CHOICE (log
entry 91): it takes its sequence number whether or not its comparison holds. -/
def State.performRmw (s : State) (core k j op : Nat) (loc : Nat) (act : Rmw) (va : DWord) : State :=
  if s.unreachable loc || s.poisoned loc act.size then s.setReady op [] (some (.atAddr .mchk va))
  else
    let out := act.run (s.bytesAt loc act.size) (s.version (lineOf loc))
    let s1 := match out.write with
      | some bs => if keyHost loc then s.writeMem (some core) loc bs else (s.writeMem (some core) loc bs).sendRemote k j loc
      | none =>
        if keyHost loc then s
        else (s.served core (match s.op? op with | some o => o.ins | none => 0) loc false).sendRemote k j loc
    let s2 := s1.l1Refresh core (sectorOf loc)
    let s3 := if out.sat then s2.modThread k j (fun th => { th with fpstat := th.fpstat ||| statSat }) else s2
    s3.setReady op out.words none

/-- An atomic without a flag that has been performed is over: a cause it leaves is held until the thread's next
fence or exit (R206). -/
def State.redDone (s : State) (id : Nat) : State :=
  match s.op? id with
  | none => s
  | some o =>
    match o.flag, o.kind with
    | 0, .ready ws => s.completeOp o ws o.trap
    | _, _ => s

/-! ## Scratchpad and register space (R89, R90) -/

/-- The team of the thread's hub set on a rank (R89). -/
def Lane.rankTeam (l : Lane) (rank : Nat) : Option Nat :=
  (l.s.teams.zipIdx.find? (fun tk =>
    tk.1.hubset = l.tm.hubset && tk.1.seated && rankOf tk.1.core = rank)).map (fun tk => tk.2)

/-- The place a local address names, with the checks of R89. -/
def Lane.localAt (l : Lane) (addr : Word) (size : Nat) : Except Trap LocalLoc :=
  let a := addr.toNat
  let at' (c : Cause) : Trap := .atAddr c (addr.zeroExtend 64)
  let rank := bits a 22 21
  let off := bits a 20 0
  let reg := bits a 23 23 = 1
  let team : Option Nat := if reg then (if rank = rankOf l.tm.core then some l.s.cur.team else none) else l.rankTeam rank
  match team with
  | none => .error (at' .rankbad)
  | some k =>
    if a % size ≠ 0 then .error (at' .align)
    else if 2 ^ 24 ≤ a then .error (at' .spadbound)
    else if reg then
      let t := bits off 19 10
      let n := bits off 9 2
      match l.tm.threads[t]? with
      | none => .error (at' .spadbound)
      | some th =>
        if bits off 20 20 = 1 ∨ th.regs.length ≤ n then .error (at' .spadbound) else .ok (.reg k t n (off % 4))
    else match l.s.teams[k]? with
      | none => .error (at' .rankbad)
      | some t => if t.spadBytes < off + size then .error (at' .spadbound) else .ok (.spad k off)

/-- The absent line a scratchpad access meets (R91). -/
def State.absentLine (s : State) (loc : LocalLoc) : Option (Nat × Nat) :=
  match loc with
  | .spad k off =>
    match s.teams[k]? with
    | some t => if Tab.get t.absent (off / 128) 0 = 0 then none else some (k, off / 128)
    | none => none
  | .reg .. => none

/-- Bytes of the registers of a thread from allocation register n. -/
def Thread.regBytes (t : Thread) (n count : Nat) : List Byte := (t.regs.drop n).take count |>.flatMap bytesOfWord

/-- The bytes at a local place; none when one of them is poisoned (R327). -/
def State.localRead (s : State) (loc : LocalLoc) (size : Nat) : Option (List Byte) :=
  match loc with
  | .spad k off =>
    match s.teams[k]? with
    | none => none
    | some t =>
      if t.spadPoison.any (fun x => decide (off ≤ x) && decide (x < off + size)) then none
      else some (memBytes t.spad off size)
  | .reg k j n b =>
    match s.thread? k j with
    | none => none
    | some th =>
      let th := th.settle s.now
      if th.poisonRegs.any (fun x => decide (n ≤ x) && decide (4 * x < 4 * n + b + size)) then none
      else some (((th.regBytes n ((b + size + 3) / 4)).drop b).take size)

/-- Registers of a thread with bytes stored at byte b of register n. -/
def Thread.putBytes (n b : Nat) (bs : List Byte) (t : Thread) : Thread :=
  let count := (b + bs.length + 3) / 4
  let new := overlay 0 (t.regBytes n count) b bs
  (List.range count).foldl (fun t i =>
    Landing.apply t (.reg (n + i) (BitVec.ofNat 32 (leNat ((new.drop (4 * i)).take 4))))) t

/-- Bytes stored at a local place. -/
def State.localWrite (s : State) (loc : LocalLoc) (bs : List Byte) : State :=
  match loc with
  | .spad k off => s.modTeam k (fun t =>
      { t with spad := memPut t.spad off bs
               spadPoison := t.spadPoison.filter (fun x => !(decide (off ≤ x) && decide (x < off + bs.length))) })
  | .reg k j n b => s.modThread k j (fun th => (th.settle s.now).putBytes n b bs)

/-- The new word of an `ATL` (R93). -/
def atlWord (code : Nat) (old d : Word) : Word :=
  match code with
  | 0 => old + d
  | 1 => if d.slt old then d else old
  | 2 => if old.slt d then d else old
  | 3 => if d.ult old then d else old
  | 4 => if old.ult d then d else old
  | 5 => old ||| d
  | 6 => old &&& d
  | _ => d

/-! ## What holds a memory instruction -/

/-- An `LDACQ` of the thread has not returned (R216). -/
def Lane.acquiring (l : Lane) : Bool :=
  l.s.ops.any (fun o => o.involves l.s.cur.team l.th.idx && (match o.kind with
    | .load _ _ acq _ _ => acq.isSome
    | .ready _ => false
    | _ => false))

/-- A memory access of a lane: held while an `LDACQ` of its thread has not returned (R216). -/
def Lane.access (l : Lane) (k : LaneOut) : LaneOut := if l.acquiring then .hold else k

end Sys2Proof.Machine
end

