-- ==== Sys2Proof/Machine/Local.lean ====
section
/-!
DEFINITION. Local memory: LDL, STL and ATL (R89 to R93). An access takes its place in the core's store queue
at issue, when its line is present; a lane that meets an absent line parks at the instruction (R91).
-/

namespace Sys2Proof.Machine

/-- The local address of a lane (R89). -/
def Lane.localAddr (l : Lane) (a o : BitVec 7) (size : Nat) : Word :=
  l.reg a + o.signExtend 32 * BitVec.ofNat 32 size

/-- A local access: the checks of R89, the wait for an absent line (R91), and what follows at the place. -/
def Lane.localAccess (l : Lane) (addr : Word) (size : Nat) (k : LocalLoc → Done) : LaneOut :=
  match l.localAt addr size with
  | .error t => .trap t
  | .ok loc =>
    match l.s.absentLine loc with
    | some (team, line) => .done { stay := true, upd := Thread.park (.line team line) }
    | none => l.access (.done (k loc))

/-- `LDL` of a size (R92). -/
def loadLocal (i : Instr) (size : Nat) (d a o : BitVec 7) (f : BitVec 4) (s : State) : Host.Outcome State Fault Refusal :=
  runLanes i s (fun l =>
    let addr := l.localAddr a o size
    l.localAccess addr size (fun loc =>
      { flag := f.toNat, dst := l.dsts d ((size + 3) / 4), op := some .queued, acts := [(none, .localLoad loc size addr)] }))

/-- The low bytes of the data operand (R92, R168). -/
def Lane.storeBytes (l : Lane) (d : BitVec 7) (size : Nat) : List Byte :=
  ((l.words d ((size + 3) / 4)).flatMap bytesOfWord).take size

/-- The operation a store counts on its flag; none without a flag. -/
def storeOp (f : BitVec 4) : Option OpKind := if f = 0 then none else some .queued

/-- `STL` of a size (R92). -/
def storeLocal (i : Instr) (size : Nat) (d a o : BitVec 7) (f : BitVec 4) (s : State) : Host.Outcome State Fault Refusal :=
  runLanes i s (fun l =>
    l.localAccess (l.localAddr a o size) size (fun loc =>
      { flag := f.toNat, op := storeOp f, acts := [(none, .localStore loc (l.storeBytes d size))] }))

/-- `LDL.B` (R92). -/
def execLdlB (d a o : BitVec 7) (f : BitVec 4) (s : State) : Host.Outcome State Fault Refusal :=
  loadLocal (.ldlB d a o f) 1 d a o f s
/-- `LDL.H` (R92). -/
def execLdlH (d a o : BitVec 7) (f : BitVec 4) (s : State) : Host.Outcome State Fault Refusal :=
  loadLocal (.ldlH d a o f) 2 d a o f s
/-- `LDL.W` (R92). -/
def execLdlW (d a o : BitVec 7) (f : BitVec 4) (s : State) : Host.Outcome State Fault Refusal :=
  loadLocal (.ldlW d a o f) 4 d a o f s
/-- `LDL.D` (R92). -/
def execLdlD (d a o : BitVec 7) (f : BitVec 4) (s : State) : Host.Outcome State Fault Refusal :=
  loadLocal (.ldlD d a o f) 8 d a o f s
/-- `LDL.Q` (R92). -/
def execLdlQ (d a o : BitVec 7) (f : BitVec 4) (s : State) : Host.Outcome State Fault Refusal :=
  loadLocal (.ldlQ d a o f) 16 d a o f s
/-- `STL.B` (R92). -/
def execStlB (d a o : BitVec 7) (f : BitVec 4) (s : State) : Host.Outcome State Fault Refusal :=
  storeLocal (.stlB d a o f) 1 d a o f s
/-- `STL.H` (R92). -/
def execStlH (d a o : BitVec 7) (f : BitVec 4) (s : State) : Host.Outcome State Fault Refusal :=
  storeLocal (.stlH d a o f) 2 d a o f s
/-- `STL.W` (R92). -/
def execStlW (d a o : BitVec 7) (f : BitVec 4) (s : State) : Host.Outcome State Fault Refusal :=
  storeLocal (.stlW d a o f) 4 d a o f s
/-- `STL.D` (R92). -/
def execStlD (d a o : BitVec 7) (f : BitVec 4) (s : State) : Host.Outcome State Fault Refusal :=
  storeLocal (.stlD d a o f) 8 d a o f s
/-- `STL.Q` (R92). -/
def execStlQ (d a o : BitVec 7) (f : BitVec 4) (s : State) : Host.Outcome State Fault Refusal :=
  storeLocal (.stlQ d a o f) 16 d a o f s

/-- `ATL` (R93). -/
def execAtl (d a c : BitVec 7) (f : BitVec 4) (s : State) : Host.Outcome State Fault Refusal :=
  runLanes (.atl d a c f) s (fun l =>
    let addr := l.reg a
    l.localAccess addr 4 (fun loc =>
      { flag := f.toNat, dst := l.dsts d 1, op := some .queued, acts := [(none, .localAtomic loc c.toNat (l.reg d) addr)] }))

end Sys2Proof.Machine
end

