-- ==== Sys2Proof/Machine/Global.lean ====
section
/-!
DEFINITION. Generic loads and stores, format-reading access, prefetch, counted fill, gathers and scatters
(R166 to R176).
-/

namespace Sys2Proof.Machine

/-! ## Addresses (R166) -/

/-- A lane's address: its pair and a scaled offset. -/
def Lane.gva (l : Lane) (a o : BitVec 7) (scale : Nat) : DWord :=
  l.pair a + o.signExtend 64 * BitVec.ofNat 64 scale

/-- An address aligned, translated and permitted (R166): its key and its page. -/
def Lane.reach (l : Lane) (kind : Access) (va : DWord) (align len : Nat) : Except Trap (Nat × Leaf) :=
  if va.toNat % align ≠ 0 then .error (.atAddr .align va)
  else match l.s.translate l.who kind va len with
    | .error c => .error (.atAddr c va)
    | .ok r => .ok r

/-- A lane that reaches its address goes on; the others trap. -/
def Lane.withPage (l : Lane) (r : Except Trap (Nat × Leaf)) (k : Nat → Leaf → LaneOut) : LaneOut :=
  match r with
  | .error t => .trap t
  | .ok (key, leaf) => l.access (k key leaf)

/-- `LDG` of a size (R168). -/
def loadGlobal (i : Instr) (size : Nat) (d a o : BitVec 7) (f : BitVec 4) (s : State) : Host.Outcome State Fault Refusal :=
  runLanes i s (fun l =>
    let va := l.gva a o size
    l.withPage (l.reach .load va size size) (fun key _ =>
      .done { flag := f.toNat, dst := l.dsts d ((size + 3) / 4), op := some (.load [key] (.raw size) none (!keyOwn key) va) }))

/-- `STG` of a size (R168, R169). -/
def storeGlobal (i : Instr) (size : Nat) (d a o : BitVec 7) (f : BitVec 4) (s : State) : Host.Outcome State Fault Refusal :=
  runLanes i s (fun l =>
    l.withPage (l.reach .store (l.gva a o size) size size) (fun key _ =>
      .done { flag := f.toNat, op := storeOp f, acts := [(none, .store key (l.storeBytes d size))] }))

/-- `LDG.B` (R168). -/
def execLdgB (d a o : BitVec 7) (f : BitVec 4) (s : State) : Host.Outcome State Fault Refusal :=
  loadGlobal (.ldgB d a o f) 1 d a o f s
/-- `LDG.H` (R168). -/
def execLdgH (d a o : BitVec 7) (f : BitVec 4) (s : State) : Host.Outcome State Fault Refusal :=
  loadGlobal (.ldgH d a o f) 2 d a o f s
/-- `LDG.W` (R168). -/
def execLdgW (d a o : BitVec 7) (f : BitVec 4) (s : State) : Host.Outcome State Fault Refusal :=
  loadGlobal (.ldgW d a o f) 4 d a o f s
/-- `LDG.D` (R168). -/
def execLdgD (d a o : BitVec 7) (f : BitVec 4) (s : State) : Host.Outcome State Fault Refusal :=
  loadGlobal (.ldgD d a o f) 8 d a o f s
/-- `LDG.Q` (R168). -/
def execLdgQ (d a o : BitVec 7) (f : BitVec 4) (s : State) : Host.Outcome State Fault Refusal :=
  loadGlobal (.ldgQ d a o f) 16 d a o f s
/-- `STG.B` (R168). -/
def execStgB (d a o : BitVec 7) (f : BitVec 4) (s : State) : Host.Outcome State Fault Refusal :=
  storeGlobal (.stgB d a o f) 1 d a o f s
/-- `STG.H` (R168). -/
def execStgH (d a o : BitVec 7) (f : BitVec 4) (s : State) : Host.Outcome State Fault Refusal :=
  storeGlobal (.stgH d a o f) 2 d a o f s
/-- `STG.W` (R168). -/
def execStgW (d a o : BitVec 7) (f : BitVec 4) (s : State) : Host.Outcome State Fault Refusal :=
  storeGlobal (.stgW d a o f) 4 d a o f s
/-- `STG.D` (R168). -/
def execStgD (d a o : BitVec 7) (f : BitVec 4) (s : State) : Host.Outcome State Fault Refusal :=
  storeGlobal (.stgD d a o f) 8 d a o f s
/-- `STG.Q` (R168). -/
def execStgQ (d a o : BitVec 7) (f : BitVec 4) (s : State) : Host.Outcome State Fault Refusal :=
  storeGlobal (.stgQ d a o f) 16 d a o f s

/-! ## Format-reading access (R141, R142, R170, R171) -/

/-- The address of an element's scale byte (R142). -/
def scaleAddr (ssb va : DWord) (width geo : Nat) : DWord :=
  ssb + BitVec.ofNat 64 ((va.toNat % 2 ^ 52) >>> (2 + width + geo))

/-- An element reached through the format of its page. -/
structure Elem where
  key : Nat
  leaf : Leaf
  scale : Option (Nat × DWord)     -- key and address of the scale byte

/-- An element at an address whose page names its format (R170): the canonical check and translation, then
ALIGN by the element width, then the format checks, then the scale byte as a load. `align` is the width when
another page fixes it, and `same` what its page has to agree with (R175). -/
def Lane.elemIf (l : Lane) (kind : Access) (va : DWord) (align : Option Nat) (same : Leaf → Bool) : Except Trap Elem :=
  match l.s.translate l.who kind va 1 with
  | .error c => .error (.atAddr c va)
  | .ok (key, leaf) =>
    let w := elemBytes leaf.fmt
    let al := align.getD w
    if al ≠ 0 ∧ va.toNat % al ≠ 0 then .error (.atAddr .align va)
    else if kind = .store ∧ !l.privileged ∧ l.s.seqProtected l.tm.fn va w then .error (.atAddr .prot va)
    else if !same leaf ∨ w = 0 ∨ leaf.geo = 3 ∨ (leaf.geo ≠ 0 ∧ 4 ≤ w) then .error (.atAddr .fmtbad va)
    else if leaf.geo = 0 then .ok { key := key, leaf := leaf, scale := none }
    else
      let sva := scaleAddr (l.s.space l.tm.fn).ssb va w leaf.geo
      match l.s.translate { l.who with lane := laneOf l.th.idx + 32 } .load sva 1 with
      | .error c => .error (.atAddr c sva)
      | .ok (sk, _) => .ok { key := key, leaf := leaf, scale := some (sk, sva) }

/-- The same for an element that agrees with nothing else. -/
def Lane.elemAt (l : Lane) (kind : Access) (va : DWord) (align : Option Nat) : Except Trap Elem :=
  l.elemIf kind va align (fun _ => true)

def Elem.form (e : Elem) : LoadForm := .elem e.leaf.fmt e.leaf.dom e.leaf.e e.scale.isSome
def Elem.locs (e : Elem) : List Nat := e.key :: (e.scale.map Prod.fst).toList

/-- `LDF` (R170). -/
def execLdf (d a o : BitVec 7) (f : BitVec 4) (s : State) : Host.Outcome State Fault Refusal :=
  runLanes (.ldf d a o f) s (fun l =>
    let va := l.gva a o 1
    match l.elemAt .load va none with
    | .error t => .trap t
    | .ok e => l.access (.done { flag := f.toNat, dst := l.dsts d 1
                                 op := some (.load e.locs e.form none (!keyOwn e.key) va) }))

/-- A value encoded to an element of a page (R141, R171). -/
def Elem.encode (e : Elem) (mode : RMode) (v : Word) (scale : Option Nat) : List Byte × NumStat :=
  let n : Nat × NumStat :=
    if e.leaf.fmt = 25 then encodeAcc e.leaf.e mode (f32Val v)
    else
      let x : FVal := match scale with
        | none => f32Val v
        | some k => if k = 255 then .nan else (f32Val v).scale (127 - (k : Int))
      encodeFmt e.leaf.fmt e.leaf.dom mode x
  (leBytes (elemBytes e.leaf.fmt) n.1, n.2)

/-- The thread has reads that have not taken their place. -/
def Lane.readsOut (l : Lane) : Bool :=
  l.s.ops.any (fun o => o.involves l.s.cur.team l.th.idx && o.kind.isRead) ||
  l.s.sq.any (fun e => e.team = l.s.cur.team && e.thr = l.th.idx && !e.act.reads.isEmpty)

/-- What a format store reads for its scale byte at issue, and whether the home slice served it. -/
def Lane.scaleRead (l : Lane) (key : Nat) : Option (List Byte) × Bool :=
  l.s.readBytes l.tm.core l.s.cur.team l.th.idx l.s.nextId key 1 (!keyOwn key)

/-- The scale byte. -/
def Lane.scaleByte (l : Lane) (key : Nat) : Option Nat := (l.scaleRead key).1.map leNat

/-- A format store of one lane (R171): the scale byte is read at issue, after the thread's earlier reads; a
poisoned one leaves the element unwritten and its cause on the flag. DESIGN CHOICE (log entry 75): the status bits, which
R171 sets by the flag's completion, are set at issue. -/
def Lane.formatStore (l : Lane) (d a o : BitVec 7) (f : BitVec 4) (mode : RMode) : LaneOut :=
  let va := l.gva a o 1
  match l.elemAt .store va none with
  | .error t => .trap t
  | .ok e =>
    match e.scale with
    | none =>
      let r := e.encode mode (l.reg d) none
      l.access (.done { flag := f.toNat, op := storeOp f, acts := [(none, .store e.key r.1)]
                        upd := fun th => { th with fpstat := th.fpstat ||| r.2.bits } })
    | some (sk, sva) =>
      if l.readsOut || l.s.hostAway sk then .hold
      else match l.scaleByte sk with
        | none => l.access (.done { flag := f.toNat, op := some (.ready []), trap := some (.atAddr .mchk sva) })
        | some k =>
          let r := e.encode mode (l.reg d) (some k)
          l.access (.done { flag := f.toNat, op := storeOp f, acts := [(none, .store e.key r.1)]
                            upd := fun th => { th with fpstat := th.fpstat ||| r.2.bits } })

/-- The scale bytes that home slices have served to a format store count as its reads of their lines (R109, R110). -/
def State.scalesRead (s : State) (ls : List Lane) (a o : BitVec 7) : State :=
  let keys := ls.filterMap (fun l => match l.elemAt .store (l.gva a o 1) none with
    | .ok e => (e.scale.map Prod.fst).filter (fun k => (l.scaleRead k).2)
    | .error _ => none)
  match ls with
  | [] => s
  | l :: _ => s.readKeys l.tm.core keys

/-- `STF` (R171). -/
def execStf (d a o : BitVec 7) (f : BitVec 4) (s : State) : Host.Outcome State Fault Refusal :=
  runLanesThen (.stf d a o f) s (fun l => l.formatStore d a o f .rn) (fun ls s => s.scalesRead ls a o)

/-- The lane performs the store: its element has no scale byte, or one that is not poisoned. -/
def Lane.storesElem (l : Lane) (a o : BitVec 7) : Bool :=
  match l.elemAt .store (l.gva a o 1) none with
  | .error _ => false
  | .ok e => match e.scale with
    | none => true
    | some (sk, _) => (l.scaleByte sk).isSome

/-- `STF.RS`: the slot's stochastic state advances once where a member performs the store (R134, R171). -/
def execStfRs (d a o : BitVec 7) (f : BitVec 4) (s : State) : Host.Outcome State Fault Refusal :=
  runLanesThen (.stfRs d a o f) s (fun l => l.formatStore d a o f (.rs l.rsLane))
    (fun ls s => (s.scalesRead ls a o).advanceRs (ls.filter (fun l => l.storesElem a o)))

/-! ## PREF and CFILL -/

/-- `PREF`: it changes no value and never faults on its address; the sector of a local page may enter the
core's L1 (R172). -/
def execPref (a o : BitVec 7) (s : State) : Host.Outcome State Fault Refusal :=
  runLanesThen (.pref a o) s (fun l => l.access (.done {})) (fun ls s =>
    ls.foldl (fun s l =>
      match l.s.translate l.who .load (l.gva a o 1) 1 with
      | .ok (key, _) =>
        if keyOwn key && s.draw (laneOf l.th.idx) 3 % 2 = 0 then s.l1Fill l.tm.core (sectorOf key) else s
      | .error _ => s) s)

/-- Whether a line's fill takes its count: a line that holds one takes the new one. At most 12 ways of a set hold
counts, and the sets are not architected, so beyond 12 counted lines of its slice the device chooses (R108, R110). -/
def State.countFits (s : State) (line : Nat) : Bool :=
  let slice := homeSlice s.mgmt.slices (line * 128)
  let counted := s.resid.filter (fun e => decide (2 ≤ e.2))
  let n := (counted.filter (fun e => homeSlice s.mgmt.slices (e.1 * 128) = slice)).length
  counted.any (fun e => e.1 = line) || decide (n < 12) || decide (s.draw (2048 - 1) (line % 32) % 2 = 0)

/-- A line is filled with a count, 0 for none (R110, R173). -/
def State.fillLine (s : State) (c line : Nat) : State :=
  { s with resid := Tab.put s.resid line (if c ≠ 0 && s.countFits line then c + 1 else 0) 0 }

/-- The addresses of a counted fill's lines. -/
def fillAddrs (va : DWord) (n : Nat) : List DWord := (List.range n).map (fun i => va + BitVec.ofNat 64 (128 * i))

/-- One line of a counted fill: its number, or its fault; lines elsewhere are refused (R113, R173). -/
def Lane.fillAt (l : Lane) (va : DWord) : Walked Nat :=
  match l.s.translate l.who .load va 1 with
  | .error c => .error c
  | .ok (key, _) => if keyOwn key then .ok (lineOf key) else .error .prot

/-- The first of some addresses whose line meets a cause. DESIGN CHOICE (log entry 94): of several pages with one cause the
lowest line's address is reported. -/
def Lane.fillFault (l : Lane) (vas : List DWord) (p : Cause → Bool) : Option Trap :=
  vas.findSome? (fun va => match l.fillAt va with
    | .error c => if p c then some (.atAddr c va) else none
    | .ok _ => none)

/-- The lines of a counted fill: `PAGE` anywhere comes before `PROT`, and that before the rest (R62, R173). -/
def Lane.fillLines (l : Lane) (va : DWord) (n : Nat) : Except Trap (List Nat) :=
  let vas := fillAddrs va n
  match (l.fillFault vas (fun c => decide (c = .page)) <|> l.fillFault vas (fun c => decide (c = .prot))) <|>
      l.fillFault vas (fun _ => true) with
  | some t => .error t
  | none => .ok (vas.filterMap (fun va => (l.fillAt va).toOption))

/-- The line count of a counted fill. -/
def fillCount (b : Word) : Nat := bits b.toNat 31 8

/-- `CFILL` (R173). -/
def execCfill (a b : BitVec 7) (f : BitVec 4) (s : State) : Host.Outcome State Fault Refusal :=
  runLanesThen (.cfill a b f) s (fun l =>
    let va := l.pair a
    let n := fillCount (l.reg b)
    if n = 0 ∨ 4096 < n then .trap (.of .bounds)
    else if va.toNat % 128 ≠ 0 then .trap (.atAddr .align va)
    else match l.fillLines va n with
      | .error t => .trap t
      | .ok _ => l.access (.done { flag := f.toNat, op := if f = 0 then none else some (.ready []) }))
    (fun ls s => ls.foldl (fun s l =>
      match l.fillLines (l.pair a) (fillCount (l.reg b)) with
      | .ok lines => lines.foldl (fun s x => s.fillLine (bits (l.reg b).toNat 7 0) x) s
      | .error _ => s) s)

/-! ## Gathers and scatters (R120 to R122, R174 to R176) -/

/-- What one lane of a gather or scatter asks of the Pannier, and how its result is formed. -/
structure LaneReq where
  va : DWord
  form : LoadForm
  parts : List (Nat × Nat × List Byte)     -- key, length and data of each request's part of its word

/-- `GATH.W`, `GATH.D`, `SCAT.W` and `SCAT.D`: an element of `size` bytes (R174). -/
def Lane.plainReq (l : Lane) (kind : Access) (size : Nat) (a b : BitVec 7) (data : List Byte) : Except Trap LaneReq :=
  let va := l.pair a + BitVec.ofNat 64 size * (l.reg b).zeroExtend 64
  match l.reach kind va size size with
  | .error t => .error t
  | .ok (key, _) => .ok { va := va, form := .raw size, parts := [(key, size, data)] }

/-- The page of the lowest present lane's base fixes format and width of a `GATH.F` (R175). DESIGN CHOICE (log entry 93):
where that lane's base has no page, the other lanes have nothing to agree with. -/
def gatherPage (i : Instr) (a : BitVec 7) (s : State) : Option Leaf :=
  (partners i s).head?.bind (fun l => match l.s.leafFor l.who (l.pair a) with
    | .ok leaf => some leaf
    | .error _ => none)

/-- `GATH.F` in one lane (R175), in the stages of R62: the page of its base with its agreement, then the element with
that of its page, then the scale byte. -/
def Lane.formatReq (l : Lane) (lead : Option Leaf) (a b : BitVec 7) : Except Trap LaneReq :=
  let same (p : Leaf) : Bool := match lead with
    | some q => decide (p.fmt = q.fmt) && decide (p.dom = q.dom)
    | none => true
  match l.s.translate l.who .load (l.pair a) 1 with
  | .error c => .error (.atAddr c (l.pair a))
  | .ok (_, page) =>
    if !same page then .error (.atAddr .fmtbad (l.pair a))
    else
      let w := elemBytes page.fmt
      let va := l.pair a + BitVec.ofNat 64 w * (l.reg b).zeroExtend 64
      match l.elemIf .load va (some w) same with
      | .error t => .error t
      | .ok e => .ok { va := va, form := e.form
                       parts := (e.key, w, []) :: (e.scale.map (fun p => (p.1, 1, ([] : List Byte)))).toList }

/-- The width of the aligned word that holds bytes of a length (R175). -/
def wordWidth (len : Nat) : Nat := if len = 8 then 8 else 4

/-- The merge window of an entry: the smallest `PWIN` among its requests; none for memory elsewhere (R120, R176). -/
def PannierEntry.window (e : PannierEntry) : Nat :=
  if keyOwn (e.sector * 32) then e.reqs.foldl (fun m r => min m r.pwin) 128 else 0

/-- The entries of a core that have still to be sent. -/
def State.unsent (s : State) (core : Nat) : List PannierEntry := s.pannier.filter (fun e => decide (e.core = core) && !e.sent)

/-- The newest pending entry of a sector takes a request of its kind (R120); one of memory elsewhere takes none (R176). -/
def State.joins (s : State) (core sector : Nat) (write : Bool) : Option PannierEntry :=
  match ((s.unsent core).filter (fun e => e.sector = sector)).getLast? with
  | none => none
  | some e => if decide (e.write = write) && keyOwn (sector * 32) then some e else none

/-- A lane request is accepted (R120). A write lane takes its place in the store order. -/
def State.acceptReq (s : State) (core : Nat) (write : Bool) (r : PannierReq) : State :=
  let sector := sectorOf r.loc
  let place (id : Nat) : List SqEntry :=
    if write then [{ id := r.op, ins := r.op, core := core, team := r.team, thr := r.thr, op := 0, release := none
                     act := .scatter id }] else []
  match s.joins core sector write with
  | some x =>
    { s with pannier := s.pannier.map (fun e => if e.id = x.id then { e with reqs := e.reqs ++ [r] } else e)
             sq := s.sq ++ place x.id }
  | none =>
    let e : PannierEntry :=
      { id := s.nextId, core := core, sector := sector, write := write, born := s.now, sent := false, reqs := [r] }
    { s with pannier := s.pannier ++ [e], sq := s.sq ++ place s.nextId, nextId := s.nextId + 1 }

/-- The group of a thread, by its team and its lowest member; a thread of no group stands for itself. -/
def State.groupKey (s : State) (k j : Nat) : Nat × Nat :=
  match (s.teams[k]?).bind (fun t => t.groups.find? (fun g => g.members.contains j)) with
  | some g => (k, g.lead)
  | none => (k, j)

/-- The groups of a core that hold pending lane requests, without the one of some threads of the issuing team (R120). -/
def State.pannierGroups (s : State) (core : Nat) (members : List Nat) : Nat :=
  (((s.unsent core).flatMap (fun e =>
    (e.reqs.filter (fun r => !(decide (r.team = s.cur.team) && members.contains r.thr))).map
      (fun r => s.groupKey r.team r.thr))).eraseDups).length

/-- The store queue of a core, oldest first. -/
def State.queueOf (s : State) (core : Nat) : List SqEntry := s.sq.filter (fun e => e.core = core)

/-- A gather whose request would join an entry is held while an entry of the store queue that came after the first request
there waits for reads: the merged read would wait for that entry, and it for the merged read. DESIGN CHOICE (log entry
16). -/
def Lane.gatherHeld (l : Lane) (key : Nat) : Bool :=
  match l.s.joins l.tm.core (sectorOf key) false with
  | some e => (l.s.queueOf l.tm.core).any (fun h => e.reqs.any (fun r => decide (r.op < h.id)) && l.s.owesReads h)
  | none => false

/-- A scatter whose request would join an entry is held while a copy, a release or an entry that waits for reads stands in
the store queue behind the first place of the entry, or the request waits for reads itself: the lanes of the entry and what
stands between them are performed as one run. DESIGN CHOICE (log entry 16). -/
def Lane.scatterHeld (l : Lane) (key len : Nat) : Bool :=
  match l.s.joins l.tm.core (sectorOf key) true with
  | some e =>
    let since := (l.s.queueOf l.tm.core).dropWhile (fun q => decide (q.act ≠ .scatter e.id))
    since.any (fun h => decide (h.act = .copy) || h.release.isSome || l.s.owesReads h) ||
    l.s.readOwed l.tm.core l.s.cur.team l.th.idx l.s.nextId [(key, len)]
  | none => false

/-- A gather or scatter of the issuing group: one operation for the group, counted in each member (R122). One of a 65th
group is held (R120). -/
def laneAccess (i : Instr) (f : BitVec 4) (write : Bool) (dst : Lane → List Nat) (req : Lane → Except Trap LaneReq)
    (s : State) : Host.Outcome State Fault Refusal :=
  runLanesThen i s (fun l =>
    match req l with
    | .error t => .trap t
    | .ok r =>
      if decide (64 ≤ l.s.pannierGroups l.tm.core l.s.cur.members) ||
          r.parts.any (fun p => if write then l.scatterHeld p.1 p.2.1 else l.gatherHeld p.1) then .hold
      else l.access (.done { flag := f.toNat }))
    (fun ls s =>
      let rs := ls.filterMap (fun l => match req l with | .ok r => some (l, r) | .error _ => none)
      match ls with
      | [] => s
      | l0 :: _ =>
        let op : Op := {
          id := s.nextId, ins := s.nextId, team := s.cur.team, thr := l0.th.idx, flag := f.toNat, dst := [], trap := none
          passed := [], seen := [], ldvs := false
          kind := .lanes (rs.map (fun p => (p.1.th.idx, dst p.1, p.2.form, p.2.va)))
            (rs.flatMap (fun p => (List.range p.2.parts.length).map (fun n => (p.1.th.idx, n)))) [] }
        rs.foldl (fun s p =>
          p.2.parts.zipIdx.foldl (fun s q =>
            let w := wordWidth q.1.2.1
            s.acceptReq p.1.tm.core write
              { team := s.cur.team, thr := p.1.th.idx, op := op.id, loc := q.1.1, len := q.1.2.1, word := q.1.1 / w * w
                width := w, data := q.1.2.2, pwin := p.1.tm.pwin.toNat, part := q.2 }) s)
          { s with ops := s.ops ++ [op], nextId := s.nextId + 1 })

/-- `GATH.W` (R174). -/
def execGathW (d a b : BitVec 7) (f : BitVec 4) (s : State) : Host.Outcome State Fault Refusal :=
  laneAccess (.gathW d a b f) f false (fun l => l.dsts d 1) (fun l => l.plainReq .load 4 a b []) s
/-- `GATH.D` (R174). -/
def execGathD (d a b : BitVec 7) (f : BitVec 4) (s : State) : Host.Outcome State Fault Refusal :=
  laneAccess (.gathD d a b f) f false (fun l => l.dsts d 2) (fun l => l.plainReq .load 8 a b []) s
/-- `GATH.F` (R174, R175). -/
def execGathF (d a b : BitVec 7) (f : BitVec 4) (s : State) : Host.Outcome State Fault Refusal :=
  let lead := gatherPage (.gathF d a b f) a s
  laneAccess (.gathF d a b f) f false (fun l => l.dsts d 1) (fun l => l.formatReq lead a b) s
/-- `SCAT.W` (R174). -/
def execScatW (d a b : BitVec 7) (f : BitVec 4) (s : State) : Host.Outcome State Fault Refusal :=
  laneAccess (.scatW d a b f) f true (fun _ => []) (fun l => l.plainReq .store 4 a b (bytesOfWord (l.reg d))) s
/-- `SCAT.D` (R174). -/
def execScatD (d a b : BitVec 7) (f : BitVec 4) (s : State) : Host.Outcome State Fault Refusal :=
  laneAccess (.scatD d a b f) f true (fun _ => []) (fun l => l.plainReq .store 8 a b (bytesOfPair (l.pair d))) s

end Sys2Proof.Machine
end

