-- ==== Sys2Proof/Machine/Order.lean ====
section
/-!
DEFINITION. Versioned loads and their check, the atomics of a home slice, fences, acquire loads and release
stores (R206 to R216).
-/

namespace Sys2Proof.Machine

/-! ## Versioned loads (R207 to R209) -/

/-- The thread's validation set holds a line. -/
def Thread.setHas (t : Thread) (line : Nat) : Bool := t.vset.any (fun e => e.line = line)

/-- An address on a page that is not a host page (R207, R209, R210). -/
def Lane.ownReach (l : Lane) (kind : Access) (va : DWord) (align len : Nat) : Except Trap (Nat × Leaf) :=
  match l.reach kind va align len with
  | .error t => .error t
  | .ok (key, leaf) => if keyHost key then .error (.atAddr .prot va) else .ok (key, leaf)

/-- The line enters the thread's set with its version to be read by operation `id`. -/
def Thread.enterSet (line id : Nat) (t : Thread) : Thread :=
  if t.setHas line then t else { t with vset := t.vset ++ [{ line := line, src := id, version := none }] }

/-- The operation that a lane's instruction has just left in flight. -/
def State.opOfLane (s : State) (l : Lane) : Nat :=
  match s.ops.find? (fun o => o.ins = l.s.nextId && o.team = l.s.cur.team && o.thr = l.th.idx) with
  | some o => o.id
  | none => 0

/-- `LDVS` of a size (R207). -/
def loadVersioned (i : Instr) (size : Nat) (d a o : BitVec 7) (f : BitVec 4) (s : State) : Host.Outcome State Fault Refusal :=
  runLanesThen i s (fun l =>
    let va := l.gva a o size
    l.withPage (l.ownReach .load va size size) (fun key _ =>
      .guard (!l.th.setHas (lineOf key) && decide (16 ≤ l.th.vset.length)) (.of .vsetfull)
        (.done { flag := f.toNat, dst := l.dsts d (size / 4), op := some (.ldvs key size va) })))
    (fun ls s => ls.foldl (fun s l =>
      match l.ownReach .load (l.gva a o size) size size with
      | .ok (key, _) => s.modThread s.cur.team l.th.idx (Thread.enterSet (lineOf key) (s.opOfLane l))
      | .error _ => s) s)

/-- `LDVS.W` (R207). -/
def execLdvsW (d a o : BitVec 7) (f : BitVec 4) (s : State) : Host.Outcome State Fault Refusal :=
  loadVersioned (.ldvsW d a o f) 4 d a o f s
/-- `LDVS.D` (R207). -/
def execLdvsD (d a o : BitVec 7) (f : BitVec 4) (s : State) : Host.Outcome State Fault Refusal :=
  loadVersioned (.ldvsD d a o f) 8 d a o f s
/-- `LDVS.Q` (R207). -/
def execLdvsQ (d a o : BitVec 7) (f : BitVec 4) (s : State) : Host.Outcome State Fault Refusal :=
  loadVersioned (.ldvsQ d a o f) 16 d a o f s

/-- `VALID`: the set it checks, and empties with keep = 0, is the set as it stands at issue (R208). -/
def execValid (d k : BitVec 7) (f : BitVec 4) (s : State) : Host.Outcome State Fault Refusal :=
  runLanes (.valid d k f) s (fun l =>
    l.access (.done { flag := f.toNat, dst := l.dsts d 1, op := some (.valid l.th.vset l.th.stale)
                      upd := fun th => if k = 0 then { th with vset := [], stale := false } else th }))

/-- `VERR` (R209). -/
def execVerr (d a : BitVec 7) (f : BitVec 4) (s : State) : Host.Outcome State Fault Refusal :=
  runLanes (.verr d a f) s (fun l =>
    l.withPage (l.ownReach .load (l.pair a) 1 1) (fun key _ =>
      .done { flag := f.toNat, dst := l.dsts d 2, op := some (.verr key (l.pair a)) }))

/-! ## Atomics (R210 to R214) -/

/-- The place of an address in a record of the sequence region (R224); none outside it. -/
def State.recordByte (s : State) (fn : Nat) (va : DWord) : Option Nat :=
  let base := (s.space fn).sqbase.toNat
  if base ≤ va.toNat ∧ va.toNat < base + (s.space fn).sqlen.toNat then some ((va.toNat - base) % 512) else none

/-- A `CASV` reaches its word; at byte 0 of a record it is a fused advance, at byte 4 it is refused (R210,
R225). -/
def Lane.casvReach (l : Lane) (va : DWord) : Except Trap Nat :=
  let at' := l.s.recordByte l.tm.fn va
  if va.toNat % 4 ≠ 0 then .error (.atAddr .align va)
  else match l.s.translateFor l.who .atomic va 4 (decide (at' = some 0)) with
    | .error c => .error (.atAddr c va)
    | .ok (key, _) => if keyHost key || decide (at' = some 4) then .error (.atAddr .prot va) else .ok key

/-- `CASV`, and the fused advance of a sequence record (R210, R225). -/
def execCasv (d a b : BitVec 7) (f : BitVec 4) (s : State) : Host.Outcome State Fault Refusal :=
  runLanes (.casv d a b f) s (fun l =>
    let va := l.pair a
    match l.casvReach va with
    | .error t => .trap t
    | .ok key =>
      let fused := decide (l.s.recordByte l.tm.fn va = some 0)
      l.access (.done { flag := f.toNat, dst := l.dsts d 2, op := some .queued
                        acts := [(none, .rmw key (.casv ((l.pair d).truncate 48) (l.reg b) fused) va)] }))

/-- `CAS`: a host page takes it as an AtomicOp (R211, R214). -/
def execCas (d a b : BitVec 7) (f : BitVec 4) (s : State) : Host.Outcome State Fault Refusal :=
  runLanes (.cas d a b f) s (fun l =>
    let va := l.pair a
    l.withPage (l.reach .atomic va 4 4) (fun key _ =>
      .done { flag := f.toNat, dst := l.dsts d 1, op := some .queued
              acts := [(none, .rmw key (.cas (l.reg d) (l.reg b)) va)] }))

/-- The width and the alignment of an atomic (R212). -/
def atomSize (c : BitVec 7) : Nat := if c = 21 then 32 else if atomPair c then 8 else 4

/-- The codes that a host page takes as an AtomicOp: FetchAdd and Swap (R214). -/
def atomHost (c : BitVec 7) : Bool := decide (c = 0) || decide (c = 11) || decide (c = 16) || decide (c = 19)

/-- A page of `ACC64` words; with GEO 1 or 2 no access that reads its format may touch it (R142). -/
def Leaf.isAcc (p : Leaf) : Bool := decide (p.fmt = 25) && decide (p.geo ≠ 1) && decide (p.geo ≠ 2)

/-- An atomic of one lane with its operand words (R212 to R214); `ADD.ACC` reads the page's format and its geometry
(R142). -/
def Lane.atomic (l : Lane) (c : BitVec 7) (a : BitVec 7) (operand : List Word) (flag : Nat) (dst : List Nat) : LaneOut :=
  let va := l.pair a
  l.withPage (l.reach .atomic va (atomSize c) (atomSize c)) (fun key leaf =>
    if keyHost key && !atomHost c then .trap (.atAddr .prot va)
    else if decide (c = 20) && !leaf.isAcc then .trap (.atAddr .fmtbad va)
    else .done { flag := flag, dst := dst, op := some .queued
                 acts := [(none, .rmw key (.atom c.toNat operand leaf.e) va)] })

/-- `ATOM` (R212, R213). -/
def execAtom (d a c : BitVec 7) (f : BitVec 4) (s : State) : Host.Outcome State Fault Refusal :=
  runLanes (.atom d a c f) s (fun l =>
    l.atomic c a (l.words d (atomSize c / 4)) f.toNat (l.dsts d (atomSize c / 4)))

/-- `RED`: nothing is returned (R212, R213). -/
def execRed (c a b : BitVec 7) (f : BitVec 4) (s : State) : Host.Outcome State Fault Refusal :=
  runLanes (.red c a b f) s (fun l => l.atomic c a (l.words b (atomSize c / 4)) f.toNat [])

/-! ## Fences (R215) -/

/-- A read-modify-write of the thread at a host has not returned. -/
def Lane.hostOut (l : Lane) : Bool :=
  l.s.ops.any (fun o => o.involves l.s.cur.team l.th.idx && (match o.kind with | .hostAtomic .. => true | _ => false))

/-- The thread has a remote write that is not acknowledged (R202). -/
def Lane.unacked (l : Lane) : Bool := l.s.unacked.any (fun u => u.team = l.s.cur.team && u.thr = l.th.idx)

/-- At scope `HUB` or wider the core drops its L1 sectors (R109, R215). -/
def State.scopeDrop (s : State) (core : Nat) (sc : BitVec 7) : State := if sc = 0 then s else s.acquireL1 core

/-- A fence: `held` holds the thread, as do its operations that name no flag; a cause that one of them left is delivered
first (R206, R324), then `act`. -/
def fence (i : Instr) (s : State) (held : Lane → Bool) (d : Done) (act : Lane → State → State) :
    Host.Outcome State Fault Refusal :=
  runSeq i s (fun l => held l || l.s.unflagged l.s.cur.team l.th.idx) (fun l => match l.th.firstHeld [0] with
    | some c => (.deliver c, id)
    | none => (.done d, act l))

/-- `FENCE.ACQ` (R215). -/
def execFenceAcq (x : BitVec 7) (s : State) : Host.Outcome State Fault Refusal :=
  fence (.fenceAcq x) s (fun l => l.readsOut || l.hostOut) {} (fun l s => s.scopeDrop l.tm.core x)

/-- `FENCE.REL`: its place in the store queue holds the later entries; the thread issues on (R215). -/
def execFenceRel (x : BitVec 7) (s : State) : Host.Outcome State Fault Refusal :=
  fence (.fenceRel x) s (fun _ => false) { acts := [(some x.toNat, .fence x.toNat)] } (fun _ s => s)

/-- `FENCE.AR` (R215): held until every earlier access of the thread is in place, and at `DOM` or `SYS`
acknowledged. -/
def execFenceAr (x : BitVec 7) (s : State) : Host.Outcome State Fault Refusal :=
  fence (.fenceAr x) s (fun l => !l.quiet || (decide (4 ≤ x.toNat) && l.unacked)) {} (fun l s => s.scopeDrop l.tm.core x)

/-- `FENCE.SC` (R198, R215): held until every earlier access has been performed, and acknowledged where
remote. -/
def execFenceSc (x : BitVec 7) (s : State) : Host.Outcome State Fault Refusal :=
  fence (.fenceSc x) s (fun l => !l.quiet || l.unacked) {} (fun l s => s.scopeDrop l.tm.core x)

/-! ## Acquire loads and release stores (R216) -/

/-- `LDACQ` of a size: an acquire read at the home slice. -/
def loadAcquire (i : Instr) (size : Nat) (d a x : BitVec 7) (f : BitVec 4) (s : State) : Host.Outcome State Fault Refusal :=
  runLanes i s (fun l =>
    let va := l.pair a
    l.withPage (l.reach .load va size size) (fun key _ =>
      .done { flag := f.toNat, dst := l.dsts d (size / 4), op := some (.load [key] (.raw size) (some x.toNat) true va) }))

/-- `STREL` of a size: a release write in the store queue. -/
def storeRelease (i : Instr) (size : Nat) (d a x : BitVec 7) (f : BitVec 4) (s : State) : Host.Outcome State Fault Refusal :=
  runLanes i s (fun l =>
    l.withPage (l.reach .store (l.pair a) size size) (fun key _ =>
      .done { flag := f.toNat, op := storeOp f, acts := [(some x.toNat, .store key (l.storeBytes d size))] }))

/-- `LDACQ.W` (R216). -/
def execLdacqW (d a x : BitVec 7) (f : BitVec 4) (s : State) : Host.Outcome State Fault Refusal :=
  loadAcquire (.ldacqW d a x f) 4 d a x f s
/-- `LDACQ.D` (R216). -/
def execLdacqD (d a x : BitVec 7) (f : BitVec 4) (s : State) : Host.Outcome State Fault Refusal :=
  loadAcquire (.ldacqD d a x f) 8 d a x f s
/-- `STREL.W` (R216). -/
def execStrelW (d a x : BitVec 7) (f : BitVec 4) (s : State) : Host.Outcome State Fault Refusal :=
  storeRelease (.strelW d a x f) 4 d a x f s
/-- `STREL.D` (R216). -/
def execStrelD (d a x : BitVec 7) (f : BitVec 4) (s : State) : Host.Outcome State Fault Refusal :=
  storeRelease (.strelD d a x f) 8 d a x f s

/-! ## ATOMICOP_COMPLETION (R214) -/

/-- A host's answer to an AtomicOp: performed at the host, or reported unsupported, which leaves `MCHK` on the
flag. -/
def State.atomicopDone (s : State) (id : Nat) (supported : Bool) : State :=
  match s.op? id with
  | none => s
  | some o =>
    match o.kind with
    | .hostAtomic loc act =>
      let s := if supported then s.performRmw (s.opCore o) o.team o.thr id loc act 0
        else s.setReady id [] (some (.of .mchk))
      s.redDone id
    | _ => s

/-- `ATOMICOP_COMPLETION`. -/
def execAtomicopCompletion (op : Nat) (supported : Bool) (s : State) : Host.Outcome State Fault Refusal :=
  .next (s.atomicopDone op supported)

end Sys2Proof.Machine
end

