-- ==== Sys2Proof/Machine/Engine.lean ====
section
/-!
DEFINITION. What the engines share (R291): the accesses an engine makes one after another, the checks at issue and
their order (R62), the barrier word (R177), the fault report (R323), and the KV structures (R227 to R231, R234).

An engine's work is a script: a tree of accesses, each with what follows its answer. The same script is run at
issue for what an instruction reads there, and after issue one access at a time; the answers an operation has got
are plain data in its job, and running the script on them again gives the point it has reached.
-/

namespace Sys2Proof.Machine

/-! ## Scripts -/

/-- A fault an engine meets: its detail, and the address where it is one of translation (R181). -/
abbrev EngFault := Cause × DWord

/-- One access of an engine. `priv` adds privilege to the operation's own (R224, R280). -/
inductive Request where
  | read (va : DWord) (n : Nat) (priv : Bool)
  | write (va : DWord) (bs : List Byte) (priv : Bool)
  /-- One atomic step at the home slice: from the old bytes and the line's version, the bytes written, if any. -/
  | rmw (va : DWord) (n : Nat) (priv : Bool) (f : List Byte → BitVec 48 → Option (List Byte))
  /-- The version of a line. -/
  | version (line : Nat)
  /-- Translation and its permissions only. -/
  | page (va : DWord) (kind : Access)
  /-- Whether a write of n bytes would touch protected bytes of a sequence record (R224). -/
  | guard (va : DWord) (n : Nat)
  /-- Whether the issuing team is to be pre-empted. -/
  | poll
  /-- A word the manual leaves open, told apart by a number. -/
  | free (n : Nat)

/-- What an engine does. -/
inductive Script (α : Type) where
  | done (a : α)
  | stop (f : EngFault)
  | ask (r : Request) (k : Answer → Script α)

namespace Script

def bind {α β : Type} (x : Script α) (f : α → Script β) : Script β :=
  match x with
  | .done a => f a
  | .stop e => .stop e
  | .ask r k => .ask r (fun a => (k a).bind f)

/-- A fault becomes a result. -/
def catch' {α : Type} (x : Script α) : Script (Except EngFault α) :=
  match x with
  | .done a => .done (.ok a)
  | .stop e => .done (.error e)
  | .ask r k => .ask r (fun a => (k a).catch')

/-- The point a script has reached with some answers. -/
def resume {α : Type} : Script α → List Answer → Script α
  | .ask _ k, a :: as => (k a).resume as
  | x, _ => x

/-- An access whose fault stops the script. -/
def get (r : Request) : Script Answer :=
  .ask r (fun a => match a.fault with | some f => .stop f | none => .done a)

def fail {α : Type} (c : Cause) : Script α := .stop (c, 0)

/-- A refused condition stops the script. -/
def check (ok : Bool) (c : Cause) : Script Unit := if ok then .done () else .stop (c, 0)

/-- For each element in order. -/
def each {β σ : Type} (xs : List β) (init : σ) (f : σ → β → Script σ) : Script σ :=
  match xs with
  | [] => .done init
  | x :: xs => (f init x).bind (fun s => each xs s f)

def read (va : DWord) (n : Nat) : Script (List Byte) := (get (.read va n false)).bind (fun a => .done a.bytes)

def readWord (va : DWord) : Script Word := (read va 4).bind (fun b => .done (BitVec.ofNat 32 (leNat b)))
def readNat (va : DWord) (n : Nat) : Script Nat := (read va n).bind (fun b => .done (leNat b))

/-- n bytes in order, in words: one access for each. -/
def readBytes (va : DWord) (n : Nat) : Script (List Byte) :=
  each (List.range ((n + 3) / 4)) [] (fun acc i =>
    (read (va + BitVec.ofNat 64 (4 * i)) (min 4 (n - 4 * i))).bind (fun b => .done (acc ++ b)))

def write (va : DWord) (bs : List Byte) : Script Unit := (get (.write va bs false)).bind (fun _ => .done ())

/-- Nothing is written where one of n bytes is a protected one of a sequence record (R224). -/
def guard (va : DWord) (n : Nat) : Script Unit := (get (.guard va n)).bind (fun _ => .done ())

/-- Words written in ascending order, one access for each. -/
def writeWords (va : DWord) (ws : List Word) : Script Unit :=
  (guard va (4 * ws.length)).bind (fun _ =>
    each ws.zipIdx () (fun _ w => write (va + BitVec.ofNat 64 (4 * w.2)) (bytesOfWord w.1)))

def page (va : DWord) (kind : Access) : Script Answer := get (.page va kind)

/-- Every page of n bytes translates for an access. -/
def pages (va : DWord) (n : Nat) (kind : Access) : Script Unit :=
  let first := va.toNat % 65536
  (page va kind).bind (fun _ =>
    each (List.range' 1 ((first + n - 1) / 65536)) () (fun _ i =>
      (page (va - BitVec.ofNat 64 first + BitVec.ofNat 64 (65536 * i)) kind).bind (fun _ => .done ())))

end Script

/-! ## Answers -/

/-- On whose behalf an engine works. -/
structure Eng where
  core : Nat
  fn : Nat
  priv : Bool
  team : Nat
  thr : Nat
  id : Nat           -- its operation
  halt : Bool        -- the issuing team is to be pre-empted

/-- On whose behalf an operation's engine works, from the core its team is on. -/
def State.engOf (s : State) (o : Op) (fn : Nat) (priv : Bool) : Eng :=
  { core := s.opCore o, fn := fn, priv := priv, team := o.team, thr := o.thr, id := o.id, halt := false }

def Answer.bad (c : Cause) (va : DWord) : Answer :=
  { fault := some (c, va), bytes := [], version := 0, line := 0, fmt := 0, finite := false, geo := 0 }

def Answer.empty : Answer :=
  { fault := none, bytes := [], version := 0, line := 0, fmt := 0, finite := false, geo := 0 }

/-- The keys of n bytes from an address, with the page of the first. -/
def keysOf (tr : DWord → Walked (Nat × Leaf)) (va : DWord) (n : Nat) : Except EngFault (List Nat × Option Leaf) :=
  (List.range n).foldlM (fun (acc : List Nat × Option Leaf) i =>
    let a := va + BitVec.ofNat 64 i
    match tr a with
    | .error c => .error (c, a)
    | .ok (k, l) => .ok (acc.1 ++ [k], acc.2.or (some l))) ([], none)

def Answer.ofPage (l : Option Leaf) (line : Nat) (version : BitVec 48) (bs : List Byte) : Answer :=
  { fault := none, bytes := bs, version := version, line := line
    fmt := (l.map (fun x => x.fmt)).getD 0, finite := (l.map (fun x => x.dom)).getD false
    geo := (l.map (fun x => x.geo)).getD 0 }

def Eng.who (e : Eng) (priv : Bool) : Accessor :=
  { core := e.core, fn := e.fn, priv := e.priv || priv, lane := 1536 + e.id % 256 }

/-- An operation reads a line for the first time: one read transaction (R110). -/
def State.noteRead (s : State) (id line : Nat) : State :=
  if s.ops.any (fun o => o.id = id && o.seen.contains line) then s
  else
    let s := s.readTransaction line
    { s with ops := s.ops.map (fun o => if o.id = id then { o with seen := line :: o.seen } else o) }

/-- One write event of an engine (R201, R291), which updates the L1 copies of the core named. It comes after the reads
that it must let pass (R196); an engine starts when none of them has to wait for the store queue. -/
def State.engineWrite (s : State) (e : Eng) (l1 : Option Nat) (ws : List (Nat × List Byte)) : State :=
  let s := (s.beforeWrite (some e.core) e.team e.thr e.id (ws.map (fun w => (w.1, w.2.length)))).getD s
  let s := s.writeParts l1 ws
  let s := match ws with | w :: _ => s.sendRemote e.team e.thr w.1 | [] => s
  s.markPassed e.team e.thr e.id

/-- The first of n bytes that an engine may not write to a sequence record (R224), on a page that it may write. -/
def State.guarded (s : State) (e : Eng) (va : DWord) (n : Nat) : Option DWord :=
  if e.priv then none
  else ((List.range n).find? (fun i => s.seqProtected e.fn (va + BitVec.ofNat 64 i) 1)).bind (fun i =>
    let a := va + BitVec.ofNat 64 i
    match s.pageOf (e.who false) .store a with
    | .ok _ => some a
    | .error _ => none)

/-- An engine's access waits for a link to its host (R349). -/
def State.away (s : State) (e : Eng) : Request → Bool
  | .read va n priv => s.placesAway (e.who priv) .load va n
  | .write va bs priv => s.placesAway (e.who priv) .store va bs.length
  | .version line => s.hostAway (line * 128)
  | _ => false

/-- The fault of an access that was not translated to memory: memory that no access reaches is no fault of translation
(R112, R181, R240). -/
def State.engFault (s : State) (who : Accessor) (kind : Access) (f : EngFault) : EngFault :=
  if f.1 = .mchk && (s.pageOf who kind f.2).toOption.isSome then (.mchk, 0) else f

/-- The answer to an access that was not translated. -/
def State.refused (s : State) (who : Accessor) (kind : Access) (f : EngFault) : Answer :=
  .bad (s.engFault who kind f).1 (s.engFault who kind f).2

/-- The device answers an engine's access. A fault that is not one of translation has address 0 (R181). -/
def State.answer (s : State) (e : Eng) : Request → State × Answer
  | .read va n priv =>
    match keysOf (fun a => s.translate (e.who priv) .load a 1) va n with
    | .error f => (s, s.refused (e.who priv) .load f)
    | .ok (ks, l) =>
      if ks.any (fun k => s.poisoned k 1) then (s, .bad .mchk 0)
      else
        let line := lineOf (ks.headD 0)
        ((ks.map lineOf).eraseDups.foldl (fun s x => s.noteRead e.id x) s,
         .ofPage l line (s.version line) (ks.map s.byte))
  | .write va bs priv =>
    match keysOf (fun a => s.translate (e.who priv) .store a 1) va bs.length with
    | .error f => (s, s.refused (e.who priv) .store f)
    | .ok (ks, l) =>
      (s.engineWrite e (some e.core) ((ks.zip bs).map (fun p => (p.1, [p.2]))),
       .ofPage l (lineOf (ks.headD 0)) 0 [])
  | .rmw va n priv f =>
    match keysOf (fun a => s.translate (e.who priv) .atomic a 1) va n with
    | .error f => (s, s.refused (e.who priv) .atomic f)
    | .ok (ks, l) =>
      if ks.any keyHost then (s, .bad .prot va)
      else if ks.any (fun k => s.poisoned k 1) then (s, .bad .mchk 0)
      else
        let line := lineOf (ks.headD 0)
        let old := ks.map s.byte
        let s' := match f old (s.version line) with
          | some new => s.engineWrite e (some e.core) ((ks.zip new).map (fun p => (p.1, [p.2])))
          | none => s.noteRead e.id line
        (s', .ofPage l line (s.version line) old)
  | .version line =>
    if s.unreachable (line * 128) then (s, .bad .mchk 0) else (s, .ofPage none line (s.version line) [])
  | .page va kind =>
    match s.pageOf (e.who false) kind va with
    | .error c => (s, .bad c va)
    | .ok l => (s, .ofPage (some l) (lineOf (s.keyIn l va)) 0 [])
  | .guard va n =>
    match s.guarded e va n with
    | some a => (s, .bad .prot a)
    | none => (s, .empty)
  | .poll => (s, .ofPage none 0 0 (if e.halt then [1] else []))
  | .free n => (s, .ofPage none 0 0 (bytesOfWord (Config.freeWord (s.fresh * 2 ^ 40 + n % 2 ^ 40))))

/-- A script run to its end. -/
def State.runScript {α : Type} (e : Eng) : Script α → State → State × Except EngFault α
  | .done a, s => (s, .ok a)
  | .stop f, s => (s, .error f)
  | .ask r k, s => State.runScript e (k (s.answer e r).2) (s.answer e r).1

/-- A script run to its end would wait for a link to a host. -/
def State.scriptAway {α : Type} (e : Eng) : Script α → State → Bool
  | .ask r k, s => s.away e r || State.scriptAway e (k (s.answer e r).2) (s.answer e r).1
  | _, _ => false

/-! ## Reads at issue -/

/-- The issuing core answers a read at issue: the thread's own stores are seen (R196); poisoned data has its
sector's address (R62, R335). -/
def Lane.answer (l : Lane) : Request → Answer
  | .read va n _ =>
    match keysOf (fun a => l.s.translate l.who .load a 1) va n with
    | .error f => .bad f.1 f.2
    | .ok (ks, leaf) =>
      let bytes := ks.map (fun k => (l.s.readBytes l.tm.core l.s.cur.team l.th.idx l.s.nextId k 1 true).1)
      let line := lineOf (ks.headD 0)
      if bytes.any Option.isNone then
        .bad .mchk ((va + BitVec.ofNat 64 (bytes.findIdx Option.isNone)) &&& ~~~31#64)
      else .ofPage leaf line (l.s.version line) (bytes.flatMap (fun b => b.getD []))
  | .page va kind =>
    match l.s.pageOf l.who kind va with
    | .error c => .bad c va
    | .ok leaf => .ofPage (some leaf) (lineOf (l.s.keyIn leaf va)) 0 []
  | .version line => .ofPage none line (l.s.version line) []
  | _ => .empty

/-- A script of reads run at issue: its result or the trap it meets. -/
def Lane.runScript {α : Type} (l : Lane) : Script α → Except Trap α
  | .done a => .ok a
  | .stop f => .error (.atAddr f.1 f.2)
  | .ask r k => l.runScript (k (l.answer r))

/-- The keys of the bytes that a read at issue takes. -/
def Lane.requestKeys (l : Lane) : Request → List Nat
  | .read va n p =>
    (match keysOf (fun a => l.s.translate l.who .load a 1) va n with
     | .ok (ks, _) => if (l.answer (.read va n p)).fault.isNone then ks else []
     | .error _ => [])
  | _ => []

/-- The keys of the bytes a script reads at issue. -/
def Lane.scriptKeys {α : Type} (l : Lane) : Script α → List Nat
  | .ask r k => l.requestKeys r ++ l.scriptKeys (k (l.answer r))
  | _ => []

/-- A script's reads at issue wait for a link to a host (R349). -/
def Lane.scriptAway {α : Type} (l : Lane) (sc : Script α) : Bool := l.s.hostLink.isNone && (l.scriptKeys sc).any keyHost

/-- Home slices have served an operation's reads of some keys at issue: what they returned replaces the copies that the core
holds (R109), and the operation's first read of a line is a transaction (R110). -/
def State.noteKeys (s : State) (core id : Nat) (keys : List Nat) : State :=
  ((keys.map lineOf).eraseDups).foldl (fun s x => s.noteRead id x) (s.refreshKeys core keys)

/-- The reads at issue are reads of the operation that each lane's instruction has left in flight. -/
def State.noteScript {α : Type} (s : State) (ls : List Lane) (sc : Lane → Script α) : State :=
  ls.foldl (fun s l => s.noteKeys l.tm.core (s.opOfLane l) (l.scriptKeys (sc l))) s

/-- The reads at issue of an instruction that leaves no operation: one transaction for each line (R110). -/
def State.readScripts {α : Type} (s : State) (ls : List Lane) (sc : Lane → Script α) : State :=
  match ls with
  | [] => s
  | l :: _ => s.readKeys l.tm.core (ls.flatMap (fun l => l.scriptKeys (sc l)))

/-- What holds an instruction that reads at issue: an access of its thread that comes before those reads and has
not taken its place (R166, R196, R291). -/
def Lane.waitsToRead (l : Lane) : Bool := l.acquiring || l.readsOut

/-! ## Checks (R62) -/

/-- The place of a cause in the order of R62. -/
def Cause.rank : Cause → Nat
  | .illop => 1 | .regrange => 2 | .priv => 4 | .partmix => 5 | .bounds => 6 | .rankbad => 7 | .align => 8
  | .spadbound => 9 | .joinbad => 10 | .page => 11 | .prot => 12 | .fmtbad => 13 | .vsetfull => 14
  | .tapmode => 15 | .mchk => 16 | _ => 17

/-- Of the conditions that a stage of checks finds, the first in the order of R62. -/
def firstTrap (ts : List (Option Trap)) : Option Trap :=
  ts.foldl (fun m t =>
    match m, t with
    | none, t => t
    | some m, none => some m
    | some m, some t => if t.cause.rank < m.cause.rank then some t else some m) none

/-- A condition and its trap. -/
def when' (bad : Bool) (t : Trap) : Option Trap := if bad then some t else none

/-- A barrier word (R177): the object that counts, if any. -/
def Lane.barrierWord (l : Lane) (b : Word) : Except Trap (Option Nat) :=
  if b.msb then .ok none
  else if bits b.toNat 30 10 ≠ 0 ∨ l.tm.bars.length ≤ bits b.toNat 9 0 then .error (.of .bounds)
  else .ok (some (bits b.toNat 9 0))

/-! ## Fault reports (R323) -/

/-- `TRAPINFO` of an engine's fault. -/
def engineInfo (offset hub unit : Nat) (detail : Cause) (engine wpc : Nat) : DWord :=
  BitVec.ofNat 64 (offset % 2 ^ 32 * 2 ^ 32 + hub % 64 * 2 ^ 26 + unit % 4 * 2 ^ 24 + detail.code * 2 ^ 16 +
    engine * 2 ^ 12 + wpc)

/-- `TRAPADDR` of an engine's fault: the virtual address of one of translation, else 0 (R181, R322). A walk that reads a
poisoned entry is one with `MCHK` (R327); other faults with `MCHK` come with address 0. -/
def EngFault.addr (f : EngFault) : DWord := if f.1 = .page ∨ f.1 = .prot ∨ f.1 = .mchk then f.2 else 0

/-- The cause an engine's operation leaves on its flag. -/
def engineTrap (core offset unit engine : Nat) (f : EngFault) : Trap :=
  { cause := .engfault, addr := f.addr, info := engineInfo offset (hubOf core) unit f.1 engine 0 }

/-- An engine may start an operation: every earlier entry of the issuing core's store order has been performed
(R180, R291). -/
def State.engineReady (s : State) (core id : Nat) : Bool :=
  !s.sq.any (fun q => decide (q.core = core) && decide (q.id < id))

/-! ## The KV structures -/

/-- Field of n bytes at an offset. -/
def fieldAt (bs : List Byte) (o n : Nat) : Nat := leNat ((bs.drop o).take n)

def addrAt (bs : List Byte) (o : Nat) : DWord := BitVec.ofNat 64 (fieldAt bs o 8)

/-- A KV map entry from its 64 bytes (R227). -/
def KvEntry.ofBytes (bs : List Byte) (first : Nat) : KvEntry :=
  let g := fieldAt bs 60 4
  { btab := addrAt bs 0, pool := addrAt bs 8, sumb := addrAt bs 16, btlen := fieldAt bs 24 4, blkb := fieldAt bs 28 4
    rstr := fieldAt bs 32 4, hstr := fieldAt bs 36 4, tstr := fieldAt bs 40 4, lstr := fieldAt bs 44 4
    sbstr := fieldAt bs 48 4, slstr := fieldAt bs 52 4, shstr := fieldAt bs 56 4
    hdim := bits g 31 20, heads := bits g 19 12, layers := bits g 11 4, lgrows := bits g 3 0, first := first }

/-- The limits of R227. -/
def KvEntry.valid (e : KvEntry) : Bool :=
  decide (e.btab.toNat % 8 = 0) && decide (e.sumb.toNat % 4 = 0) && decide (1 ≤ e.btlen) && decide (e.btlen ≤ 65536) &&
  decide (1 ≤ e.hdim) && decide (e.hdim ≤ 2048) && decide (1 ≤ e.heads) && decide (1 ≤ e.layers) &&
  decide (1 ≤ e.lgrows) && decide (e.lgrows ≤ 8)

/-- Rows per block. -/
def KvEntry.rows (e : KvEntry) : Nat := 2 ^ e.lgrows

/-- Entry i of a KV map with its first layer; none where the map ends. -/
def Script.kvEntry (kvmap : DWord) (i first : Nat) : Script (Option KvEntry) :=
  (Script.readBytes (kvmap + BitVec.ofNat 64 (64 * i)) 64).bind (fun bs =>
    if fieldAt bs 60 4 = 0 then .done none
    else
      let e := KvEntry.ofBytes bs first
      (Script.check e.valid .bounds).bind (fun _ => .done (some e)))

/-- The entry that covers a layer, among the next `fuel` entries (R227). -/
def Script.kvFind (kvmap : DWord) (layer : Nat) : Nat → Nat → Nat → Script KvEntry
  | 0, _, _ => Script.fail .bounds
  | fuel + 1, i, first =>
    (Script.kvEntry kvmap i first).bind (fun e => match e with
      | none => Script.fail .bounds
      | some e => if layer < first + e.layers then .done e else Script.kvFind kvmap layer fuel (i + 1) (first + e.layers))

/-- The most entries that can precede a layer's: each covers at least one of 65,536. -/
def kvMost : Nat := 65536

/-- The conditions on the pool page of an entry (R228). -/
def KvEntry.poolOk (e : KvEntry) (a : Answer) : Bool :=
  decide (1 ≤ a.fmt) && decide (a.fmt ≤ 24) && decide (a.geo = 3) && decide (e.hdim * fmtBits a.fmt % 32 = 0)

/-- The pool page of an entry, as R228 admits it: its format and domain. -/
def Script.kvPool (e : KvEntry) : Script (Nat × Bool) :=
  (Script.page e.pool .load).bind (fun a =>
    (Script.check (e.poolOk a) .fmtbad).bind (fun _ => .done (a.fmt, a.finite)))

/-- Bytes of a row's codes (R228). -/
def KvEntry.rbytes (e : KvEntry) (fmt : Nat) : Nat := e.hdim * fmtBits fmt / 8

/-- The address of row j (R228). -/
def KvEntry.row (e : KvEntry) (pb l tensor h j : Nat) : DWord :=
  e.pool + BitVec.ofNat 64 (pb * e.blkb + l * e.lstr + tensor * e.tstr + h * e.hstr + j * e.rstr)

/-- The address of a summary (R234). -/
def KvEntry.summary (e : KvEntry) (b l h : Nat) : DWord :=
  e.sumb + BitVec.ofNat 64 (b * e.sbstr + l * e.slstr + h * e.shstr)

/-- The address of block table entry b (R229). -/
def KvEntry.table (e : KvEntry) (b : Nat) : DWord := e.btab + BitVec.ofNat 64 (8 * b)

/-- A block table entry (R229). -/
structure BlockEntry where
  pb : Nat
  present : Bool
  sealed' : Bool
  version : BitVec 48
  line : Nat
  word : Nat

/-- Block table entry b, read with its line's version. -/
def Script.blockEntry (e : KvEntry) (b : Nat) : Script BlockEntry :=
  (Script.get (.read (e.table b) 8 false)).bind (fun a =>
    let w := leNat a.bytes
    (Script.check (decide (bits w 63 35 = 0)) .bounds).bind (fun _ =>
      .done { pb := bits w 31 0, present := bits w 32 32 = 1, sealed' := bits w 33 33 = 1, version := a.version
              line := a.line, word := w }))

/-- A summary (R234): its bounds, its tail, and the lines it occupies with the versions it was read at. -/
structure Summary where
  lo : List Nat
  hi : List Nat
  kscale : Word
  vscale : Word
  count : Nat
  stale : Bool
  lines : List (Nat × BitVec 48)

/-- The pieces of n bytes at an address, cut at lines. -/
def linePieces (va : DWord) : Nat → Nat → List (DWord × Nat)
  | 0, _ => []
  | fuel + 1, n =>
    if n = 0 then []
    else
      let m := min n (128 - va.toNat % 128)
      (va, m) :: linePieces (va + BitVec.ofNat 64 m) fuel (n - m)

/-- 16-bit words of some bytes. -/
def halves (bs : List Byte) : List Nat := (List.range (bs.length / 2)).map (fun i => fieldAt bs (2 * i) 2)

/-- The tail of a summary, checked (R234): its address, the two scales, COUNT and STALE. -/
structure Tail where
  addr : DWord
  kscale : Word
  vscale : Word
  count : Nat
  stale : Bool

def Tail.ofBytes (addr : DWord) (bs : List Byte) : Tail :=
  { addr := addr, kscale := BitVec.ofNat 32 (fieldAt bs 0 4), vscale := BitVec.ofNat 32 (fieldAt bs 4 4)
    count := bits (fieldAt bs 8 4) 15 0, stale := bits (fieldAt bs 8 4) 31 31 = 1 }

/-- The conditions on a tail (R234). -/
def tailOk (e : KvEntry) (addr : DWord) (bs : List Byte) : Bool :=
  decide (addr.toNat / 128 = (addr + 11).toNat / 128) && decide (bits (fieldAt bs 8 4) 30 16 = 0) &&
  decide (bits (fieldAt bs 8 4) 15 0 ≤ e.rows)

/-- The tail of a summary, read in one access. -/
def Script.tail (e : KvEntry) (b l h : Nat) : Script Tail :=
  let addr := e.summary b l h + BitVec.ofNat 64 (4 * e.hdim)
  (Script.read addr 12).bind (fun bs =>
    (Script.check (tailOk e addr bs) .bounds).bind (fun _ => .done (Tail.ofBytes addr bs)))

/-- A whole summary, each line of it read with its version in one access. -/
def Script.summary (e : KvEntry) (b l h : Nat) : Script Summary :=
  let va := e.summary b l h
  let n := 4 * e.hdim + 12
  let pieces := linePieces va (n / 128 + 2) n
  (Script.each pieces ([], []) (fun (acc : List Byte × List (Nat × BitVec 48)) p =>
    (Script.get (.read p.1 p.2 false)).bind (fun a => .done (acc.1 ++ a.bytes, acc.2 ++ [(a.line, a.version)])))).bind
    (fun r =>
      let bs := r.1
      let addr := va + BitVec.ofNat 64 (4 * e.hdim)
      let t := Tail.ofBytes addr (bs.drop (4 * e.hdim))
      (Script.check (tailOk e addr (bs.drop (4 * e.hdim))) .bounds).bind (fun _ =>
        .done { lo := halves (bs.take (2 * e.hdim)), hi := halves ((bs.drop (2 * e.hdim)).take (2 * e.hdim))
                kscale := t.kscale, vscale := t.vscale, count := t.count, stale := t.stale, lines := r.2 }))

/-- The codes of some packed bytes (R123). -/
def unpackCodes (w : Nat) (n : Nat) (bs : List Byte) : List Nat :=
  (List.range n).map (fun i => leNat bs / 2 ^ (w * i) % 2 ^ w)

/-- Codes packed into bytes (R123). -/
def packCodes (w : Nat) (cs : List Nat) : List Byte :=
  leBytes (cs.length * w / 8) (cs.zipIdx.foldl (fun acc c => acc + c.1 * 2 ^ (w * c.2)) 0)

/-- Words of a list of bytes, for a row written word by word. -/
def wordsOfBytes (bs : List Byte) : List Word := wordsOf (bs.length / 4) bs

/-- A stored element of a pool row: its code, and the format and domain of the page it lies on, which govern it (R143,
R228). -/
structure KvCode where
  code : Nat
  fmt : Nat
  finite : Bool

/-- The format and domain of one page of a row, as R228 admits a pool page. -/
def Script.rowPage (e : KvEntry) (kind : Access) (va : DWord) : Script (Nat × Bool) :=
  (Script.page va kind).bind (fun a => if e.poolOk a then .done (a.fmt, a.finite) else .stop (.fmtbad, va))

/-- The format of a row's first page, which gives the row its size, and the formats of its elements; the pages are checked
with the one of its tag. DESIGN CHOICE (log entry 77): a row that crosses into a page of another width is refused. -/
def Script.rowFmts (e : KvEntry) (kind : Access) (va : DWord) : Script (Nat × List (Nat × Bool)) :=
  (Script.rowPage e kind va).bind (fun p =>
    let w := fmtBits p.1
    let last := va + BitVec.ofNat 64 (e.rbytes p.1 + 3)
    if va.toNat / 65536 = last.toNat / 65536 then .done (p.1, List.replicate e.hdim p)
    else (Script.rowPage e kind last).bind (fun q =>
      let cut := min e.hdim ((65536 - va.toNat % 65536) * 8 / w)
      if fmtBits q.1 = w then .done (p.1, List.replicate cut p ++ List.replicate (e.hdim - cut) q)
      else .stop (.fmtbad, last)))

/-- The codes of a row. -/
def Script.rowCodes (e : KvEntry) (va : DWord) : Script (List KvCode) :=
  (Script.rowFmts e .load va).bind (fun p =>
    (Script.readBytes va (e.rbytes p.1)).bind (fun bs =>
      .done ((unpackCodes (fmtBits p.1) e.hdim bs).zipWith (fun c f => { code := c, fmt := f.1, finite := f.2 }) p.2)))

/-- The tag of a row, read whole. -/
def Script.rowTag (e : KvEntry) (va : DWord) : Script Word :=
  (Script.rowFmts e .load va).bind (fun p => Script.readWord (va + BitVec.ofNat 64 (e.rbytes p.1)))

/-- Node n is in a mask (R230). -/
def inMask (mask : List Byte) (n : Nat) : Bool := decide (n ≠ 255) && (mask.getD (n / 8) 0).getLsbD (n % 8)

def tagKind (t : Word) : Nat := bits t.toNat 31 24
def tagNode (t : Word) : Nat := bits t.toNat 23 16
def tagGen (t : Word) : Nat := bits t.toNat 15 0

/-- A row is live and either trunk or of a generation's members (R231, R235). -/
def tagSeen (t : Word) (dgen : Nat) (member : Nat → Bool) : Bool :=
  decide (tagKind t = 0) && (decide (tagNode t = 255) || (decide (tagGen t = dgen) && member (tagNode t)))

/-- Line 0 of a sequence record, read in one access with its version (R223). -/
structure Line0 where
  pos : Nat
  dgen : Nat
  kvmap : DWord
  amask : DWord
  version : BitVec 48

def Script.line0 (rec' : DWord) : Script Line0 :=
  (Script.get (.read rec' 40 false)).bind (fun a =>
    .done { pos := fieldAt a.bytes 0 4, dgen := fieldAt a.bytes 4 2, kvmap := addrAt a.bytes 24
            amask := addrAt a.bytes 32, version := a.version })

/-- An ancestor mask; address 0 is the empty one (R223, R230). -/
def Script.mask (va : DWord) : Script (List Byte) :=
  if va = 0 then .done (List.replicate 32 0) else Script.readBytes va 32

end Sys2Proof.Machine
end

