-- ==== Sys2Proof/Machine/Kv.lean ====
section
/-!
DEFINITION. The KV maintenance operations and `TOPK` (R233 to R237, R292, R297 to R305): what each reads at issue,
and the accesses of each in the order of R236.
-/

namespace Sys2Proof.Machine

/-! ## Values -/

/-- The value of a stored element, without its scale. -/
def KvCode.val (c : KvCode) : FVal := (decodeFmt c.fmt c.finite c.code).1

/-- A decoded key: code times scale, exactly (R298). -/
def KvCode.key (scale : FVal) (c : KvCode) : FVal := c.val.mul scale

/-- A value encoded at a scale with one rounding, in the format of its place (R298). -/
def encodedAt (f : Nat × Bool) (scale v : FVal) : KvCode × NumStat :=
  let r := encodeFmt f.1 f.2 .rn (v.div scale)
  ({ code := r.1, fmt := f.1, finite := f.2 }, r.2)

/-- Codes with their gathered status. -/
def encodeAll (fs : List (Nat × Bool)) (scale : FVal) (vs : List FVal) : List KvCode × NumStat :=
  (fs.zip vs).foldl (fun acc x => let r := encodedAt x.1 scale x.2; (acc.1 ++ [r.1], acc.2.or r.2)) ([], .none)

/-- The status of decoding some codes (R292 NARROW). -/
def decodeStat (cs : List KvCode) : NumStat := cs.foldl (fun acc c => acc.or (decodeFmt c.fmt c.finite c.code).2) .none

/-- The formats that some codes stand in. -/
def fmtsOf (cs : List KvCode) : List (Nat × Bool) := cs.map (fun c => (c.fmt, c.finite))

/-- BF16 codes in order, −0 below +0. -/
def bf16Key (c : Nat) : Nat := if 32768 ≤ c then 65535 - c else c + 32768

def bf16NaN (c : Nat) : Bool := decide (0x7F80 < c % 32768)

/-- A bound widened; a NaN bound stays (R236). -/
def widenLo (old : Nat) (v : FVal) : Nat :=
  let n := (encodeFmt 22 false .rd v).1
  if bf16NaN old then old else if bf16Key n < bf16Key old then n else old

def widenHi (old : Nat) (v : FVal) : Nat :=
  let n := (encodeFmt 22 false .ru v).1
  if bf16NaN old then old else if bf16Key old < bf16Key n then n else old

/-- Bounds of an initialised summary (R234). -/
def boundsInit (d : Nat) : List Nat × List Nat := (List.replicate d 0x7F80, List.replicate d 0xFF80)

/-- Bounds over decoded rows (R235). -/
def boundsOver (d : Nat) (rows : List (List FVal)) : List Nat × List Nat :=
  rows.foldl (fun b r => (b.1.zipWith widenLo r, b.2.zipWith widenHi r)) (boundsInit d)

def leHalves (cs : List Nat) : List Byte := cs.flatMap (leBytes 2)

/-! ## Status (R292) -/

structure KvStat where
  num : NumStat := .none
  stale : Bool := false
  race : Bool := false
  done : Nat := 0

def KvStat.word (k : KvStat) : Word :=
  BitVec.ofNat 32 (min k.done 0xFFFF * 65536 + (if k.race then 8 else 0) + (if k.stale then 4 else 0) +
    (if k.num.narrow then 2 else 0) + (if k.num.sat then 1 else 0))

/-! ## What is read at issue (R297) -/

/-- The fields of the descriptor that an operation uses. -/
structure KvUse where
  layer : Bool := false
  head : Bool := false
  block : Bool := false
  opaddr : Bool := false
  oparg : Bool := false
  first : Bool := false

def KvOp.use : KvOp → KvUse
  | .kvap => { layer := true, opaddr := true }
  | .kvrq => { layer := true, head := true, block := true }
  | .kvrot => { layer := true, head := true, block := true, opaddr := true }
  | .bnds => { layer := true, head := true, block := true }
  | .kvmove => { layer := true, block := true, oparg := true }
  | .kvtag => { opaddr := true, oparg := true, first := true }
  | .topk => {}

/-- The entry of a job with no map, for `TOPK`. -/
def KvEntry.empty : KvEntry := KvEntry.ofBytes [] 0

/-- A job as its descriptor gives it. -/
def KvJob.ofDesc (op : KvOp) (fn : Nat) (priv : Bool) (core : Nat) (b tag : Word) (d : List Byte) : KvJob :=
  { op := op, fn := fn, priv := priv, core := core, seqrec := addrAt d 0, layer := fieldAt d 8 2, head := fieldAt d 10 2
    block := fieldAt d 12 4, opaddr := addrAt d 16, oparg := fieldAt d 24 4, firstPos := fieldAt d 28 4, b := b, tag := tag
    pos := 0, dgen := 0, kvmap := 0, entry := .empty, fmt := 0, finite := false, vec := addrAt d 0, out := addrAt d 8
    n := fieldAt d 16 4, k := fieldAt d 20 4, log := [] }

/-- The fields an operation does not use are 0, and its count of positions is within its limits. -/
def KvJob.fieldsOk (j : KvJob) (d : List Byte) : Bool :=
  let u := j.op.use
  (d.drop 32).all (· = 0) && (u.layer || decide (j.layer = 0)) && (u.head || decide (j.head = 0)) &&
  (u.block || decide (j.block = 0)) && (u.opaddr || decide (j.opaddr = 0)) && (u.oparg || decide (j.oparg = 0)) &&
  (u.first || decide (j.firstPos = 0)) && (decide (j.op ≠ .kvtag) || (decide (1 ≤ j.oparg) && decide (j.oparg ≤ 65536)))

/-- The limits that the map entry sets (R297, R299, R301). -/
def KvJob.inEntry (j : KvJob) (e : KvEntry) : Bool :=
  let u := j.op.use
  (!u.head || decide (j.head < e.heads)) && (!u.block || decide (j.block < e.btlen)) &&
  (decide (j.op ≠ .kvap) || decide (j.b.toNat < e.btlen * e.rows)) && (decide (j.op ≠ .kvrot) || decide (e.hdim % 2 = 0))

/-- The reads and checks at issue of a maintenance operation. -/
def kvIssue (j : DWord → List Byte → KvJob) (a : DWord) : Script KvJob :=
  (Script.read a 64).bind (fun d =>
    let j := j a d
    (Script.check (j.fieldsOk d) .bounds).bind (fun _ =>
      if j.seqrec.toNat % 512 ≠ 0 then .stop (.align, j.seqrec)
      else if j.opaddr.toNat % 4 ≠ 0 then .stop (.align, j.opaddr)
      else (Script.line0 j.seqrec).bind (fun r =>
        (Script.kvFind r.kvmap j.layer kvMost 0 0).bind (fun e =>
          (Script.check (j.inEntry e) .bounds).bind (fun _ =>
            (Script.kvPool e).bind (fun p =>
              .done { j with pos := r.pos, dgen := r.dgen, kvmap := r.kvmap, entry := e, layer := j.layer - e.first
                             fmt := p.1, finite := p.2 }))))))

/-- The reads and checks at issue of a `TOPK` (R305). -/
def topkIssue (j : DWord → List Byte → KvJob) (a : DWord) : Script KvJob :=
  (Script.read a 32).bind (fun d =>
    let j := j a d
    (Script.check (decide (1 ≤ j.n) && decide (j.n ≤ 4096) && decide (1 ≤ j.k) && decide (j.k ≤ j.n) &&
      (d.drop 24).all (· = 0)) .bounds).bind (fun _ =>
      if j.vec.toNat % 4 ≠ 0 then .stop (.align, j.vec)
      else if j.out.toNat % 8 ≠ 0 then .stop (.align, j.out)
      else .done j))

/-! ## Parts of the operations -/

/-- The decoded keys of a row. -/
def keysAt (scale : FVal) (cs : List KvCode) : List FVal := cs.map (KvCode.key scale)

/-- The block an operation acts on: present, and not sealed where it writes rows (R229, R297). -/
def Script.theBlock (e : KvEntry) (b : Nat) (writes : Bool) : Script BlockEntry :=
  (Script.blockEntry e b).bind (fun t =>
    (Script.check t.present .notpres).bind (fun _ =>
      (Script.check (!(writes && t.sealed')) .prot).bind (fun _ => .done t)))

/-- One atomic step on the word of a tail that holds COUNT and STALE. -/
def Script.countWord (t : Tail) (f : Nat → Nat) : Script Unit :=
  (Script.get (.rmw (t.addr + 8) 4 false (fun old _ => some (leBytes 4 (f (leNat old)))))).bind (fun _ => .done ())

def setStale (w : Nat) : Nat := if w.testBit 31 then w else w + 2 ^ 31
def clearStale (w : Nat) : Nat := w % 2 ^ 31
def raiseCount (n w : Nat) : Nat := w / 65536 * 65536 + max (w % 65536) n

/-- A summary is widened over a decoded key row, element by element (R236, R299); a row with an element that is
not finite marks it stale. -/
def Script.widen (e : KvEntry) (b l h : Nat) (t : Tail) (key : List FVal) : Script Bool :=
  if key.all FVal.finite then
    let va := e.summary b l h
    (Script.each key.zipIdx () (fun _ k =>
      (Script.get (.rmw (va + BitVec.ofNat 64 (2 * k.2)) 2 false
        (fun old _ => some (leBytes 2 (widenLo (leNat old) k.1))))).bind (fun _ =>
        (Script.get (.rmw (va + BitVec.ofNat 64 (2 * e.hdim + 2 * k.2)) 2 false
          (fun old _ => some (leBytes 2 (widenHi (leNat old) k.1))))).bind (fun _ => .done ())))).bind (fun _ => .done false)
  else (Script.countWord t setStale).bind (fun _ => .done true)

/-- A row's format and those of its elements, for a write of it or of its tag. -/
def KvJob.rowFmts (j : KvJob) (va : DWord) : Script (Nat × List (Nat × Bool)) := Script.rowFmts j.entry .store va

/-- The codes of a row written, word by word. -/
def KvJob.writeCodes (j : KvJob) (va : DWord) (cs : List KvCode) : Script Unit :=
  (j.rowFmts va).bind (fun p =>
    Script.writeWords va (wordsOfBytes (packCodes (fmtBits p.1) (cs.map (fun c => c.code)))))

/-- The tag of a row written, as one word. -/
def KvJob.writeTag (j : KvJob) (va : DWord) (t : Word) : Script Unit :=
  (j.rowFmts va).bind (fun p => Script.write (va + BitVec.ofNat 64 (j.entry.rbytes p.1)) (bytesOfWord t))

/-- The key rows below COUNT with their tags. -/
def KvJob.keyRows (j : KvJob) (pb h count : Nat) : Script (List (List KvCode × Word)) :=
  Script.each (List.range count) [] (fun acc r =>
    let va := j.entry.row pb j.layer 0 h r
    (Script.rowCodes j.entry va).bind (fun cs =>
      (Script.rowTag j.entry va).bind (fun t => .done (acc ++ [(cs, t)]))))

/-- The rows that R235 names. -/
def namedRows (dgen : Nat) (rows : List (List KvCode × Word)) : List (List KvCode) :=
  (rows.filter (fun r => tagSeen r.2 dgen (fun _ => true))).map Prod.fst

/-- The bounds of a summary written over some rows, leaving out those with an element that is not finite (R302). -/
def KvJob.writeBounds (j : KvJob) (rows : List (List FVal)) : Script Unit :=
  let b := boundsOver j.entry.hdim (rows.filter (fun r => r.all FVal.finite))
  Script.writeWords (j.entry.summary j.block j.layer j.head) (wordsOfBytes (leHalves b.1 ++ leHalves b.2))

/-! ## The operations -/

/-- A source row of `KVAP`: D words (R299). -/
def KvJob.source (j : KvJob) (l tensor h : Nat) : Script (List FVal) :=
  let d := j.entry.hdim
  (Script.readBytes (j.opaddr + BitVec.ofNat 64 (4 * d * ((2 * l + tensor) * j.entry.heads + h))) (4 * d)).bind (fun bs =>
    .done ((wordsOf d bs).map f32Val))

/-- One layer and head of a `KVAP` (R299). -/
def KvJob.append (j : KvJob) (pb block r : Nat) (st : KvStat) (l h : Nat) : Script KvStat :=
  let ka := j.entry.row pb l 0 h r
  let va := j.entry.row pb l 1 h r
  (Script.tail j.entry block l h).bind (fun t =>
    (j.source l 0 h).bind (fun ks =>
      (j.source l 1 h).bind (fun vs =>
        (j.rowFmts ka).bind (fun kf =>
          (j.rowFmts va).bind (fun vf =>
            let kc := encodeAll kf.2 (f32Val t.kscale) ks
            let vc := encodeAll vf.2 (f32Val t.vscale) vs
            (Script.widen j.entry block l h t (keysAt (f32Val t.kscale) kc.1)).bind (fun stale =>
              (j.writeCodes ka kc.1).bind (fun _ => (j.writeTag ka j.tag).bind (fun _ =>
                (j.writeCodes va vc.1).bind (fun _ => (j.writeTag va j.tag).bind (fun _ =>
                  (Script.countWord t (raiseCount (r + 1))).bind (fun _ =>
                    .done { st with num := (st.num.or kc.2).or vc.2, stale := st.stale || stale, done := st.done + 1 })))))))))))

/-- `KVAP` (R299). -/
def KvJob.kvap (j : KvJob) : Script KvStat :=
  let p := j.b.toNat
  let block := p / j.entry.rows
  (Script.theBlock j.entry block true).bind (fun t =>
    Script.each (List.range j.entry.layers) {} (fun st l =>
      Script.each (List.range j.entry.heads) st (fun st h => j.append t.pb block (p % j.entry.rows) st l h)))

/-- The largest magnitude of some decoded keys. -/
def largestOf (vs : List FVal) : FVal := vs.foldl (fun m v => if m.lt v.abs then v.abs else m) (.fin false 0 0)

/-- The scale a `KVRQ` writes (R300). -/
def KvJob.newScale (j : KvJob) (old : Word) (keys : List FVal) : Word :=
  if j.b ≠ 0 then j.b
  else if keys.all FVal.finite && !(largestOf keys).isZero then f32By .ru ((largestOf keys).div (largestFmt j.fmt j.finite))
  else old

/-- The tail written in one step with a key scale, STALE set or clear (R236). -/
def Script.writeTail (t : Tail) (scale : Word) (stale : Bool) : Script Unit :=
  (Script.get (.rmw t.addr 12 false (fun old _ =>
    some (bytesOfWord scale ++ (old.drop 4).take 4 ++
      leBytes 4 ((if stale then setStale else clearStale) (leNat ((old.drop 8).take 4))))))).bind (fun _ => .done ())

/-- `KVRQ` (R300). -/
def KvJob.kvrq (j : KvJob) : Script KvStat :=
  (Script.theBlock j.entry j.block true).bind (fun bt =>
    (Script.tail j.entry j.block j.layer j.head).bind (fun t =>
      (Script.countWord t setStale).bind (fun _ =>
        (j.keyRows bt.pb j.head t.count).bind (fun rows =>
          let old := rows.map (fun r => keysAt (f32Val t.kscale) r.1)
          let scale := j.newScale t.kscale old.flatten
          let new := (rows.zip old).map (fun r => encodeAll (fmtsOf r.1.1) (f32Val scale) r.2)
          (Script.each new.zipIdx () (fun _ r => j.writeCodes (j.entry.row bt.pb j.layer 0 j.head r.2) r.1.1)).bind (fun _ =>
            let named := (namedRows j.dgen ((new.map Prod.fst).zip (rows.map Prod.snd))).map (keysAt (f32Val scale))
            let stale := !(old.flatten.all FVal.finite && named.flatten.all FVal.finite)
            (j.writeBounds named).bind (fun _ => (Script.writeTail t scale stale).bind (fun _ =>
              .done { num := new.foldl (fun s r => s.or r.2) (decodeStat (rows.flatMap Prod.fst))
                      stale := stale, done := rows.length })))))))

/-- A pair of a decoded row rotated by cos and sin words, encoded (R301). -/
def rotatePair (scale : FVal) (c s : Word) (x y : KvCode) : List (KvCode × NumStat) :=
  let kx := x.key scale
  let ky := y.key scale
  [encodedAt (x.fmt, x.finite) scale ((kx.mul (f32Val c)).add (ky.mul (f32Val s)).neg),
   encodedAt (y.fmt, y.finite) scale ((kx.mul (f32Val s)).add (ky.mul (f32Val c)))]

/-- A row rotated: its new codes, and whether a pair was left as it was. -/
def KvJob.rotateRow (j : KvJob) (scale : FVal) (thetas : List Word) (cs : List KvCode) : List KvCode × NumStat × Bool :=
  thetas.zipIdx.foldl (fun acc th =>
    match cs[2 * th.2]?, cs[2 * th.2 + 1]? with
    | some x, some y =>
      let t := f32Round ((FVal.ofInt j.b.toInt).mul (f32Val th.1))
      if (f32Val th.1).finite && (f32Val t).finite then
        let r := rotatePair scale (fcosp t) (fsinp t) x y
        (acc.1 ++ r.map Prod.fst, r.foldl (fun s p => s.or p.2) acc.2.1, acc.2.2)
      else (acc.1 ++ [x, y], acc.2.1, true)
    | _, _ => acc) ([], .none, false)

/-- `KVROT` (R301). -/
def KvJob.kvrot (j : KvJob) : Script KvStat :=
  (Script.theBlock j.entry j.block true).bind (fun bt =>
    (Script.readBytes j.opaddr (4 * (j.entry.hdim / 2))).bind (fun tb =>
      let thetas := wordsOf (j.entry.hdim / 2) tb
      (Script.tail j.entry j.block j.layer j.head).bind (fun t =>
        let scale := f32Val t.kscale
        (Script.countWord t setStale).bind (fun _ =>
          (j.keyRows bt.pb j.head t.count).bind (fun rows =>
            let new := rows.map (fun r => j.rotateRow scale thetas r.1)
            (Script.each new.zipIdx () (fun _ r => j.writeCodes (j.entry.row bt.pb j.layer 0 j.head r.2) r.1.1)).bind (fun _ =>
              let named := (namedRows j.dgen ((new.map Prod.fst).zip (rows.map Prod.snd))).map (keysAt scale)
              let stale := new.any (fun r => r.2.2) || !(named.flatten.all FVal.finite) ||
                !((rows.flatMap (fun r => keysAt scale r.1)).all FVal.finite)
              (j.writeBounds named).bind (fun _ =>
                (Script.countWord t (if stale then setStale else clearStale)).bind (fun _ =>
                  .done { num := new.foldl (fun s r => s.or r.2.1) (decodeStat (rows.flatMap Prod.fst))
                          stale := stale, done := rows.length }))))))))

/-- `BNDS` (R302). -/
def KvJob.bnds (j : KvJob) : Script KvStat :=
  (Script.theBlock j.entry j.block false).bind (fun bt =>
    (Script.tail j.entry j.block j.layer j.head).bind (fun t =>
      (Script.countWord t setStale).bind (fun _ =>
        (Script.line0 j.seqrec).bind (fun r0 =>
          (j.keyRows bt.pb j.head t.count).bind (fun rows =>
            let codes := namedRows r0.dgen rows
            let named := codes.map (keysAt (f32Val t.kscale))
            let stale := !named.flatten.all FVal.finite
            (j.writeBounds named).bind (fun _ =>
              (Script.countWord t (if stale then setStale else clearStale)).bind (fun _ =>
                .done { num := decodeStat codes.flatten, stale := stale, done := named.length })))))))

/-- A row copied to the destination block, codes and tag; the codes as they stand there (R303). DESIGN CHOICE (log entry
77): one whose destination has elements of another width is refused. -/
def KvJob.copyRow (j : KvJob) (pb l tensor h r : Nat) : Script (List KvCode) :=
  let src := j.entry.row pb l tensor h r
  let dst := j.entry.row j.oparg l tensor h r
  (Script.rowCodes j.entry src).bind (fun cs =>
    (Script.rowTag j.entry src).bind (fun t =>
      (j.rowFmts dst).bind (fun fs =>
        if cs.all (fun c => decide (fmtBits c.fmt = fmtBits fs.1)) then
          (j.writeCodes dst cs).bind (fun _ => (j.writeTag dst t).bind (fun _ =>
            .done (cs.zipWith (fun c f => { code := c.code, fmt := f.1, finite := f.2 }) fs.2)))
        else .stop (.fmtbad, dst))))

/-- A void tag: KIND 1; the manual gives the other bits no value. -/
def KvJob.voidTag (j : KvJob) (l tensor h r : Nat) : Script Unit :=
  (Script.get (.free (((l * 256 + h) * 256 + r) * 2 + tensor))).bind (fun a =>
    j.writeTag (j.entry.row j.oparg l tensor h r) (BitVec.ofNat 32 (2 ^ 24 + leNat a.bytes % 2 ^ 24)))

/-- The rows of one layer and head moved: the codes of the key rows copied (R303). -/
def KvJob.moveHead (j : KvJob) (pb l h : Nat) : Script (List (List KvCode)) :=
  (Script.tail j.entry j.block l h).bind (fun t =>
    Script.each (List.range t.count) [] (fun acc r =>
      (Script.rowTag j.entry (j.entry.row pb l 0 h r)).bind (fun tag =>
        if tagSeen tag j.dgen (fun _ => false) && decide (j.block * j.entry.rows + r < j.pos) then
          (j.copyRow pb l 0 h r).bind (fun cs => (j.copyRow pb l 1 h r).bind (fun _ => .done (acc ++ [cs])))
        else (j.voidTag l 0 h r).bind (fun _ => (j.voidTag l 1 h r).bind (fun _ => .done acc)))))

/-- `KVMOVE` (R303). -/
def KvJob.kvmove (j : KvJob) : Script KvStat :=
  let heads := (List.range j.entry.layers).flatMap (fun l => (List.range j.entry.heads).map (fun h => (l, h)))
  (Script.theBlock j.entry j.block true).bind (fun bt =>
    (Script.each heads [] (fun acc p => (j.moveHead bt.pb p.1 p.2).bind (fun rs => .done (acc ++ [(p, rs)])))).bind (fun moved =>
      (Script.each moved {} (fun (st : KvStat) m =>
        (Script.tail j.entry j.block m.1.1 m.1.2).bind (fun t =>
          Script.each m.2 { st with done := st.done + m.2.length } (fun (st : KvStat) cs =>
            (Script.widen j.entry j.block m.1.1 m.1.2 t (keysAt (f32Val t.kscale) cs)).bind (fun stale =>
              .done { st with stale := st.stale || stale, num := st.num.or (decodeStat cs) }))))).bind (fun st =>
        (Script.get (.rmw (j.entry.table j.block) 8 false (fun old v =>
          if v = bt.version then some (leBytes 4 j.oparg ++ old.drop 4) else none))).bind (fun a =>
          .done { st with race := decide (a.version ≠ bt.version) }))))

/-- A tag that `KVTAG` rewrites (R304). -/
def retags (dgen : Nat) (mask : List Byte) (t : Word) : Bool :=
  decide (tagKind t = 0) && decide (tagGen t = dgen) && decide (tagNode t ≠ 255) && inMask mask (tagNode t)

/-- One tag read and, where it qualifies, rewritten, in one step. -/
def Script.retag (va : DWord) (dgen : Nat) (mask : List Byte) : Script Bool :=
  (Script.get (.rmw va 4 false (fun old _ =>
    let t : Word := BitVec.ofNat 32 (leNat old)
    if retags dgen mask t then some (bytesOfWord (t ||| 0x00FF0000#32)) else none))).bind (fun a =>
    .done (retags dgen mask (BitVec.ofNat 32 (leNat a.bytes))))

/-- Every entry of a KV map with its pool's format (R227, R228). -/
def Script.kvAll (kvmap : DWord) : Nat → Nat → Nat → Script (List (KvEntry × Nat × Bool))
  | 0, _, _ => .done []
  | fuel + 1, i, first =>
    (Script.kvEntry kvmap i first).bind (fun e => match e with
      | none => .done []
      | some e => (Script.kvPool e).bind (fun p =>
          (Script.kvAll kvmap fuel (i + 1) (first + e.layers)).bind (fun es => .done ((e, p) :: es))))

/-- The tag of a row at an address, on pages of its pool, read and where it qualifies rewritten. -/
def Script.retagRow (e : KvEntry) (row : DWord) (dgen : Nat) (mask : List Byte) : Script Bool :=
  (Script.rowFmts e .load row).bind (fun p => Script.retag (row + BitVec.ofNat 64 (e.rbytes p.1)) dgen mask)

/-- The tags of one position in one entry's block (R304). -/
def tagPosition (e : KvEntry) (pb r : Nat) (dgen : Nat) (mask : List Byte) (st : KvStat) : Script KvStat :=
  Script.each (List.range e.layers) st (fun st l => Script.each (List.range e.heads) st (fun st h =>
    (Script.retagRow e (e.row pb l 0 h r) dgen mask).bind (fun k =>
      (Script.retagRow e (e.row pb l 1 h r) dgen mask).bind (fun _ =>
        .done { st with done := st.done + (if k then 1 else 0) }))))

/-- `KVTAG` (R304). -/
def KvJob.kvtag (j : KvJob) : Script KvStat :=
  (Script.line0 j.seqrec).bind (fun r0 =>
    (Script.read j.opaddr 32).bind (fun mask =>
      (Script.kvAll j.kvmap kvMost 0 0).bind (fun es =>
        Script.each (List.range' j.firstPos j.oparg) {} (fun st p =>
          Script.each es st (fun st e =>
            let b := p / e.1.rows
            if e.1.btlen ≤ b then .done st
            else (Script.theBlock e.1 b false).bind (fun bt =>
              tagPosition e.1 bt.pb (p % e.1.rows) r0.dgen mask st))))))

/-- The rank of a vector word: NaN below every number (R305). -/
def topKey (w : Word) : Nat := if f32IsNaN w then 0 else f32Key w + 1

/-- Entries by value descending, on equal values by index (R305). -/
def insertTop (x : Word × Nat) : List (Word × Nat) → List (Word × Nat)
  | [] => [x]
  | y :: ys => if topKey y.1 ≤ topKey x.1 then x :: y :: ys else y :: insertTop x ys

/-- `TOPK` (R305). -/
def KvJob.topk (j : KvJob) : Script KvStat :=
  (Script.readBytes j.vec (4 * j.n)).bind (fun bs =>
    let best := ((wordsOf j.n bs).zipIdx.foldr insertTop []).take j.k
    (Script.writeWords j.out (best.flatMap (fun x => [BitVec.ofNat 32 x.2, x.1]))).bind (fun _ => .done { done := j.k }))

/-- What an operation does. -/
def KvJob.script (j : KvJob) : Script KvStat :=
  match j.op with
  | .kvap => j.kvap
  | .kvrq => j.kvrq
  | .kvrot => j.kvrot
  | .bnds => j.bnds
  | .kvmove => j.kvmove
  | .kvtag => j.kvtag
  | .topk => j.topk

/-! ## Issue -/

/-- A maintenance instruction: a register limit, the descriptor's alignment, what is read at issue, and the
operation (R291, R297). -/
def kvLanes (i : Instr) (op : KvOp) (d a : BitVec 7) (f : BitVec 4) (b tag : Lane → Word) (align : Nat)
    (limit : Lane → Option Trap) (s : State) : Host.Outcome State Fault Refusal :=
  let script (l : Lane) : Script KvJob :=
    let j := fun (_ : DWord) d => KvJob.ofDesc op l.tm.fn l.privileged l.tm.core (b l) (tag l) d
    if op = .topk then topkIssue j (l.pair a) else kvIssue j (l.pair a)
  runLanesThen i s (fun l =>
    if l.waitsToRead || l.scriptAway (script l) then .hold
    else match limit l with
      | some t => .trap t
      | none =>
        if (l.pair a).toNat % align ≠ 0 then .trap (.atAddr .align (l.pair a))
        else match l.runScript (script l) with
          | .error t => .trap t
          | .ok j => .done { flag := f.toNat, dst := l.dsts d 1, op := some (.kv j) })
    (fun ls s => s.noteScript ls script)

/-- `KVAP` (R299). -/
def execKvap (d a b : BitVec 7) (f : BitVec 4) (s : State) : Host.Outcome State Fault Refusal :=
  kvLanes (.kvap d a b f) .kvap d a f (fun l => l.reg b) (fun l => l.reg d) 64 (fun _ => none) s

/-- A key scale given in a register is 0, or positive, finite and normal (R300). -/
def scaleOk (b : Word) : Bool := decide (b = 0) || (!b.msb && decide (1 ≤ bits b.toNat 30 23) && decide (bits b.toNat 30 23 < 255))

/-- `KVRQ` (R300). -/
def execKvrq (d a b : BitVec 7) (f : BitVec 4) (s : State) : Host.Outcome State Fault Refusal :=
  kvLanes (.kvrq d a b f) .kvrq d a f (fun l => l.reg b) (fun _ => 0) 64
    (fun l => when' (!scaleOk (l.reg b)) (.of .fmtbad)) s

/-- `KVROT` (R301). -/
def execKvrot (d a b : BitVec 7) (f : BitVec 4) (s : State) : Host.Outcome State Fault Refusal :=
  kvLanes (.kvrot d a b f) .kvrot d a f (fun l => l.reg b) (fun _ => 0) 64 (fun _ => none) s

/-- `BNDS` (R302). -/
def execBnds (d a : BitVec 7) (f : BitVec 4) (s : State) : Host.Outcome State Fault Refusal :=
  kvLanes (.bnds d a f) .bnds d a f (fun _ => 0) (fun _ => 0) 64 (fun _ => none) s

/-- `KVMOVE` (R303). -/
def execKvmove (d a : BitVec 7) (f : BitVec 4) (s : State) : Host.Outcome State Fault Refusal :=
  kvLanes (.kvmove d a f) .kvmove d a f (fun _ => 0) (fun _ => 0) 64 (fun _ => none) s

/-- `KVTAG` (R304). -/
def execKvtag (d a : BitVec 7) (f : BitVec 4) (s : State) : Host.Outcome State Fault Refusal :=
  kvLanes (.kvtag d a f) .kvtag d a f (fun _ => 0) (fun _ => 0) 64 (fun _ => none) s

/-- `TOPK` (R305). -/
def execTopk (d a : BitVec 7) (f : BitVec 4) (s : State) : Host.Outcome State Fault Refusal :=
  kvLanes (.topk d a f) .topk d a f (fun _ => 0) (fun _ => 0) 32 (fun _ => none) s

/-! ## An operation in progress -/

/-- One access of an operation. -/
def State.kvStep (s : State) (o : Op) (j : KvJob) : State :=
  if !s.engineReady j.core o.id then s
  else match j.script.resume j.log with
    | .ask r _ =>
      if s.away (s.engOf o j.fn j.priv) r then s
      else
        let p := s.answer (s.engOf o j.fn j.priv) r
        p.1.setOpKind o.id (.kv { j with log := j.log ++ [p.2] })
    | _ => s

/-- An operation ends: its status word with its flag, or `ENGFAULT` (R292). -/
def State.kvEnd (s : State) (id : Nat) : State :=
  match s.op? id with
  | none => s
  | some o => match o.kind with
    | .kv j =>
      if !s.engineReady j.core id || State.scriptAway (s.engOf o j.fn j.priv) (j.script.resume j.log) s then s
      else match State.runScript (s.engOf o j.fn j.priv) (j.script.resume j.log) s with
        | (s', .ok st) => s'.completeOp o [st.word] none
        | (s', .error f) => s'.completeOp o [] (some (engineTrap j.core 0 0 4 f))
    | _ => s

/-- `KV_OP_COMPLETE` (R291, R292). -/
def execKvOpComplete (op : Nat) (s : State) : Host.Outcome State Fault Refusal := .next (s.kvEnd op)

end Sys2Proof.Machine
end

