-- ==== Sys2Proof/Machine/Attn.lean ====
section
/-!
DEFINITION. Bounded attention: `ATTN` and `ATTNR` (R217 to R221, R239, R241 to R250).
-/

namespace Sys2Proof.Machine

/-! ## Issue (R218, R220, R241 to R243) -/

/-- A call as its descriptor gives it. -/
def AttnJob.ofDesc (l : Lane) (resume : Bool) (tol : Word) (d : List Byte) : AttnJob :=
  let opt := fieldAt d 44 4
  { fn := l.tm.fn, priv := l.privileged, core := l.tm.core, resume := resume, nanTrap := l.th.nanTrap, tol := tol
    qaddr := addrAt d 0, seqrec := addrAt d 8, strec := addrAt d 16, outaddr := addrAt d 24, layer := fieldAt d 32 2
    head := fieldAt d 34 2, limit := fieldAt d 36 4, scale := BitVec.ofNat 32 (fieldAt d 40 4), qfmt := bits opt 4 0
    qfinite := opt.testBit 5, acc := opt.testBit 8, scores := addrAt d 48, amask := addrAt d 56, recHead := []
    recBody := none, log := [] }

/-- Bits of a descriptor that must be 0. -/
def attnBits (d : List Byte) : Bool :=
  let opt := fieldAt d 44 4
  decide (bits opt 7 6 = 0) && decide (bits opt 31 9 = 0)

/-- The width of a query element in whole bytes. -/
def AttnJob.qalign (j : AttnJob) : Nat := max 1 (fmtBits j.qfmt / 8)

/-- The misaligned addresses of a descriptor, in its order (R242). -/
def AttnJob.misaligned (j : AttnJob) : Option DWord :=
  [(j.qaddr, j.qalign), (j.seqrec, 512), (j.strec, 128), (j.outaddr, 4)].findSome? (fun p =>
    if p.1.toNat % p.2 ≠ 0 then some p.1 else none)

/-- A scale is finite with bit 31 clear, and the query format is a matrix format (R242). -/
def AttnJob.valuesOk (j : AttnJob) : Bool :=
  !j.scale.msb && (f32Val j.scale).finite && decide (1 ≤ j.qfmt) && decide (j.qfmt ≤ 24)

/-- A query page agrees with the format the descriptor names (R143). DESIGN CHOICE (log entry 78): the page's geometry is
read only for the elements of 32 bits, which allow none (R142). -/
def AttnJob.agrees (j : AttnJob) (a : Answer) : Bool :=
  decide (a.fmt = 0) ||
  (decide (a.fmt = j.qfmt) && decide (a.finite = j.qfinite) && !(decide (4 ≤ elemBytes a.fmt) && (decide (a.geo = 1) || decide (a.geo = 2))))

/-- The query's first page is checked at issue (R242). A page that does not translate is met by the engine. -/
def AttnJob.queryPage (j : AttnJob) : Script Bool :=
  (Script.page j.qaddr .load).catch'.bind (fun r => match r with
    | .error _ => .done true
    | .ok a => .done (j.agrees a))

/-- The head of a state record that an `ATTNR` may resume (R220, R243). -/
def recordOk (h : List Byte) : Bool :=
  decide (fieldAt h 0 4 < 7) && decide (fieldAt h 36 4 < 256) && decide (fieldAt h 46 2 = 0) &&
  decide (fieldAt h 50 2 = 0) && decide (fieldAt h 56 8 = 0)

/-- Words of the visited bitmap. -/
def vmapWords (e : KvEntry) : Nat := (e.btlen + 63) / 64

def recordSize (e : KvEntry) : Nat := 64 + 8 * e.hdim + 8 * vmapWords e

/-- The bytes of a state record behind its head, whose number the KV map entry gives; none where that cannot be found,
which the engine meets again (R243; log entry 79). -/
def AttnJob.readBody (j : AttnJob) : Script (Option (List Byte)) :=
  ((Script.line0 j.seqrec).bind (fun r => Script.kvFind r.kvmap j.layer kvMost 0 0)).catch'.bind (fun r => match r with
    | .error _ => .done none
    | .ok e => (Script.readBytes (j.strec + 64) (recordSize e - 64)).bind (fun bs => .done (some bs)))

/-- The reads and checks at issue. -/
def attnIssue (l : Lane) (resume : Bool) (tol : Word) (a : DWord) : Script AttnJob :=
  (Script.read a 64).bind (fun d =>
    let j := AttnJob.ofDesc l resume tol d
    (Script.check (attnBits d) .bounds).bind (fun _ =>
      match j.misaligned with
      | some x => .stop (.align, x)
      | none =>
        j.queryPage.bind (fun q =>
          (Script.check (j.valuesOk && q) .fmtbad).bind (fun _ =>
            if resume then
              (Script.read j.strec 64).bind (fun h =>
                (Script.check (recordOk h) .fmtbad).bind (fun _ =>
                  j.readBody.bind (fun b => .done { j with recHead := h, recBody := b })))
            else .done j))))

/-- A tolerance in [0, 1]; −0 is taken as +0 (R218). -/
def tolerance (b : Word) : Word := if b = 0x80000000#32 then 0 else b
def toleranceOk (b : Word) : Bool := decide ((tolerance b).toNat ≤ 0x3F800000)

def attnLanes (i : Instr) (resume : Bool) (d a b : BitVec 7) (f : BitVec 4) (s : State) : Host.Outcome State Fault Refusal :=
  let script (l : Lane) : Script AttnJob := attnIssue l resume (tolerance (l.reg b)) (l.pair a)
  runLanesThen i s (fun l =>
    if l.waitsToRead || l.scriptAway (script l) then .hold
    else if !toleranceOk (l.reg b) then .trap (.of .fmtbad)
    else if (l.pair a).toNat % 64 ≠ 0 then .trap (.atAddr .align (l.pair a))
    else match l.runScript (script l) with
      | .error t => .trap t
      | .ok j => .done { flag := f.toNat, dst := l.dsts d 3, op := some (.attn j) })
    (fun ls s => s.noteScript ls script)

/-- `ATTN` (R218, R296). -/
def execAttn (d a b : BitVec 7) (f : BitVec 4) (s : State) : Host.Outcome State Fault Refusal :=
  attnLanes (.attn d a b f) false d a b f s

/-- `ATTNR` (R220, R296). -/
def execAttnr (d a b : BitVec 7) (f : BitVec 4) (s : State) : Host.Outcome State Fault Refusal :=
  attnLanes (.attnr d a b f) true d a b f s

/-! ## The call -/

/-- A block below total that is not visited, as the plan found it (R245). An excluded block has no bound. -/
structure PlanBlock where
  block : Nat
  u : Option Word
  count : Nat
  lines : List (Nat × BitVec 48)
  fallback : Bool

/-- A stop (R247): the status, FBLK, and the fault. -/
structure AttnStop where
  status : Nat
  fblk : Nat
  fault : Option EngFault

/-- A call under way: what it took at its start, and its sums. -/
structure Call where
  version : BitVec 48
  dgen : Nat
  mask : List Byte
  entry : KvEntry
  fmt : Nat
  q : List FVal
  total : Option Nat             -- none before it is computed
  sum : DWord
  acc : List DWord
  visited : List Nat
  vcount : Nat
  nretry : Nat
  t : Option DWord               -- T at the present position; none before the first plan
  plan : List PlanBlock
  order : List (Nat × DWord)     -- blocks still to visit with the suffix sum at each
  replans : Nat
  masses : List (Nat × DWord)
  whole : Bool                   -- acc and the visited set are known, so the whole record is written
  hasRecord : Bool               -- the state record may be written (R242)

def noBlock : Nat := 0xFFFFFFFF

def AttnStop.fault6 (fblk : Nat) (f : EngFault) : AttnStop := { status := 6, fblk := fblk, fault := some f }

/-- σ of a block (R245): none where it is −∞. Infinity stands where it is not defined. -/
def sigma (q : List FVal) (lo hi : List Nat) : Option Word :=
  if (lo ++ hi).any bf16NaN then some (f32Inf false)
  else
    let term (x : FVal) (b : Nat × Nat) : FVal :=
      if x.isZero then .fin false 0 0
      else
        let a := x.mul (bf16.val b.1)
        let c := x.mul (bf16.val b.2)
        if a.lt c then c else a
    match (q.zipWith term (lo.zip hi)).foldl FVal.add (.fin false 0 0) with
    | .nan => some (f32Inf false)
    | .inf s => if s then none else some (f32Inf false)
    | v => some (f32By .ru v)

/-- The bound U of a block with rows; none where it is excluded (R245). -/
def AttnJob.upper (j : AttnJob) (q : List FVal) (s : Summary) : Option Word :=
  if s.stale then some (f32Inf false)
  else match sigma q s.lo s.hi with
    | none => none
    | some w => if w = f32Inf false then some w else some (f32By .ru ((f32Val j.scale).mul (f32Val w)))

/-- RU(n * EXP(u)) in X64, EXP exact; infinite where u is (R245). -/
def massUpper (n : Nat) (u : Word) : DWord :=
  let round (v : FVal) : DWord := x64Round .ru (v.mul (FVal.ofInt n))
  match f32Val u with
  | .nan => x64NaN
  | .inf s => if s then round (.fin false 0 0) else x64Inf false
  | .fin s m e =>
    if m = 0 then round (.fin false 1 0)
    else if e + (Nat.log2 m : Int) ≥ 15 then if s then 0x0000800000000000#64 else x64Inf false
    else expRound round s m e

/-- Blocks by U descending, then by index ascending. -/
def insertBlock (x : PlanBlock) : List PlanBlock → List PlanBlock
  | [] => [x]
  | y :: ys =>
    if (f32Val (y.u.getD 0)).lt (f32Val (x.u.getD 0)) || ((f32Val (y.u.getD 0)).eqv (f32Val (x.u.getD 0)) && decide (x.block < y.block))
    then x :: y :: ys else y :: insertBlock x ys

/-- The visiting order with its suffix sums T, rounded up (R245). -/
def orderOf (plan : List PlanBlock) : List (Nat × DWord) :=
  (((plan.filter (fun p => p.u.isSome)).foldr insertBlock []).foldr (fun p (acc : List (Nat × DWord)) =>
    let rest := match acc with | (_, t) :: _ => t | [] => 0
    (p.block, x64AddUp rest (massUpper p.count (p.u.getD 0))) :: acc) [])

/-- T at the head of an order. -/
def suffixAt (order : List (Nat × DWord)) : DWord := match order with | (_, t) :: _ => t | [] => 0

/-- S > 0. -/
def sumPos (s : DWord) : Bool := (FVal.fin false 0 0).lt (x64Val s)

/-- RU(T / (S + T)), 1 for an infinite T (R245). -/
def massRatio (s t : DWord) : Word :=
  if t = x64Inf false then 0x3F800000#32 else f32By .ru ((x64Val t).div ((x64Val s).add (x64Val t)))

/-- The bound a stop returns (R247). -/
def stopBound (s : DWord) (t : Option DWord) : Word :=
  match t with
  | none => 0x3F800000#32
  | some t => if sumPos s then massRatio s t else if (x64Val s).isZero && sumPos t then 0x3F800000#32 else 0

/-- A block's part of the plan: its summary is read with the versions of its lines (R245). -/
def AttnJob.planBlock (j : AttnJob) (c : Call) (b : Nat) : Script PlanBlock :=
  (Script.summary c.entry b (j.layer - c.entry.first) j.head).bind (fun s =>
    .done { block := b, u := if s.count = 0 then none else j.upper c.q s, count := s.count, lines := s.lines, fallback := false })

/-- A fault in a block stops the call there. -/
def inBlock {α : Type} (b : Nat) (x : Script α) : Script (Except AttnStop α) :=
  x.catch'.bind (fun r => match r with
    | .ok a => .done (.ok a)
    | .error f => .done (.error (.fault6 b f)))

/-- On with a result, or stopped. -/
def andThen {α β : Type} (x : Script (Except AttnStop α)) (f : α → Script (Except AttnStop β)) : Script (Except AttnStop β) :=
  x.bind (fun r => match r with
    | .ok a => f a
    | .error e => .done (.error e))

/-- The call with an order over its plan, at its start. -/
def Call.reorder (c : Call) (plan : List PlanBlock) : Call :=
  let order := orderOf (plan.filter (fun p => !c.visited.contains p.block))
  { c with plan := plan, order := order, t := some (suffixAt order) }

/-- The plan over the blocks not yet visited. -/
def AttnJob.makePlan (j : AttnJob) (c : Call) : Script (Call × Option AttnStop) :=
  let blocks := (List.range (c.total.getD 0)).filter (fun b => !c.visited.contains b)
  (Script.each blocks (.ok []) (fun (acc : Except AttnStop (List PlanBlock)) b =>
    match acc with
    | .error e => .done (.error e)
    | .ok ps => andThen (inBlock b (j.planBlock c b)) (fun p => .done (.ok (ps ++ [p]))))).bind (fun r => match r with
    | .ok ps => .done (c.reorder ps, none)
    | .error e => .done (c, some e))

/-- The versions of some lines. -/
def versionsOf (lines : List Nat) : Script (List (BitVec 48)) :=
  Script.each lines [] (fun acc x => (Script.get (.version x)).bind (fun a => .done (acc ++ [a.version])))

/-- What one try at a block reads (R246). -/
structure BlockRead where
  present : Bool
  kscale : Word
  vscale : Word
  rows : List (List KvCode × List KvCode)   -- key and value codes of the visible rows, ascending

/-- A row is visible (R231). -/
def AttnJob.sees (j : AttnJob) (c : Call) (p : Nat) (tag : Word) : Bool :=
  tagSeen tag c.dgen (inMask c.mask) && decide (p < j.limit)

/-- One try at a block: the table entry, the tail, the key rows with their tags, the value rows of the visible. -/
def AttnJob.readBlock (j : AttnJob) (c : Call) (b : Nat) : Script BlockRead :=
  let l := j.layer - c.entry.first
  (Script.blockEntry c.entry b).bind (fun t =>
    if !t.present then .done { present := false, kscale := 0, vscale := 0, rows := [] }
    else (Script.tail c.entry b l j.head).bind (fun tl =>
      (Script.each (List.range tl.count) [] (fun (acc : List (Nat × List KvCode)) r =>
        let va := c.entry.row t.pb l 0 j.head r
        (Script.rowCodes c.entry va).bind (fun cs =>
          (Script.rowTag c.entry va).bind (fun tag =>
            .done (if j.sees c (b * c.entry.rows + r) tag then acc ++ [(r, cs)] else acc))))).bind (fun keys =>
        (Script.each keys [] (fun (acc : List (List KvCode × List KvCode)) k =>
          (Script.rowCodes c.entry (c.entry.row t.pb l 1 j.head k.1)).bind (fun vs =>
            .done (acc ++ [(k.2, vs)])))).bind (fun rows =>
          .done { present := true, kscale := tl.kscale, vscale := tl.vscale, rows := rows }))))

/-- A block read consistently, or after the fifth try as it came; the last part tells whether every try
mismatched (R246). -/
def AttnJob.readTries (j : AttnJob) (c : Call) (b : Nat) (lines : List Nat) : Nat → Script (BlockRead × Bool)
  | 0 => .done ({ present := false, kscale := 0, vscale := 0, rows := [] }, true)
  | n + 1 =>
    (Script.page (c.entry.table b) .load).bind (fun a =>
      (versionsOf (a.line :: lines)).bind (fun w1 =>
        (j.readBlock c b).bind (fun r =>
          if !r.present then .done (r, false)
          else (versionsOf (a.line :: lines)).bind (fun w2 =>
            if w1 = w2 then .done (r, false)
            else if n = 0 then .done (r, true)
            else j.readTries c b lines n))))

/-- The sums with one visible row (R246). -/
def AttnJob.addRow (j : AttnJob) (c : Call) (r : BlockRead) (acc : DWord × List DWord × DWord) (row : List KvCode × List KvCode) :
    DWord × List DWord × DWord :=
  let ks := f32Val r.kscale
  let dot := (c.q.zipWith (fun x k => x.mul (k.val.mul ks)) row.1).foldl FVal.add (.fin false 0 0)
  let e := xexp (f32Mul j.scale (f32Round dot))
  let v (k : KvCode) : Word := f32Round (k.val.mul (f32Val r.vscale))
  (x64Add acc.1 e, acc.2.1.zipWith (fun a k => x64Add a (x64Mul e (x64OfF32 (v k)))) row.2, x64Add acc.2.2 e)

/-- A block is visited (R246): the call with its rows added, or the stop. -/
def AttnJob.visit (j : AttnJob) (c : Call) (b : Nat) : Script (Call × Option AttnStop) :=
  let lines := match c.plan.find? (fun p => p.block = b) with | some p => p.lines.map Prod.fst | none => []
  (inBlock b (j.readTries c b lines 5)).bind (fun x => match x with
    | .error e => .done (c, some e)
    | .ok (r, mismatched) =>
      if !r.present then .done (c, some { status := 2, fblk := b, fault := none })
      else
        let (s, acc, mass) := r.rows.foldl (j.addRow c r) (c.sum, c.acc, 0)
        let c := { c with sum := s, acc := acc, nretry := if mismatched then c.nretry + 1 else c.nretry }
        if (x64Val s).isNan || acc.any (fun a => (x64Val a).isNan) || decide (s = x64Inf false) then
          .done (c, some { status := 5, fblk := b, fault := none })
        else
          .done ({ c with visited := c.visited ++ [b], vcount := c.vcount + 1, masses := c.masses ++ [(b, mass)] }, none))

/-- The blocks whose summaries have moved since the plan (R245); a fault of the check stops the call in the block it looks
at (R240, R247). -/
def movedBlocks (c : Call) : Script (Except AttnStop (List Nat)) :=
  Script.each (c.plan.filter (fun p => !c.visited.contains p.block && !p.fallback)) (.ok [])
    (fun (acc : Except AttnStop (List Nat)) p =>
      match acc with
      | .error e => .done (.error e)
      | .ok ms => andThen (inBlock p.block (versionsOf (p.lines.map Prod.fst))) (fun vs =>
          .done (.ok (if vs = p.lines.map Prod.snd then ms else ms ++ [p.block]))))

/-- The fallback: blocks that moved are bounded by +∞ for the rest of the call. -/
def Call.fallBack (c : Call) (moved : List Nat) : Call :=
  c.reorder (c.plan.map (fun p =>
    if moved.contains p.block then { p with u := some (f32Inf false), fallback := true } else p))

/-- The status with nothing to visit and S not above 0. -/
def idleStatus (s : DWord) : Nat := if (x64Val s).isNan then 5 else if (x64Val s).isZero then 4 else 0

/-- The loop of R245. Each round visits a block, makes one of at most four new plans, or bounds a further block by
+∞, so twice the blocks and a few more rounds always reach a stop. With nothing to visit, a record's S that is no number
stops as `NAN` (log entry 79), and one below 0 as `COMPLETE` (R219). -/
def AttnJob.rounds (j : AttnJob) : Nat → Call → Script (Call × AttnStop)
  | 0, c => .done (c, { status := 4, fblk := noBlock, fault := none })
  | n + 1, c =>
    let t := suffixAt c.order
    let c := { c with t := some t }
    let goOn : Script (Call × AttnStop) :=
      (Script.get .poll).bind (fun a =>
        if a.bytes ≠ [] then .done (c, { status := 3, fblk := noBlock, fault := none })
        else match c.order with
          | [] => .done (c, { status := 4, fblk := noBlock, fault := none })
          | (b, _) :: rest =>
            (j.visit c b).bind (fun r => match r with
              | (c, some e) => .done (c, e)
              | (c, none) => j.rounds n { c with order := rest }))
    if c.order = [] ∧ !sumPos c.sum then
      .done (c, { status := idleStatus c.sum, fblk := noBlock, fault := none })
    else if sumPos c.sum && decide ((massRatio c.sum t).toNat ≤ j.tol.toNat) then
      (movedBlocks c).bind (fun r => match r with
        | .error e => .done (c, e)
        | .ok [] => .done (c, { status := if c.order = [] then 0 else 1, fblk := noBlock, fault := none })
        | .ok moved =>
          let c := { c with replans := c.replans + 1 }
          if 5 ≤ c.replans then j.rounds n (c.fallBack moved)
          else (j.makePlan c).bind (fun r => match r with
            | (c, some e) => .done (c, e)
            | (c, none) => j.rounds n c))
    else goOn

/-! ## The start of a call (R242, R244, R245) -/

/-- The call before it has read anything. -/
def AttnJob.start (j : AttnJob) : Call :=
  { version := 0, dgen := 0, mask := [], entry := .empty, fmt := 0, q := [], total := none
    sum := if j.resume then addrAt j.recHead 16 else 0, acc := [], visited := []
    vcount := if j.resume then fieldAt j.recHead 4 4 else 0, nretry := if j.resume then fieldAt j.recHead 52 4 else 0
    t := none, plan := [], order := [], replans := 0, masses := [], whole := false, hasRecord := true }

/-- 64-bit words of some bytes. -/
def dwordsOf (bs : List Byte) : List DWord := (List.range (bs.length / 8)).map (fun i => addrAt bs (8 * i))

/-- The blocks of a visited bitmap. -/
def blocksOf (n : Nat) (bs : List Byte) : List Nat := (List.range n).filter (fun b => (bs.getD (b / 8) 0).getLsbD (b % 8))

/-- The sums and the visited set at the start of a call over an entry. -/
def Call.over' (c : Call) (e : KvEntry) (acc : List DWord) (visited : List Nat) : Call :=
  { c with entry := e, acc := acc, visited := visited, whole := true }

/-- A record of a call that a fault stopped before it knew its entry: its head is all that was written (R247), and
nothing had been visited (R310; log entry 79). -/
def AttnJob.headOnly (j : AttnJob) : Bool :=
  decide (fieldAt j.recHead 0 4 = 6) && decide (fieldAt j.recHead 4 4 = 0) && decide (fieldAt j.recHead 8 4 = 0) &&
  decide (fieldAt j.recHead 32 4 = noBlock)

/-- The record's sums and visited set, which an `ATTNR` takes (R220). -/
def AttnJob.takeRecord (j : AttnJob) (c : Call) (e : KvEntry) : Script Call :=
  if j.resume && !j.headOnly then
    let body : Script (List Byte) := match j.recBody with
      | some bs => .done bs
      | none => Script.readBytes (j.strec + 64) (recordSize e - 64)
    body.bind (fun bs => .done (c.over' e ((List.range e.hdim).map (fun i => addrAt bs (8 * i)))
      (blocksOf e.btlen (bs.drop (8 * e.hdim)))))
  else .done (c.over' e (List.replicate e.hdim 0) [])

/-- The query (R143, R245): each page agrees with the format named. -/
def AttnJob.readQuery (j : AttnJob) (d : Nat) : Script (List FVal) :=
  let n := (d * fmtBits j.qfmt + 7) / 8
  (Script.each (List.range ((j.qaddr.toNat % 65536 + n - 1) / 65536 + 1)) () (fun _ i =>
    let va := if i = 0 then j.qaddr else j.qaddr - BitVec.ofNat 64 (j.qaddr.toNat % 65536) + BitVec.ofNat 64 (65536 * i)
    (Script.page va .load).bind (fun a => if j.agrees a then .done () else .stop (.fmtbad, va)))).bind (fun _ =>
    (Script.readBytes j.qaddr n).bind (fun bs =>
      .done ((unpackCodes (fmtBits j.qfmt) d bs).map (fun x => (decodeFmt j.qfmt j.qfinite x).1))))

/-- A stage of the start: its fault stops the call outside any block. -/
def stage0 {α : Type} (c : Call) (x : Script α) (f : α → Script (Call × Option AttnStop)) : Script (Call × Option AttnStop) :=
  x.catch'.bind (fun r => match r with
    | .ok a => f a
    | .error e => .done (c, some (.fault6 noBlock e)))

/-- From the sequence record to the first plan. From the KV map entry on the sums and the visited set are known, and a
stop writes them. -/
def AttnJob.begin (j : AttnJob) : Script (Call × Option AttnStop) :=
  stage0 j.start (Script.line0 j.seqrec) (fun r =>
    let c := { j.start with version := r.version, dgen := r.dgen }
    stage0 c (Script.mask (if j.amask = 0 then r.amask else j.amask)) (fun m =>
      let c := { c with mask := m }
      stage0 c (Script.kvFind r.kvmap j.layer kvMost 0 0) (fun e =>
        stage0 c (j.takeRecord c e) (fun c =>
          stage0 { c with hasRecord := false } (Script.pages j.strec (recordSize e) .store) (fun _ =>
            stage0 { c with hasRecord := false } (Script.pages j.outaddr (4 * e.hdim) .store) (fun _ =>
              stage0 c (Script.check (decide (j.head < e.heads)) .bounds) (fun _ =>
                stage0 c (Script.kvPool e) (fun p =>
                  let c := { c with fmt := p.1 }
                  if j.resume ∧ fieldAt j.recHead 0 4 = 5 then
                    .done (c, some { status := 5, fblk := fieldAt j.recHead 32 4, fault := none })
                  else stage0 c (j.readQuery e.hdim) (fun q =>
                    if q.all FVal.finite then
                      let c := { c with q := q, total := some (min ((j.limit + e.rows - 1) / e.rows) e.btlen) }
                      j.makePlan c
                    else .done (c, some { status := 5, fblk := noBlock, fault := none }))))))))))

/-! ## The stop (R239, R243, R247) -/

/-- The output words of a status; none where it writes none. -/
def outputOf (c : Call) (status : Nat) : Option (List Word) :=
  if status ≤ 1 then some (c.acc.map (fun a => x64Ratio a c.sum))
  else if status = 4 then some (List.replicate c.entry.hdim 0)
  else if status = 5 then some (List.replicate c.entry.hdim f32NaN)
  else none

/-- The score table's adds, in visit order (R239); none where neither the descriptor nor the record names one (R223). -/
def AttnJob.addScores (j : AttnJob) (c : Call) : Script Unit :=
  let at' : Script DWord := if j.scores = 0 then (Script.read (j.seqrec + 256) 8).bind (fun b => .done (addrAt b 0)) else .done j.scores
  at'.bind (fun base => if base = 0 then .done () else
    Script.each c.masses () (fun _ m =>
      let va := base + BitVec.ofNat 64 (4 * ((j.layer * c.entry.heads + j.head) * c.entry.btlen + m.1))
      if va.toNat % 4 ≠ 0 then .stop (.align, va)
      else (Script.get (.rmw va 4 false (fun old _ =>
        some (bytesOfWord (f32Add (BitVec.ofNat 32 (leNat old)) (x64Ratio m.2 c.sum)))))).bind (fun _ => .done ())))

/-- The words of the state record (R243). -/
def recordWords (c : Call) (e : AttnStop) (bound : Word) : List Word :=
  let t := c.t.getD (x64Inf false)
  let w (n : Nat) : Word := BitVec.ofNat 32 n
  let two (x : DWord) : List Word := [x.lo, x.hi]
  [w e.status, w c.vcount, w (c.total.getD 0), bound] ++ two c.sum ++ two t ++
  [w e.fblk, w (match e.fault with | some f => f.1.code | none => 0)] ++ two (c.version.zeroExtend 64) ++
  [w c.dgen, w c.nretry, 0, 0] ++
  (if c.whole then
    c.acc.flatMap two ++ (List.range (2 * vmapWords c.entry)).map (fun i =>
      w (((List.range 32).filter (fun b => c.visited.contains (32 * i + b))).foldl (fun s b => s + 2 ^ b) 0))
   else [])

/-- How a call ends: the three result words, and the stop with the faults of its own writes. -/
structure CallEnd where
  words : List Word
  stop : AttnStop

/-- The writes of a stop, in the order of R247, and its end. -/
def AttnJob.finish (j : AttnJob) (c : Call) (e : AttnStop) : Script CallEnd :=
  let bound := if e.status = 5 then f32NaN else if e.status = 4 ∨ e.status = 0 then 0 else stopBound c.sum c.t
  let writes : Script Unit := match outputOf c e.status with
    | none => .done ()
    | some ws => (Script.writeWords j.outaddr ws).bind (fun _ =>
        if j.acc && decide (e.status ≤ 1) then j.addScores c else .done ())
  writes.catch'.bind (fun r =>
    let e := match r with | .ok _ => e | .error f => .fault6 noBlock f
    let write : Script Unit := if c.hasRecord then Script.writeWords j.strec (recordWords c e bound) else .done ()
    write.catch'.bind (fun r =>
      let e := match r with
        | .ok _ => e
        | .error f => if e.status = 6 then e else .fault6 noBlock f
      .done { words := [bound, BitVec.ofNat 32 c.vcount, BitVec.ofNat 32 e.status], stop := e }))

/-- The whole call. -/
def AttnJob.script (j : AttnJob) : Script CallEnd :=
  j.begin.bind (fun r => match r with
    | (c, some e) => j.finish c e
    | (c, none) => (j.rounds (2 * c.total.getD 0 + 8) c).bind (fun r => j.finish r.1 r.2))

/-! ## A call in progress -/

/-- The issuing team is being stopped: the call stops at its next block boundary (R250). -/
def State.attnEng (s : State) (o : Op) (j : AttnJob) : Eng :=
  { s.engOf o j.fn j.priv with
    core := j.core, halt := match s.teams[o.team]? with | some t => decide (t.status ≠ .resident) | none => true }

/-- One access of a call. -/
def State.attnStep (s : State) (o : Op) (j : AttnJob) : State :=
  if !s.engineReady j.core o.id then s
  else match j.script.resume j.log with
    | .ask r _ =>
      if s.away (s.attnEng o j) r then s
      else
        let p := s.answer (s.attnEng o j) r
        p.1.setOpKind o.id (.attn { j with log := j.log ++ [p.2] })
    | _ => s

/-- The cause a stopped call leaves on its flag (R247). -/
def AttnJob.trapOf (j : AttnJob) (e : AttnStop) : Option Trap :=
  match e.fault with
  | some f => some (engineTrap j.core 0 0 3 f)
  | none =>
    if e.status = 5 && j.nanTrap then some { cause := .nanfirst, addr := 0, info := BitVec.ofNat 64 e.fblk } else none

/-- A call runs to its stop. -/
def State.attnEnd (s : State) (id : Nat) : State :=
  match s.op? id with
  | none => s
  | some o => match o.kind with
    | .attn j =>
      if !s.engineReady j.core id || State.scriptAway (s.attnEng o j) (j.script.resume j.log) s then s
      else
        match State.runScript (s.attnEng o j) (j.script.resume j.log) s with
        | (s', .ok r) => s'.completeOpBoth o r.words (j.trapOf r.stop)
        | (s', .error f) => s'.completeOp o [] (some (engineTrap j.core 0 0 3 f))
    | _ => s

/-- `ATTN_STOP` (R247). -/
def execAttnStop (op : Nat) (s : State) : Host.Outcome State Fault Refusal := .next (s.attnEnd op)

end Sys2Proof.Machine
end

