-- ==== Sys2Proof/Machine/Control.lean ====
section
/-!
DEFINITION. Miscellaneous control (R63), branches and calls (R65 to R67), thread settings and sleep (R76 to
R80), and the join registers (R81, R82).
-/

namespace Sys2Proof.Machine

/-! ## MISC -/

/-- `NOP`: none (R63). -/
def execNop (s : State) : Host.Outcome State Fault Refusal := runLanes .nop s (fun _ => .done {})

/-- `EXIT`: each thread leaves its join registers and parks until its flag counters are zero (R11, R63). -/
def execExit (s : State) : Host.Outcome State Fault Refusal :=
  runLanesThen .exit s (fun _ => .done { stay := true, upd := Thread.park .exit }) (fun ls s =>
    (sortBy id (ls.map (fun l => l.th.idx))).foldl
      (fun s j => ((s.leaveBefore s.cur.team j).withdraw s.cur.team j).exitCheck s.cur.team j) s)

/-- A thread that is filed or queued by `REFORM` (R14). -/
def Thread.file (why : Why) (t : Thread) : Thread := { t with st := .filed, why := why }

/-- `REFORM`: the threads arrive at the bins in this cycle (R14); a NOP in TRAPPED (R10). -/
def execReform (s : State) : Host.Outcome State Fault Refusal :=
  runLanesThen .reform s (fun l => .done { upd := if l.privileged then id else Thread.file .none }) (fun ls s =>
    { s with reforms := s.reforms ++ ((ls.filter (fun l => !l.privileged)).map (fun l => (s.cur.team, l.th.idx))) })

/-- `REFORM.B`: the threads enter their home blocks' collectors (R17, R18); a NOP in TRAPPED (R10). -/
def execReformB (s : State) : Host.Outcome State Fault Refusal :=
  runLanesThen .reformB s (fun l => .done { upd := if l.privileged then id else Thread.file .collector }) (fun ls s =>
    (sortBy id ((ls.filter (fun l => !l.privileged)).map (fun l => blockOf l.th.idx)).eraseDups).foldl
      (fun s b => s.collectorCheck s.cur.team b) s)

/-- Some threads' groups count under R28 as ready since this cycle. -/
def Team.yieldGroups (now : Nat) (members : List Nat) (t : Team) : Team :=
  { t with groups := t.groups.map (fun g =>
      if g.members.any (fun j => members.contains j) then { g with since := some now } else g) }

/-- `YIELD`: the group counts under R28 as one that became ready in this cycle (R63). -/
def execYield (s : State) : Host.Outcome State Fault Refusal :=
  runLanesThen .yield s (fun _ => .done {}) (fun ls s =>
    s.modTeam s.cur.team (Team.yieldGroups s.now (ls.map (fun l => l.th.idx))))

/-- `BKPT` (R63). -/
def execBkpt (s : State) : Host.Outcome State Fault Refusal := runLanes .bkpt s (fun _ => .trap (.of .bkpt))

/-! ## Branches and calls -/

/-- The target of a B-format branch: slot 1 of a bundle (R32). -/
def branchTarget (pc : DWord) (disp : BitVec 18) : DWord := bundleOf pc + 16 * disp.signExtend 64 + 4

/-- The link value (R33). -/
def Lane.link (l : Lane) : DWord := nextPc (l.th.sword.getD 0) l.th.pc

/-- A conditional branch. -/
def branchIf (i : Instr) (s : State) (disp : BitVec 18) (c : Lane → Bool) : Host.Outcome State Fault Refusal :=
  runLanes i s (fun l => .done { goto := if c l then some (branchTarget l.th.pc disp) else none })

/-- `BRA` (R65). -/
def execBra (x : BitVec 18) (s : State) : Host.Outcome State Fault Refusal := branchIf (.bra x) s x (fun _ => true)
/-- `BEQZ` (R65). -/
def execBeqz (a : BitVec 7) (x : BitVec 18) (s : State) : Host.Outcome State Fault Refusal :=
  branchIf (.beqz a x) s x (fun l => decide (l.reg a = 0))
/-- `BNEZ` (R65). -/
def execBnez (a : BitVec 7) (x : BitVec 18) (s : State) : Host.Outcome State Fault Refusal :=
  branchIf (.bnez a x) s x (fun l => decide (l.reg a ≠ 0))
/-- `BLTZ` (R65). -/
def execBltz (a : BitVec 7) (x : BitVec 18) (s : State) : Host.Outcome State Fault Refusal :=
  branchIf (.bltz a x) s x (fun l => (l.reg a).msb)
/-- `BGEZ` (R65). -/
def execBgez (a : BitVec 7) (x : BitVec 18) (s : State) : Host.Outcome State Fault Refusal :=
  branchIf (.bgez a x) s x (fun l => !(l.reg a).msb)

/-- `CALL`: the link pair with the latency of the wide class (R65). -/
def execCall (a : BitVec 7) (x : BitVec 18) (s : State) : Host.Outcome State Fault Refusal :=
  runLanes (.call a x) s (fun l =>
    .done { writes := l.wr2 a l.link, lat := 6, goto := some (branchTarget l.th.pc x) })

/-- A target taken from a register (R32). -/
def jumpReg (i : Instr) (s : State) (a : BitVec 7) (w : Lane → List Landing) : Host.Outcome State Fault Refusal :=
  runLanes i s (fun l =>
    let t := l.pair a
    .guard (decide (t.toNat % 4 ≠ 0)) (.atAddr .align t) (.done { writes := w l, lat := 6, goto := some (enterPc t) }))

/-- `JMP` (R67). -/
def execJmp (a : BitVec 7) (s : State) : Host.Outcome State Fault Refusal := jumpReg (.jmp a) s a (fun _ => [])
/-- `RET` (R67). -/
def execRet (a : BitVec 7) (s : State) : Host.Outcome State Fault Refusal := jumpReg (.ret a) s a (fun _ => [])
/-- `CALLR` (R67). -/
def execCallr (d a : BitVec 7) (s : State) : Host.Outcome State Fault Refusal :=
  jumpReg (.callr d a) s a (fun l => l.wr2 d l.link)

/-! ## Thread settings and sleep -/

/-- `WIN` (R76). -/
def execWin (i : BitVec 18) (s : State) : Host.Outcome State Fault Refusal :=
  runLanes (.win i) s (fun _ => .done { writes := [.win i.toNat], lat := 4 })
/-- `PART` (R77). -/
def execPart (i : BitVec 18) (s : State) : Host.Outcome State Fault Refusal :=
  runLanes (.part i) s (fun _ => .done { writes := [.part i.toNat], lat := 4 })
/-- `PRIO`: a class above the launch packet's traps (R28, R78). -/
def execPrio (i : BitVec 18) (s : State) : Host.Outcome State Fault Refusal :=
  runLanes (.prio i) s (fun l =>
    .guard (decide (l.th.lclass < i.toNat)) (.of .priv) (.done { upd := fun th => { th with cls := i.toNat } }))
/-- `SLEEP` (R79): with 0 the thread is `ACTIVE` again in the next cycle. -/
def execSleep (i : BitVec 18) (s : State) : Host.Outcome State Fault Refusal :=
  runLanes (.sleep i) s (fun _ => .done { upd := Thread.doze (.sleep (max 1 i.toNat) (decide (i = 0))) })
/-- `WAITF` (R80). -/
def execWaitf (d : BitVec 7) (i : BitVec 18) (s : State) : Host.Outcome State Fault Refusal :=
  runLanes (.waitf d i) s (fun l =>
    match l.s.translate l.who .load (l.pair d) 1 with
    | .error c => .trap (.atAddr c (l.pair d))
    | .ok (k, _) => .done { upd := Thread.doze (.waitf (l.s.now + i.toNat) (lineOf k) none) })

/-! ## Join registers -/

/-- The register a join number names in the grid's reservation (R81). -/
def Lane.join? (l : Lane) (j : BitVec 7) : Option Join := l.s.join? l.tm.hubset j.toNat

/-- The issuing thread by its team and index. -/
def Lane.me (l : Lane) : Nat × Nat := (l.s.cur.team, l.th.idx)

/-- The thread is enrolled and unsigned at join register n (R8). -/
def Thread.enrol (n : Nat) (t : Thread) : Thread := { t with joinMask := t.joinMask ||| (1#64 <<< n) }
def Thread.unenrol (n : Nat) (t : Thread) : Thread := { t with joinMask := t.joinMask &&& ~~~(1#64 <<< n) }

/-- `JDECL` (R24, R82). On a busy register the thread parks and enrols when it is IDLE. -/
def execJdecl (j a : BitVec 7) (s : State) : Host.Outcome State Fault Refusal :=
  runJoin (.jdecl j a) s (fun _ => false) (fun l =>
    let n := (l.reg a).toNat
    let enrolled : LaneOut := .done { upd := Thread.enrol j.toNat }
    match l.join? j with
    | none => (.trap (.of .joinbad), id)
    | some jn =>
      if n < 1 ∨ 8192 < n then (.trap (.of .joinbad), id)
      else match jn.st with
        | .idle => (enrolled, fun s => s.modJoin l.tm.hubset j.toNat (fun _ =>
            { Join.idle with st := .opened, n := n, enrolled := [l.me], unsigned := [l.me] }))
        | .opened =>
          if n ≠ jn.n ∨ jn.enrolled.contains l.me ∨ jn.enrolled.length = jn.n then (.trap (.of .joinbad), id)
          else (enrolled, fun s => s.modJoin l.tm.hubset j.toNat (fun jn =>
            { jn with enrolled := jn.enrolled ++ [l.me], unsigned := jn.unsigned ++ [l.me] }))
        | _ => (.done { stay := true, upd := Thread.park (.jdecl j.toNat) }, id))

/-- A signature is counted (R24). -/
def Join.sign (jn : Join) (g : Sign) (k : JKind) : Join :=
  { jn with signs := jn.signs ++ [g], unsigned := jn.unsigned.filter (· ≠ (g.team, g.thr)), kind := some k }

/-- `JSIGN` (R24, R82): a HUB-scope release, so it is held until the signer's earlier accesses are in place. -/
def execJsign (j : BitVec 7) (s : State) : Host.Outcome State Fault Refusal :=
  runJoin (.jsign j) s (fun l => !l.quiet) (fun l =>
    let n := j.toNat
    let g : Sign := { team := l.s.cur.team, thr := l.th.idx, col := rankOf l.tm.core * 32 + laneOf l.th.idx, op := 0,
                      flag := 0, base := 0, nanTrap := false, priv := l.privileged }
    match l.join? j with
    | none => (.trap (.of .joinbad), id)
    | some jn =>
      if !jn.unsigned.contains l.me then (.trap (.of .joinbad), id)
      else match jn.st, jn.kind with
        | .drain, _ => (.done {}, fun s => s.leaveJoin s.cur.team l.th.idx l.tm.hubset n)
        | .opened, some (.mma ..) => (.trap (.of .joinbad), id)
        | .opened, _ =>
          (.done { upd := fun th => (th.unenrol n).park (.jsign n) },
           fun s => (s.modJoin l.tm.hubset n (fun jn => jn.sign g .jsign)).joinCheck l.tm.hubset n)
        | _, _ => (.trap (.of .joinbad), id))

/-- `JLEAVE` (R24). -/
def execJleave (j : BitVec 7) (s : State) : Host.Outcome State Fault Refusal :=
  runJoin (.jleave j) s (fun _ => false) (fun l =>
    match l.join? j with
    | none => (.trap (.of .joinbad), id)
    | some jn =>
      if jn.unsigned.contains l.me then
        (.done {}, fun s => s.leaveJoin s.cur.team l.th.idx l.tm.hubset j.toNat)
      else (.trap (.of .joinbad), id))

/-- Every signer of a register is released with outcome CANCELLED, an `MMA`'s flag completes with nothing computed, and
the register is IDLE, or drains while an enrolled thread is unsigned (R24). A round's counters stand while it drains
(R25). -/
def State.cancelJoin (s : State) (hs n : Nat) : State :=
  match s.join? hs n, s.hubsets[hs]? with
  | some jn, some h =>
    let e := s.engine h.hub
    let s := s.setEngine h.hub { e with table := e.table.filter (fun c => c.join ≠ some (hs, n)) }
    let s := s.modJoin hs n (fun jn => { jn with st := .drain, kind := none })
    let s := s.releaseSigners n jn.signs .cancelled
    let s := jn.signs.foldl (fun s g => match s.op? g.op with | some o => s.completeOp o [] none | none => s) s
    if jn.unsigned.isEmpty then s.joinIdle hs n else s
  | _, _ => s

/-- `JCANCEL` (R24, R82). A granted call's register is IDLE again, so a BUSY register's call has not been
granted. -/
def execJcancel (j : BitVec 7) (s : State) : Host.Outcome State Fault Refusal :=
  runJoin (.jcancel j) s (fun _ => false) (fun l =>
    match l.join? j with
    | none => (.trap (.of .joinbad), id)
    | some jn =>
      (.done {}, fun s => if jn.st = .opened ∨ jn.st = .busy then s.cancelJoin l.tm.hubset j.toNat else s))

def JState.code : JState → Nat
  | .idle => 0 | .opened => 1 | .busy => 2 | .drain => 3

def Mine.code : Mine → Nat
  | .none => 0 | .done => 1 | .cancelled => 2 | .withdrawn => 3

/-- The word of R25. -/
def joinWord (jn : Join) (me : Nat × Nat) (mine : Mine) : Word :=
  let open' := decide (jn.st ≠ .idle)
  BitVec.ofNat 32 (jn.st.code * 2 ^ 30 + mine.code * 2 ^ 28 + (if jn.unsigned.contains me then 2 ^ 27 else 0) +
    (if open' then (jn.n - 1) * 2 ^ 14 + (jn.n - jn.signs.length - jn.wd) else 0))

/-- `JSTAT` (R25). -/
def execJstat (d j : BitVec 7) (s : State) : Host.Outcome State Fault Refusal :=
  runLanes (.jstat d j) s (fun l =>
    match l.join? j with
    | none => .trap (.of .joinbad)
    | some jn => .done { writes := l.wr d (joinWord jn l.me (Tab.get l.th.mine j.toNat .none)), lat := 8 })

end Sys2Proof.Machine
end

