-- ==== Sys2Proof/Machine/MemEvents.lean ====
section
/-!
DEFINITION. What the memory side does on its own: the store queue performs its oldest entry (R195, R204), the
Pannier sends an entry (R120 to R122), an operation completes (R43), a walk fills the TLB (R118), a counted line
expires (R110).
-/

namespace Sys2Proof.Machine

/-! ## STORE_PERFORM -/

/-- The queue without the oldest n entries of a core. -/
def dropCore (core : Nat) : Nat → List SqEntry → List SqEntry
  | _, [] => []
  | 0, q => q
  | n + 1, e :: q => if e.core = core then dropCore core n q else e :: dropCore core (n + 1) q

def State.popQueue (s : State) (core n : Nat) : State := { s with sq := dropCore core n s.sq }

/-- The device a release write goes to, when that is another one. -/
def SqEntry.remote (e : SqEntry) : Option Nat :=
  match e.act with
  | .store l _ => if keyOwn l || keyHost l then none else some (keyNode l)
  | _ => none

/-- The thread's writes at other devices let a release go: one to a remote place is sent once they are acknowledged or
were sent earlier to the same device, at any scope; a local one, a host's or a fence of scope DOM or SYS once they are
acknowledged (R202, R203, R215). -/
def State.acksReady (s : State) (e : SqEntry) (scope : Nat) : Bool :=
  match e.remote with
  | some d => !s.unacked.any (fun u => u.team = e.team && u.thr = e.thr && decide (u.dst ≠ d))
  | none => decide (scope < 4) || !s.unacked.any (fun u => u.team = e.team && u.thr = e.thr)

/-- Every access of the thread older than a release has been performed: its reads have read, and its writes elsewhere let
it go. Older entries of the queue are performed already. -/
def State.releaseReady (s : State) (e : SqEntry) (scope : Nat) : Bool :=
  !s.ops.any (fun o => decide (o.id < e.id) && o.involves e.team e.thr &&
    ((o.kind.isRead && !(s.spansOf o e.thr).isEmpty) || (match o.kind with | .hostAtomic .. => true | _ => false))) &&
  s.acksReady e scope

/-- The state in which an entry of the store queue may be performed: older reads of the bytes it writes have taken their
place, and a link goes to its host (R349). Memory that no access reaches is not written. -/
def State.beforeStore (s : State) (e : SqEntry) (loc n : Nat) : Option State :=
  if s.hostAway loc then none
  else if s.unreachable loc then some s else s.beforeWrite (some e.core) e.team e.thr e.id [(loc, n)]

/-- A generic store is performed (R169, R195). -/
def State.performStore (s : State) (e : SqEntry) (loc : Nat) (bs : List Byte) : State :=
  if s.unreachable loc then s
  else ((s.writeMem (some e.core) loc bs).sendRemote e.team e.thr loc).markPassed e.team e.thr e.id

/-- What the operation of a performed store is left with. -/
def State.storeDone (s : State) (e : SqEntry) (loc : Nat) : State :=
  s.setReady e.op [] (if s.unreachable loc then some (.of .mchk) else none)

/-- Two adjacent entries of one thread that write the same bytes may be merged (R204). -/
def SqEntry.mergesWith (e e2 : SqEntry) : Bool :=
  e.team = e2.team && e.thr = e2.thr &&
  (match e.act, e2.act with
   | .store l b, .store l2 b2 => decide (l = l2) && decide (b.length = b2.length)
   | _, _ => false)

/-- The second entry of a merged pair, with its bytes. -/
def State.mergeNext (s : State) (core : Nat) (e : SqEntry) (rest : List SqEntry) : Option (SqEntry × List Byte) :=
  match rest with
  | [] => none
  | e2 :: _ =>
    match e2.act with
    | .store _ bs =>
      if e.mergesWith e2 && decide (s.draw core 4 % 2 = 0) &&
          (match e2.release with | some sc => s.releaseReady e2 sc | none => true) then some (e2, bs) else none
    | _ => none

/-- The reads of an entry come after the older reads of its thread (R196). -/
def State.bindBefore (s : State) (e : SqEntry) : Option State :=
  State.bindAll e.thr (s.olderReads e.team e.thr e.id e.act.reads) s

/-- The same for the lanes of one `ATL`. -/
def State.bindBeforeAll : List SqEntry → State → Option State
  | [], s => some s
  | e :: es, s => (s.bindBefore e).bind (State.bindBeforeAll es)

/-- One lane of a local read or atomic (R92, R93, R167). DESIGN CHOICE (log entry 95): an `ATL` to register space reads and
writes the settled register in one step, so that no write of its owner comes between. -/
def State.performLocal (s : State) (e : SqEntry) : State :=
  match e.act with
  | .localStore loc bs => ((s.localWrite loc bs).markPassed e.team e.thr e.id).setReady e.op [] none
  | .localLoad loc n addr =>
    (match s.localRead loc n with
     | some bs => s.setReady e.op (wordsOf ((n + 3) / 4) bs) none
     | none => s.setReady e.op [] (some (.atAddr .mchk (addr.zeroExtend 64))))
  | .localAtomic loc c d addr =>
    (match s.localRead loc 4 with
     | some bs =>
       let old : Word := BitVec.ofNat 32 (leNat bs)
       ((s.localWrite loc (bytesOfWord (atlWord c old d))).markPassed e.team e.thr e.id).setReady e.op [old] none
     | none => s.setReady e.op [] (some (.atAddr .mchk (addr.zeroExtend 64))))
  | _ => s

/-- A store of the queue is performed, with the adjacent one that it is merged with where the device merges them
(R204). -/
def State.storeNext (s : State) (core : Nat) (e : SqEntry) (rest : List SqEntry) (loc : Nat) (bs : List Byte) : Option State :=
  match s.mergeNext core e rest with
  | some (e2, bs2) => (s.beforeStore e2 loc bs2.length).map (fun s =>
      (((s.popQueue core 2).performStore e2 loc bs2).storeDone e loc).storeDone e2 loc)
  | none => (s.beforeStore e loc bs.length).map (fun s => ((s.popQueue core 1).performStore e loc bs).storeDone e loc)

/-- The lanes of one `ATL` are performed as one run (R93). -/
def State.atlNext (s : State) (core : Nat) (e : SqEntry) (rest : List SqEntry) : Option State :=
  let run := (e :: rest).takeWhile (fun x => x.ins = e.ins)
  (State.bindBeforeAll run s).map (fun s => run.foldl State.performLocal (s.popQueue core run.length))

/-- A read-modify-write of the queue is performed, or goes to a host. -/
def State.rmwNext (s : State) (core : Nat) (e : SqEntry) (loc : Nat) (act : Rmw) (va : DWord) : Option State :=
  (s.bindBefore e).bind (fun s =>
    if s.hostAway loc then none
    else if keyHost loc then some (((s.popQueue core 1).setOpKind e.op (.hostAtomic loc act)).sendHost loc)
    else (s.beforeStore e loc act.size).map (fun s =>
      (((s.popQueue core 1).performRmw core e.team e.thr e.op loc act va).markPassed e.team e.thr e.id).redDone e.op))

/-- A lane of a write entry that has been performed is no longer pending; the entry goes with its last one. -/
def PannierEntry.without (w : Nat) (r : PannierReq) (e : PannierEntry) : Option PannierEntry :=
  if e.id ≠ w then some e
  else
    let rest := e.reqs.erase r
    if rest.isEmpty then none else some { e with reqs := rest }

/-- A lane of a write entry is performed in its place (R121), once the entry has been sent. The entry is one write event:
its first lane is performed after the read entries of its sector that opened before it, steps the version and is sent to a
remote home; the others add their bytes. -/
def State.writeLane (s : State) (e : SqEntry) (w : PannierEntry) (r : PannierReq) (first : Bool) : Option State :=
  if !w.sent then none
  else
    (if first then s.serveReads w.core ((s.readsAhead w).map (fun x => x.id)) else some s).bind (fun s =>
      (s.beforeStore e r.loc r.len).map (fun s =>
        let lost := s.unreachable r.loc
        let s := if lost then s
          else if first then s.performStore e r.loc r.data
          else (State.storeBytes (some e.core) s (r.loc, r.data)).markPassed e.team e.thr e.id
        { s with
          ops := s.ops.map (fun o => Op.serve r.op r.thr r.part (if lost then Op.addGot r.op r.thr r.part none o else o))
          pannier := s.pannier.filterMap (PannierEntry.without w.id r) }))

/-- The scatter lane whose place is next is performed. -/
def State.scatterNext (s : State) (core : Nat) (e : SqEntry) (w : Nat) (first : Bool) : Option State :=
  match s.requestOf e w with
  | some (x, r) => (s.writeLane e x r first).map (fun s => s.popQueue core 1)
  | none => some (s.popQueue core 1)

/-- The store queue of a core performs its oldest entry (R195); none where that has to wait. `begun` are the write entries
of which a lane has just been performed. A scatter's place waits for the Pannier to send its entry (R121), a copy's for its
end. -/
def State.performHead (s : State) (core : Nat) (begun : List Nat) (e : SqEntry) (rest : List SqEntry) : Option State :=
  let held := match e.release with | some sc => !s.releaseReady e sc | none => false
  if held then none
  else match e.act with
    | .store loc bs => s.storeNext core e rest loc bs
    | .localStore .. => some ((s.popQueue core 1).performLocal e)
    | .localLoad .. => (s.bindBefore e).map (fun s => (s.popQueue core 1).performLocal e)
    | .localAtomic .. => s.atlNext core e rest
    | .rmw loc act va => s.rmwNext core e loc act va
    | .scatter w => s.scatterNext core e w (!begun.contains w)
    | .fence _ => some (s.popQueue core 1)
    | .copy => none

/-- The write entries that are partly performed once an entry of the queue is. -/
def State.nowBegun (s : State) (begun : List Nat) (e : SqEntry) : List Nat :=
  match e.act with
  | .scatter w => if s.pannier.any (fun x => x.id = w) then w :: begun else begun.filter (fun b => b ≠ w)
  | _ => begun

/-- The store queue of a core performs its oldest entry, and where that begins a write entry, what follows up to the
entry's last lane, at one moment (R121, log entry 16); none where one of them has to wait. -/
def State.performRun (core : Nat) : Nat → List Nat → State → Option State
  | 0, _, _ => none
  | n + 1, begun, s =>
    match s.queueOf core with
    | [] => none
    | e :: rest => (s.performHead core begun e rest).bind (fun s' =>
        let begun := s'.nowBegun begun e
        if begun.isEmpty then some s' else State.performRun core n begun s')

/-- The store queue of a core performs its oldest entry (R195), unless that has to wait. -/
def State.storePerform (s : State) (core : Nat) : State :=
  (State.performRun core (s.queueOf core).length [] s).getD s

/-- `STORE_PERFORM` (R195). -/
def execStorePerform (core : Nat) (s : State) : Host.Outcome State Fault Refusal := .next (s.storePerform core)

/-! ## PANNIER_SEND -/

/-- The entry has waited its window, or the core's requests press (R120). -/
def State.windowOver (s : State) (e : PannierEntry) : Bool :=
  let mine := s.unsent e.core
  let press := decide (1024 ≤ (mine.map (fun x => x.reqs.length)).sum) && mine.all (fun x => decide (e.born ≤ x.born))
  decide (e.born + e.window ≤ s.now) || press

/-- An issue slot of the core has still to act in this cycle. -/
def State.slotsOpen (s : State) (core : Nat) : Bool :=
  decide (s.mgmt.state ≠ 2) &&
  (s.turns.any (fun t => decide (t.core = core) && !t.left.isEmpty) ||
   s.teams.any (fun t => decide (t.core = core) && t.groups.any (fun g =>
     s.groupReady t g && !s.issued.contains (t.core, g.issueSlot))))

/-- An entry is to be sent: its time has come, the core's requests of the cycle have been accepted, and the entries of its
sector that opened before it have been sent (R120). -/
def State.sendable (s : State) (e : PannierEntry) : Bool :=
  !e.sent && s.windowOver e && !s.slotsOpen e.core &&
  !(s.unsent e.core).any (fun x => decide (x.sector = e.sector) && decide (x.id < e.id))

/-- The entry is sent: it takes no more requests, and the core's issues of the cycle are over. -/
def State.markSent (s : State) (e : PannierEntry) : State :=
  { s.closeCore e.core with pannier := s.pannier.map (fun x => if x.id = e.id then { x with sent := true } else x) }

/-- A sent entry is served, unless that has to wait: a write entry where one of its places is next in the store order. -/
def State.serveEntry (s : State) (e : PannierEntry) : Option State :=
  if e.write then
    match s.queueOf e.core with
    | [] => none
    | h :: _ => if h.act = .scatter e.id then State.performRun e.core (s.queueOf e.core).length [] s else none
  else s.serveReads e.core [e.id]

/-- An entry is sent in its time, and served as soon as nothing keeps it. -/
def State.sendEntry (s : State) (id : Nat) : State :=
  match s.pannier.find? (fun e => e.id = id) with
  | none => s
  | some e =>
    if e.sent then (s.serveEntry e).getD s
    else if s.sendable e then ((s.markSent e).serveEntry e).getD (s.markSent e)
    else s

/-- An entry of the device's own memory must be sent in this cycle (R120). -/
def State.sendsDue (s : State) : Bool := s.pannier.any (fun e => keyOwn (e.sector * 32) && s.sendable e)

/-- `PANNIER_SEND` (R120 to R122). -/
def execPannierSend (entry : Nat) (s : State) : Host.Outcome State Fault Refusal := .next (s.sendEntry entry)

/-! ## OPERATION_COMPLETE -/

/-- A member's part of a completed gather or scatter (R122, R167). -/
def State.completeLane (s : State) (o : Op) (got : List (Nat × Nat × Option (List Byte)))
    (m : Nat × List Nat × LoadForm × DWord) : State :=
  let (j, dst, form, va) := m
  let part (n : Nat) : Option (Option (List Byte)) := (got.find? (fun g => decide (g.1 = j) && decide (g.2.1 = n))).map (fun g => g.2.2)
  let bad := part 0 = some none || part 1 = some none
  let data := ((part 0).getD (some [])).getD []
  let scale : Option Nat := match part 1 with | some (some bs) => some (leNat bs) | _ => none
  let s := s.modThread o.team j (fun th =>
    let th :=
      if bad then { th with held := th.held ++ [({ flag := o.flag, order := o.id, trap := .atAddr .mchk va } : Deferred)] }
      else if dst.isEmpty then th
      else (th.overtake o.ins dst).writeRegs dst (form.result data scale)
    th.flagDown o.flag)
  s.exitCheck o.team j

/-- What completion does beyond the flag: an acquire at HUB scope or wider drops the core's L1 (R109, R216). -/
def State.acquired (s : State) (o : Op) (acq : Option Nat) : State :=
  match acq with
  | some sc => if 1 ≤ sc then s.acquireL1 (s.opCore o) else s
  | none => s

/-- A read takes its place and completes, unless an older one that it follows has to wait. -/
def State.finishRead (s : State) (o : Op) (acq : Option Nat) : State :=
  match s.bind o o.thr with
  | none => s
  | some s' =>
    match s'.op? o.id with
    | some o' => (match o'.kind with
      | .ready ws => (s'.completeOp o' ws o'.trap).acquired o acq
      | _ => s')
    | none => s'

/-- An operation of the core's own completes (R43). -/
def State.operationComplete (s : State) (id : Nat) : State :=
  match s.op? id with
  | none => s
  | some o =>
    match o.kind with
    | .ready ws => s.completeOp o ws o.trap
    | .load _ _ acq _ _ => s.finishRead o acq
    | .ldvs .. | .valid .. | .verr .. => s.finishRead o none
    | .lanes ms [] got => ms.foldl (fun s m => s.completeLane o got m) (s.dropOp id)
    | _ => s

/-! ## PAGE_WALK and RESIDENCY_EXPIRE -/

/-- How many translations a TLB holds (R118). -/
def TlbPlace.size : TlbPlace → Nat
  | .core _ => 256
  | .hub _ => 4096

/-- A TLB with a translation added: an older one of the page is replaced, and the oldest leaves a full one (R118). -/
def State.tlbFill (s : State) (e : TlbEntry) : State :=
  let mine := s.tlb.filter (fun x => decide (x.place = e.place) && !(decide (x.fn = e.fn) && decide (x.page = e.page)))
  { s with tlb := (e :: mine).take e.place.size ++ s.tlb.filter (fun x => decide (x.place ≠ e.place)) }

/-- The walk caches with entries added, older ones of the same places replaced. -/
def State.cacheWalk (s : State) (path : List WalkEntry) : State :=
  { s with walkCache := path ++ s.walkCache.filter (fun x =>
      !path.any (fun e => decide (e.fn = x.fn) && decide (e.level = x.level) && decide (e.index = x.index))) }

/-- A walk fills the walk caches with the non-leaf entries it read, and where it succeeds the core's TLB and
its hub's (R118). Invalid entries are not cached. -/
def State.pageWalk (s : State) (core fn : Nat) (va : DWord) : State :=
  let s' := s.cacheWalk (s.walkPath fn va (s.draw 0 0))
  match s.walk fn va (s.draw 0 0) with
  | .error _ => s'
  | .ok (pte, level) =>
    let e (p : TlbPlace) : TlbEntry := { place := p, fn := fn, page := va.toNat % 2 ^ 52 / 65536, pte := pte, level := level }
    (s'.tlbFill (e (.core core))).tlbFill (e (.hub (hubOf core)))

/-- `PAGE_WALK` (R114 to R118). -/
def execPageWalk (core fn : Nat) (va : DWord) (s : State) : Host.Outcome State Fault Refusal := .next (s.pageWalk core fn va)

/-- A line whose count has reached 0 is invalidated without write-back, which changes no data and no version (R110). -/
def State.expire (s : State) (line : Nat) : State :=
  { s with resid := if Tab.get s.resid line 0 = 1 then Tab.del s.resid line else s.resid }

/-- `RESIDENCY_EXPIRE` (R110). -/
def execResidencyExpire (line : Nat) (s : State) : Host.Outcome State Fault Refusal :=
  .next (s.expire line)

end Sys2Proof.Machine
end

