-- ==== Sys2Proof/Machine/Copy.lean ====
section
/-!
DEFINITION. The copy engines: `COPY`, `BCOPY` and `COPYX` (R177 to R184), scratchpad presence (R104, R105), and
the steps of a copy in progress.
-/

namespace Sys2Proof.Machine

/-! ## Places -/

def CopyEnd.add (e : CopyEnd) (n : Nat) : CopyEnd :=
  match e with
  | .mem va => .mem (va + BitVec.ofNat 64 n)
  | .spad k o => .spad k (o + n)

/-- The place of an end in its 32-byte sector. -/
def CopyEnd.inSector (e : CopyEnd) : Nat :=
  match e with
  | .mem va => va.toNat % 32
  | .spad _ o => o % 32

/-- The chunks of one row, cut at destination sectors. -/
def rowChunks (row : Nat) : Nat → CopyEnd → Nat → Nat → Nat → List CopyChunk
  | 0, _, _, _, _ => []
  | fuel + 1, dst, off, col, n =>
    if n = 0 then []
    else
      let m := min n (32 - dst.inSector)
      { off := off, row := row, col := col, dst := dst, len := m } :: rowChunks row fuel (dst.add m) (off + m) (col + m) (n - m)

/-- The chunks of rows of equal length at a pitch. -/
def copyChunks (dst : CopyEnd) (pitch rows rbytes : Nat) : List CopyChunk :=
  (List.range rows).flatMap (fun i => rowChunks i (rbytes / 32 + 2) (dst.add (i * pitch)) (i * rbytes) 0 rbytes)

/-- The scratchpad lines some chunks write. -/
def chunkLines (cs : List CopyChunk) : List (Nat × Nat) :=
  (cs.filterMap (fun c => match c.dst with | .spad k o => some (k, o / 128) | .mem _ => none)).eraseDups

/-! ## Presence (R104) -/

def State.lineCount (s : State) (p : Nat × Nat) : Nat :=
  match s.teams[p.1]? with
  | some t => Tab.get t.absent p.2 0
  | none => 0

/-- Every target line has room for one more count. -/
def State.linesFit (s : State) (ps : List (Nat × Nat)) : Bool := ps.all (fun p => decide (s.lineCount p < 3))

/-- Lines counted absent once more. -/
def State.raiseLines (s : State) (ps : List (Nat × Nat)) : State :=
  ps.foldl (fun s p => s.modTeam p.1 (fun t => { t with absent := Tab.put t.absent p.2 (Tab.get t.absent p.2 0 + 1) 0 })) s

/-- A line's count falls by one; at zero the lanes that wait for it continue (R91). -/
def State.lowerLine (s : State) (p : Nat × Nat) : State :=
  let s := s.modTeam p.1 (fun t => { t with absent := Tab.put t.absent p.2 (Tab.get t.absent p.2 0 - 1) 0 })
  if s.lineCount p = 0 then s.releaseWhere (fun _ _ th => decide (th.why = .line p.1 p.2)) else s

/-! ## Checks at issue -/

/-- A scratchpad operand over its whole extent (R89, R179, R326). -/
def Lane.spadEnd (l : Lane) (a : DWord) (extent : Nat) : Except Trap CopyEnd :=
  match l.rankTeam (bits a.toNat 22 21) with
  | none => .error (.atAddr .rankbad a)
  | some k =>
    let off := bits a.toNat 20 0
    let size := match l.s.teams[k]? with | some t => t.spadBytes | none => 0
    if 2 ^ 23 ≤ a.toNat ∨ size < off + extent then .error (.atAddr .spadbound a) else .ok (.spad k off)

/-- A source or destination of a copy: the place and the trap it meets. -/
def Lane.copyEnd (l : Lane) (isLocal : Bool) (a : DWord) (extent : Nat) (kind : Access) : CopyEnd × Option Trap :=
  if isLocal then
    match l.spadEnd a extent with
    | .ok e => (e, none)
    | .error t => (.mem a, some t)
  else match l.s.pageOf l.who kind a with
    | .ok _ => (.mem a, none)
    | .error c => (.mem a, some (.atAddr c a))

/-- The first pages of a paged source and destination disagree in format (R179). -/
def Lane.formatsDiffer (l : Lane) (src dst : CopyEnd) : Bool :=
  match src, dst with
  | .mem a, .mem b =>
    (match l.s.pageOf l.who .load a, l.s.pageOf l.who .store b with
     | .ok p, .ok q => decide (p.fmt ≠ 0) && decide (q.fmt ≠ 0) && !(decide (p.fmt = q.fmt) && decide (p.dom = q.dom))
     | _, _ => false)
  | _, _ => false

/-- A control block or descriptor of n bytes at an address aligned to n. -/
def Lane.block (l : Lane) (a : DWord) (n align : Nat) : Except Trap (List Byte) :=
  if a.toNat % align ≠ 0 then .error (.atAddr .align a) else l.runScript (Script.read a n)

/-- What a copy's issue gives: what it writes, from what, and how many bytes. -/
structure CopyPlan where
  src : CopySrc
  chunks : List CopyChunk
  total : Nat

/-- The checks of R178 and R179 on a control block. DESIGN CHOICE (log entry 97): where source and destination meet one
cause, `TRAPADDR` is the source's. -/
def Lane.copyPlan (l : Lane) (cb : List Byte) : Except Trap CopyPlan :=
  let rows := fieldAt cb 16 4
  let rbytes := fieldAt cb 20 4
  let spitch := fieldAt cb 24 4
  let dpitch := fieldAt cb 28 4
  let w := fieldAt cb 32 4
  let src := l.copyEnd (w.testBit 0) (addrAt cb 0) (spitch * (rows - 1) + rbytes) .load
  let dst := l.copyEnd (w.testBit 1) (addrAt cb 8) (dpitch * (rows - 1) + rbytes) .store
  match firstTrap [
      when' (decide (bits w 31 2 ≠ 0) || (cb.drop 36).any (· ≠ 0) || decide (rows < 1) || decide (65536 < rows) ||
        decide (rbytes < 1) || decide (16777216 < rbytes) || decide (2 ^ 31 < rows * rbytes)) (.of .bounds),
      src.2, dst.2, when' (l.formatsDiffer src.1 dst.1) (.of .fmtbad)] with
  | some t => .error t
  | none => .ok { src := .rows src.1 spitch rbytes, chunks := copyChunks dst.1 dpitch rows rbytes, total := rows * rbytes }

/-- The checks of R184 on a control block. Of several addresses that meet one cause the first source's is reported, and the
destination's last (log entry 97). -/
def Lane.xorPlan (l : Lane) (cb : List Byte) : Except Trap CopyPlan :=
  let n := bits (fieldAt cb 12 4) 3 0
  let bytes := fieldAt cb 8 4
  let w := fieldAt cb 12 4
  let all := (List.range 8).map (fun i => addrAt cb (16 + 8 * i))
  let srcs := all.take n
  let dst := l.copyEnd (w.testBit 8) (addrAt cb 0) bytes .store
  match firstTrap ([
      when' (decide (bits w 7 4 ≠ 0) || decide (bits w 31 9 ≠ 0) || (cb.drop 80).any (· ≠ 0) || decide (n < 2) ||
        decide (8 < n) || decide (bytes < 32) || decide (16777216 < bytes) || decide (bytes % 32 ≠ 0) ||
        (all.drop n).any (· ≠ 0)) (.of .bounds),
      when' (decide ((addrAt cb 0).toNat % 32 ≠ 0)) (.atAddr .align (addrAt cb 0))] ++
      srcs.map (fun a => when' (decide (a.toNat % 32 ≠ 0)) (.atAddr .align a)) ++
      srcs.map (fun a => (l.copyEnd false a bytes .load).2) ++ [dst.2] ++
      srcs.map (fun a => when' (l.formatsDiffer (.mem a) dst.1) (.of .fmtbad))) with
  | some t => .error t
  | none => .ok { src := .xor srcs, chunks := copyChunks dst.1 bytes 1 bytes, total := bytes }

/-- The operation of a copy. -/
def State.copyOp (s : State) (l : Lane) (id : Nat) (f : BitVec 4) (obj : Option Nat) (members : List Nat) (cb : CopyBlock)
    (p : CopyPlan) : Op :=
  { id := id, ins := id, team := s.cur.team, thr := l.th.idx, flag := f.toNat, dst := [], trap := none, passed := [], seen := []
    ldvs := false
    kind := .copy { block := cb, fn := l.tm.fn, priv := l.privileged, unit := s.draw (laneOf l.th.idx) 5 % 2, obj := obj
                    members := members, src := p.src, total := p.total, all := p.chunks, todo := p.chunks, cache := []
                    lines := chunkLines p.chunks } }

/-- The place of a copy in the store queue of its core (R195). -/
def State.copyPlace (s : State) (o : Op) (core : Nat) : State :=
  { s with sq := s.sq ++ [({ id := o.id, ins := o.ins, core := core, team := o.team, thr := o.thr, op := o.id, release := none
                             act := .copy } : SqEntry)] }

/-- A copy enters the engine: it takes its place in the store order (R180, R195), its lines are counted absent
(R104), and what its issue reads has been read. -/
def State.startCopy (s : State) (o : Op) (l : Lane) (keys : List Nat) : State :=
  let s := { s with ops := s.ops ++ [o], nextId := s.nextId + 1 }
  let s := match o.kind with | .copy j => s.raiseLines j.lines | _ => s
  (s.copyPlace o l.tm.core).noteKeys l.tm.core o.id keys

/-- `COPY` and `COPYX`: one operation for each member. A member whose target lines have no room is held (R104). DESIGN
CHOICE (log entry 96): the members' copies take their places in the store order one after another, in ascending index.
-/
def copyLanes (i : Instr) (a b : BitVec 7) (f : BitVec 4) (n : Nat) (cb : DWord → CopyBlock)
    (plan : Lane → List Byte → Except Trap CopyPlan) (s : State) : Host.Outcome State Fault Refusal :=
  let outcome (l : Lane) : Except Trap (Option Nat × CopyPlan) :=
    match l.barrierWord (l.reg b) with
    | .error t => .error t
    | .ok obj => match l.block (l.pair a) n 64 with
      | .error t => .error t
      | .ok bs => match plan l bs with
        | .error t => .error t
        | .ok p => .ok (obj, p)
  let reads (l : Lane) : Script (List Byte) := Script.read (l.pair a) n
  runSeq i s (fun l => l.waitsToRead || l.scriptAway (reads l)) (fun l =>
    match outcome l with
    | .error t => (.trap t, id)
    | .ok (obj, p) =>
      if !l.s.linesFit (chunkLines p.chunks) then (.hold, id)
      else (.done { flag := f.toNat }, fun s =>
        s.startCopy (s.copyOp l s.nextId f obj [l.th.idx] (cb (l.pair a)) p) l (l.scriptKeys (reads l))))

/-- `COPY` (R177 to R180). -/
def execCopy (a b : BitVec 7) (f : BitVec 4) (s : State) : Host.Outcome State Fault Refusal :=
  copyLanes (.copy a b f) a b f 64 .copy Lane.copyPlan s

/-- `COPYX` (R184). -/
def execCopyx (a b : BitVec 7) (f : BitVec 4) (s : State) : Host.Outcome State Fault Refusal :=
  copyLanes (.copyx a b f) a b f 128 .copyx Lane.xorPlan s

/-! ## BCOPY (R182, R183) -/

/-- A check's trap stops a script where it counts. -/
def Script.permit {α : Type} (x : Except Trap α) (counts : Trap → Bool) : Script Unit :=
  match x with
  | .ok _ => .done ()
  | .error t => if counts t then .stop (t.cause, t.addr) else .done ()

/-- What the issue of a `BCOPY` reads: its descriptor, the KV map entry it names, the pool page; each structure's
conditions before the next is read, and the destination's extent, which the page's format gives, with those of the page
(R62, R183). `room` is the destination's check over an extent. Bit 23 of DLOC is a field that must be 0 (DESIGN CHOICE, log
entry 76). -/
def bcopyScript (a : DWord) (room : DWord → Nat → Except Trap CopyEnd) (idx : List Word) :
    Script (List Byte × KvEntry × Nat × CopyEnd) :=
  (Script.read a 64).bind (fun d =>
    let dloc := BitVec.ofNat 64 (fieldAt d 16 4)
    (Script.check (decide (fieldAt d 12 4 < 2) && decide (bits (fieldAt d 16 4) 31 23 = 0) && (d.drop 20).all (· = 0)) .bounds).bind
      (fun _ => (Script.permit (room dloc 0) (fun t => decide (t.cause = .rankbad))).bind (fun _ =>
        (Script.readBytes (addrAt d 0) 64).bind (fun eb =>
          let e := KvEntry.ofBytes eb 0
          (Script.check (e.valid && decide (fieldAt d 8 2 < e.layers) && decide (fieldAt d 10 2 < e.heads) &&
            idx.all (fun i => decide (i.toNat < e.btlen))) .bounds).bind (fun _ =>
            (Script.page e.pool .load).bind (fun g =>
              let dst := room dloc (idx.length * e.rows * (e.rbytes g.fmt + 4))
              (Script.permit dst (fun _ => decide (1 ≤ g.fmt) && decide (g.fmt ≤ 24))).bind (fun _ =>
                (Script.check (e.poolOk g) .fmtbad).bind (fun _ => .done (d, e, g.fmt, dst.toOption.getD (.mem dloc))))))))))

/-- The issue reads of a lane's `BCOPY`. -/
def Lane.blockScript (l : Lane) (a : DWord) (idx : List Word) : Script (List Byte × KvEntry × Nat × CopyEnd) :=
  bcopyScript a l.spadEnd idx

/-- What the whole group's `BCOPY` copies, from its descriptor and the indices of the present lanes. -/
def Lane.blockPlan (l : Lane) (a : DWord) (idx : List Word) : Except Trap CopyPlan :=
  if a.toNat % 64 ≠ 0 then .error (.atAddr .align a)
  else match l.runScript (l.blockScript a idx) with
    | .error t => .error t
    | .ok (d, e, fmt, dst) =>
      let n := e.rbytes fmt + 4
      let rows := idx.length * e.rows
      .ok { src := .blocks (idx.map (fun i => e.table i.toNat)) e.pool
              (fieldAt d 8 2 * e.lstr + fieldAt d 12 4 * e.tstr + fieldAt d 10 2 * e.hstr) e.blkb e.rstr e.lgrows fmt n
            chunks := copyChunks dst n rows n, total := rows * n }

/-- The same with the barrier word; its conditions trap in every member. -/
def bcopyPlan (l : Lane) (a b : BitVec 7) (idx : List Word) : Except Trap (Option Nat × CopyPlan) :=
  match l.barrierWord (l.reg b) with
  | .error t => .error t
  | .ok obj => (l.blockPlan (l.pair a) idx).map (fun p => (obj, p))

/-- The members that take part in an instruction of the whole group (R61). -/
def partnersOf (fm : Form) (s : State) : List Lane :=
  match s.issuer with
  | none => []
  | some (_, ls) => ls.filter (fun l => (l.check fm).isNone)

/-- `BCOPY`: one operation for the issuing group, counted on every member's flag (R182, R183). -/
def execBcopy (d a b : BitVec 7) (f : BitVec 4) (s : State) : Host.Outcome State Fault Refusal :=
  let ps := partnersOf (instrForm (.bcopy d a b f)) s
  let plan : Except Trap (Option Nat × CopyPlan) := match ps with
    | [] => .error (.of .illop)
    | l :: _ => bcopyPlan l a b (ps.map (fun m => m.reg d))
  runLanesThen (.bcopy d a b f) s (fun l =>
    if ps.any Lane.waitsToRead || l.scriptAway (l.blockScript (l.pair a) (ps.map (fun m => m.reg d))) then .hold
    else match plan with
      | .error t => .trap t
      | .ok (_, p) => if l.s.linesFit (chunkLines p.chunks) then .done { flag := f.toNat } else .hold)
    (fun ls s => match ls, plan with
      | l :: _, .ok (obj, p) => s.startCopy (s.copyOp l s.nextId f obj (ls.map (fun m => m.th.idx))
          (.bcopy (l.pair a) (ls.map (fun m => m.reg d))) p) l
          (l.scriptKeys (l.blockScript (l.pair a) (ls.map (fun m => m.reg d))))
      | _, _ => s)

/-! ## A copy in progress -/

/-- A byte of a source: a sector, and the place in it. Scratchpad sectors are numbered above memory's. -/
abbrev SrcByte := Nat × Nat

def spadSectors : Nat := 2 ^ 64

def spadSector (team off : Nat) : Nat := spadSectors + team * 2 ^ 20 + off / 32

/-- The bytes of a source sector, none for poisoned ones. -/
def State.srcSector (s : State) (c : Nat) : List (Option Byte) :=
  if c < spadSectors then (List.range 32).map (fun i => if s.poisoned (c * 32 + i) 1 then none else some (s.byte (c * 32 + i)))
  else match s.teams[(c - spadSectors) / 2 ^ 20]? with
    | some t =>
      let o := (c - spadSectors) % 2 ^ 20 * 32
      (List.range 32).map (fun i => if t.spadPoison.contains (o + i) then none else some (memByte t.spad (o + i)))
    | none => []

/-- What hinders a chunk: an absent line, a host to which no link goes (R349), or a fault with its offset in destination
bytes (R181). -/
inductive Hindrance where
  | absent
  | fault (f : EngFault) (offset : Nat)

/-- What met place i of a read is reported at an offset that depends on it. -/
abbrev PlaceFault := Nat × EngFault

/-- n source bytes from a generic address, on pages that agree with a check; a fault with its place. -/
def State.srcMem (s : State) (e : Eng) (va : DWord) (n : Nat) (ok : Leaf → Bool) : Except PlaceFault (List SrcByte) :=
  (List.range n).foldlM (fun (acc : List SrcByte) i =>
    let a := va + BitVec.ofNat 64 i
    match s.translate (e.who false) .load a 1 with
    | .error c => .error (i, s.engFault (e.who false) .load (c, a))
    | .ok (k, leaf) => if ok leaf then .ok (acc ++ [(sectorOf k, k % 32)]) else .error (i, (.fmtbad, a))) []

/-- A scratchpad line that an operation waits for: one that another copy is still bringing in (R105), but for a later one
of its core, which comes after it in the store order (R195; log entry 39). -/
def State.lineAbsent (s : State) (e : Eng) (p : Nat × Nat) : Bool :=
  s.ops.any (fun o => match o.kind with
    | .copy j => decide (o.id ≠ e.id) && j.lines.contains p && !(decide (s.opCore o = e.core) && decide (e.id < o.id))
    | _ => false)

/-- n source bytes from an end. -/
def State.srcEnd (s : State) (e : Eng) (src : CopyEnd) (n : Nat) (ok : Leaf → Bool) : Except PlaceFault (List SrcByte) :=
  match src with
  | .mem va => s.srcMem e va n ok
  | .spad k o => .ok ((List.range n).map (fun i => (spadSector k (o + i), (o + i) % 32)))

/-- A source end lies in scratchpad lines that are waited for, or at a host to which no link goes. -/
def State.srcAbsent (s : State) (e : Eng) (src : CopyEnd) (n : Nat) : Bool :=
  match src with
  | .mem va => s.placesAway (e.who false) .load va n
  | .spad k o => (linesOf o n).any (fun x => s.lineAbsent e (k, x))

/-- A cache of source sectors. -/
abbrev SrcCache := List (Nat × List (Option Byte))

/-- Rows of a source at a pitch: the first one, its length, and how many there are. -/
structure SrcRows where
  first : CopyEnd
  len : Nat
  pitch : Nat
  count : Nat

def CopyEnd.place (e : CopyEnd) : Nat :=
  match e with
  | .mem va => va.toNat
  | .spad _ o => o

/-- One of the rows takes the byte at a place. -/
def SrcRows.uses (r : SrcRows) (x : Nat) : Bool :=
  let d := x - r.first.place
  let i := if r.pitch = 0 then 0 else min (d / r.pitch) (r.count - 1)
  decide (r.first.place ≤ x) && decide (d - i * r.pitch < r.len)

/-- Source bytes from a place on, with the cache of the sectors already read: each sector is read once (R179), and its read
supplies every byte that the rows use of it. A poisoned byte has the place of the read that met it. -/
def State.fetchSrc (s : State) (cache : SrcCache) (rows : SrcRows) (x : Nat) (bs : List SrcByte) :
    Except PlaceFault (List Byte × SrcCache) :=
  let new := ((bs.map Prod.fst).eraseDups.filter (fun c => !cache.any (fun x => decide (x.1 = c)))).map (fun c => (c, s.srcSector c))
  let cache := cache ++ new
  let got : List (Option Byte) := bs.map (fun b => (((cache.find? (fun y => decide (y.1 = b.1))).map Prod.snd).getD []).getD b.2 none)
  let poisoned := new.filterMap (fun y =>
    let i := bs.findIdx (fun b => decide (b.1 = y.1))
    let start := x + i - ((bs[i]?).map Prod.snd).getD 0
    if (List.range 32).any (fun n => (y.2.getD n none).isNone && rows.uses (start + n)) then some i else none)
  let i := poisoned.foldl min (got.findIdx Option.isNone)
  if i < bs.length then .error (i, (.mchk, 0)) else .ok (got.map (fun b => b.getD 0), cache)

/-- n bytes of a source row, the first of `rows`, from a column on: each sector that holds one of them is read for all the
rows. `off` is the row's offset in destination bytes; a fault has the offset of the lowest byte that its sector supplies
(R181). -/
def State.srcRow (s : State) (e : Eng) (cache : SrcCache) (rows : SrcRows) (off col n : Nat) (ok : Leaf → Bool) :
    Except Hindrance (List Byte × SrcCache) :=
  let row := rows.first
  let lowest (p : Nat) : Nat := p - min p ((row.add p).inSector)
  let lo := lowest col
  let last := col + n - 1
  let hi := min rows.len (last - (row.add last).inSector + 32)
  if s.srcAbsent e (row.add lo) (hi - lo) then .error .absent
  else match (s.srcEnd e (row.add lo) (hi - lo) ok).bind (fun bs => s.fetchSrc cache rows (row.add lo).place bs) with
    | .error (i, f) => .error (.fault f (off + lowest (lo + i)))
    | .ok (bs, cache) => .ok ((bs.drop (col - lo)).take n, cache)

/-- A page that agrees in format with the destination's (R179). -/
def agrees (dst : Option Leaf) (p : Leaf) : Bool :=
  match dst with
  | none => true
  | some q => decide (p.fmt = 0) || decide (q.fmt = 0) || (decide (p.fmt = q.fmt) && decide (p.dom = q.dom))

/-- A page of a pool whose elements have the width of its first page's (R228; log entry 77). -/
def poolPage (fmt : Nat) (p : Leaf) : Bool :=
  decide (1 ≤ p.fmt) && decide (p.fmt ≤ 24) && decide (p.geo = 3) && decide (fmtBits p.fmt = fmtBits fmt)

/-- The bytes of one chunk, and the sectors read by then. -/
def State.chunkBytes (s : State) (e : Eng) (j : CopyJob) (c : CopyChunk) (dst : Option Leaf) :
    Except Hindrance (List Byte × SrcCache) := do
  match j.src with
  | .zeros =>
    if dst.all (fun p => decide (p.fmt = 25) && decide (p.geo ≠ 1) && decide (p.geo ≠ 2)) then .ok (List.replicate c.len 0, j.cache)
    else .error (.fault (.fmtbad, 0) c.off)
  | .rows start pitch len =>
    s.srcRow e j.cache { first := start.add (c.row * pitch), len := len, pitch := pitch, count := j.total / len - c.row }
      (c.off - c.col) c.col c.len (agrees dst)
  | .xor srcs =>
    srcs.foldlM (fun (acc : List Byte × SrcCache) a => do
      let r ← s.srcRow e acc.2 { first := .mem a, len := j.total, pitch := 0, count := 1 } 0 c.off c.len (agrees dst)
      .ok (acc.1.zipWith (· ^^^ ·) r.1, r.2)) (List.replicate c.len 0, j.cache)
  | .blocks entries pool inner blkb rstr lgrows fmt len =>
    let b := c.row / 2 ^ lgrows
    let first := b * 2 ^ lgrows * len
    let entry := entries.getD b 0
    if s.srcAbsent e (.mem entry) 8 then .error .absent
    else match (s.srcMem e entry 8 (fun _ => true)).bind (fun bs =>
        s.fetchSrc j.cache { first := .mem entry, len := 8, pitch := 0, count := 1 } entry.toNat bs) with
    | .error (_, f) => .error (.fault f first)
    | .ok (w, cache) =>
      let x := leNat w
      if bits x 63 35 ≠ 0 then .error (.fault (.bounds, 0) first)
      else if bits x 32 32 = 0 then .error (.fault (.notpres, 0) first)
      else
        let row := pool + BitVec.ofNat 64 (bits x 31 0 * blkb + inner + c.row % 2 ^ lgrows * rstr)
        s.srcRow e cache { first := .mem row, len := len, pitch := rstr, count := 2 ^ lgrows - c.row % 2 ^ lgrows }
          (c.off - c.col) c.col c.len (poolPage fmt)

/-- A local access that has taken its place still touches a scratchpad line. -/
def State.lineInQueue (s : State) (p : Nat × Nat) : Bool :=
  s.sq.any (fun q => match q.act with
    | .localStore (.spad k o) bs => decide (k = p.1) && (linesOf o bs.length).contains p.2
    | .localLoad (.spad k o) n _ => decide (k = p.1) && (linesOf o n).contains p.2
    | .localAtomic (.spad k o) _ _ _ => decide (k = p.1) && decide (o / 128 = p.2)
    | _ => false)

/-- The job with a chunk written. -/
def CopyJob.wrote (j : CopyJob) (c : CopyChunk) (cache : SrcCache) : CopyJob :=
  { j with todo := j.todo.erase c, cache := cache }

/-- The sectors a job has read count as reads of their lines (R110). -/
def State.noteCache (s : State) (id : Nat) (cache : SrcCache) : State :=
  (((cache.filter (fun c => decide (c.1 < spadSectors))).map (fun c => c.1 / 4)).eraseDups).foldl (fun s x => s.noteRead id x) s

/-- The L1 copies that a copy's writes update: none, but an `ACCZ` is no copy (R180, R291). -/
def CopyJob.l1 (j : CopyJob) (core : Nat) : Option Nat := match j.src with | .zeros => some core | _ => none

/-- One chunk is written. -/
def State.writeChunk (s : State) (o : Op) (j : CopyJob) (c : CopyChunk) : Except Hindrance (State × CopyJob) := do
  let e := s.engOf o j.fn j.priv
  match c.dst with
  | .mem va =>
    if s.placesAway (e.who false) .store va c.len then .error .absent
    else match s.translate (e.who false) .store va c.len with
    | .error x => .error (.fault (s.engFault (e.who false) .store (x, va)) c.off)
    | .ok (k, leaf) =>
      let (bs, cache) ← s.chunkBytes e j c (some leaf)
      let j' := j.wrote c cache
      .ok ((((s.noteCache o.id cache).engineWrite e (j.l1 e.core) [(k, bs)]).setOpKind o.id (.copy j')), j')
  | .spad k off =>
    if s.lineInQueue (k, off / 128) then .error .absent
    else
      let (bs, cache) ← s.chunkBytes e j c none
      let j' := j.wrote c cache
      .ok ((((s.noteCache o.id cache).localWrite (.spad k off) bs).setOpKind o.id (.copy j')), j')

/-- The sequence record in whose bytes a destination lies (R224). -/
def State.recordAt (s : State) (fn : Nat) (va : DWord) : Option Nat :=
  let base := (s.space fn).sqbase.toNat
  if base ≤ va.toNat ∧ va.toNat < base + (s.space fn).sqlen.toNat then some ((va.toNat - base) / 512) else none

/-- A chunk of a sequence record some of whose protected bytes the copy has still to meet: nothing is written to that
record (R224). -/
def State.spares (s : State) (j : CopyJob) (c : CopyChunk) : Bool :=
  match c.dst with
  | .mem va =>
    !j.priv && (s.recordAt j.fn va).isSome && !s.seqProtected j.fn va c.len &&
    j.todo.any (fun d => match d.dst with
      | .mem vb => decide (s.recordAt j.fn vb = s.recordAt j.fn va) && s.seqProtected j.fn vb d.len
      | .spad .. => false)
  | .spad .. => false

/-- Chunks written in order, until one is hindered. -/
def State.writeChunks (o : Op) : List CopyChunk → CopyJob → State → State × CopyJob × Option (CopyChunk × Hindrance)
  | [], j, s => (s, j, none)
  | c :: cs, j, s =>
    if s.spares j c then State.writeChunks o cs j s
    else match s.writeChunk o j c with
    | .ok (s', j') => State.writeChunks o cs j' s'
    | .error h => (s, j, some (c, h))

/-- A copy may go on to its end: it is in its place in the store order, and its team is resident. One of a team that has
been stopped finishes only when 64 KiB or fewer remain (R180, R329), an `ACCZ` always (R293). -/
def State.copyReady (s : State) (o : Op) (j : CopyJob) : Bool :=
  s.engineReady (s.opCore o) o.id &&
  (match s.teams[o.team]? with
   | some t => decide (t.status = .resident) || !j.stops
   | none => false)

/-- The chunks that a copy may write: of one that is being stopped, those up to the next 32-byte boundary of its
destination (R329). -/
def State.copyWork (s : State) (o : Op) (j : CopyJob) : List CopyChunk :=
  if s.copyReady o j then j.todo
  else if s.engineReady (s.opCore o) o.id && j.midSector then
    j.todo.takeWhile (fun c => (j.todo.head?.map (fun d => d.dst.sector)) = some c.dst.sector)
  else []

/-- A copy that has come to the boundary where it stops gives up its place in the store order. -/
def State.haltCopy (s : State) (id : Nat) : State :=
  match s.op? id with
  | none => s
  | some o => match o.kind with
    | .copy j =>
      let stopped := match s.teams[o.team]? with | some t => decide (t.status ≠ .resident) | none => false
      if stopped && j.halts then { s with sq := s.sq.filter (fun e => !(decide (e.act = .copy) && decide (e.op = id))) }
      else s
    | _ => s

/-- The flag of each of some threads completes, with a cause or without. -/
def State.completeAll (s : State) (o : Op) (members : List Nat) (trap : Option Trap) : State :=
  members.foldl (fun s j =>
    let s := s.modThread o.team j (fun th =>
      let th := match trap with
        | some t => { th with held := th.held ++ [({ flag := o.flag, order := o.id, trap := t } : Deferred)] }
        | none => th
      th.flagDown o.flag)
    s.exitCheck o.team j) (s.dropOp o.id)

/-- Every byte of a copy has been written: the remaining lines are present, the flag completes and the bytes are
counted (R96, R177). -/
def State.finishCopy (s : State) (o : Op) (j : CopyJob) : State :=
  let s := j.lines.foldl State.lowerLine s
  let s := s.completeAll o j.members none
  match j.obj with
  | some b => s.barCount o.team b j.total
  | none => s

/-- The engine of R323: an `ACCZ` is the matrix engine's. -/
def CopyJob.engineNo (j : CopyJob) : Nat := match j.src with | .zeros => 2 | _ => 1

/-- A copy that has met a fault: its lines are lowered as though their bytes had arrived, nothing is counted, and
`ENGFAULT` is held on the flag (R181). -/
def State.faultCopy (s : State) (o : Op) (j : CopyJob) (f : EngFault) (offset : Nat) : State :=
  let s := j.lines.foldl State.lowerLine s
  s.completeAll o j.members (some (engineTrap (s.opCore o) offset j.unit j.engineNo f))

/-- `COPY_COMPLETE`: every destination byte that is left is written, and the operation ends unless one is
hindered (R177). -/
def State.copyComplete (s : State) (id : Nat) : State :=
  match s.op? id with
  | none => s
  | some o => match o.kind with
    | .copy j =>
      if !s.copyReady o j then s
      else match State.writeChunks o j.todo j s with
        | (s', j', none) => s'.finishCopy o j'
        | (s', _, some _) => s'
    | _ => s

/-- The operation is an `ACCZ`, which completes as an operation and not as a copy (R263). -/
def State.isZeroing (s : State) (id : Nat) : Bool :=
  match s.op? id with
  | some o => (match o.kind with | .copy j => (match j.src with | .zeros => true | _ => false) | _ => false)
  | none => false

def execCopyComplete (op : Nat) (s : State) : Host.Outcome State Fault Refusal :=
  .next (if s.isZeroing op then s else s.copyComplete op)

/-- `COPY_FAULT`: the rows before the one that faults are written, and the operation ends (R181). -/
def State.copyFault (s : State) (id : Nat) : State :=
  match s.op? id with
  | none => s
  | some o => match o.kind with
    | .copy j =>
      match State.writeChunks o (s.copyWork o j) j s with
        | (s', j', some (_, .fault f n)) => s'.faultCopy o j' f n
        | (s', _, _) => s'.haltCopy id
    | _ => s

def execCopyFault (op : Nat) (s : State) : Host.Outcome State Fault Refusal :=
  .next (if s.isZeroing op then s else s.copyFault op)

/-- A copy takes one step of its own: one chunk. -/
def State.copyStep (s : State) (o : Op) (j : CopyJob) : State :=
  (State.writeChunks o (((s.copyWork o j).filter (fun c => !s.spares j c)).take 1) j s).1.haltCopy o.id

/-- `SCRATCHPAD_LINE_ARRIVAL`: the copy's bytes of a line have arrived, its count falls, and the lanes that wait
for it continue (R91, R104). -/
def State.lineArrival (s : State) (id team line : Nat) : State :=
  match s.op? id with
  | none => s
  | some o => match o.kind with
    | .copy j =>
      if !s.copyReady o j || !j.lines.contains (team, line) then s
      else
        let mine := j.todo.filter (fun c => match c.dst with | .spad k off => decide (k = team) && decide (off / 128 = line) | .mem _ => false)
        match State.writeChunks o mine j s with
        | (s', j', none) => (s'.setOpKind id (.copy { j' with lines := j'.lines.erase (team, line) })).lowerLine (team, line)
        | (_, _, some _) => s
    | _ => s

def execScratchpadLineArrival (op team line : Nat) (s : State) : Host.Outcome State Fault Refusal :=
  .next (s.lineArrival op team line)

/-! ## A copy restored (R177, R329) -/

/-- The copy's thread with the privilege it had at issue. -/
def State.jobLane (s : State) (o : Op) (j : CopyJob) : Option Lane :=
  match s.teams[o.team]? with
  | none => none
  | some tm => (s.laneFor tm o.thr).map (fun l => { l with
      s := { s with cur := { s.cur with team := o.team } }
      th := { l.th with st := if j.priv then .trapped else .active } })

/-- What a copy that has been stopped makes of its control block, read again. -/
def Lane.replan (l : Lane) : CopyBlock → Except EngFault (Option CopyPlan)
  | .copy cb => (match l.block cb 64 64 with
    | .error t => .error (l.s.engFault l.who .load (t.cause, t.addr))
    | .ok bs => .ok (l.copyPlan bs).toOption)
  | .copyx cb => (match l.block cb 128 64 with
    | .error t => .error (l.s.engFault l.who .load (t.cause, t.addr))
    | .ok bs => .ok (l.xorPlan bs).toOption)
  | .bcopy d idx => (match l.block d 64 64 with
    | .error t => .error (l.s.engFault l.who .load (t.cause, t.addr))
    | .ok _ => .ok (l.blockPlan d idx).toOption)
  | .accz => .ok none

/-- Where a copy's control block or descriptor lies, and its size. -/
def CopyBlock.place (b : CopyBlock) : Option (DWord × Nat) :=
  match b with
  | .copy cb => some (cb, 64)
  | .copyx cb => some (cb, 128)
  | .bcopy d _ => some (d, 64)
  | .accz => none

/-- The block lies at a host to which no link goes. -/
def Lane.blockAway (l : Lane) (b : CopyBlock) : Bool :=
  match b.place with
  | some p => l.s.placesAway l.who .load p.1 p.2
  | none => false

/-- The keys of the block that is read again. -/
def Lane.blockKeys (l : Lane) (b : CopyBlock) : List Nat :=
  match b.place with
  | some p => l.scriptKeys (Script.read p.1 p.2)
  | none => []

/-- The job under a plan read again: of the chunks that both plans have, those still to be written; of others, those not
before the point reached. -/
def CopyJob.follow (j : CopyJob) (p : CopyPlan) : CopyJob :=
  let reached := (j.todo.head?.map (fun c => c.off)).getD j.total
  { j with
    src := p.src
    total := p.total
    all := p.chunks
    todo := p.chunks.filter (fun c => j.todo.contains c || (!j.all.contains c && decide (reached ≤ c.off))) }

/-- A copy of a team that is restored reads its control block again and takes its place in the store order of its core
(R329). A block that no longer passes the checks of issue is not followed, and one that cannot be read stops the copy
(log entry 39). -/
def State.resumeCopy (s : State) (o : Op) : State :=
  match o.kind with
  | .copy j =>
    (match j.src with
     | .zeros => s
     | _ =>
       let s := s.copyPlace o (s.opCore o)
       match s.jobLane o j with
       | none => s
       | some l => match l.replan j.block with
         | .error f => s.faultCopy o j f ((j.todo.head?.map (fun c => c.off)).getD j.total)
         | .ok (some p) => (s.noteKeys (s.opCore o) o.id (l.blockKeys j.block)).setOpKind o.id (.copy (j.follow p))
         | .ok none => s.noteKeys (s.opCore o) o.id (l.blockKeys j.block))
  | _ => s

/-! ## OPERATION_COMPLETE (R43) -/

/-- `OPERATION_COMPLETE`: a memory operation, or an `ACCZ` that has written its last sector or met a fault
(R263). -/
def execOperationComplete (op : Nat) (s : State) : Host.Outcome State Fault Refusal :=
  .next (if s.isZeroing op then (s.copyComplete op).copyFault op else s.operationComplete op)

end Sys2Proof.Machine
end

