-- ==== Sys2Proof/Machine/Matrix.lean ====
section
/-!
DEFINITION. The hub matrix engine (R251 to R266, R294, R295, R359): descriptors, the signing of `MMA`, the
reservation table and its grants, passes, held sums, flushes, and `ACCZ`.
-/

namespace Sys2Proof.Machine

/-! ## Descriptors (R252, R253) -/

/-- Bits [hi:lo] of the 32-bit word at an offset. -/
def wordBits (bs : List Byte) (o hi lo : Nat) : Nat := bits (fieldAt bs o 4) hi lo

def signed8 (n : Nat) : Int := if n < 128 then (n : Int) else (n : Int) - 256

/-- The fields of a descriptor. -/
def MxDesc.ofBytes (bs : List Byte) : MxDesc :=
  { aaddr := wordBits bs 0 23 0, afmt := wordBits bs 0 28 24, adom := wordBits bs 0 29 29 = 1
    sparse := wordBits bs 0 30 30 = 1, apitch := fieldAt bs 4 4
    bfmt := wordBits bs 8 4 0, bdom := wordBits bs 8 5 5 = 1, baddr := wordBits bs 8 31 8
    klen := fieldAt bs 12 4, caddr := addrAt bs 16, cpitch := fieldAt bs 24 4
    e := signed8 (wordBits bs 28 7 0), chain := wordBits bs 28 8 8 = 1, flush := wordBits bs 28 9 9 = 1
    maddr := wordBits bs 32 23 0, nsp := wordBits bs 32 27 24
    saddr := wordBits bs 40 23 0, sgeo := wordBits bs 40 25 24
    staddr := wordBits bs 44 23 0, nostat := wordBits bs 44 31 31 = 1 }

/-- Every bit that R253 does not list is 0. -/
def descZeros (bs : List Byte) : Bool :=
  decide (wordBits bs 0 31 31 = 0) && decide (wordBits bs 8 7 6 = 0) && decide (wordBits bs 28 31 10 = 0) &&
  decide (wordBits bs 32 31 28 = 0) && decide (fieldAt bs 36 4 = 0) && decide (wordBits bs 40 31 26 = 0) &&
  decide (wordBits bs 44 30 24 = 0) && (bs.drop 48).all (· = 0)

/-- Bits of an element of an operand; a format outside 1 to 24 has none (R252). -/
def operandBits (f : Nat) : Nat := if f ≤ 24 then fmtBits f else 0

/-- Stored bytes of an A row (R256). -/
def MxDesc.rowBytes (d : MxDesc) : Nat :=
  (if d.sparse then d.klen * d.nsp / 16 else d.klen) * operandBits d.afmt / 8

/-- Words of a B column (R255). -/
def MxDesc.nb (d : MxDesc) : Nat := d.klen * operandBits d.bfmt / 32

/-- Elements that share a block scale. -/
def MxDesc.block (d : MxDesc) : Nat := if d.sgeo = 1 then 16 else 32

/-- The limits that hold for every call. -/
def MxDesc.limits (d : MxDesc) : Bool :=
  decide (d.klen % 32 = 0) && decide (32 ≤ d.klen) && decide (d.klen ≤ 65536) && decide (d.caddr.toNat % 32 = 0) &&
  decide (d.cpitch % 32 = 0) && decide (1024 ≤ d.cpitch) && decide (d.sgeo ≤ 2) && decide (d.staddr % 4 = 0) &&
  decide (d.maddr % 4 = 0) &&
  (if d.sparse then decide (d.nsp = 2) || decide (d.nsp = 4) || decide (d.nsp = 8)
   else decide (d.nsp = 0) && decide (d.maddr = 0))

/-- The limits on A, where scratchpad holds it. -/
def MxDesc.aLimits (d : MxDesc) : Bool :=
  decide (d.aaddr < 2 ^ 23) && decide (d.apitch % 4 = 0) && decide (d.rowBytes ≤ d.apitch)

/-- What A must be where a walker's tile is the operand (R274). -/
def MxDesc.tileLimits (d : MxDesc) : Bool :=
  decide (d.aaddr = 0) && decide (d.apitch = 0) && !d.sparse && decide (d.maddr = 0) && decide (d.nsp = 0) &&
  decide (d.saddr = 0) && decide (d.sgeo = 0)

/-- The scratchpad ranges of a call: local address and extent (R252, R326). -/
def MxDesc.ranges (d : MxDesc) (join tile : Bool) : List (Nat × Nat) :=
  (if tile then [] else [(d.aaddr, 127 * d.apitch + d.rowBytes)]) ++
  (if d.sparse then [(d.maddr, 128 * (d.klen * d.nsp / 32))] else []) ++
  (if d.sgeo = 0 then [] else [(d.saddr, 128 * (d.klen / d.block))]) ++
  (if d.nostat then [] else [(d.staddr, 4)]) ++
  (if join then [] else [(d.baddr, 128 * (4 * d.nb))])

/-- The first page of C is `ACC64` with the descriptor's E (R252). -/
def Lane.tilePage (l : Lane) (d : MxDesc) : Option Trap :=
  match l.s.pageOf l.who .atomic d.caddr with
  | .error c => some (.atAddr c d.caddr)
  | .ok p => when' (!p.isAcc || decide (p.e ≠ d.e)) (.atAddr .fmtbad d.caddr)

/-- The conditions on what a descriptor holds, each with its trap (R252). -/
def Lane.descTraps (l : Lane) (bs : List Byte) (join tile : Bool) : List (Option Trap) :=
  let d := MxDesc.ofBytes bs
  [when' (!descZeros bs || !d.limits || (if tile then !d.tileLimits else !d.aLimits) ||
      (if join then decide (d.baddr ≠ 0) else decide (d.baddr % 4 ≠ 0) || decide (2 ^ 23 ≤ d.baddr))) (.of .bounds),
   when' (decide (d.afmt < 1) || decide (24 < d.afmt) || decide (d.bfmt < 1) || decide (24 < d.bfmt)) (.of .fmtbad)] ++
  (d.ranges join tile).map (fun r => match l.spadEnd (BitVec.ofNat 64 r.1) r.2 with
    | .ok _ => none
    | .error t => some t) ++
  [l.tilePage d]

/-- The registers of an `MMA`'s B column: past v119, or beyond the allocation (R252). -/
def Lane.columnTraps (l : Lane) (b : BitVec 7) (d : MxDesc) : List (Option Trap) :=
  [when' (decide (120 < b.toNat + d.nb)) (.of .illop),
   when' (decide (l.th.regs.length < l.alloc b + d.nb)) (.of .regrange)]

/-- A descriptor read at issue, or the trap it meets. -/
def Lane.readDesc (l : Lane) (a : DWord) (join : Bool) (b : BitVec 7) : Except Trap MxDesc :=
  match l.block a 64 64 with
  | .error t => .error t
  | .ok bs =>
    let d := MxDesc.ofBytes bs
    match firstTrap ((if join then l.columnTraps b d else []) ++ l.descTraps bs join false) with
    | some t => .error t
    | none => .ok d

/-! ## MMA (R24, R251, R295) -/

/-- The column of a signer (R255). -/
def Lane.column (l : Lane) : Nat := rankOf l.tm.core * 32 + laneOf l.th.idx

/-- An `MMA` signing is refused (R24). -/
def Lane.mmaRefused (l : Lane) (jn : Join) (a : DWord) : Bool :=
  !jn.unsigned.contains l.me ||
  (match jn.st, jn.kind with
   | .drain, _ => false
   | .opened, some (.mma a' _) => decide (a ≠ a') || jn.signs.any (fun g => decide (g.col = l.column))
   | .opened, none => false
   | _, _ => true)

/-- The read of a descriptor counts for its operation (R110). -/
def State.noteBlock (s : State) (l : Lane) (id : Nat) (a : DWord) (n : Nat) : State :=
  s.noteKeys l.tm.core id (l.scriptKeys (Script.read a n))

/-- `MMA`: a signing on a join register; a `HUB`-scope release, so it is held until the signer's earlier accesses
are in place and its copies have been performed (R295). -/
def execMma (j a b : BitVec 7) (f : BitVec 4) (s : State) : Host.Outcome State Fault Refusal :=
  runJoin (.mma j a b f) s (fun l => l.signHeld a) (fun l =>
    let n := j.toNat
    match l.join? j with
    | none => (.trap (.of .joinbad), id)
    | some jn =>
      if l.mmaRefused jn (l.pair a) then (.trap (.of .joinbad), id)
      else match l.readDesc (l.pair a) true b with
        | .error t => (.trap t, id)
        | .ok d =>
          if jn.st = .drain then (.done {}, fun s => s.leaveJoin s.cur.team l.th.idx l.tm.hubset n)
          else
            (.done { flag := f.toNat, op := some (.matrix 0), upd := Thread.unenrol n }, fun s =>
              let op := s.nextId - 1
              let g : Sign := { team := l.s.cur.team, thr := l.th.idx, col := l.column, op := op, flag := f.toNat
                                base := l.alloc b, nanTrap := l.th.nanTrap, priv := l.privileged }
              let s := s.noteBlock l op (l.pair a) 64
              let first (jn : Join) : JKind := match jn.kind with | some k => k | none => .mma (l.pair a) d
              (s.modJoin l.tm.hubset n (fun jn => jn.sign g (first jn))).joinCheck l.tm.hubset n))

/-! ## MMAS (R257) -/

/-- How many calls a reservation table holds. -/
def mxTableSize : Nat := 32

/-- The call of an `MMAS`. -/
def Lane.soloCall (l : Lane) (s : State) (op flag : Nat) (obj : Option Nat) (d : MxDesc) : MxCall :=
  { id := s.nextId, hub := hubOf l.tm.core, join := none, signers := []
    issuers := [{ team := l.s.cur.team, thr := l.th.idx, op := op, flag := flag }]
    desc := d, fn := l.tm.fn, priv := l.privileged, cls := s.effClass l.s.cur.team l.th.idx, passed := 0, obj := obj
    nanTrap := l.th.nanTrap, walk := false, tile := [], cols := [] }

/-- A call enters the reservation table. -/
def State.postCall (s : State) (c : MxCall) : State :=
  let e := s.engine c.hub
  { s.setEngine c.hub { e with table := e.table ++ [c] } with nextId := s.nextId + 1 }

/-- An entry stands in the table, and not in the context of a team that has been stopped (R293). -/
def State.callLive (s : State) (c : MxCall) : Bool :=
  c.issuers.all (fun i => match s.teams[i.team]? with
    | some t => decide (t.status = .resident) || decide (t.status = .gone)
    | none => false)

/-- The entries of a hub's table. -/
def State.liveTable (s : State) (hub : Nat) : List MxCall := (s.engine hub).table.filter s.callLive

def State.tableFull (s : State) (hub : Nat) : Bool := decide (mxTableSize ≤ (s.liveTable hub).length)

/-- `MMAS`: an entry in the reservation table; a full table holds the thread (R252). -/
def execMmas (a b : BitVec 7) (f : BitVec 4) (s : State) : Host.Outcome State Fault Refusal :=
  runSeq (.mmas a b f) s (fun l => l.waitsToRead || l.scriptAway (Script.read (l.pair a) 64)) (fun l =>
    match l.barrierWord (l.reg b) with
    | .error t => (.trap t, id)
    | .ok obj => match l.readDesc (l.pair a) false b with
      | .error t => (.trap t, id)
      | .ok d =>
        if l.s.tableFull (hubOf l.tm.core) then (.hold, id)
        else (.done { flag := f.toNat, op := some (.matrix 0) }, fun s =>
          let op := s.nextId - 1
          (s.noteBlock l op (l.pair a) 64).postCall (l.soloCall s op f.toNat obj d)))

/-! ## ACCZ (R263) -/

/-- The operation of an `ACCZ`. -/
def State.zeroOp (s : State) (l : Lane) (a : DWord) (pitch : Nat) (f : BitVec 4) : Op :=
  { id := s.nextId, ins := s.nextId, team := l.s.cur.team, thr := l.th.idx, flag := f.toNat, dst := [], trap := none
    passed := [], seen := [], ldvs := false
    kind := .copy { block := .accz, fn := l.tm.fn, priv := l.privileged, unit := 0, obj := none, members := [l.th.idx], src := .zeros
                    total := 131072, all := copyChunks (.mem a) pitch 128 1024, todo := copyChunks (.mem a) pitch 128 1024, cache := [], lines := [] } }

/-- The checks of an `ACCZ` (R62, R263). -/
def Lane.zeroTrap (l : Lane) (a : DWord) (pitch : Word) : Option Trap :=
  if pitch.toNat % 32 ≠ 0 ∨ pitch.toNat < 1024 then some (.of .bounds)
  else if a.toNat % 32 ≠ 0 then some (.atAddr .align a)
  else match l.s.pageOf l.who .store a with
    | .error c => some (.atAddr c a)
    | .ok p => when' (!p.isAcc) (.atAddr .fmtbad a)

/-- `ACCZ`: its place is in the core's store order, as a copy's is (R263; log entry 39). -/
def execAccz (a b : BitVec 7) (f : BitVec 4) (s : State) : Host.Outcome State Fault Refusal :=
  runSeq (.accz a b f) s Lane.acquiring (fun l =>
    match l.zeroTrap (l.pair a) (l.reg b) with
    | some t => (.trap t, id)
    | none => (.done { flag := f.toNat }, fun s =>
        let o := s.zeroOp l (l.pair a) (l.reg b).toNat f
        State.copyPlace { s with ops := s.ops ++ [o], nextId := s.nextId + 1 } o l.tm.core))

/-! ## Grants (R257) -/

def State.modEngine (s : State) (hub : Nat) (f : MxEngine → MxEngine) : State := s.setEngine hub (f (s.engine hub))

/-- An entry's class with its promotions. -/
def MxCall.rank (c : MxCall) : Nat := min 3 (c.cls + c.passed / mxTableSize)

/-- The entry that is granted: the highest class, and of those the first. -/
def nextGrant (table : List MxCall) : Option MxCall :=
  (table.take mxTableSize).foldl (fun m c =>
    match m with
    | none => some c
    | some b => if b.rank < c.rank then some c else m) none

/-- The accesses that come before a call's reads are in place (R291): for one that a walker posted, those issued before
its `FLUSH` (R308). -/
def State.callReady (s : State) (c : MxCall) : Bool :=
  match c.join, c.issuers with
  | none, i :: _ => (match s.teams[i.team]? with | some t => s.engineReady t.core (if c.walk then c.id else i.op) | none => true)
  | _, _ => true

/-- The words of a signer's B column as they stand, none for a poisoned register (R90, R255, R359). -/
def State.columnOf (s : State) (g : Sign) (nb : Nat) : Option (List Word) :=
  match s.thread? g.team g.thr with
  | none => none
  | some th =>
    let th := th.settle s.now
    if th.poisonRegs.any (fun n => decide (g.base ≤ n) && decide (n < g.base + nb)) then none
    else some ((th.regs.drop g.base).take nb)

/-- The engine is free and grants an entry: a join call's B registers are read and its register is IDLE again
(R24, R255). -/
def State.mmaGrant (s : State) (hub : Nat) : State :=
  let e := s.engine hub
  match e.running, nextGrant (s.liveTable hub) with
  | none, some c =>
    if !s.callReady c then s
    else
      let cols := c.signers.map (fun g => (g.col, s.columnOf g c.desc.nb))
      let run : MxRun := {
        call := { c with cols := cols.map (fun p => (p.1, p.2.getD [])) }
        buf := none, pass := 0, stop := if cols.any (fun p => p.2.isNone) then some .poison else none, status := 0 }
      let rest := ((s.liveTable hub).filter (fun x => x.id ≠ c.id)).mapIdx (fun i x =>
        if i < mxTableSize - 1 then { x with passed := x.passed + 1 } else x)
      let saved := e.table.filter (fun x => !s.callLive x)
      let s := s.setEngine hub { e with table := rest ++ saved, running := some run }
      (match c.join with
       | some (hs, n) =>
         let s := c.signers.foldl (fun s g => s.modThread g.team g.thr (Thread.outcome n .done)) s
         s.joinIdle hs n
       | none => s)
  | _, _ => s

/-- `MMA_GRANT`. -/
def execMmaGrant (hub : Nat) (s : State) : Host.Outcome State Fault Refusal := .next (s.mmaGrant hub)

/-- `RESERVATION_PROMOTION`: an entry passed over 32 times is promoted one class, up to 3 (R257). The class that
`MxCall.rank` counts stays, whenever the step comes. -/
def execReservationPromotion (hub call : Nat) (s : State) : Host.Outcome State Fault Refusal :=
  .next (s.modEngine hub (fun e => { e with table := e.table.map (fun c =>
    if c.id = call ∧ mxTableSize ≤ c.passed then { c with cls := min 3 (c.cls + 1), passed := c.passed - mxTableSize } else c) }))

/-! ## Tile buffers (R258, R259) -/

/-- Elements of a tile. -/
def tileElems : Nat := 128 * 128

def MxBuf.hasKey (b : MxBuf) (fn : Nat) (caddr : DWord) (e : Int) : Bool :=
  decide (b.fn = fn) && decide (b.caddr = caddr) && decide (b.e = e)

/-- The held buffer with a call's key. DESIGN CHOICE (log entry 99): of two with one key, the one that took its place
first. -/
def heldFor (bufs : List MxBuf) (c : MxCall) : Option MxBuf :=
  bufs.find? (fun b => decide (b.phase = .held) && b.hasKey c.fn c.desc.caddr c.desc.e)

/-- The held buffer that has been held longest. -/
def oldestHeld (bufs : List MxBuf) : Option MxBuf :=
  (bufs.filter (fun b => decide (b.phase = .held))).foldl (fun m b =>
    match m with
    | none => some b
    | some x => if b.order < x.order then some b else m) none

def MxEngine.modBuf (e : MxEngine) (id : Nat) (f : MxBuf → MxBuf) : MxEngine :=
  { e with bufs := e.bufs.map (fun b => if b.id = id then f b else b) }

/-- A buffer starts to flush. -/
def MxBuf.flushFrom (order : Nat) (ends : Bool) (status : Word) (b : MxBuf) : MxBuf :=
  { b with phase := .flushing, order := order, ends := ends, status := status, next := 0 }

/-- `BUFFER_EVICTION`: a held buffer starts to flush; its flush reports to the call that last added to it (R259,
R264). -/
def State.evict (s : State) (hub id : Nat) : State :=
  if (s.engine hub).bufs.any (fun b => b.id = id && decide (b.phase = .held)) then
    { s.modEngine hub (fun e => e.modBuf id (MxBuf.flushFrom s.nextId false 0)) with nextId := s.nextId + 1 }
  else s

def execBufferEviction (hub buf : Nat) (s : State) : Host.Outcome State Fault Refusal := .next (s.evict hub buf)

/-- A granted call takes its buffer, or what must come first starts (R259). -/
def State.takeBuffer (s : State) (hub : Nat) (r : MxRun) : State :=
  let e := s.engine hub
  let c := r.call
  let teams := c.issuers.map (fun i => i.team)
  let have' := if c.desc.chain then heldFor e.bufs c else none
  match have' with
  | some b =>
    s.setEngine hub { e.modBuf b.id (fun b =>
      { b with phase := .running, call := c, teams := (b.teams ++ teams).eraseDups }) with
        running := some { r with buf := some b.id } }
  | none =>
    if e.bufs.length < 2 then
      let b : MxBuf := {
        id := s.nextId, phase := .running, fn := c.fn, caddr := c.desc.caddr, e := c.desc.e
        sums := List.replicate tileElems 0, marks := [], teams := teams, call := c, ends := false, stop := none
        status := 0, order := 0, next := 0 }
      { s.setEngine hub { e with bufs := e.bufs ++ [b], running := some { r with buf := some b.id } } with
        nextId := s.nextId + 1 }
    else match oldestHeld e.bufs with
      | some b => s.evict hub b.id
      | none => s

/-! ## Passes (R138, R254 to R256) -/

/-- The width class of a format (R254). -/
def widthClass (f : Nat) : Nat :=
  if f = 24 then 4 else if f = 23 then 3 else if fmtBits f = 16 then 2 else if fmtBits f = 8 then 1 else 0

/-- K elements of one pass. -/
def MxDesc.kp (d : MxDesc) : Nat :=
  let k := match max (widthClass d.afmt) (widthClass d.bfmt) with
    | 0 => 512 | 1 => 256 | 2 => 128 | 3 => 64 | _ => 32
  if d.sparse then 2 * k else k

def MxDesc.passes (d : MxDesc) : Nat := (d.klen + d.kp - 1) / d.kp

/-- What a read of operand bytes meets. -/
inductive OperandRead where
  | absent
  | poison
  | bytes (bs : List Byte)

/-- The team a local address of a call lies in (R89). -/
def State.operandTeam (s : State) (c : MxCall) (addr : Nat) : Nat :=
  match c.issuers with
  | [] => 0
  | i :: _ =>
    let hs := match s.teams[i.team]? with | some t => t.hubset | none => 0
    ((s.teams.zipIdx.find? (fun tk =>
      decide (tk.1.hubset = hs) && decide (tk.1.status ≠ .gone) && decide (rankOf tk.1.core = bits addr 22 21))).map
        (fun tk => tk.2)).getD i.team

/-- Scratchpad bytes at a local address with an offset: waited for while absent (R105). -/
def State.operand (s : State) (c : MxCall) (addr off n : Nat) : OperandRead :=
  let k := s.operandTeam c addr
  let o := bits addr 20 0 + off
  if (linesOf o n).any (fun x => decide (0 < s.lineCount (k, x))) then .absent
  else match s.localRead (.spad k o) n with
    | some bs => .bytes bs
    | none => .poison

/-- Operand reads in order: any absence comes before any poison. -/
def operandAll (rs : List OperandRead) : OperandRead :=
  if rs.any (fun r => match r with | .absent => true | _ => false) then .absent
  else if rs.any (fun r => match r with | .poison => true | _ => false) then .poison
  else .bytes (rs.flatMap (fun r => match r with | .bytes bs => bs | _ => []))

/-- The bytes of A, metadata and scales of a row's elements k0 to k1 - 1, and of a B column's. -/
def State.rowReads (s : State) (c : MxCall) (i k0 k1 : Nat) : List OperandRead :=
  let d := c.desc
  let w := fmtBits d.afmt
  let k (x : Nat) : Nat := if d.sparse then x / 16 * d.nsp else x
  (if c.walk then [] else [s.operand c d.aaddr (i * d.apitch + k k0 * w / 8) ((k k1 - k k0) * w / 8)]) ++
  (if d.sparse then [s.operand c d.maddr (i * (d.klen * d.nsp / 32) + k k0 / 2) ((k k1 - k k0) / 2)] else []) ++
  (if d.sgeo = 0 then [] else
    [s.operand c d.saddr (i * (d.klen / d.block) + k0 / d.block) ((k1 - 1) / d.block - k0 / d.block + 1)])

def State.columnReads (s : State) (c : MxCall) (n k0 k1 : Nat) : List OperandRead :=
  let d := c.desc
  let w := fmtBits d.bfmt
  if c.join.isSome then [] else [s.operand c d.baddr (n * (4 * d.nb) + k0 * w / 8) ((k1 - k0) * w / 8)]

/-- A value with its position along K. -/
abbrev KVal := Nat × FVal

/-- The bytes of a read that has been admitted. -/
def OperandRead.got (r : Option OperandRead) : List Byte := match r with | some (.bytes bs) => bs | _ => []

/-- Row i of A for one pass: its values with their positions, and whether a code decoded with NARROW. -/
def State.rowOf (s : State) (c : MxCall) (i k0 k1 : Nat) : List KVal × Bool :=
  let d := c.desc
  let w := fmtBits d.afmt
  let rs := s.rowReads c i k0 k1
  let n := if d.sparse then (k1 - k0) / 16 * d.nsp else k1 - k0
  let codes := if c.walk then (c.tile.drop (i * d.klen + k0)).take n else unpackCodes w n (OperandRead.got rs[0]?)
  let meta' := unpackCodes 4 n (OperandRead.got (if c.walk then rs[0]? else rs[1]?))
  let scales := OperandRead.got rs.getLast?
  let place (t : Nat) : Nat := if d.sparse then k0 + t / d.nsp * 16 + meta'.getD t 0 else k0 + t
  let scale (k : Nat) (v : FVal) : FVal :=
    if d.sgeo = 0 then v
    else
      let b := (scales.getD (k / d.block - k0 / d.block) 0).toNat
      if b = 255 then .nan else v.scale ((b : Int) - 127)
  let dec := codes.zipIdx.map (fun p => (place p.2, decodeFmt d.afmt d.adom p.1))
  (dec.map (fun p => (p.1, scale p.1 p.2.1)), dec.any (fun p => p.2.2.narrow))

/-- Column n of B for one pass; a column without a signer is zero (R255). -/
def State.colOf (s : State) (c : MxCall) (n k0 k1 : Nat) : List FVal × Bool :=
  let d := c.desc
  let w := fmtBits d.bfmt
  let zero : List FVal × Bool := (List.replicate (k1 - k0) (.fin false 0 0), false)
  let ofBytes (bs : List Byte) : List FVal × Bool :=
    let dec := (unpackCodes w (k1 - k0) bs).map (decodeFmt d.bfmt d.bdom)
    (dec.map Prod.fst, dec.any (fun p => p.2.narrow))
  if c.join.isSome then
    match c.cols.find? (fun p => decide (p.1 = n)) with
    | some p => ofBytes (((p.2.flatMap bytesOfWord).drop (k0 * w / 8)).take ((k1 - k0) * w / 8))
    | none => zero
  else ofBytes (OperandRead.got (s.columnReads c n k0 k1).head?)

/-- What an element of a tile gains: an integer, and marks for infinite products and NaN cases (R138). -/
structure Gain where
  n : Int
  mark : Nat

/-- One product rounded to the window. -/
def Gain.product (e : Int) (g : Gain) (a b : FVal) : Gain :=
  match a.mul b with
  | .nan => { g with mark := g.mark ||| 4 }
  | .inf s => { g with mark := g.mark ||| (if s then 2 else 1) }
  | .fin s m x => { g with n := g.n + roundInt .rn s m (x - e) }

/-- One element: the products of a row with a column. -/
def gainOf (e : Int) (k0 : Nat) (row : List KVal) (col : List FVal) : Gain :=
  row.foldl (fun g p => g.product e p.2 (col.getD (p.1 - k0) (.fin false 0 0))) { n := 0, mark := 0 }

/-- A pass gives an element a NaN case of R138: a NaN product, or a bound of a sign whose opposite the element has met
before or in the same pass (log entry 80). -/
def nanCase (old new : Nat) : Bool := decide (4 ≤ new) || (decide ((old ||| new) % 4 = 3) && decide (old % 4 ≠ 3))

/-- Of the elements that meet a NaN case, the lowest row block and in it the lowest column block (R265). `marks` is what
the elements have met before. -/
def nanPlace (marks : Tab Nat) (gains : List Gain) : Option (Nat × Nat) :=
  let at' := (gains.zipIdx.filter (fun g => nanCase (Tab.get marks g.2 0) g.1.mark)).map (fun g => (g.2 / 4096, g.2 % 128 / 32))
  at'.foldl (fun m p =>
    match m with
    | none => some p
    | some q => if p.1 < q.1 ∨ (p.1 = q.1 ∧ p.2 < q.2) then some p else m) none

/-- An element contributes nothing: it met a NaN product, or bounds of both signs (R138). -/
def voidMark (m : Nat) : Bool := 4 ≤ m || m = 3

/-- A pass added to a buffer; the marks that are new. -/
def MxBuf.addPass (gains : List Gain) (b : MxBuf) : MxBuf :=
  { b with
    sums := b.sums.zipWith (· + ·) (gains.map (fun g => g.n))
    marks := (gains.zipIdx.filter (fun g => g.1.mark ≠ 0)).foldl (fun t g =>
      Tab.put t g.2 (Tab.get t g.2 0 ||| g.1.mark) 0) b.marks }

/-- The next pass of the running call. A pass waits for presence (R105); one that meets poison, or with the
first-NaN trap a NaN case, adds nothing and stops the call (R265, R359). -/
def State.pass (s : State) (hub : Nat) (r : MxRun) (buf : Nat) : State :=
  let e := s.engine hub
  let c := r.call
  let d := c.desc
  let k0 := r.pass * d.kp
  let k1 := min d.klen (k0 + d.kp)
  let reads := (List.range 128).flatMap (fun i => s.rowReads c i k0 k1 ++ s.columnReads c i k0 k1)
  match operandAll reads with
  | .absent => s
  | .poison => s.setEngine hub { e with running := some { r with stop := some .poison } }
  | .bytes _ =>
    let rows := (List.range 128).map (fun i => s.rowOf c i k0 k1)
    let cols := (List.range 128).map (fun n => s.colOf c n k0 k1)
    let narrow := rows.any Prod.snd || cols.any Prod.snd
    let gains := rows.flatMap (fun row => cols.map (fun col => gainOf d.e k0 row.1 col.1))
    let marks := match e.bufs.find? (fun b => b.id = buf) with | some b => b.marks | none => []
    match if c.nanTrap then nanPlace marks gains else none with
    | some p =>
      s.setEngine hub { e with running := some { r with
        stop := some (.nan p.1 p.2 r.pass), status := r.status ||| (if narrow then statNarrow else 0) } }
    | none =>
      let e := e.modBuf buf (MxBuf.addPass gains)
      let void := match e.bufs.find? (fun b => b.id = buf) with
        | some b => gains.zipIdx.any (fun g => decide (g.1.mark ≠ 0) && voidMark (Tab.get b.marks g.2 0))
        | none => false
      s.setEngine hub { e with running := some { r with
        pass := r.pass + 1, status := r.status ||| (if narrow || void then statNarrow else 0) } }

/-- A call has no pass left to run. -/
def MxRun.over' (r : MxRun) : Bool := r.stop.isSome || decide (r.call.desc.passes ≤ r.pass)

/-- The passes of a call have ended: the buffer of a walker's tile is free again (R274). -/
def State.tileFree (s : State) (c : MxCall) : State :=
  { s with walkers := s.walkers.map (fun w => { w with busy := w.busy.filter (fun b => b.1 ≠ c.id) }) }

/-- The running call takes its buffer, or runs one pass. -/
def State.matrixStep (s : State) (hub : Nat) : State :=
  match (s.engine hub).running with
  | none => s
  | some r =>
    match r.buf with
    | none => s.takeBuffer hub r
    | some b =>
      if r.over' then s
      else
        let s := s.pass hub r b
        match (s.engine hub).running with
        | some r => if r.over' then s.tileFree r.call else s
        | none => s

/-! ## The end of a call -/

/-- `TRAPINFO` of the first-NaN trap (R265). -/
def nanInfo (hub row col step : Nat) : DWord :=
  BitVec.ofNat 64 (hub * 2 ^ 26 + row * 2 ^ 24 + col * 2 ^ 22 + step % 2 ^ 16)

/-- The cause that a stopped call leaves. -/
def MxStop.trap (hub : Nat) : MxStop → Trap
  | .nan r c k => { cause := .nanfirst, addr := 0, info := nanInfo hub r c k }
  | .poison => engineTrap (4 * hub) 0 0 2 (.mchk, 0)

/-- Status bits ORed into a call's status word, as `ATL OR` does (R264). A poisoned word keeps its poison. DESIGN CHOICE
(log entry 81): like an `ATL` it waits until its line is present, and counts the line absent at no time. -/
def State.orStatus (s : State) (c : MxCall) (w : Word) : State :=
  if c.desc.nostat then s
  else
    let loc : LocalLoc := .spad (s.operandTeam c c.desc.staddr) (bits c.desc.staddr 20 0)
    match s.localRead loc 4 with
    | some bs => s.localWrite loc (bytesOfWord (BitVec.ofNat 32 (leNat bs) ||| w))
    | none => s

/-- Its status word's line is present. -/
def State.statusReady (s : State) (c : MxCall) : Bool :=
  c.desc.nostat ||
  decide (s.lineCount (s.operandTeam c c.desc.staddr, bits c.desc.staddr 20 0 / 128) = 0)

/-- The causes of a call are held on its thread's flag, and the operation that it ends completes. -/
def State.issuerDone (s : State) (causes : List Trap) (i : Issuer) : State :=
  let s := s.modThread i.team i.thr (fun th =>
    { th with held := th.held ++ causes.map (fun t => ({ flag := i.flag, order := i.op, trap := t } : Deferred)) })
  match s.op? i.op with
  | some o => s.completeOp o [] none
  | none => s

/-- A walker's posted call has completed: its cause is kept for the walk's flag, and a flush performed without
fault counts (R275). -/
def State.walkCall (s : State) (c : MxCall) (causes : List Trap) (counts : Bool) : State :=
  match c.issuers with
  | [] => s
  | i :: _ =>
    if s.walkers.any (fun w => decide (w.op = i.op)) then
      { s with walkers := s.walkers.map (fun w =>
          if w.op = i.op then
            { w with posted := w.posted.filter (· ≠ c.id)
                     counted := w.counted + (if counts && c.desc.flush then 131072 else 0)
                     causes := w.causes ++ causes.map (fun t => (c.id, t)) }
          else w) }
    else s.issuerDone causes i

/-- A call completes: the flag of each thread that issued into it, and the bytes of its own flush counted
(R260, R262). -/
def State.completeCall (s : State) (c : MxCall) (causes : List Trap) (counts : Bool) : State :=
  if c.walk then s.walkCall c causes counts
  else
    let s := c.issuers.foldl (fun s i => s.issuerDone causes i) s
    match c.obj, c.issuers with
    | some o, i :: _ => if counts && c.desc.flush then s.barCount i.team o 131072 else s
    | _, _ => s

/-- The running call ends: its buffer is held and its flag completes, or the buffer starts to flush (R259, R260,
R265, R359). DESIGN CHOICE (log entry 98): the flag of a call with `FLUSH` 0 that was stopped waits for its forced flush. -/
def State.endCall (s : State) (hub : Nat) (r : MxRun) (buf : Nat) : State :=
  let c := r.call
  let e := { s.engine hub with running := none }
  let s1 := { (s.tileFree c) with nextId := s.nextId + 1 }
  if c.desc.flush || r.stop.isSome then
    s1.setEngine hub (e.modBuf buf (fun b => { b.flushFrom s.nextId true r.status with stop := r.stop, call := c }))
  else
    let s2 := s1.setEngine hub (e.modBuf buf (fun b =>
      { b with phase := .held, order := s.nextId, ends := false, stop := none }))
    (s2.orStatus c r.status).completeCall c [] true

/-- The passes that are left run, until one waits. -/
def State.runPasses : Nat → State → Nat → State
  | 0, s, _ => s
  | n + 1, s, hub => State.runPasses n (s.matrixStep hub) hub

/-- `MMA_CALL_END`: the granted call runs its passes to the end and ends, unless one has still to wait. -/
def State.mmaCallEnd (s : State) (hub : Nat) : State :=
  match (s.engine hub).running with
  | none => s
  | some r =>
    let s := State.runPasses (r.call.desc.passes + 1) s hub
    match (s.engine hub).running with
    | none => s
    | some r =>
      match r.buf with
      | none => s
      | some b =>
        if r.over' && s.statusReady r.call then s.endCall hub r b else s

def execMmaCallEnd (hub : Nat) (s : State) : Host.Outcome State Fault Refusal := .next (s.mmaCallEnd hub)

/-! ## Flushes (R260, R266) -/

/-- What an element sends: its clamped sum, and the status of it (R138). -/
def MxBuf.element (b : MxBuf) (i : Nat) : Int × Word :=
  let m := Tab.get b.marks i 0
  if voidMark m then (0, statNarrow)
  else if m = 1 then (accHi, statSat)
  else if m = 2 then (accLo, statSat)
  else
    let r := clampInt accLo accHi (b.sums.getD i 0)
    (r.1, if r.2 then statSat else 0)

/-- Four elements added to the words of a sector (R131, R139). -/
def MxBuf.addSector (b : MxBuf) (first : Nat) (old : List Byte) : List Byte × Word :=
  (List.range 4).foldl (fun acc k =>
    let x := b.element (first + k)
    let r := accAdd (BitVec.ofNat 64 (fieldAt old (8 * k) 8)) (BitVec.ofInt 64 x.1)
    (acc.1 ++ bytesOfPair r.1, acc.2 ||| x.2 ||| (if r.2 then statSat else 0))) ([], 0)

/-- On whose behalf a call's engine accesses memory. -/
def State.callEng (s : State) (c : MxCall) : Eng :=
  match c.issuers with
  | [] => { core := 4 * c.hub, fn := c.fn, priv := c.priv, team := 0, thr := 0, id := 0, halt := false }
  | i :: _ =>
    { core := match s.teams[i.team]? with | some t => t.core | none => 4 * c.hub
      fn := c.fn, priv := c.priv, team := i.team, thr := i.thr, id := i.op, halt := false }

/-- The address of sector i of a tile, and its byte offset within the tile. -/
def MxBuf.sectorAddr (b : MxBuf) (i : Nat) : DWord :=
  b.caddr + BitVec.ofNat 64 (i / 32 * b.call.desc.cpitch + i % 32 * 32)

/-- A fault that the flush of a sector meets (R266). -/
def State.sectorFault (s : State) (b : MxBuf) (va : DWord) : Except EngFault Nat :=
  let who := (s.callEng b.call).who false
  match s.translate who .atomic va 32 with
  | .error c => .error (s.engFault who .atomic (c, va))
  | .ok (k, leaf) =>
    if keyHost k then .error (.prot, va)
    else if !leaf.isAcc ∨ leaf.e ≠ b.e then .error (.fmtbad, va)
    else if s.poisoned k 32 then .error (.mchk, 0)
    else .ok k

/-- The L1 copies that some cores hold follow a write (R109). -/
def State.l1Write (s : State) (cores : List Nat) (k : Nat) (bs : List Byte) : State :=
  { s with l1 := s.l1.map (fun e => if cores.contains e.core then { e with bytes := overlay (e.sector * 32) e.bytes k bs } else e) }

/-- The write event of a sector, attributed to every thread that issued into the call (R262); it updates the L1 copies of
their cores (R291). -/
def State.sectorWrite (s : State) (c : MxCall) (k : Nat) (bs : List Byte) : State :=
  let core (i : Issuer) : Option Nat := (s.teams[i.team]?).map (fun t => t.core)
  let s1 := c.issuers.foldl (fun s i => (s.beforeWrite (core i) i.team i.thr i.op [(k, 32)]).getD s) s
  let s2 := (s1.writeParts none [(k, bs)]).l1Write (c.issuers.filterMap core) k bs
  let s3 := match c.issuers with | i :: _ => s2.sendRemote i.team i.thr k | [] => s2
  c.issuers.foldl (fun s i => s.markPassed i.team i.thr i.op) s3

/-- The calls whose flags no earlier flush of their key holds complete (R260). -/
def State.settleEnds (s : State) (hub : Nat) : State :=
  let e := s.engine hub
  let waits (x : MxEnd) : Bool := e.bufs.any (fun b =>
    decide (b.phase = .flushing) && b.hasKey x.call.fn x.call.desc.caddr x.call.desc.e && decide (b.order < x.order))
  let due := e.ends.filter (fun x => !waits x)
  due.foldl (fun s x => s.completeCall x.call x.causes x.counts)
    (s.setEngine hub { e with ends := e.ends.filter waits })

/-- A flush is over, with a fault or whole: its status is reported, its buffer is free, and the call that it ends
completes, with what stopped it before a fault of its flush (R262, R264 to R266, R359). -/
def State.flushDone (s : State) (hub : Nat) (b : MxBuf) (fault : Option Trap) : State :=
  let e := s.engine hub
  let stop := (b.stop.map (MxStop.trap hub)).toList
  let e := { e with bufs := e.bufs.filter (fun x => x.id ≠ b.id) }
  let e := if b.ends then
    { e with ends := e.ends ++ [({ call := b.call, causes := stop ++ fault.toList, counts := fault.isNone, order := b.order } : MxEnd)] } else e
  let s := (s.setEngine hub e).orStatus b.call b.status
  let s := if !b.ends && fault.isSome then
    (if b.call.walk then s.walkCall b.call fault.toList false else b.call.issuers.foldl (fun s i => s.issuerDone fault.toList i) s) else s
  s.settleEnds hub

/-- One sector of a flush, or its end. -/
def State.flushStep (s : State) (hub id : Nat) : State :=
  match (s.engine hub).bufs.find? (fun b => b.id = id && decide (b.phase = .flushing)) with
  | none => s
  | some b =>
    if 4096 ≤ b.next then (if s.statusReady b.call then s.flushDone hub b none else s)
    else
      let va := b.sectorAddr b.next
      match s.sectorFault b va with
      | .error f =>
        if s.statusReady b.call then s.flushDone hub b (some (engineTrap (4 * hub) (32 * b.next) 0 2 f)) else s
      | .ok k =>
        let r := b.addSector (4 * b.next) (s.bytesAt k 32)
        let s := s.sectorWrite b.call k r.1
        s.modEngine hub (fun e => e.modBuf id (fun b => { b with next := b.next + 1, status := b.status ||| r.2 }))

/-- `HELD_SUM_FLUSH`: every sector that is left, in ascending row and column. -/
def State.flushAll : Nat → State → Nat → Nat → State
  | 0, s, _, _ => s
  | n + 1, s, hub, id => State.flushAll n (s.flushStep hub id) hub id

def execHeldSumFlush (hub buf : Nat) (s : State) : Host.Outcome State Fault Refusal := .next (State.flushAll 4097 s hub buf)

end Sys2Proof.Machine
end

