-- ==== Sys2Proof/Machine/Spoke.lean ====
section
/-!
DEFINITION. The Spoke format walker (R267 to R277, R308): `SPOKE`, the fourteen walker words, and the end of a
walk.
-/

namespace Sys2Proof.Machine

/-! ## SPOKE (R267 to R270) -/

/-- Bits 63:52 of an address restored from its 52 bits (R102, R269). -/
def canonAddr (x : Nat) : DWord := (BitVec.ofNat 52 x).signExtend 64

/-- The matrix header (R269). -/
structure MxHeader where
  vfmt : Nat
  iw : Nat
  pw : Nat
  csc : Bool
  nnz : Nat
  cols : Nat
  rows : Nat
  val : DWord
  idx : DWord
  ptr : DWord

def MxHeader.ofBytes (bs : List Byte) : MxHeader :=
  let h := leNat bs
  { vfmt := bits h 255 251, iw := if bits h 250 250 = 1 then 4 else 2, pw := if bits h 249 249 = 1 then 8 else 4
    csc := bits h 248 248 = 1, nnz := bits h 247 212, cols := bits h 211 184, rows := bits h 183 156
    val := canonAddr (bits h 155 104), idx := canonAddr (bits h 103 52), ptr := canonAddr (bits h 51 0) }

/-- NP (R269). -/
def MxHeader.np (h : MxHeader) : Nat := if h.csc then h.cols else h.rows

/-- The conditions on the walker descriptor (R267, R268). -/
def walkDescTraps (d : List Byte) : List (Option Trap) :=
  [when' (decide (wordBits d 16 31 9 ≠ 0) || decide (fieldAt d 24 8 ≠ 0) || decide (wordBits d 16 8 0 < 1) ||
      decide (256 < wordBits d 16 8 0) || decide (fieldAt d 20 4 % 32 ≠ 0) || decide (fieldAt d 20 4 < 32) ||
      decide (2048 < fieldAt d 20 4)) (.of .bounds),
   when' (decide ((addrAt d 0).toNat % 32 ≠ 0)) (.atAddr .align (addrAt d 0)),
   when' (decide ((addrAt d 8).toNat % 4 ≠ 0)) (.atAddr .align (addrAt d 8))]

/-- An array that is not aligned to its element width. -/
def unaligned (a : DWord) (n : Nat) : Option Trap := when' (decide (a.toNat % n ≠ 0)) (.atAddr .align a)

/-- The conditions on the matrix header, for a tile depth (R267 to R269). -/
def headerTraps (h : MxHeader) (tk : Nat) : List (Option Trap) :=
  [when' (decide (h.cols = 0) || decide (h.rows = 0) || (decide (h.pw = 4) && decide (2 ^ 32 ≤ h.nnz)) ||
      decide (32768 < 128 * tk * fmtBits h.vfmt / 8)) (.of .bounds),
   unaligned h.ptr h.pw, unaligned h.idx h.iw, unaligned h.val (max 1 (fmtBits h.vfmt / 8)),
   when' (decide (h.vfmt < 1) || decide (24 < h.vfmt)) (.of .fmtbad)]

/-- What the issue of a `SPOKE` has read. -/
structure WalkPlan where
  desc : List Byte
  header : MxHeader
  prog : List Word

/-- The three reads with their checks, or the trap met. -/
def Lane.walkPlan (l : Lane) (a : DWord) : Except Trap WalkPlan :=
  match l.block a 64 64 with
  | .error t => .error t
  | .ok d =>
    match firstTrap (walkDescTraps d) with
    | some t => .error t
    | none =>
      match l.runScript (Script.read (addrAt d 0) 32) with
      | .error t => .error t
      | .ok hb =>
        let h := MxHeader.ofBytes hb
        match firstTrap (headerTraps h (fieldAt d 20 4)) with
        | some t => .error t
        | none =>
          match l.runScript (Script.readBytes (addrAt d 8) (4 * wordBits d 16 8 0)) with
          | .error t => .error t
          | .ok pb => .ok { desc := d, header := h, prog := wordsOf (wordBits d 16 8 0) pb }

/-- The contexts of a hub in use. -/
def State.contextsOf (s : State) (hub : Nat) : List Nat :=
  (s.walkers.filter (fun w => decide (w.ctx < 192) && decide (w.ctx / 4 = hub))).map (fun w => w.ctx)

/-- A free context of a hub. -/
def State.freeContext (s : State) (hub : Nat) : Option Nat :=
  (List.range' (4 * hub) 4).find? (fun c => !(s.contextsOf hub).contains c)

/-- A tile of zero codes. -/
def zeroTile (tk : Nat) : List Nat := List.replicate (128 * tk) 0

/-- A context at its start (R270). -/
def Lane.startWalk (l : Lane) (ctx op : Nat) (obj : Option Nat) (p : WalkPlan) : Walker :=
  let h := p.header
  let tk := fieldAt p.desc 20 4
  { ctx := ctx, last := ctx, team := l.s.cur.team, thr := l.th.idx, op := op, fn := l.tm.fn, priv := l.privileged, core := l.tm.core
    obj := obj, nanTrap := l.th.nanTrap
    regs := (List.range 16).map (fun i => if 1 ≤ i ∧ i ≤ 4 then addrAt p.desc (32 + 8 * (i - 1)) else 0)
    wpc := 0, row0 := 0, k0 := 0, prog := p.prog, tk := tk, vfmt := h.vfmt, iw := h.iw, pw := h.pw, nnz := h.nnz, np := h.np
    val := h.val, idx := h.idx, ptr := h.ptr, tile := zeroTile tk, buf := false, busy := [], posted := [], counted := 0
    causes := [], halted := false, stopped := none }

/-- The reads of a `SPOKE`'s issue count for its operation (R110). -/
def State.noteWalk (s : State) (l : Lane) (id : Nat) (p : WalkPlan) (a : DWord) : State :=
  let s := s.noteBlock l id a 64
  let s := s.noteBlock l id (addrAt p.desc 0) 32
  s.noteKeys l.tm.core id (l.scriptKeys (Script.readBytes (addrAt p.desc 8) (4 * p.prog.length)))

/-- One of those reads waits for a link to a host (R349). -/
def Lane.walkAway (l : Lane) (a : DWord) : Bool :=
  l.scriptAway ((Script.read a 64).bind (fun d => (Script.read (addrAt d 0) 32).bind (fun _ =>
    Script.readBytes (addrAt d 8) (4 * wordBits d 16 8 0))))

/-- `SPOKE`: held until a context of the hub is free and its reads have been made (R267). -/
def execSpoke (a b : BitVec 7) (f : BitVec 4) (s : State) : Host.Outcome State Fault Refusal :=
  runSeq (.spoke a b f) s (fun l => l.waitsToRead || l.walkAway (l.pair a)) (fun l =>
    match l.barrierWord (l.reg b) with
    | .error t => (.trap t, id)
    | .ok obj => match l.walkPlan (l.pair a) with
      | .error t => (.trap t, id)
      | .ok p => match l.s.freeContext (hubOf l.tm.core) with
        | none => (.hold, id)
        | some c => (.done { flag := f.toNat, op := some (.spoke c) }, fun s =>
            let op := s.nextId - 1
            let s := s.noteWalk l op p (l.pair a)
            { s with walkers := s.walkers ++ [l.startWalk c op obj p] }))

/-! ## Words (R271, R272) -/

/-- Register w0 reads 0 (R270). -/
def Walker.reg (w : Walker) (r : BitVec 4) : DWord := if r = 0 then 0 else w.regs.getD r.toNat 0

/-- A write of w0 is discarded (R270). -/
def Walker.put (w : Walker) (r : BitVec 4) (v : DWord) : Walker :=
  if r = 0 then w else { w with regs := w.regs.set r.toNat v }

/-- What a word does in its context. -/
inductive WalkOut where
  /-- The context with its next word, and what follows in the state. -/
  | go (w : Walker) (target : Int) (after : State → State)
  | halt
  | fault (c : Cause) (addr : DWord)
  | wait

/-- On to the next word. -/
def Walker.then' (w : Walker) : WalkOut := .go w (w.wpc + 1) id

/-- The next word or the branch target (R271). -/
def Walker.branch (w : Walker) (taken : Bool) (disp : BitVec 15) : WalkOut :=
  .go w (if taken then w.wpc + disp.toInt else w.wpc + 1) id

/-- A context may run its next word: its walk has its place in the store order (R273), its team is resident, it
has not ended, and the engine does not own its buffer (R274). -/
def State.walkRuns (s : State) (w : Walker) : Bool :=
  !w.halted && w.stopped.isNone && !w.busy.any (fun b => b.2 = w.buf) && decide (w.ctx < 192) && s.engineReady w.core w.op &&
  (match s.teams[w.team]? with | some t => decide (t.status = .resident) | none => false)

def State.setWalker (s : State) (w : Walker) : State :=
  { s with walkers := s.walkers.map (fun x => if x.op = w.op then w else x) }

/-- A word's effect on the state. A next word outside the program is a walker fault (R272). -/
def State.walkOut (s : State) (w : Walker) : WalkOut → State
  | .wait => s
  | .halt => s.setWalker { w with halted := true }
  | .fault c a => s.setWalker { w with stopped := some (c, a) }
  | .go w' target after =>
    if 0 ≤ target ∧ target < w.prog.length then after (s.setWalker { w' with wpc := target.toNat })
    else after (s.setWalker { w' with stopped := some (.illop, 0) })

/-- A word executed in the walker context that `step` has set. -/
def walkWord (s : State) (f : Walker → WalkOut) : Host.Outcome State Fault Refusal :=
  match s.walkers.find? (fun w => w.ctx = s.cur.walker) with
  | none => .fault .noIssuer
  | some w => .next (if s.walkRuns w then s.walkOut w (f w) else s)

/-- On whose behalf a walker reads. -/
def Walker.who (w : Walker) : Accessor := { core := w.core, fn := w.fn, priv := w.priv, lane := 1536 + w.op % 256 }

/-- Bytes read at their home slice (R273), with their keys. What lies at a host is asked for on a link (R349). The reads
of a walker are no read transactions of R110 (R273). -/
def State.walkRead (s : State) (w : Walker) (va : DWord) (n : Nat) : Except EngFault (List Nat × List Byte) :=
  match keysOf (fun a => s.translate w.who .load a 1) va n with
  | .error f => .error (s.engFault w.who .load f)
  | .ok (ks, _) => if ks.any (fun k => s.poisoned k 1) then .error (.mchk, 0) else .ok (ks, ks.map s.byte)

/-- A load word: the index requirement, then the element (R272). -/
def State.walkLoad (s : State) (w : Walker) (d a : BitVec 4) (i : BitVec 15) (ok : Nat → Bool)
    (at' : Nat → DWord × Nat) (value : Nat → Nat → Nat) : WalkOut :=
  let ix := (w.reg a + i.signExtend 64).toNat
  if !ok ix then .fault .bounds 0
  else if s.placesAway w.who .load (at' ix).1 (at' ix).2 then .wait
  else match s.walkRead w (at' ix).1 (at' ix).2 with
    | .error e => .fault e.1 e.2
    | .ok (ks, bs) => .go (w.put d (BitVec.ofNat 64 (value ix (leNat bs)))) (w.wpc + 1) (fun s => s.askHost ks)

/-- `HALTW` (R275). -/
def execHaltw (s : State) : Host.Outcome State Fault Refusal := walkWord s (fun _ => .halt)

/-- `LDP` (R272). -/
def execLdp (d a : BitVec 4) (i : BitVec 15) (s : State) : Host.Outcome State Fault Refusal :=
  walkWord s (fun w => s.walkLoad w d a i (fun x => decide (x ≤ w.np))
    (fun x => (w.ptr + BitVec.ofNat 64 (x * w.pw), w.pw)) (fun _ v => v))

/-- `LDX` (R272). -/
def execLdx (d a : BitVec 4) (i : BitVec 15) (s : State) : Host.Outcome State Fault Refusal :=
  walkWord s (fun w => s.walkLoad w d a i (fun x => decide (x < w.nnz))
    (fun x => (w.idx + BitVec.ofNat 64 (x * w.iw), w.iw)) (fun _ v => v))

/-- `LDVAL`: sub-byte values are packed (R123, R272). -/
def execLdval (d a : BitVec 4) (i : BitVec 15) (s : State) : Host.Outcome State Fault Refusal :=
  walkWord s (fun w =>
    let n := fmtBits w.vfmt
    s.walkLoad w d a i (fun x => decide (x < w.nnz))
      (fun x => (w.val + BitVec.ofNat 64 (x * n / 8), max 1 (n / 8))) (fun x v => v / 2 ^ (x * n % 8) % 2 ^ n))

/-- `ADDW` (R272). -/
def execAddw (d a b : BitVec 4) (i : BitVec 15) (s : State) : Host.Outcome State Fault Refusal :=
  walkWord s (fun w => (w.put d (w.reg a + w.reg b + i.signExtend 64)).then')

/-- `SUBW` (R272). -/
def execSubw (d a b : BitVec 4) (i : BitVec 15) (s : State) : Host.Outcome State Fault Refusal :=
  walkWord s (fun w => (w.put d (w.reg a - w.reg b + i.signExtend 64)).then')

/-- `CMPW` (R272). -/
def execCmpw (d a b : BitVec 4) (s : State) : Host.Outcome State Fault Refusal :=
  walkWord s (fun w =>
    (w.put d (if w.reg a = w.reg b then 0 else if (w.reg b).ult (w.reg a) then 1 else BitVec.allOnes 64)).then')

/-- `BLTW` (R272). -/
def execBltw (a b : BitVec 4) (i : BitVec 15) (s : State) : Host.Outcome State Fault Refusal :=
  walkWord s (fun w => w.branch ((w.reg a).ult (w.reg b)) i)

/-- `BNEW` (R272). -/
def execBnew (a b : BitVec 4) (i : BitVec 15) (s : State) : Host.Outcome State Fault Refusal :=
  walkWord s (fun w => w.branch (decide (w.reg a ≠ w.reg b)) i)

/-- `LOOP` (R272). -/
def execLoop (d : BitVec 4) (i : BitVec 15) (s : State) : Host.Outcome State Fault Refusal :=
  walkWord s (fun w =>
    if d = 0 then .fault .illop 0
    else (w.put d (w.reg d - 1)).branch (decide (w.reg d - 1 ≠ 0)) i)

/-- `SKIP` (R272). -/
def execSkip (a b : BitVec 4) (s : State) : Host.Outcome State Fault Refusal :=
  walkWord s (fun w => .go w (if w.reg a = w.reg b then w.wpc + 2 else w.wpc + 1) id)

/-- `SETT` (R272). -/
def execSett (a b : BitVec 4) (s : State) : Host.Outcome State Fault Refusal :=
  walkWord s (fun w => ({ w with row0 := w.reg a, k0 := w.reg b } : Walker).then')

/-- `EMIT`: outside the tile it has no effect (R272). -/
def execEmit (d a b : BitVec 4) (s : State) : Host.Outcome State Fault Refusal :=
  walkWord s (fun w =>
    let i := (w.reg a - w.row0).toNat
    let k := (w.reg b - w.k0).toNat
    if i < 128 ∧ k < w.tk then
      ({ w with tile := w.tile.set (i * w.tk + k) ((w.reg d).toNat % 2 ^ fmtBits w.vfmt) } : Walker).then'
    else w.then')

/-- The conditions on a posted descriptor beyond R252: the operand is the tile (R274). -/
def Walker.tileTraps (w : Walker) (d : MxDesc) : List (Option Trap) :=
  [when' (decide (d.klen ≠ w.tk)) (.of .bounds), when' (decide (d.afmt ≠ w.vfmt)) (.of .fmtbad)]

/-- The call a walker posts on its thread's behalf (R274, R308). -/
def State.walkerCall (s : State) (w : Walker) (d : MxDesc) : MxCall :=
  { id := s.nextId, hub := hubOf w.core, join := none, signers := []
    issuers := [{ team := w.team, thr := w.thr, op := w.op, flag := match s.op? w.op with | some o => o.flag | none => 0 }]
    desc := d, fn := w.fn, priv := w.priv, cls := s.effClass w.team w.thr, passed := 0, obj := none
    nanTrap := w.nanTrap, walk := true, tile := w.tile, cols := [] }

/-- The lane of a walker's thread, with the walk's privilege. -/
def State.walkLane (s : State) (w : Walker) : Option Lane :=
  (s.teams[w.team]?).bind (fun tm => (tm.threads[w.thr]?).map (fun th =>
    { s := s, tm := tm, th := { th with st := if w.priv then .trapped else .active } }))

/-- `FLUSH`: the current buffer goes to the engine as the A operand of a posted `MMAS`, and the context goes on
with zero codes (R274). A full reservation table holds the context. -/
def execFlush (a : BitVec 4) (s : State) : Host.Outcome State Fault Refusal :=
  walkWord s (fun w =>
    let va := w.reg a
    if va.toNat % 64 ≠ 0 then .fault .align va
    else if s.placesAway w.who .load va 64 then .wait
    else match s.walkRead w va 64, s.walkLane w with
      | .error e, _ => .fault e.1 e.2
      | _, none => .wait
      | .ok (ks, bs), some l =>
        let d := MxDesc.ofBytes bs
        match firstTrap (l.descTraps bs false true ++ w.tileTraps d) with
        | some t => .fault t.cause t.addr
        | none =>
          if s.tableFull (hubOf w.core) then .wait
          else .go { w with tile := zeroTile w.tk, buf := !w.buf, busy := w.busy ++ [(s.nextId, w.buf)], posted := w.posted ++ [s.nextId] }
            (w.wpc + 1) (fun s' => (s'.askHost ks).postCall (s.walkerCall w d)))

/-! ## The end of a walk (R275, R276) -/

/-- The causes a walk leaves, in the order of their calls, the walker's own fault last. -/
def Walker.leaves (w : Walker) : List Trap :=
  ((sortBy id ((w.causes.map Prod.fst).eraseDups)).flatMap (fun c => (w.causes.filter (fun p => p.1 = c)).map Prod.snd)) ++
  (match w.stopped with
   | some f => [{ cause := .engfault, addr := EngFault.addr f, info := engineInfo 0 (w.last / 4) (w.last % 4) f.1 0 (w.wpc % 256) }]
   | none => [])

/-- A walk that waits after a restore takes a context of its hub that has become free. -/
def State.takeContext (s : State) (w : Walker) : State :=
  if decide (192 ≤ w.ctx) && (match s.teams[w.team]? with | some t => decide (t.status = .resident) | none => false) then
    match s.freeContext (hubOf w.core) with
    | some c => s.setWalker { w with ctx := c, last := c }
    | none => s
  else s

/-- Every walk that waits does so where it can, in the order of their issue. -/
def State.handContexts (s : State) : State := s.walkers.foldl State.takeContext s

/-- A walk whose calls have all completed ends: its bytes are counted unless a fault stopped it, its causes are held on
the `SPOKE` flag, and the flag completes. -/
def State.spokeComplete (s : State) (ctx : Nat) : State :=
  match s.walkers.find? (fun w => w.ctx = ctx) with
  | none => s
  | some w =>
    if !(w.halted || w.stopped.isSome) || !w.posted.isEmpty then s
    else
      let s1 := { s with walkers := s.walkers.filter (fun x => x.op ≠ w.op) }
      let s2 := match w.obj with
        | some b => if w.stopped.isNone && decide (0 < w.counted) then s1.barCount w.team b w.counted else s1
        | none => s1
      let s3 := match s2.op? w.op with
        | some o =>
          let s := s2.modThread w.team w.thr (fun th =>
            { th with held := th.held ++ w.leaves.map (fun t => ({ flag := o.flag, order := o.id, trap := t } : Deferred)) })
          s.completeOp o [] none
        | none => s2
      s3.handContexts

/-- `SPOKE_COMPLETE`. -/
def execSpokeComplete (ctx : Nat) (s : State) : Host.Outcome State Fault Refusal := .next (s.spokeComplete ctx)

end Sys2Proof.Machine
end

