-- ==== Sys2Proof/Machine/Taps.lean ====
section
/-!
DEFINITION. Taps (R280 to R285, R306, R307) and the installation of their tables (R282, R345).
-/

namespace Sys2Proof.Machine

/-! ## Tables (R280, R281) -/

/-- One probe of an entry. -/
structure Probe where
  addr : DWord
  thresh : Word
  below : Bool           -- SENSE
  action : Nat           -- 0 TRAP, 1 COUNT, 2 STEER
  post : Bool            -- MODE
  sid : Nat
  coef : Word            -- the BF16 coefficient as FP32

/-- A BF16 code as an FP32 word. -/
def bf16Word (n : Nat) : Word := BitVec.ofNat 32 (n % 65536 * 65536)

/-- Probe k of a 512-byte entry. -/
def Probe.ofEntry (e : List Byte) (k : Nat) : Probe :=
  let o := 32 + 16 * k
  { addr := addrAt e o, thresh := BitVec.ofNat 32 (fieldAt e (o + 8) 4), below := bits (fieldAt e (o + 12) 4) 0 0 = 1
    action := bits (fieldAt e (o + 12) 4) 2 1, post := bits (fieldAt e (o + 12) 4) 3 3 = 1, sid := bits (fieldAt e (o + 12) 4) 15 8
    coef := bf16Word (bits (fieldAt e (o + 12) 4) 31 16) }

/-- An entry of the probe table. -/
structure TapEntry where
  nprobe : Nat
  normk : Nat
  len : Nat
  gain : DWord
  probes : List Probe

def TapEntry.ofBytes (e : List Byte) : TapEntry :=
  let n := bits (fieldAt e 0 4) 4 0
  { nprobe := n, normk := bits (fieldAt e 0 4) 15 8, len := fieldAt e 4 4, gain := addrAt e 8
    probes := (List.range n).map (Probe.ofEntry e) }

/-- Bytes [o, o + n) are zero. -/
def zeroBytes (bs : List Byte) (o n : Nat) : Bool := ((bs.drop o).take n).all (· = 0)

/-- The limits of R280 on one entry. -/
def probeEntryOk (e : List Byte) : Bool :=
  let w := fieldAt e 0 4
  let t := TapEntry.ofBytes e
  decide (t.nprobe ≤ 16) && decide (bits w 7 5 = 0) && decide (bits w 31 16 = 0) &&
  [12, 14, 16, 18, 20].contains t.normk && decide (1 ≤ t.len) && decide (t.len ≤ 16384) &&
  decide (t.gain.toNat % 4 = 0) && zeroBytes e 16 16 && zeroBytes e 288 224 &&
  zeroBytes e (32 + 16 * t.nprobe) (256 - 16 * t.nprobe) &&
  (List.range t.nprobe).all (fun k =>
    let p := Probe.ofEntry e k
    decide (p.addr.toNat % 2 = 0) && !f32IsNaN p.thresh && decide (p.action ≠ 3) &&
    decide (bits (fieldAt e (44 + 16 * k) 4) 7 4 = 0))

/-- The limits of R281 on one entry. -/
def steerEntryOk (e : List Byte) : Bool :=
  decide ((addrAt e 0).toNat % 2 = 0) && decide (1 ≤ fieldAt e 8 4) && decide (fieldAt e 8 4 ≤ 16384) &&
  decide (fieldAt e 12 4 = 0)

def probeTableOk (bs : List Byte) : Bool := (List.range 64).all (fun n => probeEntryOk ((bs.drop (512 * n)).take 512))
def steerTableOk (bs : List Byte) : Bool := (List.range 256).all (fun n => steerEntryOk ((bs.drop (16 * n)).take 16))

/-- The entry of a point in a generation. -/
def TapGen.entry (g : TapGen) (point : Nat) : TapEntry := .ofBytes ((g.probe.drop (512 * point)).take 512)

/-- The lowest POST probe of an entry. -/
def TapEntry.firstPost (e : TapEntry) : Option Nat := (List.range e.nprobe).find? (fun k => ((e.probes[k]?).map (fun p => p.post)).getD false)

/-! ## TAPLD (R282, R335, R345) -/

/-- Poison read by a parking instruction is reported at its sector (R335). -/
def Trap.atSector (t : Trap) : Trap := if t.cause = .mchk then { t with addr := t.addr &&& ~~~31#64 } else t

/-- The two tables, read whole and checked. -/
def tapTables (probe steer : DWord) : Script (List Byte × List Byte) :=
  (Script.readBytes probe 32768).bind (fun p => (Script.readBytes steer 4096).bind (fun t =>
    (Script.check (probeTableOk p && steerTableOk t) .bounds).bind (fun _ => .done (p, t))))

/-- The tables of a `TAPLD` that has waited longest become the current generation, while the unit keeps fewer than
two; its thread continues (R282, R345). -/
def State.tapInstall (s : State) : State :=
  match s.tapWait with
  | [] => s
  | (k, j, p, t) :: rest =>
    if 2 ≤ s.tapGens.length then s
    else
      let s := { s with
        tapWait := rest, tapGen := s.tapGen + 1
        tapGens := { gen := s.tapGen + 1, probe := p, steer := t } :: s.tapGens }
      s.releaseWhere (fun k' j' th => decide (k' = k) && decide (j' = j) && (match th.why with | .tapld _ => true | _ => false))

/-- What each page of n bytes from an address meets when it is translated for an access. -/
def Lane.pageTraps (l : Lane) (va : DWord) (n : Nat) (kind : Access) : List (Option Trap) :=
  (List.range ((va.toNat % 65536 + n - 1) / 65536 + 1)).map (fun i =>
    let a := if i = 0 then va else va - BitVec.ofNat 64 (va.toNat % 65536) + BitVec.ofNat 64 (65536 * i)
    match l.s.pageOf l.who kind a with
    | .error c => some (.atAddr c a)
    | .ok _ => none)

/-- What a `TAPLD` reads, or the trap it meets: its checks come before any change (R334), those of both addresses before
either table is read (R62). -/
def tapldLane (a b : BitVec 7) (l : Lane) : Except Trap (List Byte × List Byte) :=
  match firstTrap ([when' (decide ((l.pair a).toNat % 512 ≠ 0)) (.atAddr .align (l.pair a)),
      when' (decide ((l.pair b).toNat % 16 ≠ 0)) (.atAddr .align (l.pair b))] ++
      l.pageTraps (l.pair a) 32768 .load ++ l.pageTraps (l.pair b) 4096 .load) with
  | some t => .error t
  | none => match l.runScript (tapTables (l.pair a) (l.pair b)) with
    | .error t => .error t.atSector
    | .ok r => .ok r

/-! ## TAP and TAP.NORM (R283 to R285, R306) -/

/-- The thread's record in the sequence region, if the region has it (R224, R315). -/
def State.recordOf (s : State) (fn : Nat) (seq : Word) : Option DWord :=
  let sp := s.space fn
  if 512 * seq.toNat + 512 ≤ sp.sqlen.toNat then some (sp.sqbase + BitVec.ofNat 64 (512 * seq.toNat)) else none

/-- `TRAPINFO` of `TAPHIT` and `TAPMODE` (R285). -/
def tapInfo (nhit point probe : Nat) : DWord := BitVec.ofNat 64 (nhit * 2 ^ 16 + point * 2 ^ 8 + probe)

/-- What a tap is at issue, or the trap it meets. -/
def Lane.tapJob (l : Lane) (b : BitVec 7) (row : DWord) (out : Option DWord) : Except Trap TapJob :=
  let point := (l.reg b).toNat
  match l.s.tapGens with
  | [] => .error (.of .bounds)
  | g :: _ =>
    if 64 ≤ point then .error (.of .bounds)
    else
      let e := g.entry point
      let outs := out.toList
      let page (kind : Access) (a : DWord) : Option Trap := match l.s.pageOf l.who kind a with
        | .error c => some (.atAddr c a)
        | .ok _ => none
      match firstTrap ([unalignedWord row] ++ outs.map unalignedWord ++ [page .atomic row] ++ outs.map (page .store)) with
      | some t => .error t
      | none =>
        match if out.isSome then e.firstPost else none with
        | some k => .error { cause := .tapmode, addr := 0, info := tapInfo 0 point k }
        | none => .ok { fn := l.tm.fn, priv := l.privileged, core := l.tm.core, gen := g.gen, point := point
                        record := l.s.recordOf l.tm.fn l.th.seq, row := row, out := out, log := [] }
where
  unalignedWord (a : DWord) : Option Trap := when' (decide (a.toNat % 4 ≠ 0)) (.atAddr .align a)

/-- A tap of each member. -/
def tapLanes (i : Instr) (f : BitVec 4) (b : BitVec 7) (row : Lane → DWord) (out : Lane → Option DWord) (s : State) :
    Host.Outcome State Fault Refusal :=
  runLanes i s (fun l =>
    match l.tapJob b (row l) (out l) with
    | .error t => .trap t
    | .ok j => l.access (.done { flag := f.toNat, op := some (.tap j) }))

/-- `TAP` (R306). -/
def execTap (a b : BitVec 7) (f : BitVec 4) (s : State) : Host.Outcome State Fault Refusal :=
  tapLanes (.tap a b f) f b (fun l => l.pair a) (fun _ => none) s

/-- `TAP.NORM` (R306). -/
def execTapNorm (a b : BitVec 7) (f : BitVec 4) (s : State) : Host.Outcome State Fault Refusal :=
  tapLanes (.tapNorm a b f) f b (fun l => l.pair a) (fun l => some (l.pair (a + 2))) s

/-- The value of a probe on a row (R283). -/
def probeValue (v x : List Word) : Word :=
  f32Round ((v.zip x).foldl (fun t p => t.add ((f32Val p.1).mul (f32Val p.2))) (.fin false 0 0))

/-- A probe is crossed (R283). -/
def Probe.hit (p : Probe) (val : Word) : Bool :=
  f32IsNaN val ||
  (if p.below then !(f32Val p.thresh).lt (f32Val val) else !(f32Val val).lt (f32Val p.thresh))

/-- Words of n bytes each, read with privilege in ascending order. -/
def Script.vector (va : DWord) (size n : Nat) (word : Nat → Word) : Script (List Word) :=
  Script.each (List.range n) [] (fun acc i =>
    (Script.get (.read (va + BitVec.ofNat 64 (size * i)) size true)).bind (fun a => .done (acc ++ [word (leNat a.bytes)])))

/-- A steering vector added with a coefficient, each element rounded once (R281, R283). -/
def Script.steer (table : List Byte) (id : Nat) (coef : Word) (x : List Word) : Script (List Word) :=
  let e := (table.drop (16 * id)).take 16
  if addrAt e 0 = 0 then .done x
  else
    let n := min (fieldAt e 8 4) x.length
    (Script.vector (addrAt e 0) 2 n bf16Word).bind (fun v =>
      .done (x.zipIdx.map (fun p => if p.2 < n then f32Fma coef (v.getD p.2 0) p.1 else p.1)))

/-- The normalised row (R164, R283). -/
def normRow (k : Nat) (x g : List Word) : List Word :=
  if x.any f32IsNaN then x.map (fun _ => f32NaN)
  else
    let ss := x.foldl (fun t w => t.add ((f32Val w).mul (f32Val w))) (.fin false 0 0)
    let r := rmsScale k x.length ss
    (x.zip g).map (fun p => f32Mul (f32Mul p.1 r) p.2)

/-- How a tap ends: the number of `TRAP` probes crossed, and the lowest. -/
structure TapEnd where
  nhit : Nat
  probe : Nat

/-- The number of steering ids in use; the manual gives a count above 4 no meaning. -/
def Script.steerCount (n : Nat) : Script Nat :=
  if n ≤ 4 then .done n else (Script.get (.free 0)).bind (fun a => .done (leNat a.bytes % 5))

/-- Line 1 of the record, in one read; without a record it reads as 0 (R224, R283). -/
def TapJob.line1 (j : TapJob) : Script (List Byte) :=
  match j.record with
  | none => .done (List.replicate 128 0)
  | some r => Script.read (r + 128) 128

/-- The probes of a tap in order, each with its value. -/
def TapJob.probes (e : TapEntry) (on : Bool) (x : List Word) : Script (List (Nat × Probe × Bool)) :=
  if !on then .done []
  else Script.each e.probes.zipIdx [] (fun acc p =>
    (Script.vector p.1.addr 2 e.len bf16Word).bind (fun v => .done (acc ++ [(p.2, p.1, p.1.hit (probeValue v x))])))

/-- A saturating add to `TAPHITS`, with privilege (R224, R283). -/
def TapJob.count (j : TapJob) (n : Nat) : Script Unit :=
  match j.record with
  | none => .done ()
  | some r =>
    if n = 0 then .done ()
    else (Script.get (.rmw (r + 160) 4 true (fun old _ =>
      some (leBytes 4 (min (leNat old + n) 0xFFFFFFFF))))).bind (fun _ => .done ())

/-- The output row (R283, step 4). -/
def TapJob.norm (j : TapJob) (e : TapEntry) (x : List Word) : Script Unit :=
  match j.out with
  | none => .done ()
  | some o =>
    let gain : Script (List Word) := if e.gain = 0 then .done (List.replicate e.len 0x3F800000#32)
      else Script.vector e.gain 4 e.len (fun n => BitVec.ofNat 32 n)
    gain.bind (fun g => Script.writeWords o (normRow e.normk x g))

/-- The whole tap (R283). -/
def TapJob.script (j : TapJob) (g : TapGen) : Script TapEnd :=
  let e := g.entry j.point
  j.line1.bind (fun l1 =>
    let on := (fieldAt l1 0 8).testBit j.point
    (Script.readBytes j.row (4 * e.len)).bind (fun rb =>
      let x := wordsOf e.len rb
      (TapJob.probes e on x).bind (fun ps =>
        (Script.steerCount (bits (fieldAt l1 12 4) 2 0)).bind (fun n =>
          (Script.each (if on then List.range n else []) x (fun x i =>
            Script.steer g.steer (fieldAt l1 (8 + i) 1) (BitVec.ofNat 32 (fieldAt l1 (16 + 4 * i) 4)) x)).bind (fun x =>
            (Script.each (ps.filter (fun p => p.2.2 && decide (p.2.1.action = 2))) x (fun x p =>
              Script.steer g.steer p.2.1.sid p.2.1.coef x)).bind (fun x =>
              (Script.writeWords j.row x).bind (fun _ =>
                (j.norm e x).bind (fun _ =>
                  (j.count (ps.filter (fun p => p.2.2 && decide (p.2.1.action = 1))).length).bind (fun _ =>
                    let hits := ps.filter (fun p => p.2.2 && decide (p.2.1.action = 0))
                    .done { nhit := hits.length, probe := (hits.head?.map Prod.fst).getD 0 })))))))))

/-! ## A tap in progress -/

/-- The generation a tap issued under. -/
def State.genOf (s : State) (j : TapJob) : Option TapGen := s.tapGens.find? (fun g => g.gen = j.gen)

/-- One access of a tap. -/
def State.tapStep (s : State) (o : Op) (j : TapJob) : State :=
  if !s.engineReady j.core o.id then s
  else match s.genOf j with
    | none => s
    | some g => match (j.script g).resume j.log with
      | .ask r _ =>
        if s.away (s.engOf o j.fn j.priv) r then s
        else
          let p := s.answer (s.engOf o j.fn j.priv) r
          p.1.setOpKind o.id (.tap { j with log := j.log ++ [p.2] })
      | _ => s

/-- A tap ends: `TAPHIT` or `ENGFAULT` held on its flag, or neither (R285, R306). -/
def State.tapEnd (s : State) (id : Nat) : State :=
  match s.op? id with
  | none => s
  | some o => match o.kind with
    | .tap j =>
      if !s.engineReady j.core id then s
      else match s.genOf j with
        | none => s
        | some g =>
          if State.scriptAway (s.engOf o j.fn j.priv) ((j.script g).resume j.log) s then s
          else match State.runScript (s.engOf o j.fn j.priv) ((j.script g).resume j.log) s with
          | (s', .ok r) => s'.completeOp o [] (if r.nhit = 0 then none
              else some { cause := .taphit, addr := 0, info := tapInfo r.nhit j.point r.probe })
          | (s', .error f) => s'.completeOp o [] (some (engineTrap j.core 0 0 5 f))
    | _ => s

/-- `TAP_COMPLETE`. -/
def execTapComplete (op : Nat) (s : State) : Host.Outcome State Fault Refusal := .next (s.tapEnd op)

/-- A tap that issued under a generation is still running. -/
def State.tapRuns (s : State) (gen : Nat) : Bool :=
  s.ops.any (fun o => match o.kind with | .tap j => decide (j.gen = gen) | _ => false)

/-- The older of two generations retires once no tap runs under it, and a waiting `TAPLD` installs its own
(R282). -/
def State.tapRetire (s : State) : State :=
  match s.tapGens with
  | [new, old] => if s.tapRuns old.gen then s else State.tapInstall { s with tapGens := [new] }
  | _ => s

/-- `TAP_GENERATION_RETIRE`. -/
def execTapGenerationRetire (s : State) : Host.Outcome State Fault Refusal := .next s.tapRetire

/-- The operands of `TAPLD`: an address pair in each of a and b. -/
def tapldForm (a b : BitVec 7) : Form := .of [.read a 2, .read b 2] true

/-- `TAPLD`: privileged; its thread parks until its generation is current (R345). -/
def execTapld (a b : BitVec 7) (s : State) : Host.Outcome State Fault Refusal :=
  runFormThen (tapldForm a b) s (fun l =>
    .guard (!l.privileged) (.of .priv)
      (if l.waitsToRead || l.scriptAway (tapTables (l.pair a) (l.pair b)) then .hold
       else match tapldLane a b l with
        | .error t => .trap t
        | .ok _ => .done { upd := Thread.park (.tapld 0) }))
    (fun ls s => ls.foldl (fun s l =>
      match tapldLane a b l with
      | .ok (p, t) => State.tapInstall { s with tapWait := s.tapWait ++ [(s.cur.team, l.th.idx, p, t)] }
      | .error _ => s) (s.readScripts ls (fun l => tapTables (l.pair a) (l.pair b))))

/-! ## TAPQ (R307) -/

/-- The 16-byte record of `TAPQ`. -/
def State.tapRecord (s : State) (point : Nat) (line1 : List Byte) : List Byte :=
  let e := (s.tapGens.head?).map (fun g => g.entry point)
  let nprobe := (e.map (fun e => e.nprobe)).getD 0
  let normk := (e.map (fun e => e.normk)).getD 0
  let post := (e.map (fun e => e.firstPost.isSome)).getD false
  let w := nprobe + normk * 2 ^ 8 + (if (fieldAt line1 0 8).testBit point then 2 ^ 16 else 0) + (if post then 2 ^ 17 else 0)
  leBytes 4 s.tapGen ++ leBytes 4 w ++ leBytes 4 ((e.map (fun e => e.len)).getD 0) ++ leBytes 4 (fieldAt line1 32 4)

/-- What `TAPQ` reads of the thread's line 1. -/
def Lane.line1Script (l : Lane) : Script (List Byte) :=
  match l.s.recordOf l.tm.fn l.th.seq with
  | none => .done (List.replicate 128 0)
  | some r => Script.read (r + 128) 128

/-- The thread's line 1 as `TAPQ` reads it. -/
def Lane.line1 (l : Lane) : Except Trap (List Byte) := l.runScript l.line1Script

/-- `TAPQ`: one 16-byte store (R307). -/
def execTapq (a b : BitVec 7) (s : State) : Host.Outcome State Fault Refusal :=
  runLanesThen (.tapq a b) s (fun l =>
    let va := l.pair a
    if l.waitsToRead || l.scriptAway l.line1Script then .hold
    else if 64 ≤ (l.reg b).toNat then .trap (.of .bounds)
    else if va.toNat % 16 ≠ 0 then .trap (.atAddr .align va)
    else match l.s.translate l.who .store va 16 with
      | .error c => .trap (.atAddr c va)
      | .ok (k, _) => match l.line1 with
        | .error t => .trap t
        | .ok l1 => .done { acts := [(none, .store k (l.s.tapRecord (l.reg b).toNat l1))] })
    (fun ls s => s.readScripts ls Lane.line1Script)

end Sys2Proof.Machine
end

