-- ==== Sys2Proof/Machine/Queues.lean ====
section
/-!
DEFINITION. Queues, launch packets, placement and completion (R312 to R320, R360), and device-side launch: `QPOST`
and `LAUNCH` (R346, R347).
-/

namespace Sys2Proof.Machine

/-! ## Register blocks (R312, R348) -/

/-- A queue after reset. -/
def Queue.idle (key : Nat) : Queue :=
  { key := key, fn := key / 128, base := 0, en := false, log2 := 0, tail := 0, head := 0, err := false, ecode := 0
    epkt := 0, posted := [], cur := none, reserved := [] }

/-- Keys of a function: host queues 0 to 15, device queues from 16. -/
def hostQueue (fn q : Nat) : Nat := fn * 128 + q
def deviceQueue (fn q : Nat) : Nat := fn * 128 + 16 + q
/-- The private queue of a `LAUNCH` operation. -/
def launchQueue (op : Nat) : Nat := 17 * 128 + op

/-- A key that names a host queue or a device queue of one of the 17 functions. -/
def queueExists (key : Nat) : Bool := decide (key < 17 * 128) && decide (key % 128 < 80)

def State.queue (s : State) (key : Nat) : Queue := (s.queues.find? (fun q => q.key = key)).getD (.idle key)

def State.setQueue (s : State) (q : Queue) : State :=
  if s.queues.any (fun x => x.key = q.key) then
    { s with queues := s.queues.map (fun x => if x.key = q.key then q else x) }
  else { s with queues := s.queues ++ [q] }

def State.dropQueue (s : State) (key : Nat) : State := { s with queues := s.queues.filter (fun q => q.key ≠ key) }

/-- An error of a queue is reported with its interrupt. -/
def State.queueError (s : State) (key : Nat) (code : BitVec 8) : State :=
  (s.setQueue { s.queue key with err := true, ecode := code }).queueIrq key

/-- A write of a queue's register block, for a queue that exists. -/
def onQueue (s : State) (q : Nat) (f : Queue → State) : Host.Outcome State Fault Refusal :=
  .next (if queueExists q then f (s.queue q) else s)

/-- `QBASE_WRITE`: misaligned, it is discarded with `CFGBAD` (R360). -/
def execQbaseWrite (q : Nat) (v : DWord) (s : State) : Host.Outcome State Fault Refusal :=
  onQueue s q (fun x => if v.toNat % 64 ≠ 0 then s.queueError q 0x0A else s.setQueue { x with base := v })

/-- `QLOG2_WRITE`: the word at 0x08; outside its limits it is discarded whole with `CFGBAD` (R312, R360). -/
def execQlog2Write (q : Nat) (v : Word) (s : State) : Host.Outcome State Fault Refusal :=
  onQueue s q (fun x =>
    if bits v.toNat 4 0 < 1 ∨ 16 < bits v.toNat 4 0 ∨ bits v.toNat 30 5 ≠ 0 then s.queueError q 0x0A
    else s.setQueue { x with en := v.msb, log2 := bits v.toNat 4 0 })

/-- `QUEUE_ENABLE`: `QEN` set to 1; the queue resumes at the packet after the last it has passed (R318). The write
goes through the same check as any of the word at 0x08 (R360). -/
def execQueueEnable (q : Nat) (s : State) : Host.Outcome State Fault Refusal :=
  onQueue s q (fun x => if x.log2 < 1 then s.queueError q 0x0A else s.setQueue { x with en := true })

/-- `QTAIL_WRITE` (R313). -/
def execQtailWrite (q : Nat) (v : DWord) (s : State) : Host.Outcome State Fault Refusal :=
  onQueue s q (fun x =>
    if v.toNat < x.tail.toNat ∨ x.head.toNat + 2 ^ x.log2 < v.toNat then s.queueError q 0x08
    else s.setQueue { x with tail := v })

/-- `ERR_CLEAR` (R312). -/
def execErrClear (q : Nat) (s : State) : Host.Outcome State Fault Refusal :=
  onQueue s q (fun x => s.setQueue { x with err := false })

/-! ## Packets (R314) -/

namespace Packet

def word (p : Packet) (o hi lo : Nat) : Nat := wordBits p.bytes o hi lo
def kaddr (p : Packet) : DWord := addrAt p.bytes 0
def args (p : Packet) : DWord := addrAt p.bytes 8
def csig (p : Packet) : DWord := addrAt p.bytes 16
def cval (p : Packet) : DWord := addrAt p.bytes 24
def mapAddr (p : Packet) : DWord := addrAt p.bytes 32
def depsAddr (p : Packet) : DWord := addrAt p.bytes 40
def grid (p : Packet) : Nat := p.word 48 12 0
def ndep (p : Packet) : Nat := p.word 48 15 13
def teamsz (p : Packet) : Nat := p.word 48 26 16
def prio (p : Packet) : Nat := p.word 48 28 27
def hset (p : Packet) : Bool := p.word 48 29 29 = 1
def spad (p : Packet) : Nat := 128 * p.word 52 13 0
def bars (p : Packet) : Nat := p.word 52 23 14
def joins (p : Packet) : Nat := p.word 52 30 24
def seqen (p : Packet) : Bool := p.word 52 31 31 = 1

/-- Role k: its thread count and its RREG field. -/
def rcnt (p : Packet) (k : Nat) : Nat := bits (fieldAt p.bytes (56 + 2 * k) 2) 10 0
def rreg (p : Packet) (k : Nat) : Nat := bits (fieldAt p.bytes (56 + 2 * k) 2) 15 11

/-- The roles in use. -/
def roles (p : Packet) : List Role :=
  ((List.range 4).filter (fun k => decide (p.rcnt k ≠ 0))).map (fun k => { count := p.rcnt k, regs := 8 * (p.rreg k + 2) })

/-- FORMAT (R314, R318). -/
def formatBad (p : Packet) : Bool :=
  decide (p.word 48 31 30 ≠ 0) || decide (p.grid < 1) || decide (6144 < p.grid) || decide (4 < p.ndep) ||
  decide (p.teamsz < 1) || decide (1024 < p.teamsz) || decide (p.teamsz ≠ (p.roles.map (fun r => r.count)).sum) ||
  decide (12288 < p.word 52 13 0) || decide (512 < p.bars) || decide (64 < p.joins) ||
  (decide (p.ndep = 0) && decide (p.depsAddr ≠ 0)) ||
  (List.range 4).any (fun k =>
    if p.rcnt k = 0 then decide (p.rreg k ≠ 0)
    else decide (30 < p.rreg k) || (List.range k).any (fun i => decide (p.rcnt i = 0)))

/-- ALIGN (R318). -/
def alignBad (p : Packet) : Bool :=
  decide (p.kaddr.toNat % 16 ≠ 0) || decide (p.mapAddr.toNat % 2 ≠ 0) || decide (p.csig.toNat % 8 ≠ 0) ||
  decide (p.depsAddr.toNat % 8 ≠ 0)

/-- PRIV: a class above the poster's, or SEQEN from a thread that was not in TRAPPED (R315, R318). -/
def privBad (p : Packet) : Bool :=
  match p.poster with
  | none => false
  | some (cls, trapped) => decide (cls < p.prio) || (p.seqen && !trapped)

/-- The first failing check of the packet's own fields (R317, R318). -/
def fieldError (p : Packet) : Option (BitVec 8) :=
  if p.formatBad then some 0x01 else if p.alignBad then some 0x02 else if p.privBad then some 0x07 else none

/-- The hub set of team m (R316). -/
def hubsetOf (p : Packet) (m : Nat) : Nat := if p.hset then m / 4 else m

end Packet

/-- A packet as it has been read. -/
def Packet.new (no : Nat) (bytes : List Byte) (poster : Option (Nat × Bool)) (parent : Nat) : Packet :=
  { no := no, bytes := bytes, poster := poster, parent := parent, deps := [], depsRead := false, met := none, checked := false, map := [] }

/-! ## Reads of the device itself -/

/-- On whose behalf the device reads packets, maps and dependences and writes signals. -/
def deviceWho (fn : Nat) : Accessor := { core := 192, fn := fn, priv := true, lane := 1536 }

/-- Where bytes lie that the device reads; nowhere where a page faults. -/
def State.deviceKeys (s : State) (fn : Nat) (va : DWord) (n : Nat) : List Nat :=
  match keysOf (fun a => s.translate (deviceWho fn) .load a 1) va n with
  | .error _ => []
  | .ok (ks, _) => ks

/-- Some of the keys lie at a host to which no link goes: the device's read of them waits (R349). -/
def State.readAway (s : State) (keys : List Nat) : Bool := s.hostLink.isNone && keys.any keyHost

/-- Bytes that the device reads; none where a page faults or the data is poisoned (R313). -/
def State.deviceRead (s : State) (fn : Nat) (va : DWord) (n : Nat) : Option (List Byte) :=
  match keysOf (fun a => s.translate (deviceWho fn) .load a 1) va n with
  | .error _ => none
  | .ok (ks, _) => if ks.any (fun k => s.poisoned k 1) then none else some (ks.map s.byte)

/-! ## Room (R20) -/

/-- What the teams of one packet need on a core: k of them with these roles. -/
structure Need where
  roles : List Role
  spad : Nat
  bars : Nat

/-- The role of thread j, with its first index. -/
def roleAt : List Role → Nat → Nat → Nat × Nat
  | [], i, _ => (i, 16)
  | r :: rs, i, j => if j < r.count then (i, r.regs) else roleAt rs (i + 1) (j - r.count)

def threadCount (rs : List Role) : Nat := (rs.map (fun r => r.count)).sum

/-- Register bytes of one team in a lane column. -/
def columnBytes (rs : List Role) (lane : Nat) : Nat :=
  ((List.range (threadCount rs)).filter (fun j => laneOf j = lane)).foldl (fun t j => t + 4 * (roleAt rs 0 j).2) 0

def Team.need (t : Team) : Need := { roles := t.roles, spad := t.spadBytes, bars := t.bars.length }
def Packet.need (p : Packet) : Need := { roles := p.roles, spad := p.spad, bars := p.bars }

/-- R20 for the teams of one core. -/
def coreFits (ns : List Need) : Bool :=
  let spad := (ns.map (fun n => n.spad)).sum
  decide ((ns.map (fun n => threadCount n.roles)).sum ≤ 2048) && decide (ns.length ≤ 32) &&
  decide ((ns.map (fun n => n.bars)).sum ≤ 512) &&
  (List.range 32).all (fun c => decide (32 * (ns.map (fun n => columnBytes n.roles c)).sum + spad ≤ 32 * 49152))

/-- The teams that hold a slot of a core. -/
def State.residents (s : State) (core : Nat) : List Team :=
  s.teams.filter (fun t => t.core = core && t.seated)

/-- The join registers reserved on a hub (R316). -/
def State.joinsOn (s : State) (hub : Nat) : Nat :=
  ((s.hubsets.filter (fun h => decide (h.hub = hub) && h.teams.any (fun k =>
    match s.teams[k]? with | some t => t.seated | none => false))).map (fun h => h.joins.length)).sum

/-- The distinct hub sets of a map with their hubs: every pair that occurs. -/
def hubPairs (p : Packet) (cores : List Nat) : List (Nat × Nat) :=
  ((cores.zipIdx).map (fun c => (p.hubsetOf c.2, hubOf c.1))).eraseDups

/-- Join registers that a packet needs on a hub. -/
def joinsNeeded (p : Packet) (cores : List Nat) (hub : Nat) : Nat :=
  p.joins * ((hubPairs p cores).filter (fun x => x.2 = hub)).length

/-- The physical cores of a map. -/
def State.physMap (s : State) (map : List Nat) : List Nat := map.map (fun c => (s.physCore c).getD 0)

/-- NOFIT: the grid's teams on one core fail R20 on an empty core, or its hub sets on one hub reserve more than 64
join registers (R318). -/
def noFit (p : Packet) (cores : List Nat) : Bool :=
  cores.eraseDups.any (fun c => !coreFits (List.replicate (cores.count c) p.need)) ||
  (cores.map hubOf).eraseDups.any (fun h => decide (64 < joinsNeeded p cores h))

/-- HUBSET: the teams of one hub set on two hubs or on one core (R318). -/
def hubsetBad (p : Packet) (cores : List Nat) : Bool :=
  p.hset && (List.range ((cores.length + 3) / 4)).any (fun m =>
    let cs := (cores.drop (4 * m)).take 4
    decide (1 < (cs.map hubOf).eraseDups.length) || decide (cs.eraseDups.length < cs.length))

/-- The map's 16-bit entries. -/
def mapEntries (bs : List Byte) : List Nat := (List.range (bs.length / 2)).map (fun i => fieldAt bs (2 * i) 2)

/-- The checks of the map (R318): the map, or the code of the first that fails. -/
def State.checkMap (s : State) (fn : Nat) (p : Packet) : Except (BitVec 8) (List Nat) :=
  match s.deviceRead fn p.mapAddr (2 * p.grid) with
  | none => .error 0x03
  | some bs =>
    let map := mapEntries bs
    let cores := s.physMap map
    if map.any (fun c => decide (s.coreCount ≤ c)) then .error 0x04
    else if noFit p cores then .error 0x05
    else if hubsetBad p cores then .error 0x06
    else .ok map

/-! ## Examination (R317) -/

/-- The dependence block: its entries, or the code of the check that fails. -/
def State.readDeps (s : State) (fn : Nat) (p : Packet) : Except (BitVec 8) (List (DWord × DWord × Bool)) :=
  match s.deviceRead fn p.depsAddr (16 * p.ndep) with
  | none => .error 0x03
  | some bs =>
    let es := (List.range p.ndep).map (fun i => (addrAt bs (16 * i), addrAt bs (16 * i + 8), false))
    if es.any (fun e => decide (e.1.toNat % 8 ≠ 0)) then .error 0x02 else .ok es

/-- Each wait still open is read once; a fault on a read refuses the packet. -/
def State.pollDeps (s : State) (fn : Nat) : List (DWord × DWord × Bool) → Except (BitVec 8) (List (DWord × DWord × Bool))
  | [] => .ok []
  | e :: es => do
    let here : DWord × DWord × Bool ←
      if e.2.2 then .ok e
      else match s.deviceRead fn e.1 8 with
        | none => .error 0x03
        | some bs => .ok (e.1, e.2.1, decide (e.2.1.toNat ≤ leNat bs))
    let rest ← s.pollDeps fn es
    .ok (here :: rest)

/-- One examination of a packet: dependences, and once all are met the map. -/
def State.examine (s : State) (fn : Nat) (p : Packet) : Except (BitVec 8) Packet := do
  let deps ← if p.depsRead || p.ndep = 0 then .ok p.deps else s.readDeps fn p
  let deps ← s.pollDeps fn deps
  let p := { p with deps := deps, depsRead := true }
  if deps.all (fun e => e.2.2) then
    let map ← s.checkMap fn p
    .ok { p with checked := true, map := map }
  else .ok p

/-- Where the bytes lie that one examination reads. -/
def State.examineKeys (s : State) (fn : Nat) (p : Packet) : List Nat :=
  let known := p.depsRead || decide (p.ndep = 0)
  let block := if known then [] else s.deviceKeys fn p.depsAddr (16 * p.ndep)
  match (if known then .ok p.deps else s.readDeps fn p) with
  | .error _ => block
  | .ok deps =>
    block ++ (deps.filter (fun e => !e.2.2)).flatMap (fun e => s.deviceKeys fn e.1 8) ++
      (match s.pollDeps fn deps with
       | .error _ => []
       | .ok ds => if ds.all (fun e => e.2.2) then s.deviceKeys fn p.mapAddr (2 * p.grid) else [])

/-! ## Placement (R4, R12, R315, R316, R319) -/

/-- Some core of the map is reserved for another packet. -/
def State.reservedElse (s : State) (key core : Nat) : Bool :=
  s.queues.any (fun q => q.key ≠ key && q.reserved.contains core)

/-- The grid fits its cores and hubs now (R20). -/
def State.hasRoom (s : State) (key : Nat) (p : Packet) (cores : List Nat) : Bool :=
  cores.eraseDups.all (fun c => !s.reservedElse key c &&
    coreFits ((s.residents c).map Team.need ++ List.replicate (cores.count c) p.need)) &&
  (cores.map hubOf).eraseDups.all (fun h => decide (s.joinsOn h + joinsNeeded p cores h ≤ 64))

/-- A thread at its start (R8, R50, R336). -/
def newThread (p : Packet) (m j : Nat) : Thread :=
  let r := roleAt p.roles 0 j
  { idx := j, role := r.1, st := .active, left := .active, why := .none, whySaved := .none, stSaved := .active
    pc := p.kaddr + 4, regs := [p.args.lo, p.args.hi] ++ List.replicate (r.2 - 2) 0, poisonRegs := [], pend := []
    win := 0, part := 32, flags := List.replicate 12 0, cls := p.prio, lclass := p.prio
    seq := if p.seqen then BitVec.ofNat 32 (32 * m + laneOf j) else 0xFFFFFFFF
    vset := [], stale := false, joinMask := 0, mine := [], fpstat := 0, trapPc := 0, trapCause := 0, trapAddr := 0
    trapInfo := 0, sword := none, waited := false, lastIssue := none, held := [], freeAt := 0, nanAt := none }

/-- A barrier object at its start (R4, R95). -/
def newBarrier : Barrier := { phase := 0, count := none, arr := [], arrn := [], p := 0, engPend := false, engDone := false }

/-- A team at its start: each home block is one group (R12). -/
def newTeam (p : Packet) (now grid m hubset fn core slot : Nat) : Team :=
  let n := threadCount p.roles
  { grid := grid, gridIdx := m, hubset := hubset, fn := fn, core := core, slot := slot, status := .resident, roles := p.roles
    threads := (List.range n).map (newThread p m)
    groups := (List.range ((n + 31) / 32)).map (fun b =>
      mkGroup now ((List.range' (32 * b) 32).filter (fun j => decide (j < n))))
    spadBytes := p.spad, spad := [], spadPoison := [], absent := [], bars := List.replicate p.bars newBarrier
    age := 32, pwin := 32, seed := 1, rs := seedStates 1, queue := [] }

/-- A resident slot of a core that no resident team has, as the device chooses. -/
def State.freeSlot (s : State) (core pick : Nat) : Nat :=
  let free := (List.range 32).filter (fun x => !(s.residents core).any (fun t => t.slot = x))
  free.getD (pick % max 1 free.length) 0

/-- One team of the grid is placed. -/
def State.placeTeam (p : Packet) (grid firstSet fn : Nat) (s : State) (mc : Nat × Nat) : State :=
  let m := mc.2
  let hs := firstSet + p.hubsetOf m
  let k := s.teams.length
  { s with
    teams := s.teams ++ [newTeam p s.now grid m hs fn mc.1 (s.freeSlot mc.1 (s.draw (m % 1024) 7))]
    hubsets := s.hubsets.modify hs (fun h => { h with hub := hubOf mc.1, teams := h.teams ++ [k] }) }

/-- Every team of a grid starts (R319). The reads of its dependences were acquires at `SYS`, and a `LAUNCH` is a release
that its threads acquire: their cores drop their L1 sectors (R109, R317, R347). -/
def State.place (s : State) (q : Queue) (p : Packet) (cores : List Nat) : State :=
  let g := s.grids.length
  let firstSet := s.hubsets.length
  let sets := if p.hset then (p.grid + 3) / 4 else p.grid
  let firstTeam := s.teams.length
  let fresh : HubSet := { hub := 0, teams := [], joins := List.replicate p.joins Join.idle }
  let s := { s with hubsets := s.hubsets ++ List.replicate sets fresh }
  let s := cores.zipIdx.foldl (State.placeTeam p g firstSet q.fn) s
  let grid : Grid := {
    fn := q.fn, queue := q.key, pktNo := p.no, parent := p.parent, csig := p.csig, cval := p.cval
    teams := List.range' firstTeam cores.length, ended := false
    priv := match p.poster with | some (_, trapped) => trapped | none => true }
  let s := cores.eraseDups.foldl State.acquireL1 { s with grids := s.grids ++ [grid] }
  if p.parent = 0 then s.setQueue { q with cur := none, reserved := [] } else s.dropQueue q.key

/-- The device places no packet: it has failed, or is between step 1 and step 3 of R356. -/
def State.placesNone (s : State) : Bool := decide (s.mgmt.state = 2) || !s.mgmt.fencing.isEmpty

/-- A waiting packet reserves every core it names that no other packet has reserved (R319). -/
def State.reserve (s : State) (key : Nat) : State :=
  let q := s.queue key
  match q.cur with
  | none => s
  | some p =>
    if !p.checked then s
    else
      let more := (s.physMap p.map).eraseDups.filter (fun c => !q.reserved.contains c && !s.reservedElse key c)
      s.setQueue { q with reserved := q.reserved ++ more }

/-- The queues whose packets wait for room, in the order in which their dependences were met. -/
def State.waitingQueues (s : State) : List Nat :=
  let place (key : Nat) : Nat := (((s.queue key).cur.bind (fun p => p.met)).getD 0)
  sortBy place ((s.queues.filter (fun q => match q.cur with | some p => p.checked | none => false)).map (fun q => q.key))

/-- Reservations have ended: the packets that wait take the cores at once (R319). -/
def State.takeFreed (s : State) : State := s.waitingQueues.foldl State.reserve s

/-- A queue's packet waits for room and would be placed now. -/
def State.fitsNow (s : State) (key : Nat) : Bool :=
  match (s.queue key).cur with
  | some p => p.checked && s.hasRoom key p (s.physMap p.map)
  | none => false

/-- A checked packet is placed where it fits and none that waits longer does, else it reserves what it can and waits
(R319). -/
def State.placement (s : State) (key : Nat) : State :=
  let q := s.queue key
  match q.cur with
  | none => s
  | some p =>
    if !p.checked || s.placesNone then s
    else if s.fitsNow key then
      (if (s.waitingQueues.find? s.fitsNow) = some key then (s.place q p (s.physMap p.map)).takeFreed else s)
    else s.reserve key

/-- `PLACEMENT`. -/
def execPlacement (q : Nat) (s : State) : Host.Outcome State Fault Refusal := .next (s.placement q)

/-- Some packet that waits fits now. -/
def State.placementDue (s : State) : Bool := !s.placesNone && s.waitingQueues.any s.fitsNow

/-! ## Rejection of a packet, and its examination by the device (R317, R318) -/

/-- A packet is rejected (R318). The packet of a `LAUNCH` gives its code to the parent's d (R347). -/
def State.reject (s : State) (q : Queue) (p : Packet) (code : BitVec 8) : State :=
  if p.parent = 0 then
    (s.setQueue { q with err := true, ecode := code, epkt := BitVec.ofNat 64 p.no, en := false, cur := none, reserved := [] }).queueIrq
      q.key |>.takeFreed
  else
    let s := (s.dropQueue q.key).takeFreed
    match s.op? p.parent with
    | some o => s.completeOp o [code.zeroExtend 32] none
    | none => s

/-- The queue holds a packet that was examined; one whose dependences are met takes its place among those that wait. -/
def State.holdPacket (s : State) (q : Queue) (p : Packet) : State :=
  if p.checked && p.met.isNone then
    { s.setQueue { q with cur := some { p with met := some s.nextId } } with nextId := s.nextId + 1 }
  else s.setQueue { q with cur := some p }

/-- A queue's packet examined once; a legal one is placed at once where it fits (R319). Reads of a host wait for a link
(R349). -/
def State.examineQueue (s : State) (q : Queue) (p : Packet) : State :=
  let keys := s.examineKeys q.fn p
  if s.readAway keys then s.setQueue { q with cur := some p }
  else match s.examine q.fn p with
  | .error c => (s.askHost keys).reject q p c
  | .ok p' => ((s.askHost keys).holdPacket q p').placement q.key

/-- A packet that has been read passes the checks of its own fields, and is examined at once where it has no
dependence. -/
def State.takePacket (s : State) (q : Queue) (p : Packet) : State :=
  match p.fieldError with
  | some c => s.reject q p c
  | none => if p.ndep = 0 then s.examineQueue q p else s.setQueue { q with cur := some p }

/-- `PACKET_READ`: the next published slot is read whole (R313). -/
def State.packetRead (s : State) (key : Nat) : State :=
  let q := s.queue key
  if !q.en || q.cur.isSome || !queueExists key || decide (q.tail.toNat ≤ q.head.toNat) || decide (s.mgmt.state = 2) then s
  else
    let n := q.head.toNat
    let q' := { q with head := q.head + 1, posted := q.posted.filter (fun x => x.1 ≠ n) }
    let poster := (q.posted.find? (fun x => x.1 = n)).map (fun x => (x.2.1, x.2.2))
    let va := q.base + BitVec.ofNat 64 (64 * (n % 2 ^ q.log2))
    let keys := s.deviceKeys q.fn va 64
    if s.readAway keys then s
    else match s.deviceRead q.fn va 64 with
    | none => (s.askHost keys).reject q' (.new n (List.replicate 64 0) poster 0) 0x03
    | some bs => (s.askHost keys).takePacket q' (.new n bs poster 0)

def execPacketRead (q : Nat) (s : State) : Host.Outcome State Fault Refusal := .next (s.packetRead q)

/-- `DEPENDENCE_POLL` (R317). A private queue's packet is polled like any other. -/
def execDependencePoll (q : Nat) (s : State) : Host.Outcome State Fault Refusal :=
  .next (match (s.queue q).cur with
    | some p => if p.checked then s else s.examineQueue (s.queue q) p
    | none => s)

/-! ## Completion (R320, R347) -/

/-- Every engine operation and every access of a grid's threads is over. -/
def State.gridQuiet (s : State) (g : Grid) : Bool :=
  let mine (k : Nat) : Bool := g.teams.contains k
  g.teams.all (fun k => match s.teams[k]? with
    | some t => t.threads.all (fun th => decide (th.st = .exited))
    | none => true) &&
  !s.ops.any (fun o => mine o.team) && !s.sq.any (fun e => mine e.team) &&
  !s.pannier.any (fun e => e.reqs.any (fun r => mine r.team)) && !s.unacked.any (fun u => mine u.team) &&
  !s.walkers.any (fun w => mine w.team) &&
  !s.engines.any (fun e => e.2.bufs.any (fun b => b.teams.any mine))

/-- The parent of a `LAUNCH` has its outcome; its core drops its L1 sectors, as the wait on the flag must (R347). -/
def State.launchDone (s : State) (op : Nat) (w : Word) : State :=
  match s.op? op with
  | some o => (s.acquireL1 (s.opCore o)).completeOp o [w] none
  | none => s

/-- The signal lies at a host to which no link goes. -/
def State.signalAway (s : State) (g : Grid) : Bool :=
  match s.translate (deviceWho g.fn) .store g.csig 8 with
  | .error _ => false
  | .ok (k, _) => s.hostAway k

/-- `CVAL` is written to `CSIG`; none where that write faults, where its poster may not write there (R224), or where a host
completes it with an error (log entry 82). -/
def State.writeSignal (s : State) (g : Grid) : Option State :=
  match s.translate (deviceWho g.fn) .store g.csig 8 with
  | .error _ => none
  | .ok (k, _) =>
    if (!g.priv && s.seqProtected g.fn g.csig 8) || (keyHost k && decide (s.draw 66 0 % 2 = 1)) then none
    else some ((s.writeMem none k (bytesOfPair g.cval)).sendRemote (g.teams.headD 0) 0 k)

/-- `CSIG_WRITE` (R320). A signal at a host waits for a link (R349). -/
def State.csigWrite (s : State) (gi : Nat) : State :=
  match s.grids[gi]? with
  | none => s
  | some g =>
    if g.ended || !s.gridQuiet g || (decide (g.csig ≠ 0) && s.signalAway g) then s
    else
      let s := { s with grids := s.grids.modify gi (fun g => { g with ended := true }) }
      if g.csig = 0 then (if g.parent = 0 then s else s.launchDone g.parent 0x80000000)
      else match s.writeSignal g with
        | some s => if g.parent = 0 then s else s.launchDone g.parent 0x80000000
        | none =>
          if g.parent = 0 then
            (s.setQueue { s.queue g.queue with err := true, ecode := 0x03, epkt := BitVec.ofNat 64 g.pktNo }).queueIrq g.queue
          else s.launchDone g.parent 0x80000003

def execCsigWrite (grid : Nat) (s : State) : Host.Outcome State Fault Refusal := .next (s.csigWrite grid)

/-! ## QPOST (R346) -/

/-- The packet of a `QPOST`, read at issue. -/
def Lane.postedPacket (l : Lane) (a : DWord) : Except Trap (List Byte) :=
  match l.block a 64 64 with
  | .error t => .error t.atSector
  | .ok bs => .ok bs

/-- The key of the slot that a post writes. A thread that is not `TRAPPED` writes no protected byte of a record (R224). -/
def Lane.postSlot (l : Lane) (q : Queue) : Except Trap Nat :=
  let va := q.base + BitVec.ofNat 64 (64 * (q.tail.toNat % 2 ^ q.log2))
  match l.s.translate (deviceWho l.tm.fn) .store va 64 with
  | .error c => .error (.atAddr c va)
  | .ok (k, _) => if !l.privileged && l.s.seqProtected l.tm.fn va 64 then .error (.atAddr .prot va) else .ok k

/-- The ring takes no packet. -/
def Queue.full (q : Queue) : Bool := !q.en || decide (q.head.toNat + 2 ^ q.log2 ≤ q.tail.toNat)

/-- The packet is written to the next slot of the ring, and who posted it is recorded (R346). -/
def Lane.postPacket (l : Lane) (key slot : Nat) (bs : List Byte) (s : State) : State :=
  let q := l.s.queue key
  ((s.writeMem (some l.tm.core) slot bs).sendRemote l.s.cur.team l.th.idx slot).setQueue { s.queue key with
    tail := q.tail + 1, posted := q.posted ++ [(q.tail.toNat, l.th.lclass, l.privileged)] }

/-- `QPOST`: a `SYS`-scope release, so it is held until the thread's earlier accesses are in place. -/
def execQpost (d a b : BitVec 7) (f : BitVec 4) (s : State) : Host.Outcome State Fault Refusal :=
  let reads (l : Lane) : Script (List Byte) := Script.read (l.pair a) 64
  runSeq (.qpost d a b f) s (fun l => !l.quiet || l.unacked || l.scriptAway (reads l)) (fun l =>
    let post (w : Word) : LaneOut := .done { flag := f.toNat, dst := l.dsts d 1, op := some (.ready [w]) }
    let noted (s : State) : State := s.noteKeys l.tm.core (s.nextId - 1) (l.scriptKeys (reads l))
    if 64 ≤ (l.reg b).toNat then (.trap (.of .bounds), id)
    else match l.postedPacket (l.pair a) with
      | .error t => (.trap t, id)
      | .ok bs =>
        let key := deviceQueue l.tm.fn (l.reg b).toNat
        let q := l.s.queue key
        if q.full then (post 0xFFFFFFFF, noted)
        else match l.postSlot q with
          | .error t => (.trap t, id)
          | .ok k => if l.s.hostAway k then (.hold, id)
            else (post (q.tail.truncate 32), fun s => l.postPacket key k bs (noted s)))

/-! ## LAUNCH (R347) -/

/-- How many `LAUNCH` operations a core holds. -/
def launchMost : Nat := 16

def State.launchesOn (s : State) (core : Nat) : Nat :=
  (s.ops.filter (fun o => (match o.kind with | .launch _ => true | _ => false) && decide (s.opCore o = core))).length

/-- The place of the packet in scratchpad: the checks of R89 in their order, a register address last of them (R62,
R334). -/
def Lane.launchPlace (l : Lane) (a : Word) : Except Trap LocalLoc :=
  let far : Trap := .atAddr .spadbound (a.zeroExtend 64)
  match l.localAt a 64 with
  | .error t => .error (if bits a.toNat 23 23 = 1 ∧ t.cause.rank > Cause.align.rank then far else t)
  | .ok loc => if bits a.toNat 23 23 = 1 then .error far else .ok loc

/-- The sector of the first poisoned byte of a packet in scratchpad (R335). -/
def Lane.packetPoison (l : Lane) (a : Word) : DWord :=
  let bad := (List.range 64).find? (fun i => match l.launchPlace a with
    | .ok (.spad k off) => (l.s.localRead (.spad k (off + i)) 1).isNone
    | _ => false)
  (a.zeroExtend 64 + BitVec.ofNat 64 (bad.getD 0)) &&& ~~~31#64

/-- The packet of a `LAUNCH`: none while its line is absent. -/
def Lane.launchPacket (l : Lane) (a : Word) : Except Trap (Option (List Byte)) :=
  match l.launchPlace a with
  | .error t => .error t
  | .ok loc =>
    if (l.s.absentLine loc).isSome then .ok none
    else match l.s.localRead loc 64 with
      | none => .error (.atAddr .mchk (l.packetPoison a))
      | some bs => .ok (some bs)

/-- The operands of `LAUNCH`. -/
def launchForm (d a : BitVec 7) (f : BitVec 4) : Form := .of [.write d 1, .read a 1] (flagNeeded f)

/-- `LAUNCH`: the packet is taken as the only one of a private queue (R347). -/
def execLaunch (d a : BitVec 7) (f : BitVec 4) (s : State) : Host.Outcome State Fault Refusal :=
  runFormSeq (launchForm d a f) s (fun l => !l.quiet) (fun l =>
    match l.launchPacket (l.reg a) with
    | .error t => (.trap t, id)
    | .ok none => (.hold, id)
    | .ok (some bs) =>
      if launchMost ≤ l.s.launchesOn l.tm.core then (.hold, id)
      else (.done { flag := f.toNat, dst := l.dsts d 1, op := some (.launch (launchQueue l.s.nextId)) }, fun s =>
        let op := s.nextId - 1
        let q := { Queue.idle (launchQueue op) with fn := l.tm.fn }
        s.takePacket q (.new 0 bs (some (l.th.lclass, l.privileged)) op)))

end Sys2Proof.Machine
end

