-- ==== Sys2Proof/Machine/System.lean ====
section
/-!
DEFINITION. Traps by instruction and the return from one, the special registers, snapshots and translation
control (R334 to R342).
-/

namespace Sys2Proof.Machine

/-- A lane that is not privileged traps (R334). -/
def Lane.privOnly (l : Lane) (k : LaneOut) : LaneOut := .guard (!l.privileged) (.of .priv) k

/-- `TRAP` (R338). -/
def execTrap (c : BitVec 7) (s : State) : Host.Outcome State Fault Refusal :=
  runLanes (.trap c) s (fun _ => .trap { cause := .swtrap, addr := 0, info := c.zeroExtend 64 })

/-- `RETT`: held until the thread's earlier `SETS` have taken effect; it returns to `TRAPPC` (R324, R339). -/
def execRett (s : State) : Host.Outcome State Fault Refusal :=
  runLanes .rett s (fun l => l.privOnly (
    if l.s.sregPending l.s.cur.team l.th.idx then .hold
    else .guard (decide (l.th.trapPc.toNat % 4 ≠ 0)) (.atAddr .align l.th.trapPc) (.done { upd := Thread.trapReturn })))

/-! ## GETS and SETS (R336, R337) -/

/-- The value a lane reads from register n. -/
def Lane.sreg (l : Lane) (n : Nat) : DWord := l.s.sregRead l.tm l.th l.s.cur.team n

/-- `GETS`. -/
def execGets (d n : BitVec 7) (s : State) : Host.Outcome State Fault Refusal :=
  runLanes (.gets d n) s (fun l =>
    .guard (!l.privileged && !sregUserRead n.toNat) (.of .priv)
      (.done { writes := if sregWide n then l.wr2 d (l.sreg n.toNat) else l.wr d (l.sreg n.toNat).lo, lat := 8 }))

/-- The value a `SETS` writes. -/
def Lane.setsValue (l : Lane) (a n : BitVec 7) : DWord := if sregWide n then l.pair a else (l.reg a).zeroExtend 64

/-- The cause that refuses a value, with a misaligned base in TRAPADDR. -/
def setsTrap (n : Nat) (v : DWord) : Option Trap :=
  (sregCheck n v).map (fun c => if c = .align then .atAddr c v else .of c)

/-- The lane's `SETS` writes: a privileged write of a read-only register is discarded. -/
def Lane.setsWrites (l : Lane) (n : Nat) : Bool := !l.privileged || sregPrivWrite n

/-- `SETS`. -/
def execSets (a n : BitVec 7) (s : State) : Host.Outcome State Fault Refusal :=
  runLanesThen (.sets a n) s (fun l =>
    .guard (!l.privileged && !sregUserWrite n.toNat) (.of .priv)
      (match if l.setsWrites n.toNat then setsTrap n.toNat (l.setsValue a n) else none with
       | some t => .trap t
       | none => .done {}))
    (fun ls s => (ls.filter (fun l => l.setsWrites n.toNat)).foldl (fun s l =>
      s.sregWrite s.cur.team l.th.idx n.toNat (l.setsValue a n) (s.draw (laneOf l.th.idx) 6)) s)

/-! ## SNAP and TLBINV -/

/-- `SNAP` (R332, R340). -/
def execSnap (s : State) : Host.Outcome State Fault Refusal :=
  runLanesThen .snap s (fun l => l.privOnly (.done {}))
    (fun ls s => ls.foldl (fun s l => s.triggerSnap 0 0 l.tm.core l.th.idx) s)

/-- The fields of a control word (R342). -/
def tlbKind (w : Word) : Nat := bits w.toNat 5 4
def tlbScope (w : Word) : Nat := bits w.toNat 2 0
def tlbWordOk (w : Word) : Bool :=
  decide (bits w.toNat 31 6 = 0) && decide (tlbKind w ≠ 3) && !w.getLsbD 3 && decide (tlbScope w ≤ 5)

/-- The operands of an instruction that takes a pair in a and a register in b. -/
def pairWordForm (a b : BitVec 7) : Form := .of [.read a 2, .read b 1] true

/-- `TLBINV`: its thread parks, and the device takes the steps of R342. -/
def execTlbinv (a b : BitVec 7) (s : State) : Host.Outcome State Fault Refusal :=
  runFormThen (pairWordForm a b) s (fun l =>
    let w := l.reg b
    .guard (!tlbWordOk w) (.of .illop) (l.privOnly
      (.guard (decide (tlbKind w = 0) && !canonical (l.pair a)) (.atAddr .page (l.pair a))
        (.done { upd := Thread.park (.tlbinv (tlbKind w) (tlbScope w) (l.pair a) l.s.nextId false) }))))
    (fun _ s => s)

end Sys2Proof.Machine
end

