-- ==== Sys2Proof/Machine/Context.lean ====
section
/-!
DEFINITION. Pre-emption, save and restore of teams (R26, R293, R328 to R331): `CTXSV`, `CTXLD` and `HALT` (R341,
R343, R344).
-/

namespace Sys2Proof.Machine

/-! ## Draining (R293, R328, R329) -/

/-- A call was issued by one of some teams. -/
def MxCall.isFrom (ks : List Nat) (c : MxCall) : Bool := c.issuers.any (fun i => ks.contains i.team)

/-- The held buffers that some teams issued into start to flush (R259). -/
def State.evictTeams (s : State) (ks : List Nat) (hub : Nat) : State :=
  ((s.engine hub).bufs.filter (fun b => b.teams.any ks.contains)).foldl (fun s b => s.evict hub b.id) s

/-- An operation that stays in the context of its team: a copy that has stopped, a walk, a call not yet granted, a
launch. -/
def Op.staysSaved (o : Op) : Bool :=
  match o.kind with
  | .copy j => j.halts
  | .matrix _ | .spoke _ | .launch _ => true
  | _ => false

/-- Steps 2 and 3 of R328 are over for stopped teams: nothing of them is in flight but what their contexts hold. The
device's own steps take them there. -/
def State.drained (s : State) (ks : List Nat) : Bool :=
  !s.sq.any (fun e => ks.contains e.team) &&
  !s.pannier.any (fun e => e.reqs.any (fun r => ks.contains r.team)) &&
  s.ops.all (fun o => !ks.contains o.team || o.staysSaved) &&
  s.engines.all (fun e =>
    (match e.2.running with | some r => !r.call.isFrom ks | none => true) &&
    !e.2.bufs.any (fun b => b.teams.any ks.contains) && !e.2.ends.any (fun x => x.call.isFrom ks))

/-! ## CTXSV (R343) -/

/-- Bytes of a save area for some teams. -/
def State.areaSize (s : State) (ks : List Nat) : Nat :=
  (ks.map (fun k => match s.teams[k]? with
    | some t => 65536 + 4 * (t.threads.map (fun th => th.regs.length)).sum + t.spadBytes
    | none => 0)).sum

/-- A save of a team is in progress. -/
def State.savingTeam (s : State) (k : Nat) : Bool := s.saves.any (fun p => p.teams.contains k)

/-- The team in a slot of a core (R343). -/
def State.teamIn (s : State) (core slot : Nat) : Option Nat :=
  (s.teams.zipIdx.find? (fun tk => decide (tk.1.core = core) && tk.1.seated && decide (tk.1.slot = slot))).map (fun tk => tk.2)

/-- The teams that `CTXSV` names, or the trap: a core that does not exist, an empty slot, the issuer's own team or
hub set, a team already being saved. Bits 15:5 of the operand read as 0 (R2). -/
def Lane.saveTargets (l : Lane) (b : Word) : Except Trap (List Nat) :=
  match (l.s.physCore (bits b.toNat 31 16)).bind (fun core => l.s.teamIn core (bits b.toNat 4 0)) with
  | none => .error (.of .bounds)
  | some k => match l.s.teams[k]? with
    | none => .error (.of .bounds)
    | some t =>
      if t.hubset = l.tm.hubset ∨ (l.s.widened k).any l.s.savingTeam then .error (.of .bounds) else .ok (l.s.widened k)

/-- The first of some pages from an address that meets a cause. -/
def Lane.pageFault (l : Lane) (kind : Access) (c : Cause) : Nat → DWord → Option Trap
  | 0, _ => none
  | n + 1, va =>
    match l.s.pageOf l.who kind va with
    | .error e => if e = c then some (.atAddr c va) else l.pageFault kind c n (va + 65536)
    | .ok _ => l.pageFault kind c n (va + 65536)

/-- What an area's pages meet: `PAGE` anywhere comes before `PROT` (R62). -/
def Lane.areaFault (l : Lane) (kind : Access) (a : DWord) (n : Nat) : Option Trap :=
  let first := a - BitVec.ofNat 64 (a.toNat % 65536)
  let pages := (a.toNat % 65536 + n + 65535) / 65536
  let found (c : Cause) : Option Trap := (l.pageFault kind c pages first).map (fun t => { t with addr := if t.addr = first then a else t.addr })
  found .page <|> found .prot

/-- The keys of an area, translated for one kind of access. -/
def Lane.areaKeys (l : Lane) (a : DWord) (n : Nat) (kind : Access) : Except Trap (List Nat) :=
  match keysOf (fun x => l.s.translate l.who kind x 1) a n with
  | .error e => .error (.atAddr e.1 e.2)
  | .ok (ks, _) => .ok ks

/-- What a `CTXSV` of the issuing thread will save, after its checks in order. -/
def Lane.savePlan (l : Lane) (a : DWord) (b : Word) : Except Trap Save := do
  if !l.privileged then .error (.of .priv)
  let ks ← l.saveTargets b
  if a.toNat % 4096 ≠ 0 then .error (.atAddr .align a)
  match l.areaFault .store a (l.s.areaSize ks) with
  | some t => .error t
  | none => .ok ()
  let keys ← l.areaKeys a (l.s.areaSize ks) .store
  .ok { id := 0, team := l.s.cur.team, thr := l.th.idx, keys := keys, teams := ks }

/-- The bytes of an area: the header, the context's number, and a layout of the device's own, which the manual leaves
open (log entry 48). -/
def State.areaBytes (s : State) (ks : List Nat) : List Byte :=
  let n := s.areaSize ks
  leBytes 8 n ++ leBytes 8 ks.length ++ leBytes 8 s.nextId ++
    (List.range (n - 24)).map (fun i => (Config.freeWord (s.fresh * 2 ^ 40 + i)).truncate 8)

/-- What a context tells of some stopped teams (R330): the join registers of their hub set where all of it is saved. -/
def State.ctxBody (s : State) (ks : List Nat) : CtxBody :=
  let joins := ks.head?.bind (fun k => (s.teams[k]?).bind (fun t => s.hubsets[t.hubset]?))
  { top := s.nextId
    teams := ks.filterMap (fun k => (s.teams[k]?).map (fun t => (k, t)))
    joins := match joins with
      | some h => if h.teams.all (fun k => ks.contains k || !(s.teams[k]?).any Team.seated) then h.joins
                  else h.joins.map (fun _ => Join.idle)
      | none => []
    ops := s.ops.filter (fun o => ks.contains o.team)
    walkers := s.walkers.filter (fun w => ks.contains w.team)
    calls := s.engines.flatMap (fun e => e.2.table.filter (MxCall.isFrom ks)) }

/-- An area is written, by one event for each of its lines; a write elsewhere is sent (R202). -/
def State.writeArea (s : State) (p : Save) (bytes : List Byte) : State :=
  let s' := s.writeParts none ((p.keys.zip bytes).map (fun x => (x.1, [x.2])))
  ((p.keys.map lineOf).eraseDups).foldl (fun s l => s.sendRemote p.team p.thr (128 * l)) s'

/-- A parked thread whose wait is over continues. -/
def State.unpark (s : State) (k j : Nat) (w : Why) : State :=
  match s.thread? k j with
  | some th => if th.st = .parked ∧ th.why = w then s.release k [j] else s
  | none => s

/-- Step 4 of R328: the area is written, the teams' resources are released, and the thread of the `CTXSV` continues. -/
def State.saveTeams (s : State) (p : Save) : State :=
  let area := s.areaBytes p.teams
  let waiting := p.teams.all (fun k => (s.teams[k]?).any Team.seated)
  let c : Context := { area := area, teams := p.teams, fate := if waiting then .waiting else .spent, body := s.ctxBody p.teams }
  let s := s.writeArea p area
  let s := { s with
    nextId := s.nextId + 1
    contexts := c :: s.contexts
    saves := s.saves.filter (fun q => decide (q ≠ p)) }
  (s.releaseTeams p.teams).unpark p.team p.thr .ctxsv

/-- A save takes its last step once the stopped teams are drained and, as it is a `SYS`-scope release, the earlier
accesses of its thread are in place; an area at a host waits for a link (R349). -/
def State.saveStep (s : State) (p : Save) : State :=
  if s.drained p.teams && s.quiet p.team p.thr && !s.unacked.any (fun u => u.team = p.team && u.thr = p.thr) &&
      !p.keys.any s.hostAway then s.saveTeams p
  else s

/-- Every save in progress takes the step that it can. -/
def State.saveSteps (s : State) : State := s.saves.foldl State.saveStep s

/-- A save begins: the teams stop (R328). -/
def State.startSave (s : State) (p : Save) : State :=
  { s.stopTeams p.teams false with saves := s.saves ++ [{ p with id := s.nextId }], nextId := s.nextId + 1 }

/-- `CTXSV`: the teams stop, and its thread parks until their context is saved. -/
def execCtxsv (a b : BitVec 7) (s : State) : Host.Outcome State Fault Refusal :=
  runFormThen (pairWordForm a b) s (fun l =>
    match l.savePlan (l.pair a) (l.reg b) with
    | .error t => .trap t
    | .ok _ => .done { upd := Thread.park .ctxsv })
    (fun ls s => ls.foldl (fun s l =>
      match l.savePlan (l.pair a) (l.reg b) with
      | .ok p => s.startSave p
      | .error _ => s) s)

/-! ## Restoring (R330, R331) -/

/-- A saved thread in its recorded state. -/
def Thread.restore (t : Thread) : Thread :=
  if t.st = .saved then { t with st := t.stSaved, stSaved := .active, why := t.whySaved, whySaved := .none } else t

/-- A team has room on a core beside the teams it holds and those placed there with it (R20). A core that a packet has
reserved takes no other team (R319). -/
def State.roomFor (s : State) (core : Nat) (ks : List Nat) : Bool :=
  decide (core < 192) && !s.mgmt.cores.contains core && !s.mgmt.fencing.contains (.core core) &&
  !s.queues.any (fun q => q.reserved.contains core) &&
  coreFits ((s.residents core).map Team.need ++ ks.filterMap (fun k => (s.teams[k]?).map Team.need))

/-- The hub set of some teams: its number. -/
def State.setOf (s : State) (ks : List Nat) : Nat :=
  match ks with
  | k :: _ => (match s.teams[k]? with | some t => t.hubset | none => 0)
  | [] => 0

/-- The teams of a hub set that hold a slot. -/
def State.seatedPeers (s : State) (hs : Nat) : List Team := s.teams.filter (fun t => decide (t.hubset = hs) && t.seated)

/-- The teams of one hub set can be restored with these cores: room on each, join registers on the hub, and no peer of
the hub set on another hub or on one of the cores. -/
def State.restoreFits (s : State) (ps : List (Nat × Nat)) (hub : Nat) : Bool :=
  let hs := s.setOf (ps.map Prod.fst)
  let peers := s.seatedPeers hs
  let joins := match s.hubsets[hs]? with | some h => h.joins.length | none => 0
  ps.all (fun p => s.roomFor p.2 ((ps.filter (fun q => q.2 = p.2)).map Prod.fst)) &&
  peers.all (fun t => decide (hubOf t.core = hub) && !ps.any (fun p => p.2 = t.core)) &&
  (!peers.isEmpty || decide (s.joinsOn hub + joins ≤ 64))

/-- The ways to restore some teams on a hub: a team that is its whole hub set on any of its cores, else each team on
the rank it held. -/
def State.restoreWays (s : State) (ks : List Nat) (hub : Nat) : List (List (Nat × Nat)) :=
  let alone := match s.hubsets[s.setOf ks]? with | some h => decide (h.teams.length = 1) | none => false
  let ways : List (List (Nat × Nat)) :=
    if alone then (List.range' (4 * hub) 4).map (fun c => ks.map (fun k => (k, c)))
    else [ks.filterMap (fun k => (s.teams[k]?).map (fun t => (k, 4 * hub + rankOf t.core)))]
  ways.filter (fun w => !w.isEmpty && s.restoreFits w hub)

/-- One of some ways, as the device chooses. -/
def State.pickWay (s : State) (ways : List (List (Nat × Nat))) : Option (List (Nat × Nat)) :=
  ways[s.draw 64 8 % max 1 ways.length]?

/-- A team takes a slot of a core: resident in the states its threads recorded, or stopped still. -/
def Team.seat (core slot : Nat) (held : Bool) (t : Team) : Team :=
  if held then { t with status := .stopped true, core := core, slot := slot }
  else { t with status := .resident, core := core, slot := slot, threads := t.threads.map Thread.restore }

def State.seatTeam (held : List Nat) (s : State) (p : Nat × Nat) : State :=
  s.modTeam p.1 (Team.seat p.2 (s.freeSlot p.2 (s.draw (p.1 % 1024) 7)) (held.contains p.1))

/-- The groups a restored team goes on with: those it had, and groups of its other running threads. -/
def Team.regroupAll (now : Nat) (t : Team) : Team :=
  let kept := t.groups.map (fun g => { g with readyAt := now + 1, passed := 0, boost := 0, born := none })
  let rest := (List.range t.threads.length).filter (fun j =>
    (match t.threads[j]? with | some th => th.runnable | none => false) && !kept.any (fun g => g.members.contains j))
  { t with groups := kept ++ groupUp now t rest }

/-- A thread that was in a bin, a queue or waiting goes on: it is filed again (R330), a wait that is over ends, and a
`WAITF` wakes (R80). A `BAR.SYNC` may have been counted into the phase after the present one (R96). -/
def State.resumeThread (s : State) (k j : Nat) : State :=
  match s.teams[k]?, s.thread? k j with
  | some t, some th =>
    if th.st = .queued ∨ (th.st = .filed ∧ th.why ≠ .collector) then
      (s.modThread k j (fun th => { th with st := .filed })).fileThread k j
    else if th.st = .parked ∨ th.st = .sleeping then
      let ended : Bool := match th.why with
        | .barWait o p => (match t.bar? o with | some b => decide (b.phase ≠ p) | none => false)
        | .barSync o p => (match t.bar? o with | some b => decide (b.phase ≠ p ∧ b.phase + 1 ≠ p) | none => false)
        | .line k' l => decide (s.lineCount (k', l) = 0)
        | .jdecl n => (match s.join? t.hubset n with | some jn => decide (jn.st = .idle) | none => false)
        | .tapld _ => !s.tapWait.any (fun w => decide (w.1 = k) && decide (w.2.1 = j))
        | .ctxsv => !s.saves.any (fun p => decide (p.team = k) && decide (p.thr = j))
        | .ctxld => true
        | .waitf .. => true
        | _ => false
      if ended then s.release k [j] else s.exitCheck k j
    else s
  | _, _ => s

/-- The threads of a restored team resume in index order. -/
def State.resumeTeam (s : State) (k : Nat) : State :=
  match s.teams[k]? with
  | none => s
  | some t =>
    let s := s.modTeam k (Team.regroupAll s.now)
    let s := (List.range t.threads.length).foldl (fun s j => s.resumeThread k j) s
    (List.range ((t.threads.length + 31) / 32)).foldl (fun s b => s.collectorCheck k b) s

/-- The calls of some teams that were not granted are posted again on the hub (R293). -/
def State.repost (s : State) (ks : List Nat) (hub : Nat) : State :=
  let mine := s.engines.flatMap (fun e => e.2.table.filter (MxCall.isFrom ks))
  let s := (s.engines.map Prod.fst).foldl (fun s h =>
    s.modEngine h (fun e => { e with table := e.table.filter (fun c => !c.isFrom ks) })) s
  s.modEngine hub (fun e => { e with table := e.table ++ mine.map (fun c => { c with hub := hub, passed := 0 }) })

/-- A walker of a team that is restored works for its new core. -/
def Walker.moveTo (ps : List (Nat × Nat)) (w : Walker) : Walker :=
  match ps.find? (fun p => p.1 = w.team) with
  | some p => { w with core := p.2 }
  | none => w

/-- The stopped copies of some teams go on (R329). -/
def State.resumeCopies (s : State) (ks : List Nat) : State :=
  (s.ops.filter (fun o => ks.contains o.team)).foldl State.resumeCopy s

/-- Teams are restored with their cores (R331), but those that are to stand stopped (R325). Their cores drop their L1
sectors. -/
def State.restore (s : State) (ps : List (Nat × Nat)) (hub : Nat) (held : List Nat) : State :=
  let hs := s.setOf (ps.map Prod.fst)
  let ks := (ps.map Prod.fst).filter (fun k => !held.contains k)
  let s := ps.foldl (State.seatTeam held) s
  let s := { s with
    hubsets := s.hubsets.modify hs (fun h => { h with hub := hub })
    walkers := s.walkers.map (Walker.moveTo ps) }
  let s := ((s.repost ks hub).resumeCopies ks).handContexts
  ks.foldl State.resumeTeam (ps.foldl (fun s p => s.acquireL1 p.2) s)

/-! ## What an area holds (R330, R344) -/

/-- How the numbers of a context's body become those of the state it is brought into: positions of teams, numbers of
operations and calls, and its hub set. -/
structure Moved where
  team : Nat → Nat
  num : Nat → Nat
  hubset : Nat

def Why.moved (m : Moved) (w : Why) : Why :=
  match w with
  | .line k l => .line (m.team k) l
  | .tlbinv kind scope va mark d => .tlbinv kind scope va (m.num mark) d
  | w => w

/-- A thread of a context, saved; its validation set is stale (R207). -/
def Thread.moved (m : Moved) (t : Thread) : Thread :=
  let t := { t with
    why := t.why.moved m, whySaved := t.whySaved.moved m
    pend := t.pend.map (fun p => { p with order := m.num p.order })
    vset := t.vset.map (fun e => { e with src := m.num e.src })
    held := t.held.map (fun d => { d with order := m.num d.order }) }
  if t.st = .exited then t else { t with st := .saved, stale := true }

def CopyEnd.moved (m : Moved) (e : CopyEnd) : CopyEnd :=
  match e with
  | .spad k o => .spad (m.team k) o
  | .mem va => .mem va

def CopySrc.moved (m : Moved) (c : CopySrc) : CopySrc :=
  match c with
  | .rows start pitch len => .rows (start.moved m) pitch len
  | c => c

/-- A copy of a context; the sectors it had read are read again (log entry 49). -/
def CopyJob.moved (m : Moved) (j : CopyJob) : CopyJob :=
  let chunk (c : CopyChunk) : CopyChunk := { c with dst := c.dst.moved m }
  { j with
    src := j.src.moved m, all := j.all.map chunk, todo := j.todo.map chunk, cache := []
    lines := j.lines.map (fun p => (m.team p.1, p.2)) }

/-- An operation of a context. The outcome of a `LAUNCH`, whose grid another run of the device has, is a free word (log
entry 49). -/
def Op.moved (m : Moved) (fresh : Nat) (o : Op) : Op :=
  { o with
    id := m.num o.id, ins := m.num o.ins, team := m.team o.team
    kind := match o.kind with
      | .copy j => .copy (j.moved m)
      | .matrix c => .matrix (m.num c)
      | .spoke _ => .spoke (192 + m.num o.id)
      | .launch _ => .ready [Config.freeWord (fresh * 2 ^ 40 + o.id)]
      | k => k }

def Sign.moved (m : Moved) (g : Sign) : Sign := { g with team := m.team g.team, op := m.num g.op }

def Join.moved (m : Moved) (j : Join) : Join :=
  let who (p : Nat × Nat) : Nat × Nat := (m.team p.1, p.2)
  { j with enrolled := j.enrolled.map who, unsigned := j.unsigned.map who, signs := j.signs.map (Sign.moved m) }

def MxCall.moved (m : Moved) (c : MxCall) : MxCall :=
  { c with
    id := m.num c.id, hub := 0, join := c.join.map (fun p => (m.hubset, p.2)), signers := c.signers.map (Sign.moved m)
    issuers := c.issuers.map (fun i => { i with team := m.team i.team, op := m.num i.op }) }

def Walker.moved (m : Moved) (w : Walker) : Walker :=
  { w with
    ctx := 192 + m.num w.op, team := m.team w.team, op := m.num w.op
    busy := w.busy.map (fun b => (m.num b.1, b.2)), posted := w.posted.map m.num
    causes := w.causes.map (fun c => (m.num c.1, c.2)) }

/-- The numbers of a body in a state: its teams stand behind those of the state, its operations have new numbers. -/
def State.moving (s : State) (b : CtxBody) : Moved :=
  { team := fun k => s.teams.length + b.teams.findIdx (fun p => decide (p.1 = k))
    num := fun n => if n = 0 then 0 else s.nextId + n
    hubset := s.hubsets.length }

/-- The teams of a body, and what a context keeps in flight for them, stand saved in the state, as a grid and a hub set of
their own; the calls wait for their hub in the table of hub 0 (log entry 49). -/
def State.adopt (s : State) (b : CtxBody) : State × List Nat :=
  let m := s.moving b
  let ks := List.range' s.teams.length b.teams.length
  let fn := ((b.teams.head?).map (fun p => p.2.fn)).getD 0
  let team (t : Team) : Team :=
    { t with grid := s.grids.length, hubset := m.hubset, status := .saved, threads := t.threads.map (Thread.moved m) }
  let e := s.engine 0
  (State.setEngine { s with
     teams := s.teams ++ b.teams.map (fun p => team p.2)
     hubsets := s.hubsets ++ [{ hub := 0, teams := ks, joins := b.joins.map (Join.moved m) }]
     grids := s.grids ++ [{ fn := fn, queue := 128 * fn, pktNo := 0, parent := 0, priv := false, csig := 0, cval := 0
                            teams := ks, ended := false }]
     ops := s.ops ++ b.ops.map (Op.moved m s.fresh)
     walkers := s.walkers ++ b.walkers.map (Walker.moved m)
     nextId := s.nextId + b.top + 1 } 0 { e with table := e.table ++ b.calls.map (MxCall.moved m) }, ks)

/-- What an area that another device of the model wrote holds, by its bytes from the third word on. Only the devices know
the layout (R343). -/
opaque Config.foreignContext : List Byte → Option CtxBody

/-- Team data that can stand in a state: its threads stand at their indices, with the registers of their roles. -/
def Team.sound (t : Team) : Bool :=
  decide (t.threads.length = threadCount t.roles) &&
  t.threads.zipIdx.all (fun x => decide (x.1.idx = x.2) && decide (x.1.regs.length = (roleAt t.roles 0 x.2).2) &&
    decide (x.1.flags.length = 12))

/-- A body that can stand in a state: its teams can, and what is in flight is theirs, of a kind that a context keeps, under
numbers of its own. -/
def CtxBody.sound (b : CtxBody) : Bool :=
  let mine (k : Nat) : Bool := b.teams.any (fun p => decide (p.1 = k))
  b.teams.all (fun p => p.2.sound) &&
  b.ops.all (fun o => mine o.team && o.staysSaved && decide (o.id < b.top)) &&
  b.walkers.all (fun w => mine w.team && decide (w.op < b.top)) &&
  b.calls.all (fun c => decide (c.id < b.top) && c.issuers.all (fun i => mine i.team && decide (i.op < b.top)))

/-- Where the teams of an area come from: saved teams of the state, or a body to be brought into it. -/
inductive LoadSource where
  | live (teams : List Nat)
  | body (b : CtxBody)
  deriving DecidableEq, Repr

/-- A body restored into one function's address space. -/
def CtxBody.ofFn (fn : Nat) (b : CtxBody) : CtxBody := { b with teams := b.teams.map (fun p => (p.1, { p.2 with fn := fn })) }

/-- What an area holds by its bytes behind the size and the team count: a context of the device's own, whose teams stand
saved, or which has been restored before and is restored as a copy, or what another device wrote. The context of a halted
grid has been discarded (R341). -/
def State.sourceOf (s : State) (fn : Nat) (bs : List Byte) : Option LoadSource :=
  match s.contexts.find? (fun c => c.area.drop 16 = bs.drop 16) with
  | some c =>
    (match c.fate with
     | .waiting => some (.live c.teams)
     | .spent => some (.body c.body)
     | .discarded => none)
  | none => match Config.foreignContext (bs.drop 16) with
    | some b => if b.sound then some (.body (b.ofFn fn)) else none
    | none => none

/-- The state with the teams of a source in it, saved, and their positions. -/
def State.bring (s : State) (x : LoadSource) : State × List Nat :=
  match x with
  | .live ks => (s, ks)
  | .body b => s.adopt b

/-! ## CTXLD (R344) -/

/-- What a `CTXLD` restores: its thread, where the teams come from, the area's bytes behind its header's first two
words, the keys of the team count, the keys read, the cores and the hub. -/
structure LoadPlan where
  team : Nat
  thr : Nat
  source : LoadSource
  area : List Byte
  count : List Nat
  keys : List Nat
  cores : List Nat
  hub : Nat

/-- The header's team count and size agree with the teams of the area. -/
def State.headerOk (s : State) (bs : List Byte) (ks : List Nat) : Bool :=
  decide (fieldAt bs 8 8 ≠ 0) && decide (fieldAt bs 8 8 = ks.length) && decide (fieldAt bs 0 8 = s.areaSize ks)

/-- What a `CTXLD` reads: the header, and the rest once the header names a size. -/
def areaScript (a : DWord) : Script (List Byte) :=
  (Script.read a 24).bind (fun head => Script.readBytes a (fieldAt head 0 8))

/-- The checks of `CTXLD`, in order (R62): the header's page, its bytes and its count, then every page of the area, its
bytes, and what they hold. Bits 15:0 of the operand are read as 0 (R2). -/
def Lane.loadPlan (l : Lane) (a : DWord) (b : Word) : Except Trap LoadPlan := do
  if !l.privileged then .error (.of .priv)
  match l.s.physCore (bits b.toNat 31 16) with
  | none => .error (.of .bounds)
  | some core =>
    if a.toNat % 4096 ≠ 0 then .error (.atAddr .align a)
    let count ← l.areaKeys (a + 8) 8 .store
    let head ← l.runScript (Script.read a 24)
    if fieldAt head 8 8 = 0 then .error (.of .bounds)
    match l.areaFault .load a (fieldAt head 0 8) with
    | some t => .error t
    | none => .ok ()
    let bs ← l.runScript (Script.readBytes a (fieldAt head 0 8))
    match l.s.sourceOf l.tm.fn bs with
    | none => .error (.of .bounds)
    | some x =>
      let r := l.s.bring x
      if !r.1.headerOk bs r.2 then .error (.of .bounds)
      match r.1.pickWay (r.1.restoreWays r.2 (hubOf core)) with
      | none => .error (.of .bounds)
      | some w => .ok { team := l.s.cur.team, thr := l.th.idx, source := x, area := bs.drop 16, count := count
                        keys := l.scriptKeys (areaScript a), cores := w.map Prod.snd, hub := hubOf core }

/-- A context that has been restored, or whose teams a reset has ended. -/
def Context.spend (c : Context) : Context := { c with teams := [], fate := if c.fate = .waiting then .spent else c.fate }

/-- The teams of an area resume, its team count becomes 0, and its context is spent. -/
def State.resumeArea (s : State) (p : LoadPlan) (ks : List Nat) : State :=
  let s := s.restore (ks.zip p.cores) p.hub []
  let s := (s.writeParts none (p.count.map (fun k => (k, [0])))).sendRemote p.team p.thr (p.count.headD 0)
  { s with contexts := s.contexts.map (fun c => if c.area.drop 16 = p.area then c.spend else c) }

/-- Teams are restored from an area, which is read (R110). An area whose count an earlier lane of the group has made 0, or
whose cores one has filled, is left. -/
def State.loadTeams (s : State) (core : Nat) (p : LoadPlan) : State :=
  let s := s.readKeys core p.keys
  let r := s.bring p.source
  if p.count.all (fun k => s.byte k = 0) || !r.1.restoreFits (r.2.zip p.cores) p.hub then s else r.1.resumeArea p r.2

/-- A copy of some teams that has been stopped would read its control block at a host to which no link goes (R349). -/
def State.blocksAway (s : State) (ks : List Nat) : Bool :=
  s.hostLink.isNone && s.ops.any (fun o => ks.contains o.team && (match o.kind with
    | .copy j => (match s.jobLane o j with | some l => l.blockAway j.block | none => false)
    | _ => false))

/-- What holds a `CTXLD` at issue: an earlier access of its thread, or a host to which no link goes. -/
def Lane.loadHeld (l : Lane) (a : DWord) : Bool :=
  l.waitsToRead || l.scriptAway (areaScript a) || l.s.placesAway l.who .store (a + 8) 8

/-- `CTXLD`: a `SYS`-scope acquire of the area. Its thread parks, and continues when the cycle has passed. -/
def execCtxld (a b : BitVec 7) (s : State) : Host.Outcome State Fault Refusal :=
  runFormThen (pairWordForm a b) s (fun l =>
    if l.privileged && l.loadHeld (l.pair a) then .hold
    else match l.loadPlan (l.pair a) (l.reg b) with
      | .error t => .trap t
      | .ok p =>
        if (match p.source with | .live ks => l.s.blocksAway ks | .body _ => false) then .hold
        else .done { upd := Thread.park .ctxld })
    (fun ls s => ls.foldl (fun s l =>
      match l.loadPlan (l.pair a) (l.reg b) with
      | .ok p => (s.loadTeams l.tm.core p).acquireL1 l.tm.core
      | .error _ => s) s)

/-! ## HALT (R341) -/

/-- A thread of a halted grid: EXITED, with nothing held. -/
def Thread.halt (t : Thread) : Thread := { t with st := .exited, why := .none, held := [], pend := [], nanAt := none }

def Team.halt (t : Team) : Team :=
  { t with status := .gone, threads := t.threads.map Thread.halt, groups := [], queue := [] }

/-- An operation goes on after its grid has been halted: what the store queues hold or have sent to a host, engine
operations that complete, and calls the matrix engine has granted. -/
def State.goesOn (s : State) (o : Op) : Bool :=
  match o.kind with
  | .queued | .hostAtomic .. | .kv _ | .tap _ | .attn _ => true
  | .copy j => (match j.src with | .zeros => true | _ => false)
  | .matrix _ =>
    let mine (c : MxCall) : Bool := c.issuers.any (fun i => i.op = o.id)
    s.engines.any (fun e => (match e.2.running with | some r => mine r.call | none => false) ||
      e.2.bufs.any (fun b => mine b.call) || e.2.ends.any (fun x => mine x.call))
  | _ => false

/-- The context of a halted team is discarded (R341). -/
def Context.discardFor (ks : List Nat) (c : Context) : Context :=
  if c.teams.any ks.contains then { c with teams := [], fate := .discarded } else c

/-- Saves of halted teams end with nothing written; the threads of their `CTXSV` continue. -/
def State.dropSaves (s : State) (ks : List Nat) : State :=
  let gone := s.saves.filter (fun p => p.teams.any ks.contains)
  gone.foldl (fun s p => s.unpark p.team p.thr .ctxsv) { s with saves := s.saves.filter (fun p => !p.teams.any ks.contains) }

/-- What a halted grid's teams have in flight: entries of the store queues are performed, results and causes are
discarded, copies and walks stop, calls not granted are gone, and held buffers flush. -/
def State.haltWork (s : State) (ks : List Nat) : State :=
  let ops := s.ops.filter (fun o => !ks.contains o.team || s.goesOn o)
  let s := { s with
    ops := ops
    sq := s.sq.filter (fun e => !(decide (e.act = SqAct.copy) && ks.contains e.team))
    walkers := s.walkers.filter (fun w => !ks.contains w.team)
    bins := s.bins.filter (fun b => !ks.contains b.team)
    reforms := s.reforms.filter (fun r => !ks.contains r.1)
    tapWait := s.tapWait.filter (fun w => !ks.contains w.1)
    contexts := s.contexts.map (Context.discardFor ks) }
  let s := s.dropSaves ks
  (s.engines.map Prod.fst).foldl (fun s h =>
    (s.modEngine h (fun e => { e with table := e.table.filter (fun c => !c.isFrom ks) })).evictTeams ks h) s

/-- Every join register of the teams' hub sets is IDLE. -/
def State.clearJoins (s : State) (ks : List Nat) : State :=
  { s with hubsets := s.hubsets.map (fun h =>
      if h.teams.any ks.contains then { h with joins := h.joins.map (fun _ => Join.idle) } else h) }

/-- How a halted grid is reported: to its queue, or to the parent of its `LAUNCH`. -/
def State.reportHalt (s : State) (g : Grid) : State :=
  if g.parent = 0 then
    (s.setQueue { s.queue g.queue with err := true, ecode := 0x09, epkt := BitVec.ofNat 64 g.pktNo, en := false }).queueIrq
      g.queue
  else s.launchDone g.parent 9

/-- A grid ends as by `HALT`. -/
def State.haltGrid (s : State) (gi : Nat) : State :=
  match s.grids[gi]? with
  | none => s
  | some g =>
    if g.ended then s
    else
      let s := { s with grids := s.grids.modify gi (fun g => { g with ended := true }) }
      let s := g.teams.foldl (fun s k => s.modTeam k Team.halt) s
      ((s.haltWork g.teams).clearJoins g.teams).reportHalt g

/-- `HALT`. -/
def execHalt (s : State) : Host.Outcome State Fault Refusal :=
  runLanesThen .halt s (fun l => l.privOnly (.done {})) (fun ls s => match ls with
    | [] => s
    | l :: _ => s.haltGrid l.tm.grid)

end Sys2Proof.Machine
end

