-- ==== Sys2Proof/Machine/Xmss.lean ====
section
/-!
DEFINITION. The check of a firmware signature (R353): XMSS with SHAKE256, n = 32, tree height 20 and Winternitz parameter
16. The parts of a signature are the rule's; the algorithm and its hash are those of the standards that the rule names, NIST
SP 800-208 with RFC 8391, and FIPS 202 (PRESUMED, log entry 54).
-/

namespace Sys2Proof.Machine

/-! ## SHAKE256 -/

/-- A lane of the 1,600-bit state. -/
abbrev Keccak := List (BitVec 64)

def Keccak.lane (a : Keccak) (x y : Nat) : BitVec 64 := a.getD (x % 5 + 5 * (y % 5)) 0

def Keccak.build (f : Nat → Nat → BitVec 64) : Keccak := (List.range 25).map (fun i => f (i % 5) (i / 5))

/-- The rotation of each lane. -/
def keccakTurns : List Nat :=
  [0, 1, 62, 28, 27, 36, 44, 6, 55, 20, 3, 10, 43, 25, 39, 41, 45, 15, 21, 8, 18, 2, 61, 56, 14]

/-- The constants of the 24 rounds. -/
def keccakRounds : List (BitVec 64) :=
  [0x0000000000000001, 0x0000000000008082, 0x800000000000808A, 0x8000000080008000, 0x000000000000808B, 0x0000000080000001,
   0x8000000080008081, 0x8000000000008009, 0x000000000000008A, 0x0000000000000088, 0x0000000080008009, 0x000000008000000A,
   0x000000008000808B, 0x800000000000008B, 0x8000000000008089, 0x8000000000008003, 0x8000000000008002, 0x8000000000000080,
   0x000000000000800A, 0x800000008000000A, 0x8000000080008081, 0x8000000000008080, 0x0000000080000001, 0x8000000080008008]

def Keccak.round (a : Keccak) (rc : BitVec 64) : Keccak :=
  let c := (List.range 5).map (fun x => (List.range 5).foldl (fun v y => v ^^^ a.lane x y) 0)
  let d (x : Nat) : BitVec 64 := c.getD ((x + 4) % 5) 0 ^^^ (c.getD ((x + 1) % 5) 0).rotateLeft 1
  let t := Keccak.build (fun x y => a.lane x y ^^^ d x)
  let b := Keccak.build (fun x y =>
    let u := (x + 3 * y) % 5
    (t.lane u x).rotateLeft (keccakTurns.getD (u + 5 * x) 0))
  let e := Keccak.build (fun x y => b.lane x y ^^^ (~~~ b.lane (x + 1) y &&& b.lane (x + 2) y))
  e.set 0 (e.lane 0 0 ^^^ rc)

/-- Bytes of one block added to the state, which is then permuted. -/
def Keccak.absorb (a : Keccak) (block : List Byte) : Keccak :=
  let a := a.mapIdx (fun i v => v ^^^ BitVec.ofNat 64 (leNat ((block.drop (8 * i)).take 8)))
  keccakRounds.foldl Keccak.round a

def Keccak.absorbAll : Nat → Keccak → List Byte → Keccak
  | 0, a, _ => a
  | n + 1, a, bs => Keccak.absorbAll n (a.absorb (bs.take 136)) (bs.drop 136)

/-- A message with its padding to blocks of 136 bytes. -/
def shakePad (m : List Byte) : List Byte :=
  let k := 135 - m.length % 136
  if k = 0 then m ++ [0x9F] else m ++ [0x1F] ++ List.replicate (k - 1) 0 ++ [0x80]

/-- The first 32 bytes of SHAKE256. -/
def shake256 (m : List Byte) : List Byte :=
  let p := shakePad m
  ((Keccak.absorbAll (p.length / 136) (List.replicate 25 0) p).take 4).flatMap (fun w => leBytes 8 w.toNat)

/-! ## XMSS -/

/-- A number in n bytes, the highest first. -/
def beBytes (n x : Nat) : List Byte := (leBytes n x).reverse
def beNat (bs : List Byte) : Nat := leNat bs.reverse

/-- The four keyed functions: F, H, the message hash and the pseudo-random function. -/
def xmssHash (kind : Nat) (key m : List Byte) : List Byte := shake256 (beBytes 32 kind ++ key ++ m)

/-- An address: its type, and its words 4 to 7. -/
structure XmssAddr where
  kind : Nat
  a : Nat
  b : Nat
  c : Nat
  mask : Nat

def XmssAddr.bytes (x : XmssAddr) : List Byte := ([0, 0, 0, x.kind, x.a, x.b, x.c, x.mask]).flatMap (beBytes 4)

/-- A key or a mask of an address. -/
def XmssAddr.prf (x : XmssAddr) (seed : List Byte) (mask : Nat) : List Byte := xmssHash 3 seed ({ x with mask := mask } : XmssAddr).bytes

def xorBytes (a b : List Byte) : List Byte := a.zipWith (· ^^^ ·) b

/-- n steps of a chain from step i on. -/
def xmssChain (seed : List Byte) (leaf chain : Nat) : Nat → Nat → List Byte → List Byte
  | 0, _, x => x
  | n + 1, i, x =>
    let ad : XmssAddr := { kind := 0, a := leaf, b := chain, c := i, mask := 0 }
    xmssChain seed leaf chain n (i + 1) (xmssHash 0 (ad.prf seed 0) (xorBytes x (ad.prf seed 1)))

/-- Two nodes hashed into one. -/
def xmssJoin (seed : List Byte) (ad : XmssAddr) (l r : List Byte) : List Byte :=
  xmssHash 1 (ad.prf seed 0) (xorBytes l (ad.prf seed 1) ++ xorBytes r (ad.prf seed 2))

/-- The digits of a message digest and of its checksum, 4 bits each. -/
def xmssDigits (digest : List Byte) : List Nat :=
  let nibbles (bs : List Byte) : List Nat := bs.flatMap (fun b => [b.toNat / 16, b.toNat % 16])
  let m := nibbles digest
  m ++ (nibbles (beBytes 2 (16 * (m.map (fun d => 15 - d)).sum))).take 3

/-- One level of a leaf's tree: neighbours joined, an odd one kept. -/
def xmssLevel (seed : List Byte) (leaf height : Nat) : Nat → List (List Byte) → List (List Byte)
  | i, l :: r :: rest =>
    xmssJoin seed { kind := 1, a := leaf, b := height, c := i, mask := 0 } l r :: xmssLevel seed leaf height (i + 1) rest
  | _, x => x

/-- The leaf of 67 chain ends: seven levels leave one node. -/
def xmssLeaf (seed : List Byte) (leaf : Nat) (ends : List (List Byte)) : List Byte :=
  ((List.range 7).foldl (fun ns h => xmssLevel seed leaf h 0 ns) ends).headD []

/-- The root over an authentication path, from a node with its place at a height. -/
def xmssRoot (seed : List Byte) : Nat → Nat → List Byte → List (List Byte) → List Byte
  | _, _, node, [] => node
  | height, i, node, p :: ps =>
    let ad : XmssAddr := { kind := 2, a := 0, b := height, c := i / 2, mask := 0 }
    xmssRoot seed (height + 1) (i / 2) (if i % 2 = 0 then xmssJoin seed ad node p else xmssJoin seed ad p node) ps

/-- The parts of a signature (R353): an index of 4 bytes, r, 67 chains and 20 authentication nodes of 32 bytes. -/
structure XmssSignature where
  index : Nat
  r : List Byte
  chains : List (List Byte)
  path : List (List Byte)

def XmssSignature.ofBytes (bs : List Byte) : XmssSignature :=
  let node (i : Nat) : List Byte := (bs.drop (4 + 32 * i)).take 32
  { index := beNat (bs.take 4), r := node 0, chains := (List.range' 1 67).map node, path := (List.range' 68 20).map node }

/-- A signature of 2,820 bytes passes for a message under a key of 64 bytes: the root of its tree, then its seed. -/
def xmssVerify (key message signature : List Byte) : Bool :=
  let g := XmssSignature.ofBytes signature
  let root := key.take 32
  let seed := key.drop 32
  let digest := xmssHash 2 (g.r ++ root ++ beBytes 32 g.index) message
  let ends := (g.chains.zip (xmssDigits digest)).zipIdx.map (fun c => xmssChain seed g.index c.2 (15 - c.1.2) c.1.2 c.1.1)
  decide (signature.length = 2820) && decide (key.length = 64) && decide (g.index < 2 ^ 20) &&
  decide (xmssRoot seed 0 g.index (xmssLeaf seed g.index ends) g.path = root)

end Sys2Proof.Machine
end

