-- ==== Sys2Proof/Machine/Outside.lean ====
section
/-!
DEFINITION. What reaches the device from outside and what it answers: snapshots (R333), other devices and the host
(R188, R202, R203, R205, R214, R349, R350), errors and failures (R327, R352, R355 to R357), the management port's
commands (R351), firmware and attestation (R353, R354), and resets.
-/

namespace Sys2Proof.Machine

/-! ## Snapshots (R332, R333) -/

/-- The contents of the snapshot registers at one instant (R332). -/
def State.snapRegs (s : State) : SnapRegs :=
  { teams := s.teams, sq := s.sq, pannier := s.pannier, ops := s.ops, engines := s.engines, walkers := s.walkers
    resid := s.resid, tlb := s.tlb, unacked := s.unacked }

/-- Every block latches in the cycle that the trigger set. -/
def State.snapLatch (s : State) : State :=
  match s.snap.pending with
  | some h =>
    if h.cycle.toNat ≤ s.now then { s with snap := { s.snap with pending := none, held := some (h, s.snapRegs) } } else s
  | none => s

/-- `SNAPSHOT_LATCH`. -/
def execSnapshotLatch (s : State) : Host.Outcome State Fault Refusal := .next s.snapLatch

/-- The answer to `SNAPREAD`. -/
def State.sendSnap (s : State) : State := s.send (.snapshot s.snap.held s.snap.missed)

/-- `SNAPREAD` (R351). -/
def execSnapread (s : State) : Host.Outcome State Fault Refusal := .next s.sendSnap

/-- `SNAP_REARM`: `SNAPREAD` with payload 1 (R351). The next snapshot's header starts with no missed trigger. -/
def execSnapRearm (s : State) : Host.Outcome State Fault Refusal :=
  .next { s.sendSnap with snap := { s.snap with held := none, missed := 0 } }

/-- `SNAPTRIG` (R332). -/
def execSnaptrig (s : State) : Host.Outcome State Fault Refusal := .next (s.triggerSnap 1 0 0 0)

/-! ## Other devices and the host -/

/-- Bytes at a physical address lie in the device's memory (R111). -/
def inPhysical (pa n : Nat) : Bool := inRange pa n 0 || inRange pa n 1

/-- A page of a function's address space holds a key: the address there. -/
def State.vaOf (s : State) (fn page k : Nat) : Option Nat :=
  let va : DWord := BitVec.ofNat 64 (page * 65536)
  match s.walk fn va (s.draw 65 0) with
  | .error _ => none
  | .ok (pte, level) => match leafOf pte level with
    | none => none
    | some l =>
      let base := s.keyIn l va
      if base ≤ k ∧ k < base + 65536 then some (page * 65536 + (k - base)) else none

/-- A key is a protected byte of a record of some function's sequence region (R224). -/
def State.protectedKey (s : State) (k : Nat) : Bool :=
  (List.range 17).any (fun fn =>
    let base := (s.space fn).sqbase.toNat
    let size := (s.space fn).sqlen.toNat
    decide (size ≠ 0) && (List.range' (base / 65536) ((base + size - 1) / 65536 - base / 65536 + 1)).any (fun page =>
      match s.vaOf fn page k with
      | some va => s.seqProtected fn (BitVec.ofNat 64 va) 1
      | none => false))

/-- A write of another agent is refused: outside the device's memory, in a fenced stack, or to protected bytes by a
thread without privilege. -/
def State.writeRefused (s : State) (pa n : Nat) (priv : Bool) : Bool :=
  !inPhysical pa n || s.unreachable pa || (!priv && (List.range n).any (fun i => s.protectedKey (pa + i)))

/-- A write from another device whose number is next is applied, once, and acknowledged; one applied before is only
acknowledged; a later one has not come in its turn (R202). DESIGN CHOICE (log entry 91): the half of the numbers behind the
next one has been applied, and a read-modify-write takes its number whether or not it writes. -/
def State.inTurn (s : State) (src seq : Nat) (f : State → State) : State :=
  let due := Tab.get s.rxSeq src 0
  if src = s.ownNode ∨ 143 < src then s
  else if seq = due then { f s with rxSeq := Tab.put s.rxSeq src ((due + 1) % seqSpan) 0 }.send (.ack src seq)
  else if (due + seqSpan - seq) % seqSpan < seqSpan / 2 then s.send (.ack src seq)
  else s

/-- A write of bytes from another device. -/
def State.remoteWrite (s : State) (src seq pa : Nat) (bytes : List Byte) (priv : Bool) : State :=
  s.inTurn src seq (fun s => if s.writeRefused pa bytes.length priv then s else s.writeMem none pa bytes)

/-- `REMOTE_WRITE_ARRIVAL` (R202). -/
def execRemoteWriteArrival (src seq pa : Nat) (bytes : List Byte) (trapped : Bool) (s : State) :
    Host.Outcome State Fault Refusal := .next (s.remoteWrite src seq pa bytes trapped)

/-- `REMOTE_WRITE_ACKNOWLEDGED` (R202). -/
def execRemoteWriteAcknowledged (dst seq : Nat) (s : State) : Host.Outcome State Fault Refusal :=
  .next { s with unacked := s.unacked.filter (fun u => !(decide (u.dst = dst) && decide (u.seq = seq))) }

/-- Bytes read at their home slices for another agent; none where they are poisoned, fenced or not there. -/
def State.agentRead (s : State) (pa n : Nat) : Option (List Byte) :=
  if !inPhysical pa n || s.unreachable pa || s.poisoned pa n then none else some (s.bytesAt pa n)

/-- The read transactions of such a read (R110). -/
def State.noteAgent (s : State) (pa n : Nat) : State := (linesOf pa n).foldl State.readTransaction s

/-- The read-modify-write that an agent asks for, none for a read. -/
def rmwOf : AgentAccess → Option Rmw
  | .read _ => none
  | .atomic c op e => if atomOk c || decide (c = 21#7) then some (.atom c.toNat op e) else none
  | .cas e n => some (.cas e n)
  | .casv v n f => some (.casv v n f)

/-- An advance of a record is the one write to its protected bytes that needs no privilege (R225). -/
def Rmw.fused : Rmw → Bool
  | .casv _ _ f => f
  | _ => false

/-- A read-modify-write performed for another agent: the old bytes and the words it returns; none where it is refused
(R206, R224). -/
def State.agentRmw (s : State) (pa : Nat) (act : Rmw) (priv : Bool) : State × Option (List Byte × List Word) :=
  let n := act.size
  if pa % n ≠ 0 ∨ s.writeRefused pa n (priv || act.fused) ∨ s.poisoned pa n then (s, none)
  else
    let old := s.bytesAt pa n
    let r := act.run old (s.version (lineOf pa))
    let s' := match r.write with
      | some bs => s.writeMem none pa bs
      | none => s.readTransaction (lineOf pa)
    (s', some (old, r.words))

/-- A read for another device, or a read-modify-write, which is under R202 like a write (R206). -/
def State.remoteAccess (s : State) (src seq pa : Nat) (acc : AgentAccess) (priv : Bool) : State :=
  match acc with
  | .read n => (s.noteAgent pa n).send (.remoteRead src ((s.agentRead pa n).map (fun bs => (bs, s.version (lineOf pa)))))
  | _ => s.inTurn src seq (fun s => match rmwOf acc with
    | none => s.send (.remoteResult src none)
    | some a =>
      let r := s.agentRmw pa a priv
      r.1.send (.remoteResult src (r.2.map Prod.snd)))

/-- `REMOTE_ACCESS_ARRIVAL`: served at the home slice (R113, R188). -/
def execRemoteAccessArrival (src : Sender) (pa : Nat) (acc : AgentAccess) (trapped : Bool) (s : State) :
    Host.Outcome State Fault Refusal := .next (s.remoteAccess src.node src.seq pa acc trapped)

/-- A link carries requests. -/
def State.linkUp (s : State) (link : Nat) : Bool :=
  if link = 0 then s.mgmt.link0Up else if link = 1 then s.mgmt.link1Up else false

/-- `HOST_WRITE_ARRIVAL`: applied in arrival order (R203). Host writes to the protected bytes of a record are allowed
(R224). -/
def execHostWriteArrival (link pa : Nat) (bytes : List Byte) (s : State) : Host.Outcome State Fault Refusal :=
  .next (if !s.linkUp link || s.writeRefused pa bytes.length true then s else s.writeMem none pa bytes)

/-- `HOST_READ_ARRIVAL` (R188). -/
def execHostReadArrival (link pa len : Nat) (s : State) : Host.Outcome State Fault Refusal :=
  .next (if s.linkUp link then (s.noteAgent pa len).send (.hostRead link (s.agentRead pa len)) else s)

/-- The AtomicOps the device completes (R214, R349): FetchAdd and Swap of 32 or 64 bits, CAS of 32. -/
def atomicOpOf (a : AgentAccess) : Option Rmw :=
  match a with
  | .atomic c _ _ => if atomHost c then rmwOf a else none
  | .cas .. => rmwOf a
  | _ => none

/-- `HOST_ATOMICOP_ARRIVAL`: the completion returns the old bytes, or reports the operation unsupported. -/
def execHostAtomicopArrival (link pa : Nat) (acc : AgentAccess) (s : State) : Host.Outcome State Fault Refusal :=
  .next (if !s.linkUp link then s
    else match atomicOpOf acc with
      | none => s.send (.hostResult link none)
      | some a =>
        let r := s.agentRmw pa a true
        r.1.send (.hostResult link (r.2.map Prod.fst)))

/-- `FABRIC_LINK_FAILURE`: the port carries nothing. Writes not acknowledged are sent again on other paths with their
numbers, so that they are applied once, as though the port had not failed (R205). -/
def execFabricLinkFailure (port : Nat) (s : State) : Host.Outcome State Fault Refusal :=
  .next (if port < 16 ∧ !s.mgmt.failedPorts.contains port then
    { s with mgmt := { s.mgmt with failedPorts := s.mgmt.failedPorts ++ [port] } } else s)

/-- `DEVICE_LOST`: accesses to the device trap from now on (R240, R350). -/
def execDeviceLost (node : Nat) (s : State) : Host.Outcome State Fault Refusal :=
  .next (if node ≤ 143 ∧ node ≠ s.ownNode ∧ !s.mgmt.lost.contains node then
    { s with mgmt := { s.mgmt with lost := s.mgmt.lost ++ [node] } } else s)

/-- A link goes down or comes up. -/
def State.setLink (s : State) (link : Nat) (up : Bool) : State :=
  if link = 0 then { s with mgmt := { s.mgmt with link0Up := up } }
  else if link = 1 then { s with mgmt := { s.mgmt with link1Up := up } }
  else s

/-- `PCIE_LINK_DOWN`: a write to the host is in host memory once its port has accepted it, so no write is outstanding
when the device moves its requests to the other link (R349). -/
def execPcieLinkDown (link : Nat) (s : State) : Host.Outcome State Fault Refusal := .next (s.setLink link false)

/-- `PCIE_LINK_UP` (R349). -/
def execPcieLinkUp (link : Nat) (s : State) : Host.Outcome State Fault Refusal := .next (s.setLink link true)

/-! ## Errors (R327) -/

/-- A place's count among the corrected-error counts. -/
def placeNo : ErrorPlace → Nat
  | .memory => 0 | .cache => 1 | .store => 2 | .buffer => 3 | .link => 4

/-- `CORRECTED_ERROR`: no effect on programs; it is counted. -/
def execCorrectedError (p : ErrorPlace) (s : State) : Host.Outcome State Fault Refusal :=
  .next { s with mgmt := { s.mgmt with corrected := s.mgmt.corrected.modify (placeNo p) (fun n => n + 1) } }

/-- Elements added to a list that has not got them. -/
def addNew (xs ys : List Nat) : List Nat := xs ++ ys.filter (fun y => !xs.contains y)

/-- The unit of an error is poisoned: a sector of the device's memory, a register, or a scratchpad word. -/
def State.poisonSite (s : State) : ErrorSite → State
  | .sector n => if inPhysical (32 * n) 32 then { s with poison := addNew s.poison (List.range' (32 * n) 32) } else s
  | .reg k j n => s.modThread k j (fun th =>
      if n < th.regs.length then { th with poisonRegs := addNew th.poisonRegs [n] } else th)
  | .spad k w => s.modTeam k (fun t =>
      if 4 * w + 4 ≤ t.spadBytes then { t with spadPoison := addNew t.spadPoison (List.range' (4 * w) 4) } else t)

/-- `UNCORRECTABLE_ERROR`. -/
def execUncorrectableError (u : ErrorSite) (s : State) : Host.Outcome State Fault Refusal := .next (s.poisonSite u)

/-! ## Health (R355) -/

/-- `HEALTH`. -/
def State.health (s : State) : DWord :=
  BitVec.ofNat 64 (s.coreCount * 2 ^ 48 + s.mgmt.slices.length % 256 * 2 ^ 40 + s.mgmt.hbmStacks.length % 16 * 2 ^ 36 +
    s.mgmt.cores.length % 256 * 2 ^ 28 + ((List.range 8).filter s.mgmt.hbmStacks.contains).foldl (fun m x => m + 2 ^ x) 0 * 2 ^ 20 +
    (if s.mgmt.replace then 4 else 0) + s.mgmt.state)

/-- `HEALTH` of the management port (R351). -/
def execHealth (s : State) : Host.Outcome State Fault Refusal :=
  .next (s.send (.health s.health s.mgmt.corrected (Config.vendor 0)))

/-! ## Failures and fencing (R107, R112, R356) -/

/-- A unit that exists and is not fenced. -/
def Mgmt.unfenced (m : Mgmt) : DeviceUnit → Bool
  | .core n => decide (n < 192) && !m.cores.contains n
  | .slice n => decide (n < 128) && !m.slices.contains n
  | .stack n => decide (n < 8) && !m.hbmStacks.contains n

/-- One whose fencing has not begun. -/
def Mgmt.canFence (m : Mgmt) (u : DeviceUnit) : Bool := m.unfenced u && !m.fencing.contains u

/-- The unit is fenced. -/
def Mgmt.addUnit (m : Mgmt) : DeviceUnit → Mgmt
  | .core n => { m with cores := m.cores ++ [n] }
  | .slice n => { m with slices := m.slices ++ [n] }
  | .stack n => { m with hbmStacks := m.hbmStacks ++ [n] }

/-- The device cannot run: some line has no home slice (R107), or there is no core (R356). -/
def Mgmt.cannotRun (m : Mgmt) : Bool :=
  (List.range 32).any (fun q => (List.range' (4 * q) 4).all m.slices.contains) ||
  (List.range 192).all m.cores.contains

/-- Both masters are alerted: the management controller, and the host of every function by its vector 17 (R348). -/
def State.alertMasters (s : State) : State :=
  (List.range 17).foldl (fun s fn => s.send (.irq fn 17)) (s.send .alert)

/-- The ways to restore some teams anywhere on the device. -/
def State.anyWay (s : State) (ks : List Nat) : List (List (Nat × Nat)) :=
  (List.range 48).flatMap (fun hub => s.restoreWays ks hub)

/-- A team of a grid that has ended. -/
def State.teamGone (s : State) (k : Nat) : Bool := match s.teams[k]? with | some t => decide (t.status = .gone) | none => true

/-- A team that a double trap has stopped. -/
def State.teamHeld (s : State) (k : Nat) : Bool :=
  match s.teams[k]? with | some t => decide (t.status = .stopped true) | none => false

/-- The grid of a hub set ends as by `HALT`. -/
def State.haltSet (s : State) (ks : List Nat) : State :=
  match ks with
  | k :: _ => (match s.teams[k]? with | some t => s.haltGrid t.grid | none => s)
  | [] => s

/-- A hub set that has been pre-empted is restored elsewhere, or its grid ends as by `HALT`; nothing is done for one whose
grid has ended. A team that a double trap stopped moves with it and stands stopped there (R325). -/
def State.moveSet (s : State) (ks : List Nat) : State :=
  if ks.any s.teamGone then s
  else
    let held := ks.filter s.teamHeld
    let s' := s.releaseTeams ks
    match s'.pickWay (s'.anyWay ks) with
    | some (p :: ps) => s'.restore (p :: ps) (hubOf p.2) held
    | _ => s'.haltSet ks

/-- The teams with a slot of each hub set that has one on a core. -/
def State.setsOn (s : State) (core : Nat) : List (List Nat) :=
  let sets := ((s.residents core).map (fun t => t.hubset)).eraseDups
  sets.map (fun hs => (List.range s.teams.length).filter (fun k => match s.teams[k]? with
    | some t => decide (t.hubset = hs) && t.seated
    | none => false))

/-- Packets that were checked and not placed are checked again (R356); the cores they have reserved stay reserved (R319). -/
def Queue.recheck (q : Queue) : Queue :=
  { q with cur := q.cur.map (fun p => { p with checked := false }) }

/-- Step 1 of R356: the state and the alerts; a core's teams stop with their hub sets, for step 2. -/
def State.fenceBegin (s : State) (u : DeviceUnit) : State :=
  let m := { s.mgmt with
    record := s.mgmt.record ++ [u], replace := true, state := max 1 s.mgmt.state, fencing := s.mgmt.fencing ++ [u] }
  let s := State.alertMasters { s with mgmt := m }
  match u with
  | .core n => (s.setsOn n).foldl (fun s ks => s.stopTeams ks false) s
  | _ => s

/-- The teams of a core whose fencing has begun are drained, and none of them is being saved (R328). -/
def State.fenceReady (s : State) : DeviceUnit → Bool
  | .core n => (s.setsOn n).all (fun ks => s.drained ks && !ks.any s.savingTeam && !s.blocksAway ks)
  | _ => true

/-- The rest of R356 for a unit: its teams are moved, it is fenced, and the cores have new numbers. -/
def State.fenceEnd (s : State) (u : DeviceUnit) : State :=
  let s := match u with | .core n => (s.setsOn n).foldl State.moveSet s | _ => s
  let m := { s.mgmt.addUnit u with fencing := s.mgmt.fencing.erase u }
  { s with
    queues := s.queues.map Queue.recheck
    mgmt := { m with state := if m.cannotRun then 2 else m.state } }

/-- The units whose turn it is are fenced, one after another. -/
def State.fenceSteps (s : State) : State :=
  s.mgmt.fencing.foldl (fun s u => if s.mgmt.fencing.head? = some u && s.fenceReady u then s.fenceEnd u else s) s

/-- The fencing of a unit begins, and ends at once where nothing has to be drained. -/
def State.fenceUnit (s : State) (u : DeviceUnit) : State := if s.mgmt.canFence u then (s.fenceBegin u).fenceSteps else s

/-- `UNIT_FAILURE`. -/
def execUnitFailure (u : DeviceUnit) (s : State) : Host.Outcome State Fault Refusal := .next (s.fenceUnit u)

/-- `THERMAL_TRIP`: issue stops and the device has FAILED (R352). -/
def execThermalTrip (s : State) : Host.Outcome State Fault Refusal :=
  .next { s with mgmt := { s.mgmt with state := 2, hot := true } }

/-- `CURRENT_LIMIT`: the issue cycle is withheld; results are unchanged (R352). -/
def execCurrentLimit (s : State) : Host.Outcome State Fault Refusal := .next ((List.range 192).foldl State.closeCore s)

/-! ## Commands of the management port (R351) -/

/-- Command bytes, for an answer that refuses one. -/
def cmdFwupdate : Nat := 0x04
def cmdPcap : Nat := 0x06
def cmdFence : Nat := 0x07

/-- `FENCE`. -/
def execFence (u : DeviceUnit) (s : State) : Host.Outcome State Fault Refusal :=
  .next (if s.mgmt.canFence u then s.fenceUnit u else s.send (.refused cmdFence))

/-- `FENCE_CLEAR` (R357). -/
def execFenceClear (s : State) : Host.Outcome State Fault Refusal :=
  .next { s with mgmt := { s.mgmt with clearRecord := true } }

/-- `PCAP`: 800 to 2,600 W. -/
def execPcap (watts : Nat) (s : State) : Host.Outcome State Fault Refusal :=
  .next (if 800 ≤ watts ∧ watts ≤ 2600 then { s with mgmt := { s.mgmt with pcap := watts } } else s.send (.refused cmdPcap))

/-- `FWUPDATE`: an image is staged, unless its version is below the rollback counter (R353). -/
def execFwupdate (image : FwImage) (signature : List Byte) (s : State) : Host.Outcome State Fault Refusal :=
  .next (if s.mgmt.rollback ≤ image.version then { s with mgmt := { s.mgmt with staged := some (image, signature) } }
    else s.send (.refused cmdFwupdate))

/-- `FWCOMMIT`: the counter is never lowered (R353). -/
def execFwcommit (s : State) : Host.Outcome State Fault Refusal :=
  .next { s with mgmt := { s.mgmt with rollback := max s.mgmt.rollback s.mgmt.running.version } }

/-- How many attestation signatures there are (R354). -/
def attestMost : Nat := 2 ^ 20

/-- What an attestation with an index says: the firmware measurement, the tap generation and `HEALTH`, with their
signature. -/
def State.attest (s : State) (index : Nat) : Out :=
  let m := Config.measure s.mgmt.running.body
  .attestation index m s.tapGen s.health (Config.attestSign index m s.tapGen s.health)

/-- `ATTESTATION`: the counter advances before the signature is released; an exhausted counter refuses (R354). -/
def execAttestation (s : State) : Host.Outcome State Fault Refusal :=
  .next (if s.mgmt.attest < attestMost then
    { s with mgmt := { s.mgmt with attest := s.mgmt.attest + 1 } }.send (s.attest s.mgmt.attest) else s)

/-! ## Register blocks and requests (R312, R348, R351) -/

/-- A queue and the register of its block at an offset of a function's BAR 0. -/
def barQueue (fn offset : Nat) : Option (Nat × Nat) :=
  if 17 ≤ fn then none
  else if 0x1000 ≤ offset ∧ offset < 0x1000 + 0x40 * 16 then some (hostQueue fn ((offset - 0x1000) / 0x40), offset % 0x40)
  else if 0x2000 ≤ offset ∧ offset < 0x2000 + 0x40 * 64 then some (deviceQueue fn ((offset - 0x2000) / 0x40), offset % 0x40)
  else none

/-- A flag in bit 31 over the lower bits of a register. -/
def flagOver (b : Bool) (n : Nat) : DWord := BitVec.ofNat 64 ((if b then 2 ^ 31 else 0) + n)

/-- A register of a queue's block (R312). -/
def Queue.register (q : Queue) : Nat → Option DWord
  | 0x00 => some q.base
  | 0x08 => some (flagOver q.en q.log2)
  | 0x10 => some q.tail
  | 0x18 => some q.head
  | 0x20 => some (flagOver q.err q.ecode.toNat)
  | 0x28 => some q.epkt
  | _ => none

/-- What a read of a function's BAR 0 gives. -/
def State.barRead (s : State) (fn offset : Nat) : Option DWord :=
  if fn < 17 ∧ offset = 0 then some s.health
  else (barQueue fn offset).bind (fun r => (s.queue r.1).register r.2)

/-- The row of the table that a write of a function's BAR 0 is; none where the register is read-only. -/
noncomputable def barWrite (fn offset : Nat) (v : DWord) : Option Instr :=
  (barQueue fn offset).bind (fun r => match r.2 with
    | 0x00 => some (.qbaseWrite r.1 v)
    | 0x08 => some (.qlog2Write r.1 (v.truncate 32))
    | 0x10 => some (.qtailWrite r.1 v)
    | 0x20 => if v.getLsbD 31 then some (.errClear r.1) else none
    | _ => none)

/-- The image and its signature in the payload of a `FWUPDATE`, and the unit in that of a `FENCE`; the manual gives the
payloads no layout (R351, log entry 100). -/
opaque Config.imageOf : List Byte → Option (FwImage × List Byte)
opaque Config.unitOf : List Byte → Option DeviceUnit

/-- The row of the table that a command byte with its payload is (R351). A power cap is a number of watts, its lowest byte
first (DESIGN CHOICE, log entry 100). -/
noncomputable def commandOf (cmd : Byte) (payload : List Byte) : Option Instr :=
  match cmd.toNat with
  | 0x01 => some .health
  | 0x02 => some (if payload = [1] then .snapRearm else .snapread)
  | 0x03 => some .snaptrig
  | 0x04 => (Config.imageOf payload).map (fun x => .fwupdate x.1 x.2)
  | 0x05 => some .reset
  | 0x06 => some (.pcap (leNat payload))
  | 0x07 => if payload = [0xFF] then some .fenceClear else (Config.unitOf payload).map (fun u => .fence u)
  | 0x08 => some .fwcommit
  | _ => none

/-- The message type of vendor defined requests (R351). -/
def vendorMessage : Byte := 0x7F

/-- A request is for the device: one of another type or vendor is ignored. -/
def requestTaken (kind : Byte) (vendor : Word) : Bool := decide (kind = vendorMessage) && decide (vendor = Config.vendor 0)

/-- The row of the table that an input is, where it is one. -/
noncomputable def Input.row : Input → Option Instr
  | .write fn offset v => barWrite fn offset v
  | .request kind vendor cmd payload => if requestTaken kind vendor then commandOf cmd payload else none
  | _ => none

/-- What the other inputs do. A command that the device does not know is refused (DESIGN CHOICE, log entry 100). -/
def State.takeInput (s : State) : Input → State
  | .read fn offset => s.send (.register fn offset (s.barRead fn offset))
  | .number n => if n ≤ 143 then { s with devid := BitVec.ofNat 32 n } else s
  | .cooled => { s with mgmt := { s.mgmt with hot := false } }
  | .request kind vendor cmd _ => if requestTaken kind vendor then s.send (.refused cmd.toNat) else s
  | _ => s

/-! ## Resets (R351, R353, R357) -/

/-- The boot ROM takes a staged image: its signature has its size and passes under the key of 64 bytes, and its version is
not below the rollback counter (R353). -/
def Mgmt.takes (m : Mgmt) (i : FwImage) (signature : List Byte) : Bool :=
  decide (m.rollback ≤ i.version) &&
  xmssVerify ((List.range 64).map Config.fwKey) (Config.signedBytes i.version i.body) signature

/-- What boot firmware makes of the records that survive a reset. A device whose temperature is not below the trip stays
in FAILED (R357). -/
def Mgmt.boot (m : Mgmt) : Mgmt :=
  let record := if m.clearRecord then [] else m.record
  let r : Mgmt := { State.reset.mgmt with
    record := record, rollback := m.rollback, attest := m.attest
    hot := m.hot
    running := match m.staged with | some (i, sig) => if m.takes i sig then i else m.running | none => m.running
    link0Up := m.link0Up, link1Up := m.link1Up, lost := m.lost, failedPorts := m.failedPorts }
  let r := record.foldl Mgmt.addUnit r
  { r with state := if r.cannotRun || m.hot then 2 else if record.isEmpty then 0 else 1, replace := !record.isEmpty }

/-- The device after a reset: as at the start, with what survives, and with memory elsewhere as it was. -/
def State.reboot (s : State) : State :=
  { State.reset with
    fresh := s.fresh, nextId := s.nextId, contexts := s.contexts.map Context.spend, agenda := s.agenda, out := s.out, devid := s.devid, mgmt := s.mgmt.boot
    mem := s.mem.filter (fun x => decide (nodeSpan ≤ x.1))
    vers := s.vers.filter (fun x => decide (nodeSpan ≤ x.1 * 128))
    poison := s.poison.filter (fun x => decide (nodeSpan ≤ x)) }

/-- `RESET`: every grid ends without its signal. -/
def execReset (s : State) : Host.Outcome State Fault Refusal := .next s.reboot
/-- `HOST_RESET`. -/
def execHostReset (s : State) : Host.Outcome State Fault Refusal := .next s.reboot
/-- `POWER_LOSS`: all work ends, and the device boots when power is back. -/
def execPowerLoss (s : State) : Host.Outcome State Fault Refusal := .next s.reboot

end Sys2Proof.Machine
end

