-- ==== Sys2Proof/Machine/Agenda.lean ====
section
/-!
DEFINITION. The steps a core takes on its own (R14, R28, R35, R37, R79, R80), and which agent moves: what the agenda
says, or the model's own order where it says nothing.
-/

namespace Sys2Proof.Machine

/-! ## Steps of a core -/

/-- `BUNDLE_ENTRY` (R35). -/
def State.bundleEntry (s : State) (k g : Nat) : State :=
  match s.groupAt k g with
  | some (t, gr) => if s.entryDue t gr then s.enterGroup k gr else s
  | none => s

def execBundleEntry (team group : Nat) (s : State) : Host.Outcome State Fault Refusal := .next (s.bundleEntry team group)

/-- `FLAG_WAIT_RELEASE` (R37, R324). -/
def State.waitRelease (s : State) (k g : Nat) : State :=
  match s.groupAt k g with
  | some (t, gr) => if t.waitReady s.now gr then s.releaseGroup k gr else s
  | none => s

def execFlagWaitRelease (team group : Nat) (s : State) : Host.Outcome State Fault Refusal := .next (s.waitRelease team group)

/-- `ISSUE_PROMOTION`: a ready group passed over 64 times rises one class (R28). -/
def State.promote (s : State) (k g : Nat) : State :=
  s.modTeam k (fun t => { t with groups := t.groups.modify g (fun gr =>
    if 64 ≤ gr.passed then { gr with boost := gr.boost + 1, passed := gr.passed - 64 } else gr) })

def execIssuePromotion (team group : Nat) (s : State) : Host.Outcome State Fault Refusal := .next (s.promote team group)

/-- A thread that sleeps and meets a condition continues (R10). -/
def State.wakeIf (s : State) (k j : Nat) (p : Why → Bool) : State :=
  match s.thread? k j with
  | some th => if th.st = .sleeping ∧ p th.why then s.release k [j] else s
  | none => s

/-- The cycles of a sleep have passed. -/
def Why.slept : Why → Bool
  | .sleep 0 _ => true
  | _ => false

/-- `SLEEP_WAKE` (R79). -/
def execSleepWake (team thr : Nat) (s : State) : Host.Outcome State Fault Refusal :=
  .next (s.wakeIf team thr Why.slept)

/-- `WAITF_TIMEOUT` (R80). -/
def execWaitfTimeout (team thr : Nat) (s : State) : Host.Outcome State Fault Refusal :=
  .next (s.wakeIf team thr (fun w => match w with | .waitf dl _ _ => decide (dl ≤ s.now) | _ => false))

/-- `WAITF_WRITE_WAKE`: 256 cycles after a write that changed a byte of the line (R80). -/
def execWaitfWriteWake (team thr : Nat) (s : State) : Host.Outcome State Fault Refusal :=
  .next (s.wakeIf team thr (fun w => match w with | .waitf _ _ (some c) => decide (c + 256 ≤ s.now) | _ => false))

/-- `WAITF_EARLY_WAKE`: at a moment of the device's choosing (R80). -/
def execWaitfEarlyWake (team thr : Nat) (s : State) : Host.Outcome State Fault Refusal :=
  .next (s.wakeIf team thr (fun w => match w with | .waitf .. => true | _ => false))

/-! ## Time -/

/-- A cycle ends: the threads that trapped in it have left their join registers (R24), the groups that acted thread by
thread are groups again, each core's bins take their steps (R14), and what is due in the next cycle happens: sleeps end
(R79), special registers change (R337), walks take free contexts (R277), teams are saved (R343) and units are fenced
(R356). -/
def State.cycle (s : State) : State :=
  let s := { s.leaveAll.endTurns (fun _ => true) with turns := [] }
  let s := s.binCores.foldl State.binCycle s
  let s := { s with
    now := s.now + 1, issued := [], walked := [], binsDone := []
    teams := s.teams.map Team.tickSleep }
  s.napWake.sregLand.nanTraps.tlbSteps.handContexts.saveSteps.fenceSteps

/-- Something must happen in this cycle: a core acts, an entry of the Pannier is sent (R120), a WAITF thread wakes (R80),
a packet is placed (R319), or a snapshot latches (R333). -/
def State.urgent (s : State) : Bool :=
  s.coresBusy || s.sendsDue || s.placementDue ||
  s.teams.any (fun t => t.threads.any (Thread.waitfDue s.now)) ||
  (match s.snap.pending with | some h => decide (h.cycle.toNat ≤ s.now) | none => false)

/-- Cycles pass, none while something must happen in the present one. -/
def State.cycles : Nat → State → State
  | 0, s => s
  | n + 1, s => if s.urgent then s else State.cycles n s.cycle

/-! ## Bins (R14 to R16) -/

/-- The core's issues of this cycle are over and its arrivals are filed: step 1 of R14. -/
def State.binsOpen (s : State) (core : Nat) : State := (s.closeCore core).fileArrivals core

/-- A bin releases in step 2. -/
def State.binDue (s : State) (b : Bin) : Bool := s.binFull b || s.binAged b || s.binIdle b

/-- A bin of a core releases, if it meets a condition and no older one is due; none while an issue slot of the core has
still to act, and none once step 3 of the cycle is over. -/
def State.binRelease (s : State) (core bin : Nat) (p : State → Bin → Bool) : State :=
  if s.slotsOpen core || s.binsDone.contains core then s
  else
  let s' := s.binsOpen core
  match (s'.coreBins core)[bin]? with
  | some b => if p s' b && !((s'.coreBins core).take bin).any s'.binDue then s'.releaseBin b else s'
  | none => s'

/-- `BIN_AGE_RELEASE`; a full bin releases in the same way. -/
def execBinAgeRelease (core bin : Nat) (s : State) : Host.Outcome State Fault Refusal :=
  .next (s.binRelease core bin (fun s b => s.binFull b || s.binAged b))

/-- `BIN_IDLE_RELEASE`. -/
def execBinIdleRelease (core bin : Nat) (s : State) : Host.Outcome State Fault Refusal :=
  .next (s.binRelease core bin State.binIdle)

/-- `BIN_REFILL`: step 3, once no bin is due. -/
def execBinRefill (core : Nat) (s : State) : Host.Outcome State Fault Refusal :=
  .next (
    if s.slotsOpen core || s.binsDone.contains core then s
    else
    let s' := s.binsOpen core
    if (s'.coreBins core).any s'.binDue then s'
    else { State.refillBins binsPerCore s' core with binsDone := core :: s'.binsDone })

/-! ## Which agent moves -/

/-- A row of the table that is a step of the device or an input to it, and no instruction word. -/
def isDeviceStep : Instr → Bool
  | .bundleEntry .. | .flagWaitRelease .. | .operationComplete .. | .binAgeRelease .. | .binIdleRelease ..
  | .binRefill .. | .issuePromotion .. | .sleepWake .. | .waitfTimeout .. | .waitfWriteWake ..
  | .waitfEarlyWake .. | .pageWalk .. | .storePerform .. | .scratchpadLineArrival .. | .pannierSend ..
  | .residencyExpire .. | .copyComplete .. | .copyFault .. | .mmaGrant .. | .reservationPromotion ..
  | .mmaCallEnd .. | .bufferEviction .. | .heldSumFlush .. | .attnStop .. | .kvOpComplete .. | .tapComplete ..
  | .tapGenerationRetire | .spokeComplete .. | .snapshotLatch | .qbaseWrite .. | .qlog2Write ..
  | .queueEnable .. | .qtailWrite .. | .errClear .. | .packetRead .. | .dependencePoll .. | .placement ..
  | .csigWrite .. | .remoteWriteArrival .. | .remoteAccessArrival .. | .hostWriteArrival ..
  | .hostReadArrival .. | .atomicopCompletion .. | .fabricLinkFailure .. | .deviceLost .. | .pcieLinkDown ..
  | .correctedError .. | .uncorrectableError .. | .unitFailure .. | .thermalTrip | .currentLimit | .hostReset
  | .attestation | .health | .snapread | .snapRearm | .snaptrig | .fwupdate .. | .reset | .pcap .. | .fence ..
  | .fenceClear | .fwcommit | .pcieLinkUp .. | .remoteWriteAcknowledged .. | .hostAtomicopArrival ..
  | .powerLoss => true
  | _ => false

/-- What an operation's next step would be, with the state after it. -/
noncomputable def State.opMove (s : State) (o : Op) : List (Move × State) :=
  match o.kind with
  | .copy j => (match j.src with
    | .zeros => [(.event (.operationComplete o.id), (s.copyComplete o.id).copyFault o.id)]
    | _ => [(.event (.copyComplete o.id), s.copyComplete o.id), (.event (.copyFault o.id), s.copyFault o.id)])
  | .kv _ => [(.event (.kvOpComplete o.id), s.kvEnd o.id)]
  | .attn _ => [(.event (.attnStop o.id), s.attnEnd o.id)]
  | .tap _ => [(.event (.tapComplete o.id), s.tapEnd o.id)]
  | .matrix _ | .spoke _ | .launch _ | .hostAtomic .. | .queued => []
  | _ => [(.event (.operationComplete o.id), s.operationComplete o.id)]

/-- What a hub's matrix engine would do next: a grant, the end of a call, a flush, an eviction for a stopped team. -/
noncomputable def State.hubMoves (s : State) (hub : Nat) : List (Move × State) :=
  let bufs := (s.engine hub).bufs
  let stopped (b : MxBuf) : Bool := b.teams.any (fun k => match s.teams[k]? with
    | some t => decide (t.status ≠ .resident)
    | none => true)
  bufs.flatMap (fun b =>
    if b.phase = .flushing then [(.event (.heldSumFlush hub b.id), State.flushAll 4097 s hub b.id)]
    else if stopped b then [(.event (.bufferEviction hub b.id), s.evict hub b.id)] else []) ++
  [(.event (.mmaCallEnd hub), s.mmaCallEnd hub), (.event (.mmaGrant hub), s.mmaGrant hub)]

/-- What a queue would do next. -/
noncomputable def State.queueMoves (s : State) (q : Queue) : List (Move × State) :=
  [(.event (.packetRead q.key), s.packetRead q.key), (.event (.placement q.key), s.placement q.key)] ++
  (match q.cur with
   | some p => if p.checked then [] else [(.event (.dependencePoll q.key), s.examineQueue q p)]
   | none => [])

/-- A walker that can run its next word in this cycle. -/
def State.walkMove (s : State) (w : Walker) : Bool :=
  s.walkRuns w && !s.walked.contains w.ctx && !s.tableFull (hubOf w.core)

/-- The steps of the device that could be next, each with the state after it. -/
noncomputable def State.deviceMoves (s : State) : List (Move × State) :=
  let threads : List (Nat × Thread) := s.teams.zipIdx.flatMap (fun tk => tk.1.threads.map (fun th => (tk.2, th)))
  let wakes : List (Move × State) := threads.flatMap (fun p =>
    [(.event (.sleepWake p.1 p.2.idx), s.wakeIf p.1 p.2.idx Why.slept),
     (.event (.waitfTimeout p.1 p.2.idx), s.wakeIf p.1 p.2.idx (fun w => match w with | .waitf dl _ _ => decide (dl ≤ s.now) | _ => false)),
     (.event (.waitfWriteWake p.1 p.2.idx), s.wakeIf p.1 p.2.idx (fun w =>
       match w with | .waitf _ _ (some c) => decide (c + 256 ≤ s.now) | _ => false))])
  [(.event .snapshotLatch, s.snapLatch)] ++ wakes ++
  ((s.sq.map (fun e => e.core)).eraseDups.map (fun c => ((.event (.storePerform c), s.storePerform c) : Move × State))) ++
  (s.pannier.map (fun e => ((.event (.pannierSend e.id), s.sendEntry e.id) : Move × State))) ++
  s.ops.flatMap s.opMove ++
  (s.engines.map Prod.fst).flatMap s.hubMoves ++
  (s.walkers.map (fun w => ((.event (.spokeComplete w.ctx), s.spokeComplete w.ctx) : Move × State))) ++
  [(.event .tapGenerationRetire, s.tapRetire)] ++
  s.queues.flatMap s.queueMoves ++
  ((s.resid.filter (fun e => e.2 = 1)).map (fun e => ((.event (.residencyExpire e.1), s.expire e.1) : Move × State))) ++
  ((List.range s.grids.length).map (fun g => ((.event (.csigWrite g), s.csigWrite g) : Move × State)))

/-- Which agent moves where the agenda does not say (log entry 8): groups enter their bundles, waits release, groups
are promoted, issue slots issue, then the first step of the device that changes something, then a walker, then a
cycle passes. -/
noncomputable def State.defaultMove (s : State) : Move :=
  match s.firstGroup (fun _ t g => s.entryDue t g) with
  | some (k, g) => .event (.bundleEntry k g)
  | none => match s.firstGroup (fun _ t g => t.waitReady s.now g) with
    | some (k, g) => .event (.flagWaitRelease k g)
    | none => match s.firstGroup (fun _ _ g => decide (64 ≤ g.passed)) with
      | some (k, g) => .event (.issuePromotion k g)
      | none => match s.openTurn <|> s.openSlot with
        | some (c, x) => .issue c x
        | none => match s.deviceMoves.find? (fun m => decide (m.2 ≠ s)) with
          | some m => m.1
          | none => match s.walkers.find? s.walkMove with
            | some w => .walker w.ctx
            | none => .tick 1

/-- A walker context runs its next word, one in a cycle (R277); a word that no walker word is stops it (R272, R276). -/
noncomputable def State.walkerMove (s : State) (ctx : Nat) : Stage :=
  match s.walkers.find? (fun w => w.ctx = ctx) with
  | none => .done s
  | some w =>
    if !s.walkRuns w || s.walked.contains ctx then .done s
    else
      let s := { s with walked := ctx :: s.walked }
      match (w.prog[w.wpc]?).map decodeWalker with
      | some (.ok i) => .run i { s with cur := { s.cur with walker := ctx } }
      | _ => .done (s.setWalker { w with stopped := some (.illop, 0) })

/-- An engine makes one access of an operation. -/
def State.engineMove (s : State) (id : Nat) : State :=
  match s.op? id with
  | none => s
  | some o => match o.kind with
    | .copy j => s.copyStep o j
    | .kv j => s.kvStep o j
    | .attn j => s.attnStep o j
    | .tap j => s.tapStep o j
    | _ => s

/-- What a move leads to. -/
noncomputable def State.move (s : State) : Move → Stage
  | .issue core slot => s.issue core slot
  | .walker ctx => s.walkerMove ctx
  | .engine op => .done (s.engineMove op)
  | .matrix hub => .done (s.matrixStep hub)
  | .flush hub buf => .done (s.flushStep hub buf)
  | .event i => if isDeviceStep i then .run i s else .done s
  | .input i => (match i.row with | some r => .run r s | none => .done (s.takeInput i))
  | .tick n => .done (State.cycles n s)

/-- The next move taken off the agenda. -/
noncomputable def State.takeMove (s : State) : Move × State :=
  match s.agenda with
  | m :: ms => (m, { s with agenda := ms })
  | [] => (s.defaultMove, s)

/-- What the next step executes: the next move, with a fresh number for the free values it draws. -/
noncomputable def stage (s : State) : Stage :=
  let p := s.takeMove
  State.move { p.2 with fresh := s.fresh + 1, cur := { s.cur with promo := 0 } } p.1

end Sys2Proof.Machine
end

