-- ==== Sys2Proof/Machine/BarOps.lean ====
section
/-!
DEFINITION. The barrier instructions (R95 to R99).
-/

namespace Sys2Proof.Machine

/-- The object a register names, with its number; none at or beyond the team's count (R99). -/
def Lane.bar? (l : Lane) (a : BitVec 7) : Option (Nat × Barrier) :=
  (l.tm.bar? (l.reg a).toNat).map (fun b => ((l.reg a).toNat, b))

/-- Where an arrival is counted: in the current phase, in the next, or nowhere (R97). -/
inductive Arrival where
  | now | ahead | none
  deriving DecidableEq, Repr

def Team.arrival (t : Team) (b : Barrier) : Arrival :=
  if b.arr.length < t.expected b then .now
  else if b.arrn.length < t.expected b then .ahead
  else .none

/-- An arrival of thread j is counted. -/
def Barrier.arrive (w : Arrival) (j : Nat) (b : Barrier) : Barrier :=
  match w with
  | .now => { b with arr := b.arr ++ [j] }
  | .ahead => { b with arrn := b.arrn ++ [j] }
  | .none => b

/-- The phase an arrival is counted in. -/
def Barrier.phaseOf (w : Arrival) (b : Barrier) : Word := if w = .ahead then b.phase + 1 else b.phase

/-- A counted arrival and the check that follows it (R97). -/
def State.barArrive (s : State) (k o j : Nat) (w : Arrival) : State :=
  (s.modTeam k (Team.modBar o (Barrier.arrive w j))).barCheck 2 k o

/-- An object operation on the object a register names; BOUNDS where there is none (R99). -/
def onBar (a : BitVec 7) (l : Lane) (f : Nat → Barrier → LaneOut × (State → State)) : LaneOut × (State → State) :=
  match l.bar? a with
  | none => (.trap (.of .bounds), id)
  | some (o, b) => f o b

/-- The state of an object after `.INIT` (R96). Engine bytes counted into the phase stay to be acquired (R98). -/
def Barrier.setup (n : Nat) (b : Barrier) : Barrier :=
  { b with count := if n = 0 then none else some n, arr := [], arrn := [], p := 0 }

/-- `BAR.INIT` (R96). -/
def execBarInit (a b : BitVec 7) (s : State) : Host.Outcome State Fault Refusal :=
  runSeq (.barInit a b) s (fun _ => false) (fun l => onBar a l (fun o _ =>
    if 1024 < (l.reg b).toNat then (.trap (.of .bounds), id)
    else (.done {}, fun s => s.modTeam s.cur.team (Team.modBar o (Barrier.setup (l.reg b).toNat)))))

/-- `BAR.ARRIVE`: a CORE-scope release, held until the thread's earlier accesses are in place (R96 to R98). -/
def execBarArrive (a : BitVec 7) (s : State) : Host.Outcome State Fault Refusal :=
  runSeq (.barArrive a) s (fun l => !l.quiet) (fun l => onBar a l (fun o b =>
    let w := l.tm.arrival b
    if w = .none then (.trap (.of .bounds), id)
    else (.done {}, fun s => s.barArrive s.cur.team o l.th.idx w)))

/-- The core drops its L1 sectors where engine bytes have been counted into a completed phase (R109). -/
def State.waitAcquire (s : State) (k o : Nat) : State :=
  match s.teams[k]? with
  | none => s
  | some t => match t.bar? o with
    | some b => if b.engDone then s.acquireL1 t.core else s
    | none => s

/-- `BAR.WAIT` (R96, R98). -/
def execBarWait (a b : BitVec 7) (s : State) : Host.Outcome State Fault Refusal :=
  runSeq (.barWait a b) s (fun _ => false) (fun l => onBar a l (fun o bar =>
    if bar.phase = l.reg b then (.done { upd := Thread.park (.barWait o bar.phase) }, id)
    else (.done {}, fun s => s.waitAcquire s.cur.team o)))

/-- `BAR.SYNC`: one arrival, and a wait for the phase it is counted in (R96 to R98). -/
def execBarSync (a : BitVec 7) (s : State) : Host.Outcome State Fault Refusal :=
  runSeq (.barSync a) s (fun l => !l.quiet) (fun l => onBar a l (fun o b =>
    let w := l.tm.arrival b
    if w = .none then (.trap (.of .bounds), id)
    else (.done { upd := Thread.park (.barSync o (b.phaseOf w)) }, fun s => s.barArrive s.cur.team o l.th.idx w)))

/-- `BAR.EXPECT` (R96, R97). -/
def execBarExpect (a b : BitVec 7) (s : State) : Host.Outcome State Fault Refusal :=
  runSeq (.barExpect a b) s (fun _ => false) (fun l => onBar a l (fun o _ =>
    (.done {}, fun s =>
      (s.modTeam s.cur.team (Team.modBar o (fun bar => { bar with p := bar.p + l.reg b }))).barCheck 2 s.cur.team o)))

/-- `BAR.PHASE` (R96). -/
def execBarPhase (d a : BitVec 7) (s : State) : Host.Outcome State Fault Refusal :=
  runLanes (.barPhase d a) s (fun l =>
    match l.bar? a with
    | none => .trap (.of .bounds)
    | some (_, b) => .done { writes := l.wr d b.phase, lat := 8 })

/-- The state of an object after `.INVAL` (R96). -/
def Barrier.inval (b : Barrier) : Barrier :=
  { b with phase := b.phase + 1, arr := [], arrn := [], p := 0, engDone := b.engDone || b.engPend, engPend := false }

/-- `BAR.INVAL`: the waiters of the old phase are released with no acquire (R96, R98). -/
def execBarInval (a : BitVec 7) (s : State) : Host.Outcome State Fault Refusal :=
  runSeq (.barInval a) s (fun _ => false) (fun l => onBar a l (fun o b =>
    (.done {}, fun s =>
      let s := s.modTeam s.cur.team (Team.modBar o Barrier.inval)
      match s.teams[s.cur.team]? with
      | none => s
      | some t => s.release s.cur.team
          (t.waiting (fun _ th => decide (th.why = .barWait o b.phase) || decide (th.why = .barSync o b.phase))))))

end Sys2Proof.Machine
end

