-- ==== Sys2Proof/Machine/Integer.lean ====
section
/-!
DEFINITION. Integer arithmetic, logic, compares, moves, wide arithmetic and constants (R68 to R75): each lane's
result from its operands, and one meaning for each instruction.
-/

namespace Sys2Proof.Machine

/-! ## Lane results -/

/-- Bits 63:32 of a signed product (R68). -/
def mulHighS (a b : Word) : Word := ((a.signExtend 64 * b.signExtend 64) >>> 32).truncate 32
/-- Bits 63:32 of an unsigned product (R68). -/
def mulHighN (a b : Word) : Word := ((a.zeroExtend 64 * b.zeroExtend 64) >>> 32).truncate 32
def minS (a b : Word) : Word := if b.slt a then b else a
def minN (a b : Word) : Word := if b.ult a then b else a
def maxS (a b : Word) : Word := if a.slt b then b else a
def maxN (a b : Word) : Word := if a.ult b then b else a
/-- The absolute value; that of the least number is itself (R68). -/
def absWord (a : Word) : Word := if a.msb then 0 - a else a

/-- How many of the low n bits are set. -/
def countBits (a : Word) : Nat → Nat
  | 0 => 0
  | n + 1 => countBits a n + if a.getLsbD n then 1 else 0

/-- Zero bits above the highest set bit among the low n (R69). -/
def leadZeros (a : Word) : Nat → Nat
  | 0 => 0
  | n + 1 => if a.getLsbD n then 0 else leadZeros a n + 1

/-- Position and width of a field by R70; width 0 where no bit is taken. -/
def fieldOf (b : Word) : Nat × Nat :=
  let pos := bits b.toNat 7 0
  let len := bits b.toNat 15 8
  if 32 ≤ pos ∨ len = 0 then (0, 0) else (pos, min (pos + len) 32 - pos)

/-- The word whose low w bits are set. -/
def lowMask (w : Nat) : Word := BitVec.ofNat 32 (2 ^ w - 1)

def fieldExtract (a b : Word) : Word := (a >>> (fieldOf b).1) &&& lowMask (fieldOf b).2
def fieldInsert (d a b : Word) : Word :=
  let m := lowMask (fieldOf b).2 <<< (fieldOf b).1
  (d &&& ~~~m) ||| ((a <<< (fieldOf b).1) &&& m)

/-- `SEL`: a where the old d is not 0 (R72). -/
def selWord (d a b : Word) : Word := if d = 0 then b else a

/-- a64 plus a sign-extended word shifted left by k (R73). -/
def leaWord (k : Nat) (a : DWord) (b : Word) : DWord := a + (b.signExtend 64 <<< k)

def loadHigh (d : Word) (i : BitVec 14) : Word := (d &&& 0x3FFFF#32) ||| (i.zeroExtend 32 <<< 18)

/-! ## Meanings -/

/-- `IADD` (R68). -/
def execIadd (d a b : BitVec 7) (s : State) : Host.Outcome State Fault Refusal :=
  fixed (.iadd d a b) 4 d (fun l => l.reg a + l.reg b) s

/-- `ISUB` (R68). -/
def execIsub (d a b : BitVec 7) (s : State) : Host.Outcome State Fault Refusal :=
  fixed (.isub d a b) 4 d (fun l => l.reg a - l.reg b) s

/-- `IMUL`: the low word of the product (R68). -/
def execImul (d a b : BitVec 7) (s : State) : Host.Outcome State Fault Refusal :=
  fixed (.imul d a b) 4 d (fun l => l.reg a * l.reg b) s

/-- `IMULH.S` (R68). -/
def execImulhS (d a b : BitVec 7) (s : State) : Host.Outcome State Fault Refusal :=
  fixed (.imulhS d a b) 4 d (fun l => mulHighS (l.reg a) (l.reg b)) s

/-- `IMULH.N` (R68). -/
def execImulhN (d a b : BitVec 7) (s : State) : Host.Outcome State Fault Refusal :=
  fixed (.imulhN d a b) 4 d (fun l => mulHighN (l.reg a) (l.reg b)) s

/-- `IMAD`: adds the old d (R68). -/
def execImad (d a b : BitVec 7) (s : State) : Host.Outcome State Fault Refusal :=
  fixed (.imad d a b) 4 d (fun l => l.reg a * l.reg b + l.reg d) s

/-- `IMIN.S` (R68). -/
def execIminS (d a b : BitVec 7) (s : State) : Host.Outcome State Fault Refusal :=
  fixed (.iminS d a b) 4 d (fun l => minS (l.reg a) (l.reg b)) s

/-- `IMIN.N` (R68). -/
def execIminN (d a b : BitVec 7) (s : State) : Host.Outcome State Fault Refusal :=
  fixed (.iminN d a b) 4 d (fun l => minN (l.reg a) (l.reg b)) s

/-- `IMAX.S` (R68). -/
def execImaxS (d a b : BitVec 7) (s : State) : Host.Outcome State Fault Refusal :=
  fixed (.imaxS d a b) 4 d (fun l => maxS (l.reg a) (l.reg b)) s

/-- `IMAX.N` (R68). -/
def execImaxN (d a b : BitVec 7) (s : State) : Host.Outcome State Fault Refusal :=
  fixed (.imaxN d a b) 4 d (fun l => maxN (l.reg a) (l.reg b)) s

/-- `IABS` (R68). -/
def execIabs (d a : BitVec 7) (s : State) : Host.Outcome State Fault Refusal :=
  fixed (.iabs d a) 4 d (fun l => absWord (l.reg a)) s

/-- `AND` (R69). -/
def execAnd (d a b : BitVec 7) (s : State) : Host.Outcome State Fault Refusal :=
  fixed (.and d a b) 4 d (fun l => l.reg a &&& l.reg b) s

/-- `OR` (R69). -/
def execOr (d a b : BitVec 7) (s : State) : Host.Outcome State Fault Refusal :=
  fixed (.or d a b) 4 d (fun l => l.reg a ||| l.reg b) s

/-- `XOR` (R69). -/
def execXor (d a b : BitVec 7) (s : State) : Host.Outcome State Fault Refusal :=
  fixed (.xor d a b) 4 d (fun l => l.reg a ^^^ l.reg b) s

/-- `ANDN`: a and not b (R69). -/
def execAndn (d a b : BitVec 7) (s : State) : Host.Outcome State Fault Refusal :=
  fixed (.andn d a b) 4 d (fun l => l.reg a &&& ~~~(l.reg b)) s

/-- `SHL`: a count of 32 or more gives 0 (R69). -/
def execShl (d a b : BitVec 7) (s : State) : Host.Outcome State Fault Refusal :=
  fixed (.shl d a b) 4 d (fun l => l.reg a <<< (l.reg b).toNat) s

/-- `SHR`: a count of 32 or more gives 0 (R69). -/
def execShr (d a b : BitVec 7) (s : State) : Host.Outcome State Fault Refusal :=
  fixed (.shr d a b) 4 d (fun l => l.reg a >>> (l.reg b).toNat) s

/-- `SHA`: fills with the sign (R69). -/
def execSha (d a b : BitVec 7) (s : State) : Host.Outcome State Fault Refusal :=
  fixed (.sha d a b) 4 d (fun l => (l.reg a).sshiftRight (l.reg b).toNat) s

/-- `ROTL` (R69). -/
def execRotl (d a b : BitVec 7) (s : State) : Host.Outcome State Fault Refusal :=
  fixed (.rotl d a b) 4 d (fun l => (l.reg a).rotateLeft ((l.reg b).toNat % 32)) s

/-- `POPC` (R69). -/
def execPopc (d a : BitVec 7) (s : State) : Host.Outcome State Fault Refusal :=
  fixed (.popc d a) 4 d (fun l => BitVec.ofNat 32 (countBits (l.reg a) 32)) s

/-- `CLZ` (R69). -/
def execClz (d a : BitVec 7) (s : State) : Host.Outcome State Fault Refusal :=
  fixed (.clz d a) 4 d (fun l => BitVec.ofNat 32 (leadZeros (l.reg a) 32)) s

/-- `BFX` (R70). -/
def execBfx (d a b : BitVec 7) (s : State) : Host.Outcome State Fault Refusal :=
  fixed (.bfx d a b) 4 d (fun l => fieldExtract (l.reg a) (l.reg b)) s

/-- `BFI`: into the old d (R70). -/
def execBfi (d a b : BitVec 7) (s : State) : Host.Outcome State Fault Refusal :=
  fixed (.bfi d a b) 4 d (fun l => fieldInsert (l.reg d) (l.reg a) (l.reg b)) s

/-- `ISET.EQ` (R71). -/
def execIsetEq (d a b : BitVec 7) (s : State) : Host.Outcome State Fault Refusal :=
  fixed (.isetEq d a b) 4 d (fun l => Word.ofBool (decide (l.reg a = l.reg b))) s

/-- `ISET.NE` (R71). -/
def execIsetNe (d a b : BitVec 7) (s : State) : Host.Outcome State Fault Refusal :=
  fixed (.isetNe d a b) 4 d (fun l => Word.ofBool (decide (l.reg a ≠ l.reg b))) s

/-- `ISET.LT` (R71). -/
def execIsetLt (d a b : BitVec 7) (s : State) : Host.Outcome State Fault Refusal :=
  fixed (.isetLt d a b) 4 d (fun l => Word.ofBool ((l.reg a).slt (l.reg b))) s

/-- `ISET.LE` (R71). -/
def execIsetLe (d a b : BitVec 7) (s : State) : Host.Outcome State Fault Refusal :=
  fixed (.isetLe d a b) 4 d (fun l => Word.ofBool ((l.reg a).sle (l.reg b))) s

/-- `ISET.GT` (R71). -/
def execIsetGt (d a b : BitVec 7) (s : State) : Host.Outcome State Fault Refusal :=
  fixed (.isetGt d a b) 4 d (fun l => Word.ofBool ((l.reg b).slt (l.reg a))) s

/-- `ISET.GE` (R71). -/
def execIsetGe (d a b : BitVec 7) (s : State) : Host.Outcome State Fault Refusal :=
  fixed (.isetGe d a b) 4 d (fun l => Word.ofBool ((l.reg b).sle (l.reg a))) s

/-- `ISET.LT.N` (R71). -/
def execIsetLtN (d a b : BitVec 7) (s : State) : Host.Outcome State Fault Refusal :=
  fixed (.isetLtN d a b) 4 d (fun l => Word.ofBool ((l.reg a).ult (l.reg b))) s

/-- `ISET.LE.N` (R71). -/
def execIsetLeN (d a b : BitVec 7) (s : State) : Host.Outcome State Fault Refusal :=
  fixed (.isetLeN d a b) 4 d (fun l => Word.ofBool ((l.reg a).ule (l.reg b))) s

/-- `ISET.GT.N` (R71). -/
def execIsetGtN (d a b : BitVec 7) (s : State) : Host.Outcome State Fault Refusal :=
  fixed (.isetGtN d a b) 4 d (fun l => Word.ofBool ((l.reg b).ult (l.reg a))) s

/-- `ISET.GE.N` (R71). -/
def execIsetGeN (d a b : BitVec 7) (s : State) : Host.Outcome State Fault Refusal :=
  fixed (.isetGeN d a b) 4 d (fun l => Word.ofBool ((l.reg b).ule (l.reg a))) s

/-- `MOV` (R72). -/
def execMov (d a : BitVec 7) (s : State) : Host.Outcome State Fault Refusal :=
  fixed (.mov d a) 4 d (fun l => l.reg a) s

/-- `SEL` (R72). -/
def execSel (d a b : BitVec 7) (s : State) : Host.Outcome State Fault Refusal :=
  fixed (.sel d a b) 4 d (fun l => selWord (l.reg d) (l.reg a) (l.reg b)) s

/-- `ADD64` (R73). -/
def execAdd64 (d a b : BitVec 7) (s : State) : Host.Outcome State Fault Refusal :=
  fixed2 (.add64 d a b) 6 d (fun l => l.pair a + l.pair b) s

/-- `SUB64` (R73). -/
def execSub64 (d a b : BitVec 7) (s : State) : Host.Outcome State Fault Refusal :=
  fixed2 (.sub64 d a b) 6 d (fun l => l.pair a - l.pair b) s

/-- `SHL64`: a count of 64 or more gives 0 (R73). -/
def execShl64 (d a b : BitVec 7) (s : State) : Host.Outcome State Fault Refusal :=
  fixed2 (.shl64 d a b) 6 d (fun l => l.pair a <<< (l.reg b).toNat) s

/-- `SHR64`: a count of 64 or more gives 0 (R73). -/
def execShr64 (d a b : BitVec 7) (s : State) : Host.Outcome State Fault Refusal :=
  fixed2 (.shr64 d a b) 6 d (fun l => l.pair a >>> (l.reg b).toNat) s

/-- `MUL64` (R73). -/
def execMul64 (d a b : BitVec 7) (s : State) : Host.Outcome State Fault Refusal :=
  fixed2 (.mul64 d a b) 6 d (fun l => l.pair a * l.pair b) s

/-- `LEA.0` (R73). -/
def execLea0 (d a b : BitVec 7) (s : State) : Host.Outcome State Fault Refusal :=
  fixed2 (.lea0 d a b) 6 d (fun l => leaWord 0 (l.pair a) (l.reg b)) s

/-- `LEA.1` (R73). -/
def execLea1 (d a b : BitVec 7) (s : State) : Host.Outcome State Fault Refusal :=
  fixed2 (.lea1 d a b) 6 d (fun l => leaWord 1 (l.pair a) (l.reg b)) s

/-- `LEA.2` (R73). -/
def execLea2 (d a b : BitVec 7) (s : State) : Host.Outcome State Fault Refusal :=
  fixed2 (.lea2 d a b) 6 d (fun l => leaWord 2 (l.pair a) (l.reg b)) s

/-- `LEA.3` (R73). -/
def execLea3 (d a b : BitVec 7) (s : State) : Host.Outcome State Fault Refusal :=
  fixed2 (.lea3 d a b) 6 d (fun l => leaWord 3 (l.pair a) (l.reg b)) s

/-- `ISET64.EQ` (R73). -/
def execIset64Eq (d a b : BitVec 7) (s : State) : Host.Outcome State Fault Refusal :=
  fixed (.iset64Eq d a b) 6 d (fun l => Word.ofBool (decide (l.pair a = l.pair b))) s

/-- `ISET64.LT.N` (R73). -/
def execIset64LtN (d a b : BitVec 7) (s : State) : Host.Outcome State Fault Refusal :=
  fixed (.iset64LtN d a b) 6 d (fun l => Word.ofBool ((l.pair a).ult (l.pair b))) s

/-- `IADDI` (R74). -/
def execIaddi (d a : BitVec 7) (i : BitVec 11) (s : State) : Host.Outcome State Fault Refusal :=
  fixed (.iaddi d a i) 4 d (fun l => l.reg a + i.signExtend 32) s

/-- `ANDI` (R74). -/
def execAndi (d a : BitVec 7) (i : BitVec 11) (s : State) : Host.Outcome State Fault Refusal :=
  fixed (.andi d a i) 4 d (fun l => l.reg a &&& i.signExtend 32) s

/-- `ORI` (R74). -/
def execOri (d a : BitVec 7) (i : BitVec 11) (s : State) : Host.Outcome State Fault Refusal :=
  fixed (.ori d a i) 4 d (fun l => l.reg a ||| i.signExtend 32) s

/-- `SHLI` (R74). -/
def execShli (d a : BitVec 7) (i : BitVec 5) (s : State) : Host.Outcome State Fault Refusal :=
  fixed (.shli d a i) 4 d (fun l => l.reg a <<< i.toNat) s

/-- `SHRI` (R74). -/
def execShri (d a : BitVec 7) (i : BitVec 5) (s : State) : Host.Outcome State Fault Refusal :=
  fixed (.shri d a i) 4 d (fun l => l.reg a >>> i.toNat) s

/-- `LDI` (R75). -/
def execLdi (d : BitVec 7) (i : BitVec 18) (s : State) : Host.Outcome State Fault Refusal :=
  fixed (.ldi d i) 4 d (fun _ => i.signExtend 32) s

/-- `LDHI`: the high 14 bits over the low 18 of the old d (R75). -/
def execLdhi (d : BitVec 7) (i : BitVec 14) (s : State) : Host.Outcome State Fault Refusal :=
  fixed (.ldhi d i) 4 d (fun l => loadHigh (l.reg d) i) s

end Sys2Proof.Machine
end

