-- ==== Sys2Proof/Machine/Dispatch.lean ====
section
/-!
DEFINITION. The one dispatch from an instruction to its meaning, one arm for each row of the opcode table.
-/

namespace Sys2Proof.Machine

/-- The effect of one instruction. -/
def exec (i : Instr) (s : State) : Host.Outcome State Fault Refusal :=
  match i with
  | .nop => Sys2Proof.Machine.execNop s
  | .exit => Sys2Proof.Machine.execExit s
  | .reform => Sys2Proof.Machine.execReform s
  | .reformB => Sys2Proof.Machine.execReformB s
  | .yield => Sys2Proof.Machine.execYield s
  | .bkpt => Sys2Proof.Machine.execBkpt s
  | .iadd d a b => Sys2Proof.Machine.execIadd d a b s
  | .isub d a b => Sys2Proof.Machine.execIsub d a b s
  | .imul d a b => Sys2Proof.Machine.execImul d a b s
  | .imulhS d a b => Sys2Proof.Machine.execImulhS d a b s
  | .imulhN d a b => Sys2Proof.Machine.execImulhN d a b s
  | .imad d a b => Sys2Proof.Machine.execImad d a b s
  | .iminS d a b => Sys2Proof.Machine.execIminS d a b s
  | .iminN d a b => Sys2Proof.Machine.execIminN d a b s
  | .imaxS d a b => Sys2Proof.Machine.execImaxS d a b s
  | .imaxN d a b => Sys2Proof.Machine.execImaxN d a b s
  | .iabs d a => Sys2Proof.Machine.execIabs d a s
  | .and d a b => Sys2Proof.Machine.execAnd d a b s
  | .or d a b => Sys2Proof.Machine.execOr d a b s
  | .xor d a b => Sys2Proof.Machine.execXor d a b s
  | .andn d a b => Sys2Proof.Machine.execAndn d a b s
  | .shl d a b => Sys2Proof.Machine.execShl d a b s
  | .shr d a b => Sys2Proof.Machine.execShr d a b s
  | .sha d a b => Sys2Proof.Machine.execSha d a b s
  | .rotl d a b => Sys2Proof.Machine.execRotl d a b s
  | .popc d a => Sys2Proof.Machine.execPopc d a s
  | .clz d a => Sys2Proof.Machine.execClz d a s
  | .bfx d a b => Sys2Proof.Machine.execBfx d a b s
  | .bfi d a b => Sys2Proof.Machine.execBfi d a b s
  | .isetEq d a b => Sys2Proof.Machine.execIsetEq d a b s
  | .isetNe d a b => Sys2Proof.Machine.execIsetNe d a b s
  | .isetLt d a b => Sys2Proof.Machine.execIsetLt d a b s
  | .isetLe d a b => Sys2Proof.Machine.execIsetLe d a b s
  | .isetGt d a b => Sys2Proof.Machine.execIsetGt d a b s
  | .isetGe d a b => Sys2Proof.Machine.execIsetGe d a b s
  | .isetLtN d a b => Sys2Proof.Machine.execIsetLtN d a b s
  | .isetLeN d a b => Sys2Proof.Machine.execIsetLeN d a b s
  | .isetGtN d a b => Sys2Proof.Machine.execIsetGtN d a b s
  | .isetGeN d a b => Sys2Proof.Machine.execIsetGeN d a b s
  | .mov d a => Sys2Proof.Machine.execMov d a s
  | .sel d a b => Sys2Proof.Machine.execSel d a b s
  | .add64 d a b => Sys2Proof.Machine.execAdd64 d a b s
  | .sub64 d a b => Sys2Proof.Machine.execSub64 d a b s
  | .shl64 d a b => Sys2Proof.Machine.execShl64 d a b s
  | .shr64 d a b => Sys2Proof.Machine.execShr64 d a b s
  | .mul64 d a b => Sys2Proof.Machine.execMul64 d a b s
  | .lea0 d a b => Sys2Proof.Machine.execLea0 d a b s
  | .lea1 d a b => Sys2Proof.Machine.execLea1 d a b s
  | .lea2 d a b => Sys2Proof.Machine.execLea2 d a b s
  | .lea3 d a b => Sys2Proof.Machine.execLea3 d a b s
  | .iset64Eq d a b => Sys2Proof.Machine.execIset64Eq d a b s
  | .iset64LtN d a b => Sys2Proof.Machine.execIset64LtN d a b s
  | .iaddi d a imm => Sys2Proof.Machine.execIaddi d a imm s
  | .andi d a imm => Sys2Proof.Machine.execAndi d a imm s
  | .ori d a imm => Sys2Proof.Machine.execOri d a imm s
  | .shli d a imm => Sys2Proof.Machine.execShli d a imm s
  | .shri d a imm => Sys2Proof.Machine.execShri d a imm s
  | .ldi d imm => Sys2Proof.Machine.execLdi d imm s
  | .ldhi d imm => Sys2Proof.Machine.execLdhi d imm s
  | .win imm => Sys2Proof.Machine.execWin imm s
  | .part imm => Sys2Proof.Machine.execPart imm s
  | .prio imm => Sys2Proof.Machine.execPrio imm s
  | .sleep imm => Sys2Proof.Machine.execSleep imm s
  | .waitf d imm => Sys2Proof.Machine.execWaitf d imm s
  | .bra x => Sys2Proof.Machine.execBra x s
  | .beqz a x => Sys2Proof.Machine.execBeqz a x s
  | .bnez a x => Sys2Proof.Machine.execBnez a x s
  | .bltz a x => Sys2Proof.Machine.execBltz a x s
  | .bgez a x => Sys2Proof.Machine.execBgez a x s
  | .call a x => Sys2Proof.Machine.execCall a x s
  | .jmp a => Sys2Proof.Machine.execJmp a s
  | .ret a => Sys2Proof.Machine.execRet a s
  | .callr d a => Sys2Proof.Machine.execCallr d a s
  | .qpost d a b f => Sys2Proof.Machine.execQpost d a b f s
  | .jdecl j a => Sys2Proof.Machine.execJdecl j a s
  | .jsign j => Sys2Proof.Machine.execJsign j s
  | .jleave j => Sys2Proof.Machine.execJleave j s
  | .jcancel j => Sys2Proof.Machine.execJcancel j s
  | .jstat d j => Sys2Proof.Machine.execJstat d j s
  | .lanePick d a b => Sys2Proof.Machine.execLanePick d a b s
  | .laneBack d a b => Sys2Proof.Machine.execLaneBack d a b s
  | .laneFwd d a b => Sys2Proof.Machine.execLaneFwd d a b s
  | .laneFlip d a b => Sys2Proof.Machine.execLaneFlip d a b s
  | .laneRot d a b => Sys2Proof.Machine.execLaneRot d a b s
  | .pollEvery d a => Sys2Proof.Machine.execPollEvery d a s
  | .pollSome d a => Sys2Proof.Machine.execPollSome d a s
  | .pollMask d a => Sys2Proof.Machine.execPollMask d a s
  | .pollSame d a => Sys2Proof.Machine.execPollSame d a s
  | .pollPres d => Sys2Proof.Machine.execPollPres d s
  | .pollCnt d a => Sys2Proof.Machine.execPollCnt d a s
  | .matchLanes d a => Sys2Proof.Machine.execMatchLanes d a s
  | .mrank d a => Sys2Proof.Machine.execMrank d a s
  | .mcnt d a => Sys2Proof.Machine.execMcnt d a s
  | .mlead d a => Sys2Proof.Machine.execMlead d a s
  | .tscanAddI d a => Sys2Proof.Machine.execTscanAddI d a s
  | .tscanAddF d a => Sys2Proof.Machine.execTscanAddF d a s
  | .tscanMaxS d a => Sys2Proof.Machine.execTscanMaxS d a s
  | .tscanMinS d a => Sys2Proof.Machine.execTscanMinS d a s
  | .tscanExAddI d a => Sys2Proof.Machine.execTscanExAddI d a s
  | .tscanExAddF d a => Sys2Proof.Machine.execTscanExAddF d a s
  | .tscanSegAddI d a b => Sys2Proof.Machine.execTscanSegAddI d a b s
  | .tscanSegAddF d a b => Sys2Proof.Machine.execTscanSegAddF d a b s
  | .tredAddI d a => Sys2Proof.Machine.execTredAddI d a s
  | .tredAddF d a => Sys2Proof.Machine.execTredAddF d a s
  | .tredMaxS d a => Sys2Proof.Machine.execTredMaxS d a s
  | .tredMinS d a => Sys2Proof.Machine.execTredMinS d a s
  | .tredMaxF d a => Sys2Proof.Machine.execTredMaxF d a s
  | .tredMinF d a => Sys2Proof.Machine.execTredMinF d a s
  | .tredAnd d a => Sys2Proof.Machine.execTredAnd d a s
  | .tredOr d a => Sys2Proof.Machine.execTredOr d a s
  | .ldlB d a o f => Sys2Proof.Machine.execLdlB d a o f s
  | .ldlH d a o f => Sys2Proof.Machine.execLdlH d a o f s
  | .ldlW d a o f => Sys2Proof.Machine.execLdlW d a o f s
  | .ldlD d a o f => Sys2Proof.Machine.execLdlD d a o f s
  | .ldlQ d a o f => Sys2Proof.Machine.execLdlQ d a o f s
  | .stlB d a o f => Sys2Proof.Machine.execStlB d a o f s
  | .stlH d a o f => Sys2Proof.Machine.execStlH d a o f s
  | .stlW d a o f => Sys2Proof.Machine.execStlW d a o f s
  | .stlD d a o f => Sys2Proof.Machine.execStlD d a o f s
  | .stlQ d a o f => Sys2Proof.Machine.execStlQ d a o f s
  | .atl d a c f => Sys2Proof.Machine.execAtl d a c f s
  | .tap a b f => Sys2Proof.Machine.execTap a b f s
  | .tapNorm a b f => Sys2Proof.Machine.execTapNorm a b f s
  | .tapq a b => Sys2Proof.Machine.execTapq a b s
  | .spoke a b f => Sys2Proof.Machine.execSpoke a b f s
  | .barInit a b => Sys2Proof.Machine.execBarInit a b s
  | .barArrive a => Sys2Proof.Machine.execBarArrive a s
  | .barWait a b => Sys2Proof.Machine.execBarWait a b s
  | .barSync a => Sys2Proof.Machine.execBarSync a s
  | .barExpect a b => Sys2Proof.Machine.execBarExpect a b s
  | .barPhase d a => Sys2Proof.Machine.execBarPhase d a s
  | .barInval a => Sys2Proof.Machine.execBarInval a s
  | .fadd d a b => Sys2Proof.Machine.execFadd d a b s
  | .fsub d a b => Sys2Proof.Machine.execFsub d a b s
  | .fmul d a b => Sys2Proof.Machine.execFmul d a b s
  | .ffma d a b => Sys2Proof.Machine.execFfma d a b s
  | .fmin d a b => Sys2Proof.Machine.execFmin d a b s
  | .fmax d a b => Sys2Proof.Machine.execFmax d a b s
  | .fneg d a => Sys2Proof.Machine.execFneg d a s
  | .fabs d a => Sys2Proof.Machine.execFabs d a s
  | .fsetEq d a b => Sys2Proof.Machine.execFsetEq d a b s
  | .fsetNe d a b => Sys2Proof.Machine.execFsetNe d a b s
  | .fsetLt d a b => Sys2Proof.Machine.execFsetLt d a b s
  | .fsetLe d a b => Sys2Proof.Machine.execFsetLe d a b s
  | .fsetGt d a b => Sys2Proof.Machine.execFsetGt d a b s
  | .fsetGe d a b => Sys2Proof.Machine.execFsetGe d a b s
  | .fsetUn d a b => Sys2Proof.Machine.execFsetUn d a b s
  | .fclass d a => Sys2Proof.Machine.execFclass d a s
  | .frcp d a => Sys2Proof.Machine.execFrcp d a s
  | .frsq d a => Sys2Proof.Machine.execFrsq d a s
  | .fsqrt d a => Sys2Proof.Machine.execFsqrt d a s
  | .fex2 d a => Sys2Proof.Machine.execFex2 d a s
  | .flg2 d a => Sys2Proof.Machine.execFlg2 d a s
  | .fexp d a => Sys2Proof.Machine.execFexp d a s
  | .fln d a => Sys2Proof.Machine.execFln d a s
  | .fsinp d a => Sys2Proof.Machine.execFsinp d a s
  | .fcosp d a => Sys2Proof.Machine.execFcosp d a s
  | .ftanh d a => Sys2Proof.Machine.execFtanh d a s
  | .fsig d a => Sys2Proof.Machine.execFsig d a s
  | .h2add d a b => Sys2Proof.Machine.execH2add d a b s
  | .h2mul d a b => Sys2Proof.Machine.execH2mul d a b s
  | .h2fma d a b => Sys2Proof.Machine.execH2fma d a b s
  | .b2add d a b => Sys2Proof.Machine.execB2add d a b s
  | .b2mul d a b => Sys2Proof.Machine.execB2mul d a b s
  | .b2fma d a b => Sys2Proof.Machine.execB2fma d a b s
  | .xadd d a b => Sys2Proof.Machine.execXadd d a b s
  | .xmul d a b => Sys2Proof.Machine.execXmul d a b s
  | .xexp d a => Sys2Proof.Machine.execXexp d a s
  | .xcvt d a => Sys2Proof.Machine.execXcvt d a s
  | .xfrom d a => Sys2Proof.Machine.execXfrom d a s
  | .xratio d a b => Sys2Proof.Machine.execXratio d a b s
  | .cvt d a c t r => Sys2Proof.Machine.execCvt d a c t r s
  | .bytp d a b => Sys2Proof.Machine.execBytp d a b s
  | .hpk d a b => Sys2Proof.Machine.execHpk d a b s
  | .reqI8 d a b => Sys2Proof.Machine.execReqI8 d a b s
  | .reqI4 d a b => Sys2Proof.Machine.execReqI4 d a b s
  | .reqN8 d a b => Sys2Proof.Machine.execReqN8 d a b s
  | .reqN4 d a b => Sys2Proof.Machine.execReqN4 d a b s
  | .rng d a b => Sys2Proof.Machine.execRng d a b s
  | .gumb d a => Sys2Proof.Machine.execGumb d a s
  | .unif d a => Sys2Proof.Machine.execUnif d a s
  | .softmax d a b => Sys2Proof.Machine.execSoftmax d a b s
  | .rmsnE12 d a b => Sys2Proof.Machine.execRmsnE12 d a b s
  | .rmsnE14 d a b => Sys2Proof.Machine.execRmsnE14 d a b s
  | .rmsnE16 d a b => Sys2Proof.Machine.execRmsnE16 d a b s
  | .rmsnE18 d a b => Sys2Proof.Machine.execRmsnE18 d a b s
  | .rmsnE20 d a b => Sys2Proof.Machine.execRmsnE20 d a b s
  | .kvtag d a f => Sys2Proof.Machine.execKvtag d a f s
  | .bnds d a f => Sys2Proof.Machine.execBnds d a f s
  | .kvmove d a f => Sys2Proof.Machine.execKvmove d a f s
  | .topk d a f => Sys2Proof.Machine.execTopk d a f s
  | .ldgB d a o f => Sys2Proof.Machine.execLdgB d a o f s
  | .ldgH d a o f => Sys2Proof.Machine.execLdgH d a o f s
  | .ldgW d a o f => Sys2Proof.Machine.execLdgW d a o f s
  | .ldgD d a o f => Sys2Proof.Machine.execLdgD d a o f s
  | .ldgQ d a o f => Sys2Proof.Machine.execLdgQ d a o f s
  | .stgB d a o f => Sys2Proof.Machine.execStgB d a o f s
  | .stgH d a o f => Sys2Proof.Machine.execStgH d a o f s
  | .stgW d a o f => Sys2Proof.Machine.execStgW d a o f s
  | .stgD d a o f => Sys2Proof.Machine.execStgD d a o f s
  | .stgQ d a o f => Sys2Proof.Machine.execStgQ d a o f s
  | .ldf d a o f => Sys2Proof.Machine.execLdf d a o f s
  | .stf d a o f => Sys2Proof.Machine.execStf d a o f s
  | .stfRs d a o f => Sys2Proof.Machine.execStfRs d a o f s
  | .pref a o => Sys2Proof.Machine.execPref a o s
  | .cfill a b f => Sys2Proof.Machine.execCfill a b f s
  | .gathW d a b f => Sys2Proof.Machine.execGathW d a b f s
  | .gathD d a b f => Sys2Proof.Machine.execGathD d a b f s
  | .gathF d a b f => Sys2Proof.Machine.execGathF d a b f s
  | .scatW d a b f => Sys2Proof.Machine.execScatW d a b f s
  | .scatD d a b f => Sys2Proof.Machine.execScatD d a b f s
  | .kvrot d a b f => Sys2Proof.Machine.execKvrot d a b f s
  | .copy a b f => Sys2Proof.Machine.execCopy a b f s
  | .bcopy d a b f => Sys2Proof.Machine.execBcopy d a b f s
  | .copyx a b f => Sys2Proof.Machine.execCopyx a b f s
  | .mma j a b f => Sys2Proof.Machine.execMma j a b f s
  | .mmas a b f => Sys2Proof.Machine.execMmas a b f s
  | .accz a b f => Sys2Proof.Machine.execAccz a b f s
  | .attn d a b f => Sys2Proof.Machine.execAttn d a b f s
  | .attnr d a b f => Sys2Proof.Machine.execAttnr d a b f s
  | .kvap d a b f => Sys2Proof.Machine.execKvap d a b f s
  | .kvrq d a b f => Sys2Proof.Machine.execKvrq d a b f s
  | .ldvsW d a o f => Sys2Proof.Machine.execLdvsW d a o f s
  | .ldvsD d a o f => Sys2Proof.Machine.execLdvsD d a o f s
  | .ldvsQ d a o f => Sys2Proof.Machine.execLdvsQ d a o f s
  | .valid d k f => Sys2Proof.Machine.execValid d k f s
  | .verr d a f => Sys2Proof.Machine.execVerr d a f s
  | .casv d a b f => Sys2Proof.Machine.execCasv d a b f s
  | .atom d a c f => Sys2Proof.Machine.execAtom d a c f s
  | .cas d a b f => Sys2Proof.Machine.execCas d a b f s
  | .red c a b f => Sys2Proof.Machine.execRed c a b f s
  | .fenceAcq x => Sys2Proof.Machine.execFenceAcq x s
  | .fenceRel x => Sys2Proof.Machine.execFenceRel x s
  | .fenceAr x => Sys2Proof.Machine.execFenceAr x s
  | .fenceSc x => Sys2Proof.Machine.execFenceSc x s
  | .ldacqW d a x f => Sys2Proof.Machine.execLdacqW d a x f s
  | .ldacqD d a x f => Sys2Proof.Machine.execLdacqD d a x f s
  | .strelW d a x f => Sys2Proof.Machine.execStrelW d a x f s
  | .strelD d a x f => Sys2Proof.Machine.execStrelD d a x f s
  | .trap c => Sys2Proof.Machine.execTrap c s
  | .rett => Sys2Proof.Machine.execRett s
  | .gets d n => Sys2Proof.Machine.execGets d n s
  | .sets a n => Sys2Proof.Machine.execSets a n s
  | .snap => Sys2Proof.Machine.execSnap s
  | .tlbinv a b => Sys2Proof.Machine.execTlbinv a b s
  | .ctxsv a b => Sys2Proof.Machine.execCtxsv a b s
  | .ctxld a b => Sys2Proof.Machine.execCtxld a b s
  | .halt => Sys2Proof.Machine.execHalt s
  | .tapld a b => Sys2Proof.Machine.execTapld a b s
  | .launch d a f => Sys2Proof.Machine.execLaunch d a f s
  | .haltw => Sys2Proof.Machine.execHaltw s
  | .ldp d a imm => Sys2Proof.Machine.execLdp d a imm s
  | .ldx d a imm => Sys2Proof.Machine.execLdx d a imm s
  | .ldval d a imm => Sys2Proof.Machine.execLdval d a imm s
  | .addw d a b imm => Sys2Proof.Machine.execAddw d a b imm s
  | .subw d a b imm => Sys2Proof.Machine.execSubw d a b imm s
  | .cmpw d a b => Sys2Proof.Machine.execCmpw d a b s
  | .bltw a b imm => Sys2Proof.Machine.execBltw a b imm s
  | .bnew a b imm => Sys2Proof.Machine.execBnew a b imm s
  | .loop d imm => Sys2Proof.Machine.execLoop d imm s
  | .skip a b => Sys2Proof.Machine.execSkip a b s
  | .sett a b => Sys2Proof.Machine.execSett a b s
  | .emit d a b => Sys2Proof.Machine.execEmit d a b s
  | .flush a => Sys2Proof.Machine.execFlush a s
  | .bundleEntry team group => Sys2Proof.Machine.execBundleEntry team group s
  | .flagWaitRelease team group => Sys2Proof.Machine.execFlagWaitRelease team group s
  | .operationComplete op => Sys2Proof.Machine.execOperationComplete op s
  | .binAgeRelease core bin => Sys2Proof.Machine.execBinAgeRelease core bin s
  | .binIdleRelease core bin => Sys2Proof.Machine.execBinIdleRelease core bin s
  | .binRefill core => Sys2Proof.Machine.execBinRefill core s
  | .issuePromotion team group => Sys2Proof.Machine.execIssuePromotion team group s
  | .sleepWake team thr => Sys2Proof.Machine.execSleepWake team thr s
  | .waitfTimeout team thr => Sys2Proof.Machine.execWaitfTimeout team thr s
  | .waitfWriteWake team thr => Sys2Proof.Machine.execWaitfWriteWake team thr s
  | .waitfEarlyWake team thr => Sys2Proof.Machine.execWaitfEarlyWake team thr s
  | .pageWalk core fn va => Sys2Proof.Machine.execPageWalk core fn va s
  | .storePerform core => Sys2Proof.Machine.execStorePerform core s
  | .scratchpadLineArrival op team line => Sys2Proof.Machine.execScratchpadLineArrival op team line s
  | .pannierSend entry => Sys2Proof.Machine.execPannierSend entry s
  | .residencyExpire line => Sys2Proof.Machine.execResidencyExpire line s
  | .copyComplete op => Sys2Proof.Machine.execCopyComplete op s
  | .copyFault op => Sys2Proof.Machine.execCopyFault op s
  | .mmaGrant hub => Sys2Proof.Machine.execMmaGrant hub s
  | .reservationPromotion hub call => Sys2Proof.Machine.execReservationPromotion hub call s
  | .mmaCallEnd hub => Sys2Proof.Machine.execMmaCallEnd hub s
  | .bufferEviction hub buf => Sys2Proof.Machine.execBufferEviction hub buf s
  | .heldSumFlush hub buf => Sys2Proof.Machine.execHeldSumFlush hub buf s
  | .attnStop op => Sys2Proof.Machine.execAttnStop op s
  | .kvOpComplete op => Sys2Proof.Machine.execKvOpComplete op s
  | .tapComplete op => Sys2Proof.Machine.execTapComplete op s
  | .tapGenerationRetire => Sys2Proof.Machine.execTapGenerationRetire s
  | .spokeComplete ctx => Sys2Proof.Machine.execSpokeComplete ctx s
  | .snapshotLatch => Sys2Proof.Machine.execSnapshotLatch s
  | .qbaseWrite q v => Sys2Proof.Machine.execQbaseWrite q v s
  | .qlog2Write q v => Sys2Proof.Machine.execQlog2Write q v s
  | .queueEnable q => Sys2Proof.Machine.execQueueEnable q s
  | .qtailWrite q v => Sys2Proof.Machine.execQtailWrite q v s
  | .errClear q => Sys2Proof.Machine.execErrClear q s
  | .packetRead q => Sys2Proof.Machine.execPacketRead q s
  | .dependencePoll q => Sys2Proof.Machine.execDependencePoll q s
  | .placement q => Sys2Proof.Machine.execPlacement q s
  | .csigWrite grid => Sys2Proof.Machine.execCsigWrite grid s
  | .remoteWriteArrival src seq pa bytes trapped => Sys2Proof.Machine.execRemoteWriteArrival src seq pa bytes trapped s
  | .remoteAccessArrival src pa acc trapped => Sys2Proof.Machine.execRemoteAccessArrival src pa acc trapped s
  | .hostWriteArrival link pa bytes => Sys2Proof.Machine.execHostWriteArrival link pa bytes s
  | .hostReadArrival link pa len => Sys2Proof.Machine.execHostReadArrival link pa len s
  | .atomicopCompletion op supported => Sys2Proof.Machine.execAtomicopCompletion op supported s
  | .fabricLinkFailure port => Sys2Proof.Machine.execFabricLinkFailure port s
  | .deviceLost node => Sys2Proof.Machine.execDeviceLost node s
  | .pcieLinkDown link => Sys2Proof.Machine.execPcieLinkDown link s
  | .correctedError p => Sys2Proof.Machine.execCorrectedError p s
  | .uncorrectableError u => Sys2Proof.Machine.execUncorrectableError u s
  | .unitFailure u => Sys2Proof.Machine.execUnitFailure u s
  | .thermalTrip => Sys2Proof.Machine.execThermalTrip s
  | .currentLimit => Sys2Proof.Machine.execCurrentLimit s
  | .hostReset => Sys2Proof.Machine.execHostReset s
  | .attestation => Sys2Proof.Machine.execAttestation s
  | .health => Sys2Proof.Machine.execHealth s
  | .snapread => Sys2Proof.Machine.execSnapread s
  | .snapRearm => Sys2Proof.Machine.execSnapRearm s
  | .snaptrig => Sys2Proof.Machine.execSnaptrig s
  | .fwupdate image signature => Sys2Proof.Machine.execFwupdate image signature s
  | .reset => Sys2Proof.Machine.execReset s
  | .pcap watts => Sys2Proof.Machine.execPcap watts s
  | .fence u => Sys2Proof.Machine.execFence u s
  | .fenceClear => Sys2Proof.Machine.execFenceClear s
  | .fwcommit => Sys2Proof.Machine.execFwcommit s
  | .pcieLinkUp link => Sys2Proof.Machine.execPcieLinkUp link s
  | .remoteWriteAcknowledged dst seq => Sys2Proof.Machine.execRemoteWriteAcknowledged dst seq s
  | .hostAtomicopArrival link pa acc => Sys2Proof.Machine.execHostAtomicopArrival link pa acc s
  | .powerLoss => Sys2Proof.Machine.execPowerLoss s

end Sys2Proof.Machine
end

