-- ==== Sys2Proof/Machine/Fetch.lean ====
section
/-!
DEFINITION. One instruction placed where the next step fetches it: a page of code with its translation, a team of one
thread that stands at the instruction, and the move that issues it; for a walker word a walker context that holds it.
It stands for what a launch (R313 to R319) or a `SPOKE` (R267) sets up.
-/

namespace Sys2Proof.Machine

/-- The three tables and the page of code, in deep memory, which no fence reaches (R112). -/
def codeRoot : Nat := 0x020000000000
def codeTable2 : Nat := codeRoot + 0x10000
def codeTable1 : Nat := codeRoot + 0x20000
def codePage : Nat := codeRoot + 0x30000

/-- The S-word of the placed bundle: slot 2 is data, so that `lit` reads the zero word there (R34, R48). -/
def codeSword : Word := 16#32

/-- The leaf entry of the page of code: readable, writable and executable. -/
def codeLeaf (node : Nat) : Nat := codePage + node * 256 + 0xAF

/-- The stored parts: the tables' first entries, and the bundle. -/
def codeParts (node w : Nat) : List (Nat × List Byte) :=
  [(codeRoot, leBytes 16 (codeTable2 + 1)), (codeTable2, leBytes 16 (codeTable1 + 1)),
   (codeTable1, leBytes 16 (codeLeaf node)), (codePage, leBytes 16 (codeSword.toNat + w * 2 ^ 32))]

/-- A byte of the placed parts. -/
def isCode (k : Nat) : Bool := [codeRoot, codeTable2, codeTable1, codePage].any (fun b => decide (b ≤ k) && decide (k < b + 16))

/-- The address space that the placed thread runs in: the last virtual function's. -/
def codeFn : Nat := 16

/-- A thread that has entered the placed bundle and stands at its slot 1. -/
def codeThread : Thread :=
  { idx := 0, role := 0, st := .active, left := .active, why := .none, whySaved := .none, stSaved := .active
    pc := 4, regs := List.replicate 256 0, poisonRegs := [], pend := [], win := 0, part := 32
    flags := List.replicate 12 0, cls := 3, lclass := 3, seq := 0xFFFFFFFF, vset := [], stale := false, joinMask := 0
    mine := [], fpstat := 0, trapPc := 0, trapCause := 0, trapAddr := 0, trapInfo := 0, sword := some codeSword
    waited := false, lastIssue := none, held := [], freeAt := 0, nanAt := none }

/-- Its team, alone on a core. -/
def codeTeam (s : State) (core : Nat) : Team :=
  { grid := s.grids.length, gridIdx := 0, hubset := s.hubsets.length, fn := codeFn, core := core, slot := 31
    status := .resident, roles := [{ count := 1, regs := 256 }], threads := [codeThread]
    groups := [{ members := [0], readyAt := 0, passed := 0, boost := 0, born := none, since := none }]
    spadBytes := 0, spad := [], spadPoison := [], absent := [], bars := [], age := 32, pwin := 32, seed := 1
    rs := seedStates 1, queue := [] }

/-- A core without a resident team; core 0 where every core has one. -/
def State.codeCore (s : State) : Nat := ((List.range 192).find? (fun c => (s.residents c).isEmpty)).getD 0

/-- The state with the placed team and its memory; the other issue slots of its hub have issued in this cycle. -/
def State.placeCode (s : State) (w : Nat) : State :=
  let core := s.codeCore
  { s with
    teams := s.teams.map (fun t => if t.core = core then { t with groups := [] } else t) ++ [codeTeam s core]
    mem := (codeParts s.ownNode w).foldl (fun m p => memPut m p.1 p.2) s.mem
    poison := s.poison.filter (fun k => !isCode k)
    tlb := s.tlb.filter (fun e => decide (e.place ≠ .core core) && decide (e.place ≠ .hub (hubOf core)))
    walkCache := s.walkCache.filter (fun e => decide (e.fn ≠ codeFn))
    spaces := s.spaces.set codeFn { s.space codeFn with ptroot := BitVec.ofNat 64 codeRoot }
    issued := (State.hubSlots { s with issued := [(core, 0)] } core) ++ s.issued.filter (fun x => decide (x ≠ (core, 0)))
    turns := s.turns.filter (fun t => decide (hubOf t.core ≠ hubOf core))
    mgmt := { s.mgmt with state := min 1 s.mgmt.state }
    agenda := .issue core 0 :: s.agenda }

/-- The number of the walker context that holds a placed walker word. -/
def codeCtx : Nat := 191

/-- A walker context with a program of one word (R270). -/
def codeWalker (team core w : Nat) : Walker :=
  { ctx := codeCtx, last := codeCtx, team := team, thr := 0, op := 0, fn := codeFn, priv := false, core := core, obj := none
    nanTrap := false, regs := List.replicate 16 0, wpc := 0, row0 := 0, k0 := 0, prog := [BitVec.ofNat 32 w], tk := 32
    vfmt := 20, iw := 4, pw := 8, nnz := 1, np := 1, val := 0, idx := 0, ptr := 0, tile := zeroTile 32, buf := false, busy := []
    posted := [], counted := 0, causes := [], halted := false, stopped := none }

/-- The state with a walker word placed: its context's turn is the next move. -/
def State.placeWalker (s : State) (w : Nat) : State :=
  let core := s.codeCore
  let s' := s.placeCode 0
  { s' with
    walkers := s.walkers.filter (fun x => decide (x.ctx ≠ codeCtx)) ++ [codeWalker s.teams.length core w]
    walked := s.walked.filter (fun c => decide (c ≠ codeCtx))
    agenda := .walker codeCtx :: s.agenda }

/-- A word is a walker word only where the core's map refuses it, as the decoder of the table reads it. -/
noncomputable def walkerOnly (w : Nat) : Bool :=
  match decode .core (leBytes 4 w), decode .walker (leBytes 4 w) with
  | .error _, .ok _ => true
  | _, _ => false

/-- An instruction of the table placed where the next step runs it. -/
noncomputable def State.placeWord (s : State) (w : Nat) : State := if walkerOnly w then s.placeWalker w else s.placeCode w

end Sys2Proof.Machine
end

