-- ==== Sys2Proof/Machine/Step.lean ====
section
/-!
DEFINITION. One step of the machine: the agent whose move it is acts. A core's issue and a walker's word fetch and
decode one instruction, which `exec` executes; so does a step of the device or an input.
-/

namespace Sys2Proof.Machine

/-- One step. -/
noncomputable def step (s : State) : Host.Outcome State Fault Refusal :=
  match stage s with
  | .run i s => exec i s
  | .done s => .next s

/-- The state with an instruction of the opcode table stored where the next step fetches it. -/
noncomputable def State.withFetchWord (s : State) (_nbits w : Nat) : State := s.placeWord w

end Sys2Proof.Machine
end

