-- ==== Sys2Proof/Safety.lean ====
section
/-!
DEFINITION. The terms in which the statements about the machine are made: when a group is ready to perform an instruction,
what it means that its members complete or trap, and, written from the manual's tables, what each instruction does in a
member that completes it.
-/

namespace Sys2Proof.Machine

/-! ## Completing and trapping -/

/-- The issuing group has the members ls, and each of them passes the checks at issue that its instruction word and its
register operands allow (R62). -/
def State.Ready (fm : Form) (s : State) (ls : List Lane) : Prop :=
  (∃ tm, s.issuer = some (tm, ls)) ∧ ∀ l ∈ ls, l.check fm = none

/-- Each member has room on a flag (R43); flag 0 is no flag. -/
def Room (f : Nat) (ls : List Lane) : Prop := f = 0 ∨ ∀ l ∈ ls, l.th.flag f < 15

/-- The state once every member of the issuing group has completed, each with its own effect (R61). -/
def State.completed (s : State) (ls : List Lane) (d : Lane → Done) : State := s.commit (ls.map (fun l => (l, .done (d l))))

/-- The state once every member of the issuing group has trapped (R61). -/
def State.trapped (s : State) (ls : List Lane) (t : Lane → Trap) : State := s.commit (ls.map (fun l => (l, .trap (t l))))

/-- The state once those members have trapped for which there is a trap, and the others have completed (R61). -/
def State.mixed (s : State) (ls : List Lane) (d : Lane → Done) (t : Lane → Option Trap) : State :=
  s.commit (ls.map (fun l => (l, match t l with | some x => .trap x | none => .done (d l))))

/-! ## Results of fixed latency -/

/-- A register result and its latency. -/
structure Fixed where
  dst : BitVec 7
  lat : Nat
  value : Lane → Word

/-- A pair result and its latency. -/
structure Fixed2 where
  dst : BitVec 7
  lat : Nat
  value : Lane → DWord

def Fixed.done (r : Fixed) (l : Lane) : Done := { writes := l.wr r.dst (r.value l), lat := r.lat }
def Fixed2.done (r : Fixed2) (l : Lane) : Done := { writes := l.wr2 r.dst (r.value l), lat := r.lat }

/-- All ones where a condition holds, else 0 (R71). -/
def onesIf (c : Prop) [Decidable c] : Word := if c then 0xFFFFFFFF#32 else 0#32

/-- A field of w bits from bit p of a word, as a number. -/
def fieldOf' (x : Word) (p w : Nat) : Nat := x.toNat / 2 ^ p % 2 ^ w

/-- `IARITH` (R68), `LOGIC` (R69, R70), `ISET` (R71), `MOVE` (R72), the immediate forms (R74), `LDI` and `LDHI` (R75), all
of latency 4, and the compares of `WIDE` (R73), of latency 6: the register result in a lane. -/
def integerResult : Instr → Option Fixed
  | .iadd d a b => some ⟨d, 4, fun l => BitVec.ofNat 32 ((l.reg a).toNat + (l.reg b).toNat)⟩
  | .isub d a b => some ⟨d, 4, fun l => BitVec.ofInt 32 ((l.reg a).toInt - (l.reg b).toInt)⟩
  | .imul d a b => some ⟨d, 4, fun l => BitVec.ofNat 32 ((l.reg a).toNat * (l.reg b).toNat)⟩
  | .imulhS d a b => some ⟨d, 4, fun l => BitVec.ofInt 32 ((l.reg a).toInt * (l.reg b).toInt / 2 ^ 32)⟩
  | .imulhN d a b => some ⟨d, 4, fun l => BitVec.ofNat 32 ((l.reg a).toNat * (l.reg b).toNat / 2 ^ 32)⟩
  | .imad d a b => some ⟨d, 4, fun l => BitVec.ofNat 32 ((l.reg a).toNat * (l.reg b).toNat + (l.reg d).toNat)⟩
  | .iminS d a b => some ⟨d, 4, fun l => if (l.reg a).toInt ≤ (l.reg b).toInt then l.reg a else l.reg b⟩
  | .iminN d a b => some ⟨d, 4, fun l => if (l.reg a).toNat ≤ (l.reg b).toNat then l.reg a else l.reg b⟩
  | .imaxS d a b => some ⟨d, 4, fun l => if (l.reg a).toInt ≤ (l.reg b).toInt then l.reg b else l.reg a⟩
  | .imaxN d a b => some ⟨d, 4, fun l => if (l.reg a).toNat ≤ (l.reg b).toNat then l.reg b else l.reg a⟩
  | .iabs d a => some ⟨d, 4, fun l => if (l.reg a).toInt < 0 then BitVec.ofInt 32 (-(l.reg a).toInt) else l.reg a⟩
  | .and d a b => some ⟨d, 4, fun l => l.reg a &&& l.reg b⟩
  | .or d a b => some ⟨d, 4, fun l => l.reg a ||| l.reg b⟩
  | .xor d a b => some ⟨d, 4, fun l => l.reg a ^^^ l.reg b⟩
  | .andn d a b => some ⟨d, 4, fun l => l.reg a &&& (0xFFFFFFFF#32 ^^^ l.reg b)⟩
  | .shl d a b => some ⟨d, 4, fun l => if 32 ≤ (l.reg b).toNat then 0 else BitVec.ofNat 32 ((l.reg a).toNat * 2 ^ (l.reg b).toNat)⟩
  | .shr d a b => some ⟨d, 4, fun l => if 32 ≤ (l.reg b).toNat then 0 else BitVec.ofNat 32 ((l.reg a).toNat / 2 ^ (l.reg b).toNat)⟩
  | .sha d a b => some ⟨d, 4, fun l =>
      if 32 ≤ (l.reg b).toNat then (if (l.reg a).toInt < 0 then 0xFFFFFFFF#32 else 0)
      else BitVec.ofInt 32 ((l.reg a).toInt / 2 ^ (l.reg b).toNat)⟩
  | .rotl d a b => some ⟨d, 4, fun l =>
      BitVec.ofNat 32 ((l.reg a).toNat * 2 ^ ((l.reg b).toNat % 32) ||| (l.reg a).toNat / 2 ^ (32 - (l.reg b).toNat % 32))⟩
  | .popc d a => some ⟨d, 4, fun l => BitVec.ofNat 32 ((List.range 32).filter (fun k => (l.reg a).getLsbD k)).length⟩
  | .clz d a => some ⟨d, 4, fun l => if l.reg a = 0 then 32 else BitVec.ofNat 32 (31 - Nat.log2 (l.reg a).toNat)⟩
  | .bfx d a b => some ⟨d, 4, fun l =>
      let pos := fieldOf' (l.reg b) 0 8
      let len := fieldOf' (l.reg b) 8 8
      if 32 ≤ pos ∨ len = 0 then 0 else BitVec.ofNat 32 (fieldOf' (l.reg a) pos (min (pos + len) 32 - pos))⟩
  | .bfi d a b => some ⟨d, 4, fun l =>
      let pos := fieldOf' (l.reg b) 0 8
      let len := fieldOf' (l.reg b) 8 8
      if 32 ≤ pos ∨ len = 0 then l.reg d
      else
        let hi := min (pos + len) 32
        BitVec.ofNat 32 (2 ^ pos * (2 ^ (hi - pos) * ((l.reg d).toNat / 2 ^ hi) + fieldOf' (l.reg a) 0 (hi - pos)) +
          fieldOf' (l.reg d) 0 pos)⟩
  | .isetEq d a b => some ⟨d, 4, fun l => onesIf (l.reg a = l.reg b)⟩
  | .isetNe d a b => some ⟨d, 4, fun l => onesIf (l.reg a ≠ l.reg b)⟩
  | .isetLt d a b => some ⟨d, 4, fun l => onesIf ((l.reg a).toInt < (l.reg b).toInt)⟩
  | .isetLe d a b => some ⟨d, 4, fun l => onesIf ((l.reg a).toInt ≤ (l.reg b).toInt)⟩
  | .isetGt d a b => some ⟨d, 4, fun l => onesIf ((l.reg b).toInt < (l.reg a).toInt)⟩
  | .isetGe d a b => some ⟨d, 4, fun l => onesIf ((l.reg b).toInt ≤ (l.reg a).toInt)⟩
  | .isetLtN d a b => some ⟨d, 4, fun l => onesIf ((l.reg a).toNat < (l.reg b).toNat)⟩
  | .isetLeN d a b => some ⟨d, 4, fun l => onesIf ((l.reg a).toNat ≤ (l.reg b).toNat)⟩
  | .isetGtN d a b => some ⟨d, 4, fun l => onesIf ((l.reg b).toNat < (l.reg a).toNat)⟩
  | .isetGeN d a b => some ⟨d, 4, fun l => onesIf ((l.reg b).toNat ≤ (l.reg a).toNat)⟩
  | .mov d a => some ⟨d, 4, fun l => l.reg a⟩
  | .sel d a b => some ⟨d, 4, fun l => if l.reg d ≠ 0 then l.reg a else l.reg b⟩
  | .iset64Eq d a b => some ⟨d, 6, fun l => onesIf (l.pair a = l.pair b)⟩
  | .iset64LtN d a b => some ⟨d, 6, fun l => onesIf ((l.pair a).toNat < (l.pair b).toNat)⟩
  | .iaddi d a imm => some ⟨d, 4, fun l => BitVec.ofInt 32 ((l.reg a).toInt + imm.toInt)⟩
  | .andi d a imm => some ⟨d, 4, fun l => l.reg a &&& BitVec.ofInt 32 imm.toInt⟩
  | .ori d a imm => some ⟨d, 4, fun l => l.reg a ||| BitVec.ofInt 32 imm.toInt⟩
  | .shli d a imm => some ⟨d, 4, fun l => BitVec.ofNat 32 ((l.reg a).toNat * 2 ^ imm.toNat)⟩
  | .shri d a imm => some ⟨d, 4, fun l => BitVec.ofNat 32 ((l.reg a).toNat / 2 ^ imm.toNat)⟩
  | .ldi d imm => some ⟨d, 4, fun _ => BitVec.ofInt 32 imm.toInt⟩
  | .ldhi d imm => some ⟨d, 4, fun l => BitVec.ofNat 32 (fieldOf' (l.reg d) 0 18 + imm.toNat * 2 ^ 18)⟩
  | _ => none

/-- The pair results of `WIDE` (R73), of latency 6. -/
def wideResult : Instr → Option Fixed2
  | .add64 d a b => some ⟨d, 6, fun l => BitVec.ofNat 64 ((l.pair a).toNat + (l.pair b).toNat)⟩
  | .sub64 d a b => some ⟨d, 6, fun l => BitVec.ofInt 64 ((l.pair a).toInt - (l.pair b).toInt)⟩
  | .shl64 d a b => some ⟨d, 6, fun l => if 64 ≤ (l.reg b).toNat then 0 else BitVec.ofNat 64 ((l.pair a).toNat * 2 ^ (l.reg b).toNat)⟩
  | .shr64 d a b => some ⟨d, 6, fun l => if 64 ≤ (l.reg b).toNat then 0 else BitVec.ofNat 64 ((l.pair a).toNat / 2 ^ (l.reg b).toNat)⟩
  | .mul64 d a b => some ⟨d, 6, fun l => BitVec.ofNat 64 ((l.pair a).toNat * (l.pair b).toNat)⟩
  | .lea0 d a b => some ⟨d, 6, fun l => BitVec.ofInt 64 ((l.pair a).toInt + (l.reg b).toInt)⟩
  | .lea1 d a b => some ⟨d, 6, fun l => BitVec.ofInt 64 ((l.pair a).toInt + (l.reg b).toInt * 2)⟩
  | .lea2 d a b => some ⟨d, 6, fun l => BitVec.ofInt 64 ((l.pair a).toInt + (l.reg b).toInt * 4)⟩
  | .lea3 d a b => some ⟨d, 6, fun l => BitVec.ofInt 64 ((l.pair a).toInt + (l.reg b).toInt * 8)⟩
  | _ => none

/-- A compare of FP32 values (R148): a pair with a NaN is unordered. -/
def floatCompare (a b : Word) (p : FVal → FVal → Prop) [∀ x y, Decidable (p x y)] (unordered : Bool) : Word :=
  onesIf (if f32IsNaN a ∨ f32IsNaN b then unordered = true else p (f32Val a) (f32Val b))

/-- The two elements of a packed pair, low half first, through an operation with one rounding (R152). -/
def packed (f : Ieee) (a b d : Word) (op : FVal → FVal → FVal → FVal) : Word :=
  let el (w : Word) (i : Nat) : FVal := f.val (fieldOf' w (16 * i) 16)
  BitVec.ofNat 32 (f.round (op (el a 0) (el b 0) (el d 0)) + 2 ^ 16 * f.round (op (el a 1) (el b 1) (el d 1)))

/-- `FARITH` (R146, R147) and the packed forms (R152), of latency 5; `FSET` and `FCLASS` (R148, R149), of latency 4. -/
def floatResult : Instr → Option Fixed
  | .fadd d a b => some ⟨d, 5, fun l => f32Round ((f32Val (l.reg a)).add (f32Val (l.reg b)))⟩
  | .fsub d a b => some ⟨d, 5, fun l => f32Round ((f32Val (l.reg a)).add (f32Val (l.reg b)).neg)⟩
  | .fmul d a b => some ⟨d, 5, fun l => f32Round ((f32Val (l.reg a)).mul (f32Val (l.reg b)))⟩
  | .ffma d a b => some ⟨d, 5, fun l => f32Round (((f32Val (l.reg a)).mul (f32Val (l.reg b))).add (f32Val (l.reg d)))⟩
  | .fmin d a b => some ⟨d, 5, fun l =>
      if f32IsNaN (l.reg a) ∨ f32IsNaN (l.reg b) then 0x7FC00000#32
      else if f32Key (l.reg a) ≤ f32Key (l.reg b) then l.reg a else l.reg b⟩
  | .fmax d a b => some ⟨d, 5, fun l =>
      if f32IsNaN (l.reg a) ∨ f32IsNaN (l.reg b) then 0x7FC00000#32
      else if f32Key (l.reg a) < f32Key (l.reg b) then l.reg b else l.reg a⟩
  | .fneg d a => some ⟨d, 5, fun l => if f32IsNaN (l.reg a) then 0x7FC00000#32 else l.reg a ^^^ 0x80000000#32⟩
  | .fabs d a => some ⟨d, 5, fun l => if f32IsNaN (l.reg a) then 0x7FC00000#32 else l.reg a &&& 0x7FFFFFFF#32⟩
  | .fsetEq d a b => some ⟨d, 4, fun l => floatCompare (l.reg a) (l.reg b) (fun x y => x.lt y = false ∧ y.lt x = false) false⟩
  | .fsetNe d a b => some ⟨d, 4, fun l => floatCompare (l.reg a) (l.reg b) (fun x y => ¬(x.lt y = false ∧ y.lt x = false)) true⟩
  | .fsetLt d a b => some ⟨d, 4, fun l => floatCompare (l.reg a) (l.reg b) (fun x y => x.lt y) false⟩
  | .fsetLe d a b => some ⟨d, 4, fun l => floatCompare (l.reg a) (l.reg b) (fun x y => ¬y.lt x) false⟩
  | .fsetGt d a b => some ⟨d, 4, fun l => floatCompare (l.reg a) (l.reg b) (fun x y => y.lt x) false⟩
  | .fsetGe d a b => some ⟨d, 4, fun l => floatCompare (l.reg a) (l.reg b) (fun x y => ¬x.lt y) false⟩
  | .fsetUn d a b => some ⟨d, 4, fun l => onesIf (f32IsNaN (l.reg a) ∨ f32IsNaN (l.reg b))⟩
  | .fclass d a => some ⟨d, 4, fun l => fclass (l.reg a)⟩
  | .h2add d a b => some ⟨d, 5, fun l => packed fp16 (l.reg a) (l.reg b) (l.reg d) (fun x y _ => x.add y)⟩
  | .h2mul d a b => some ⟨d, 5, fun l => packed fp16 (l.reg a) (l.reg b) (l.reg d) (fun x y _ => x.mul y)⟩
  | .h2fma d a b => some ⟨d, 5, fun l => packed fp16 (l.reg a) (l.reg b) (l.reg d) (fun x y z => (x.mul y).add z)⟩
  | .b2add d a b => some ⟨d, 5, fun l => packed bf16 (l.reg a) (l.reg b) (l.reg d) (fun x y _ => x.add y)⟩
  | .b2mul d a b => some ⟨d, 5, fun l => packed bf16 (l.reg a) (l.reg b) (l.reg d) (fun x y _ => x.mul y)⟩
  | .b2fma d a b => some ⟨d, 5, fun l => packed bf16 (l.reg a) (l.reg b) (l.reg d) (fun x y z => (x.mul y).add z)⟩
  | _ => none

/-- `SFU` (R150, R151), of latency 12, and the random forms (R159 to R161), of latency 8: functions of the operand
words alone. -/
def specialResult : Instr → Option Fixed
  | .frcp d a => some ⟨d, 12, fun l => frcp (l.reg a)⟩
  | .frsq d a => some ⟨d, 12, fun l => frsq (l.reg a)⟩
  | .fsqrt d a => some ⟨d, 12, fun l => fsqrt (l.reg a)⟩
  | .fex2 d a => some ⟨d, 12, fun l => fex2 (l.reg a)⟩
  | .flg2 d a => some ⟨d, 12, fun l => flg2 (l.reg a)⟩
  | .fexp d a => some ⟨d, 12, fun l => fexp (l.reg a)⟩
  | .fln d a => some ⟨d, 12, fun l => fln (l.reg a)⟩
  | .fsinp d a => some ⟨d, 12, fun l => fsinp (l.reg a)⟩
  | .fcosp d a => some ⟨d, 12, fun l => fcosp (l.reg a)⟩
  | .ftanh d a => some ⟨d, 12, fun l => ftanh (l.reg a)⟩
  | .fsig d a => some ⟨d, 12, fun l => fsig (l.reg a)⟩
  | .rng d a b => some ⟨d, 8, fun l => rng (l.reg a) (l.reg b)⟩
  | .gumb d a => some ⟨d, 8, fun l => gumb (l.reg a)⟩
  | .unif d a => some ⟨d, 8, fun l => unif (l.reg a)⟩
  | _ => none

/-- `XCVT` and `XRATIO` (R153), of latency 8; `BYTP` and `HPK` (R157), of latency 4. -/
def packResult : Instr → Option Fixed
  | .xcvt d a => some ⟨d, 8, fun l => f32Round (x64Val (l.pair a))⟩
  | .xratio d a b => some ⟨d, 8, fun l => (x64Val (l.pair a)).ratioF32 (x64Val (l.pair b))⟩
  | .bytp d a b => some ⟨d, 4, fun l => bytePick (l.pair a) (l.reg b)⟩
  | .hpk d a b => some ⟨d, 4, fun l => BitVec.ofNat 32 ((l.reg b).toNat * 2 ^ 16 + fieldOf' (l.reg a) 0 16)⟩
  | _ => none

/-- The pair results of the extended forms (R153), of latency 8. -/
def extendedResult : Instr → Option Fixed2
  | .xadd d a b => some ⟨d, 8, fun l => x64Round .rn ((x64Val (l.pair a)).add (x64Val (l.pair b)))⟩
  | .xmul d a b => some ⟨d, 8, fun l => x64Round .rn ((x64Val (l.pair a)).mul (x64Val (l.pair b)))⟩
  | .xexp d a => some ⟨d, 8, fun l => xexp (l.reg a)⟩
  | .xfrom d a => some ⟨d, 8, fun l => x64Round .rn (f32Val (l.reg a))⟩
  | _ => none

/-- A register result that also sets bits of `FPSTAT` (R124). -/
structure Stated where
  dst : BitVec 7
  value : Lane → Word × Word

/-- The word and the status land together, after latency 6. -/
def Stated.done (r : Stated) (l : Lane) : Done :=
  { writes := l.wr r.dst (r.value l).1 ++ (if (r.value l).2 = 0 then [] else [.stat (r.value l).2]), lat := 6 }

/-- A requantised word (R137): a times m over 2^s in one rounding, the zero point added, clamped to lo to hi; and the
status, which is `SAT` where it clamped. -/
def requantised (width : Nat) (lo hi z : Int) (a m : Word) (s : Nat) : Word × Word :=
  ((requant width lo hi z a m s).1, if (requant width lo hi z a m s).2 then statSat else 0)

/-- `REQ` (R158): the multiplier and the shift and zero point stand in the pair b. -/
def requantResult : Instr → Option Stated
  | .reqI8 d a b => some ⟨d, fun l =>
      requantised 8 (-128) 127 (signedOf 8 (fieldOf' (l.reg (b + 1)) 8 8)) (l.reg a) (l.reg b) (fieldOf' (l.reg (b + 1)) 0 8)⟩
  | .reqI4 d a b => some ⟨d, fun l =>
      requantised 4 (-8) 7 (signedOf 8 (fieldOf' (l.reg (b + 1)) 8 8)) (l.reg a) (l.reg b) (fieldOf' (l.reg (b + 1)) 0 8)⟩
  | .reqN8 d a b => some ⟨d, fun l =>
      requantised 8 0 255 (fieldOf' (l.reg (b + 1)) 8 8) (l.reg a) (l.reg b) (fieldOf' (l.reg (b + 1)) 0 8)⟩
  | .reqN4 d a b => some ⟨d, fun l =>
      requantised 4 0 15 (fieldOf' (l.reg (b + 1)) 8 8) (l.reg a) (l.reg b) (fieldOf' (l.reg (b + 1)) 0 8)⟩
  | _ => none

/-! ## Results across lanes (R21 to R23, R83 to R88) -/

/-- The members hold one partition setting (R23). -/
def OnePart (ls : List Lane) : Prop := ∀ l ∈ ls, ∀ m ∈ ls, l.th.part = m.th.part

/-- The present lanes of a lane's tile, in ascending order (R21, R22). -/
def tileOf (ls : List Lane) (l : Lane) : List Lane :=
  let L := laneOf l.th.idx
  let T := l.th.part
  (List.range' (L - L % T) T).filterMap (fun x => ls.find? (fun m => laneOf m.th.idx = x))

/-- The word a of a source lane, 0x7FA0_0001 where no lane is present there (R22). -/
def laneWord (ls : List Lane) (a : BitVec 7) (L : Nat) : Word :=
  match ls.find? (fun m => laneOf m.th.idx = L) with
  | some m => m.reg a
  | none => 0x7FA00001#32

/-- The words a of some lanes, folded in order from e (R87, R88). -/
def foldWords (op : Word → Word → Word) (e : Word) (a : BitVec 7) (ls : List Lane) : Word :=
  (ls.map (fun m => m.reg a)).foldl op e

/-- The lanes of a tile at or below a lane, and those below it. -/
def upTo (ls : List Lane) (l : Lane) : List Lane := (tileOf ls l).filter (fun m => laneOf m.th.idx ≤ laneOf l.th.idx)
def below (ls : List Lane) (l : Lane) : List Lane := (tileOf ls l).filter (fun m => laneOf m.th.idx < laneOf l.th.idx)

/-- The greater and the lesser of two signed words. -/
def greater (x y : Word) : Word := if x.toInt < y.toInt then y else x
def lesser (x y : Word) : Word := if y.toInt < x.toInt then y else x

/-- `LANE` (R84), `POLL` (R85), the matches (R86), the scans (R87) and the reductions (R88), of latency 6: a lane's word
from the present lanes. -/
def crossResult (ls : List Lane) : Instr → Option Fixed
  | .lanePick d a b => some ⟨d, 6, fun l =>
      let L := laneOf l.th.idx; let T := l.th.part
      laneWord ls a (L - L % T + (l.reg b).toNat % T)⟩
  | .laneBack d a b => some ⟨d, 6, fun l =>
      let L := laneOf l.th.idx; let T := l.th.part
      if (l.reg b).toNat < T ∧ L - L % T + (l.reg b).toNat ≤ L then laneWord ls a (L - (l.reg b).toNat) else l.reg d⟩
  | .laneFwd d a b => some ⟨d, 6, fun l =>
      let L := laneOf l.th.idx; let T := l.th.part
      if (l.reg b).toNat < T ∧ L + (l.reg b).toNat < L - L % T + T then laneWord ls a (L + (l.reg b).toNat) else l.reg d⟩
  | .laneFlip d a b => some ⟨d, 6, fun l =>
      let L := laneOf l.th.idx; let T := l.th.part
      laneWord ls a (L - L % T + ((L % T) ^^^ ((l.reg b).toNat % T)))⟩
  | .laneRot d a b => some ⟨d, 6, fun l =>
      let L := laneOf l.th.idx; let T := l.th.part
      laneWord ls a (L - L % T + (L % T + (l.reg b).toNat) % T)⟩
  | .pollEvery d a => some ⟨d, 6, fun l => onesIf (∀ m ∈ tileOf ls l, m.reg a ≠ 0)⟩
  | .pollSome d a => some ⟨d, 6, fun l => onesIf (∃ m ∈ tileOf ls l, m.reg a ≠ 0)⟩
  | .pollMask d a => some ⟨d, 6, fun l => maskOf ((tileOf ls l).filter (fun m => m.reg a ≠ 0))⟩
  | .pollSame d a => some ⟨d, 6, fun l => onesIf (∀ m ∈ tileOf ls l, m.reg a = l.reg a)⟩
  | .pollPres d => some ⟨d, 6, fun l => maskOf (tileOf ls l)⟩
  | .pollCnt d a => some ⟨d, 6, fun l => BitVec.ofNat 32 ((tileOf ls l).filter (fun m => m.reg a ≠ 0)).length⟩
  | .matchLanes d a => some ⟨d, 6, fun l => maskOf ((tileOf ls l).filter (fun m => m.reg a = l.reg a))⟩
  | .mrank d a => some ⟨d, 6, fun l => BitVec.ofNat 32 ((below ls l).filter (fun m => m.reg a = l.reg a)).length⟩
  | .mcnt d a => some ⟨d, 6, fun l => BitVec.ofNat 32 ((tileOf ls l).filter (fun m => m.reg a = l.reg a)).length⟩
  | .mlead d a => some ⟨d, 6, fun l =>
      BitVec.ofNat 32 (((tileOf ls l).filter (fun m => m.reg a = l.reg a)).foldl (fun n m => min n (laneOf m.th.idx)) (laneOf l.th.idx))⟩
  | .tscanAddI d a => some ⟨d, 6, fun l => foldWords (· + ·) 0 a (upTo ls l)⟩
  | .tscanAddF d a => some ⟨d, 6, fun l => foldWords f32Add 0x80000000#32 a (upTo ls l)⟩
  | .tscanMaxS d a => some ⟨d, 6, fun l => foldWords greater 0x80000000#32 a (upTo ls l)⟩
  | .tscanMinS d a => some ⟨d, 6, fun l => foldWords lesser 0x7FFFFFFF#32 a (upTo ls l)⟩
  | .tscanExAddI d a => some ⟨d, 6, fun l => foldWords (· + ·) 0 a (below ls l)⟩
  | .tscanExAddF d a => some ⟨d, 6, fun l => foldWords f32Add 0x80000000#32 a (below ls l)⟩
  | .tscanSegAddI d a b => some ⟨d, 6, fun l => scanIn (· + ·) 0 a (some b) (presentOf ls) l.th.part l⟩
  | .tscanSegAddF d a b => some ⟨d, 6, fun l => scanIn f32Add 0x80000000#32 a (some b) (presentOf ls) l.th.part l⟩
  | .tredAddI d a => some ⟨d, 6, fun l => foldWords (· + ·) 0 a (tileOf ls l)⟩
  | .tredAddF d a => some ⟨d, 6, fun l => foldWords f32Add 0x80000000#32 a (tileOf ls l)⟩
  | .tredMaxS d a => some ⟨d, 6, fun l => foldWords greater 0x80000000#32 a (tileOf ls l)⟩
  | .tredMinS d a => some ⟨d, 6, fun l => foldWords lesser 0x7FFFFFFF#32 a (tileOf ls l)⟩
  | .tredMaxF d a => some ⟨d, 6, fun l => foldWords f32Max 0xFF800000#32 a (tileOf ls l)⟩
  | .tredMinF d a => some ⟨d, 6, fun l => foldWords f32Min 0x7F800000#32 a (tileOf ls l)⟩
  | .tredAnd d a => some ⟨d, 6, fun l => foldWords (· &&& ·) 0xFFFFFFFF#32 a (tileOf ls l)⟩
  | .tredOr d a => some ⟨d, 6, fun l => foldWords (· ||| ·) 0 a (tileOf ls l)⟩
  | .rmsnE12 d a b => some ⟨d, 16, rmsWord' 12 a b⟩
  | .rmsnE14 d a b => some ⟨d, 16, rmsWord' 14 a b⟩
  | .rmsnE16 d a b => some ⟨d, 16, rmsWord' 16 a b⟩
  | .rmsnE18 d a b => some ⟨d, 16, rmsWord' 18 a b⟩
  | .rmsnE20 d a b => some ⟨d, 16, rmsWord' 20 a b⟩
  | _ => none
where
  /-- `RMSN` (R164): a times 1 / sqrt(mean of squares + 2^-k) of the tile, rounded, times b. -/
  rmsWord' (k : Nat) (a b : BitVec 7) (l : Lane) : Word :=
    if ∃ m ∈ tileOf ls l, f32IsNaN (m.reg a) then 0x7FC00000#32
    else
      let ss := (tileOf ls l).foldl (fun t m => t.add ((f32Val (m.reg a)).mul (f32Val (m.reg a)))) (.fin false 0 0)
      f32Mul (f32Mul (l.reg a) (rmsScale k (tileOf ls l).length ss)) (l.reg b)

/-- An instruction that acts across lanes. -/
def crossesLanes (i : Instr) : Bool :=
  (crossResult [] i).isSome || (match i with | .softmax .. => true | _ => false)

/-- A member's part of a `SOFTMAX` (R140, R162, R163). -/
def softDone (ls : List Lane) (now : Nat) (d a b : BitVec 7) (l : Lane) : Done :=
  let r := softRow a b (tileOf ls l)
  { writes := l.wr d (r.value l) ++ (if r.stat = 0 then [] else [.stat r.stat]), lat := 16
    upd := fun t => if t.nanTrap then { t with freeAt := now + 16, nanAt := r.nan } else t }

/-! ## Control (R63 to R67) -/

/-- The address of the bundle that holds a program counter (R31). -/
def bundleNo (pc : DWord) : Nat := 16 * (pc.toNat / 16)

/-- A B-format branch: its displacement, and the members in which it is taken (R65). -/
def branchOf : Instr → Option (BitVec 18 × (Lane → Bool))
  | .bra x => some (x, fun _ => true)
  | .beqz a x => some (x, fun l => l.reg a = 0)
  | .bnez a x => some (x, fun l => l.reg a ≠ 0)
  | .bltz a x => some (x, fun l => (l.reg a).toInt < 0)
  | .bgez a x => some (x, fun l => 0 ≤ (l.reg a).toInt)
  | _ => none

/-- A member's part of a branch: taken, it continues at slot 1 of the target bundle (R32). -/
def branchDone (x : BitVec 18) (taken : Lane → Bool) (l : Lane) : Done :=
  { goto := if taken l then some (BitVec.ofInt 64 (bundleNo l.th.pc + 16 * x.toInt + 4)) else none }

/-- A jump to a register's address: the pair that holds it, and the pair a link is written to (R67). -/
def jumpOf : Instr → Option (BitVec 7 × Option (BitVec 7))
  | .jmp a => some (a, none)
  | .ret a => some (a, none)
  | .callr d a => some (a, some d)
  | _ => none

/-- A target taken from a register: the slot it names, slot 1 where it names slot 0 (R32). -/
def jumpDone (a : BitVec 7) (d : Option (BitVec 7)) (l : Lane) : Done :=
  { writes := match d with | some d => l.wr2 d l.link | none => []
    lat := 6
    goto := some (if (l.pair a).toNat / 4 % 4 = 0 then BitVec.ofNat 64 (bundleNo (l.pair a) + 4) else l.pair a) }

/-- The member is in `TRAPPED`. -/
def Priv (ls : List Lane) : Prop := ∀ l ∈ ls, l.th.st = .trapped

/-- The instructions that only a privileged thread runs, with the form of their operands (R334). -/
def privilegedForm : Instr → Option Form
  | .rett => some (instrForm .rett)
  | .snap => some (instrForm .snap)
  | .halt => some (instrForm .halt)
  | .ctxsv a b => some (pairWordForm a b)
  | .ctxld a b => some (pairWordForm a b)
  | .tapld a b => some (tapldForm a b)
  | _ => none

/-! ## Which words act how (R61) -/

/-- The core instructions whose members act one after another, in index order. -/
def actsInTurn : Instr → Bool
  | .jdecl .. | .jsign .. | .jleave .. | .jcancel .. | .barInit .. | .barArrive .. | .barWait .. | .barSync ..
  | .barExpect .. | .barInval .. | .fenceAcq .. | .fenceRel .. | .fenceAr .. | .fenceSc .. | .copy .. | .copyx ..
  | .mma .. | .mmas .. | .accz .. | .spoke .. | .qpost .. | .launch .. => true
  | _ => false

/-- Of these, the operations on join registers: each has its place among those of the cycle (R24). -/
def actsInPlace : Instr → Bool
  | .jdecl .. | .jsign .. | .jleave .. | .jcancel .. | .mma .. => true
  | _ => false

/-- The words of a walker program (R271). -/
def isWalkerWord : Instr → Bool
  | .haltw | .ldp .. | .ldx .. | .ldval .. | .addw .. | .subw .. | .cmpw .. | .bltw .. | .bnew .. | .loop .. | .skip ..
  | .sett .. | .emit .. | .flush .. => true
  | _ => false

/-- The core instructions whose members act each on its own. -/
def actsAlone (i : Instr) : Bool := !isDeviceStep i && !isWalkerWord i && !actsInTurn i

/-- The form that an instruction's operands are checked by. -/
def formOf : Instr → Form
  | .tlbinv a b => pairWordForm a b
  | .ctxsv a b => pairWordForm a b
  | .ctxld a b => pairWordForm a b
  | .tapld a b => tapldForm a b
  | .launch d a f => launchForm d a f
  | i => instrForm i

/-- A group of one thread that runs, acting on the state in which its group is dissolved. -/
structure State.Single (s : State) (l : Lane) : Prop where
  member : s.cur.members = [l.th.idx]
  team : s.dissolve.teams[s.cur.team]? = some l.tm
  lane : s.dissolve.laneFor l.tm l.th.idx = some l
  runs : l.th.runnable = true

/-- Such a thread that passes the checks at issue. -/
structure State.Alone (fm : Form) (s : State) (l : Lane) : Prop extends State.Single s l where
  passes : l.check fm = none

/-- The state once such a thread has completed its instruction, with what follows in the state; its group is formed
again (R13). -/
def State.acted (s : State) (l : Lane) (d : Done) (after : State → State) : State :=
  (after (l.s.finishMember l d)).modTeam s.cur.team (Team.gather s.now s.cur.members)

/-- The state once such a thread has trapped. -/
def State.actedTrap (s : State) (l : Lane) (t : Trap) : State :=
  (l.s.trapIssued l.s.cur.team l.th.idx t).modTeam s.cur.team (Team.gather s.now s.cur.members)

/-- A thread alone at an operation on join registers: `l` at issue, and `m` in its place among the operations of the cycle,
after the threads that trapped in a place before its own have left their join registers (R24). -/
structure State.Placed (s : State) (l m : Lane) : Prop extends s.Single l where
  same : m.th.idx = l.th.idx
  left : m.s = l.s.leaveBefore s.cur.team l.th.idx
  seat : m.s.teams[m.s.cur.team]? = some m.tm
  lane' : m.s.laneFor m.tm l.th.idx = some m
  runs' : m.th.runnable = true

/-- Such a thread that passes the checks. -/
structure State.InTurn (fm : Form) (s : State) (l m : Lane) : Prop extends s.Placed l m where
  passes : l.check fm = none
  passes' : m.check fm = none

/-! ## Join registers (R25) -/

/-- The word of `JSTAT`: STATE, MINE, ENR, NM1 and LEFT in their places (R25). -/
def joinStatus (jn : Join) (enrolled : Bool) (mine : Mine) : Word :=
  BitVec.ofNat 32 (
    (match jn.st with | .idle => 0 | .opened => 1 | .busy => 2 | .drain => 3) * 2 ^ 30 +
    (match mine with | .none => 0 | .done => 1 | .cancelled => 2 | .withdrawn => 3) * 2 ^ 28 +
    (if enrolled then 2 ^ 27 else 0) +
    (if jn.st = .idle then 0 else (jn.n - 1) * 2 ^ 14) +
    (if jn.st = .idle then 0 else jn.n - jn.signs.length - jn.wd))

/-! ## Memory accesses (R89 to R93, R166 to R176, R206 to R216) -/

/-- An address formed from a pair and an offset scaled by the access size (R166). -/
def Lane.offsetAddr (l : Lane) (a o : BitVec 7) (size : Nat) : DWord := BitVec.ofInt 64 ((l.pair a).toInt + o.toInt * size)

/-- A local address formed the same way (R89). -/
def Lane.offsetLocal (l : Lane) (a o : BitVec 7) (size : Nat) : Word := BitVec.ofInt 32 ((l.reg a).toInt + o.toInt * size)

/-- The bytes a store of a size takes from its data registers (R92, R168). -/
def Lane.dataBytes (l : Lane) (d : BitVec 7) (size : Nat) : List Byte :=
  ((l.words d ((size + 3) / 4)).flatMap bytesOfWord).take size

/-- A local access: its size, its address in a lane, its flag, and what it leaves with the store queue at its place. -/
structure LocalForm where
  size : Nat
  addr : Lane → Word
  flag : BitVec 4
  effect : Lane → LocalLoc → Done

def localLoadForm (size : Nat) (d a o : BitVec 7) (f : BitVec 4) : LocalForm where
  size := size
  addr l := l.offsetLocal a o size
  flag := f
  effect l loc := { flag := f.toNat, dst := l.dsts d ((size + 3) / 4), op := some .queued
                    acts := [(none, .localLoad loc size (l.offsetLocal a o size))] }

def localStoreForm (size : Nat) (d a o : BitVec 7) (f : BitVec 4) : LocalForm where
  size := size
  addr l := l.offsetLocal a o size
  flag := f
  effect l loc := { flag := f.toNat, op := if f = 0 then none else some .queued
                    acts := [(none, .localStore loc (l.dataBytes d size))] }

/-- The local loads and stores, and `ATL` (R92, R93). -/
def localForm : Instr → Option LocalForm
  | .ldlB d a o f => some (localLoadForm 1 d a o f)
  | .ldlH d a o f => some (localLoadForm 2 d a o f)
  | .ldlW d a o f => some (localLoadForm 4 d a o f)
  | .ldlD d a o f => some (localLoadForm 8 d a o f)
  | .ldlQ d a o f => some (localLoadForm 16 d a o f)
  | .stlB d a o f => some (localStoreForm 1 d a o f)
  | .stlH d a o f => some (localStoreForm 2 d a o f)
  | .stlW d a o f => some (localStoreForm 4 d a o f)
  | .stlD d a o f => some (localStoreForm 8 d a o f)
  | .stlQ d a o f => some (localStoreForm 16 d a o f)
  | .atl d a c f => some {
      size := 4
      addr := fun l => l.reg a
      flag := f
      effect := fun l loc => { flag := f.toNat, dst := l.dsts d 1, op := some .queued
                               acts := [(none, .localAtomic loc c.toNat (l.reg d) (l.reg a))] } }
  | _ => none

/-- A generic access: its kind, its size and alignment, its address in a lane, which pages take it, its flag, and what it
leaves in flight at its place. -/
structure GlobalForm where
  kind : Access
  size : Nat
  addr : Lane → DWord
  takes : Nat → Leaf → Bool
  refuse : Nat → Leaf → Cause
  flag : BitVec 4
  effect : Lane → Nat → Leaf → Done

def loadForm (size : Nat) (d a o : BitVec 7) (f : BitVec 4) : GlobalForm where
  kind := .load
  size := size
  addr l := l.offsetAddr a o size
  takes _ _ := true
  refuse _ _ := .prot
  flag := f
  effect l key _ := { flag := f.toNat, dst := l.dsts d ((size + 3) / 4)
                      op := some (.load [key] (.raw size) none (!keyOwn key) (l.offsetAddr a o size)) }

def storeForm (size : Nat) (d a o : BitVec 7) (f : BitVec 4) : GlobalForm where
  kind := .store
  size := size
  addr l := l.offsetAddr a o size
  takes _ _ := true
  refuse _ _ := .prot
  flag := f
  effect l key _ := { flag := f.toNat, op := if f = 0 then none else some .queued
                      acts := [(none, .store key (l.dataBytes d size))] }

/-- An acquire load: it reads at the home slice (R216). -/
def acquireForm (size : Nat) (d a x : BitVec 7) (f : BitVec 4) : GlobalForm where
  kind := .load
  size := size
  addr l := l.pair a
  takes _ _ := true
  refuse _ _ := .prot
  flag := f
  effect l key _ := { flag := f.toNat, dst := l.dsts d (size / 4)
                      op := some (.load [key] (.raw size) (some x.toNat) true (l.pair a)) }

/-- A release store: its entry in the store queue carries the scope (R216). -/
def releaseForm (size : Nat) (d a x : BitVec 7) (f : BitVec 4) : GlobalForm where
  kind := .store
  size := size
  addr l := l.pair a
  takes _ _ := true
  refuse _ _ := .prot
  flag := f
  effect l key _ := { flag := f.toNat, op := if f = 0 then none else some .queued
                      acts := [(some x.toNat, .store key (l.dataBytes d size))] }

/-- Bytes an atomic reads: 8 for the operations on pairs, 32 for the exclusive-or of a sector (R212). -/
def atomicBytes (c : BitVec 7) : Nat := if c = 21 then 32 else if 16 ≤ c.toNat ∧ c.toNat ≤ 20 then 8 else 4

/-- An atomic of a code (R212 to R214): a host page takes the additions and the exchanges only, and the addition to an
accumulator needs a page of format `ACC`, code 25, with no scales (GEO neither 1 nor 2, R142). -/
def atomicForm (c a : BitVec 7) (operand : Lane → List Word) (f : BitVec 4) (dst : Lane → List Nat) : GlobalForm where
  kind := .atomic
  size := atomicBytes c
  addr l := l.pair a
  takes key leaf := (!keyHost key || [0, 11, 16, 19].contains c.toNat) && (decide (c ≠ 20) || (decide (leaf.fmt = 25) && !(decide (leaf.geo = 1) || decide (leaf.geo = 2))))
  refuse key _ := if keyHost key && !([0, 11, 16, 19].contains c.toNat) then .prot else .fmtbad
  flag := f
  effect l key leaf := { flag := f.toNat, dst := dst l, op := some .queued
                         acts := [(none, .rmw key (.atom c.toNat (operand l) leaf.e) (l.pair a))] }

/-- The generic loads and stores, acquire loads and release stores, the atomics, `CAS`, and the version read. -/
def globalForm : Instr → Option GlobalForm
  | .ldgB d a o f => some (loadForm 1 d a o f)
  | .ldgH d a o f => some (loadForm 2 d a o f)
  | .ldgW d a o f => some (loadForm 4 d a o f)
  | .ldgD d a o f => some (loadForm 8 d a o f)
  | .ldgQ d a o f => some (loadForm 16 d a o f)
  | .stgB d a o f => some (storeForm 1 d a o f)
  | .stgH d a o f => some (storeForm 2 d a o f)
  | .stgW d a o f => some (storeForm 4 d a o f)
  | .stgD d a o f => some (storeForm 8 d a o f)
  | .stgQ d a o f => some (storeForm 16 d a o f)
  | .ldacqW d a x f => some (acquireForm 4 d a x f)
  | .ldacqD d a x f => some (acquireForm 8 d a x f)
  | .strelW d a x f => some (releaseForm 4 d a x f)
  | .strelD d a x f => some (releaseForm 8 d a x f)
  | .atom d a c f => some (atomicForm c a (fun l => l.words d (atomicBytes c / 4)) f (fun l => l.dsts d (atomicBytes c / 4)))
  | .red c a b f => some (atomicForm c a (fun l => l.words b (atomicBytes c / 4)) f (fun _ => []))
  | .cas d a b f => some {
      kind := .atomic, size := 4, addr := fun l => l.pair a, takes := fun _ _ => true, refuse := fun _ _ => .prot, flag := f
      effect := fun l key _ => { flag := f.toNat, dst := l.dsts d 1, op := some .queued
                                 acts := [(none, .rmw key (.cas (l.reg d) (l.reg b)) (l.pair a))] } }
  | .verr d a f => some {
      kind := .load, size := 1, addr := fun l => l.pair a, takes := fun key _ => !keyHost key, refuse := fun _ _ => .prot, flag := f
      effect := fun l key _ => { flag := f.toNat, dst := l.dsts d 2, op := some (.verr key (l.pair a)) } }
  | _ => none

/-- A lane reaches its address: aligned, translated and permitted (R166). -/
def Lane.Reaches (l : Lane) (g : GlobalForm) (key : Nat) (leaf : Leaf) : Prop :=
  (g.addr l).toNat % g.size = 0 ∧ l.s.translate l.who g.kind (g.addr l) g.size = .ok (key, leaf)

/-- No acquire load of the lane's thread is outstanding (R216). -/
def NoAcquire (ls : List Lane) : Prop := ∀ l ∈ ls, l.acquiring = false

/-- The sizes of the versioned loads (R207). -/
def versionedForm : Instr → Option (Nat × BitVec 7 × BitVec 7 × BitVec 7 × BitVec 4)
  | .ldvsW d a o f => some (4, d, a, o, f)
  | .ldvsD d a o f => some (8, d, a, o, f)
  | .ldvsQ d a o f => some (16, d, a, o, f)
  | _ => none

/-- The two format stores: round to nearest even, and by the thread's place in the stochastic state (R134, R171). -/
def formatStoreOf : Instr → Option (BitVec 7 × BitVec 7 × BitVec 7 × BitVec 4 × (Lane → RMode) × (List Lane → State → State))
  | .stf d a o f => some (d, a, o, f, fun _ => .rn, fun _ s => s)
  | .stfRs d a o f => some (d, a, o, f, fun l => .rs l.rsLane, fun ls s => s.advanceRs ls)
  | _ => none

/-- A gather or scatter: whether it writes, its flag, where its lanes' results go, and a lane's request (R174, R175). -/
structure GatherForm where
  write : Bool
  flag : BitVec 4
  dst : Lane → List Nat
  req : State → Lane → Except Trap LaneReq

/-- A request for an element of a size at a pair plus a scaled unsigned index (R174). -/
def plainElement (kind : Access) (size : Nat) (a b : BitVec 7) (data : Lane → List Byte) (l : Lane) : Except Trap LaneReq :=
  let va := BitVec.ofNat 64 ((l.pair a).toNat + size * (l.reg b).toNat)
  if va.toNat % size ≠ 0 then .error (.atAddr .align va)
  else match l.s.translate l.who kind va size with
    | .error c => .error (.atAddr c va)
    | .ok (key, _) => .ok { va := va, form := .raw size, parts := [(key, size, data l)] }

def gatherForm : Instr → Option GatherForm
  | .gathW d a b f => some ⟨false, f, fun l => l.dsts d 1, fun _ => plainElement .load 4 a b (fun _ => [])⟩
  | .gathD d a b f => some ⟨false, f, fun l => l.dsts d 2, fun _ => plainElement .load 8 a b (fun _ => [])⟩
  | .gathF d a b f => some ⟨false, f, fun l => l.dsts d 1, fun s l => l.formatReq (gatherPage (.gathF d a b f) a s) a b⟩
  | .scatW d a b f => some ⟨true, f, fun _ => [], fun _ => plainElement .store 4 a b (fun l => leBytes 4 (l.reg d).toNat)⟩
  | .scatD d a b f => some ⟨true, f, fun _ => [], fun _ => plainElement .store 8 a b (fun l => leBytes 8 (l.pair d).toNat)⟩
  | _ => none

/-- The aligned word of a request's element: its address and its width, 8 bytes for an element of 8, else 4 (R175). -/
def wordOf (p : Nat × Nat × List Byte) : Nat × Nat :=
  let w := if p.2.1 = 8 then 8 else 4
  (p.1 - p.1 % w, w)

/-- A fence: what its thread waits for, what it leaves with the store queue, and whether it acquires at its scope (R215). -/
structure FenceForm where
  scope : BitVec 7
  waits : Lane → Bool
  place : Option Nat
  acquires : Bool

def fenceForm : Instr → Option FenceForm
  | .fenceAcq x => some ⟨x, fun l => (l.readsOut || l.hostOut) || uncaused l, none, true⟩
  | .fenceRel x => some ⟨x, uncaused, some x.toNat, false⟩
  | .fenceAr x => some ⟨x, fun l => (!l.quiet || (decide (4 ≤ x.toNat) && l.unacked)) || uncaused l, none, true⟩
  | .fenceSc x => some ⟨x, fun l => (!l.quiet || l.unacked) || uncaused l, none, true⟩
  | _ => none
where
  /-- An access of the thread on flag 0 may still leave a cause for the fence (R324). -/
  uncaused (l : Lane) : Bool := l.s.unflagged l.s.cur.team l.th.idx

/-! ## Copies and matrix calls -/

/-- A copy of one thread: its operands, the bytes of its control block, how the operation names that block, and what the
block's checks answer (R178, R179, R184). -/
structure CopyForm where
  ctl : BitVec 7
  bar : BitVec 7
  flag : BitVec 4
  bytes : Nat
  block : DWord → CopyBlock
  plan : Lane → List Byte → Except Trap CopyPlan

def copyForm : Instr → Option CopyForm
  | .copy a b f => some ⟨a, b, f, 64, .copy, Lane.copyPlan⟩
  | .copyx a b f => some ⟨a, b, f, 128, .copyx, Lane.xorPlan⟩
  | _ => none

/-- A thread may sign an open join register for a matrix call with its descriptor's address: it is enrolled and
unsigned, the register's kind is not `JSIGN`'s nor that of another descriptor, and no signature has the thread's column
(R24). -/
def MaySignCall (s : State) (l : Lane) (jn : Join) (addr : DWord) : Prop :=
  (s.cur.team, l.th.idx) ∈ jn.unsigned ∧ jn.st = .opened ∧
  (jn.kind = none ∨ (∃ d, jn.kind = some (.mma addr d)) ∧
    ∀ g ∈ jn.signs, g.col ≠ l.tm.core % 4 * 32 + l.th.idx % 32)

/-! ## KV operations, attention and taps -/

/-- A maintenance operation: what it is, its descriptor's register and alignment, the values it takes from registers, its
result and flag (R297 to R305). -/
structure KvForm where
  op : KvOp
  desc : BitVec 7
  align : Nat
  dst : BitVec 7
  flag : BitVec 4
  value : Lane → Word
  tag : Lane → Word

def kvForm : Instr → Option KvForm
  | .kvap d a b f => some ⟨.kvap, a, 64, d, f, fun l => l.reg b, fun l => l.reg d⟩
  | .kvrq d a b f => some ⟨.kvrq, a, 64, d, f, fun l => l.reg b, fun _ => 0⟩
  | .kvrot d a b f => some ⟨.kvrot, a, 64, d, f, fun l => l.reg b, fun _ => 0⟩
  | .bnds d a f => some ⟨.bnds, a, 64, d, f, fun _ => 0, fun _ => 0⟩
  | .kvmove d a f => some ⟨.kvmove, a, 64, d, f, fun _ => 0, fun _ => 0⟩
  | .kvtag d a f => some ⟨.kvtag, a, 64, d, f, fun _ => 0, fun _ => 0⟩
  | .topk d a f => some ⟨.topk, a, 32, d, f, fun _ => 0, fun _ => 0⟩
  | _ => none

/-- What the issue of a maintenance operation reads and checks in a lane. -/
def KvForm.issue (g : KvForm) (l : Lane) : Script KvJob :=
  let job := fun (_ : DWord) bs => KvJob.ofDesc g.op l.tm.fn l.privileged l.tm.core (g.value l) (g.tag l) bs
  if g.op = .topk then topkIssue job (l.pair g.desc) else kvIssue job (l.pair g.desc)

/-- The key scale of a `KVRQ` is 0, or positive, finite and normal (R300). -/
def KvForm.Admits (g : KvForm) (l : Lane) : Prop :=
  g.op = .kvrq → g.value l = 0 ∨ (1 ≤ (g.value l).toNat / 2 ^ 23 ∧ (g.value l).toNat / 2 ^ 23 ≤ 254)

/-- The two attention instructions: whether it resumes, and its operands (R218, R220). -/
def attnForm : Instr → Option (Bool × BitVec 7 × BitVec 7 × BitVec 7 × BitVec 4)
  | .attn d a b f => some (false, d, a, b, f)
  | .attnr d a b f => some (true, d, a, b, f)
  | _ => none

/-- A tolerance register names a tolerance: −0, or a number in [0, 1] (R218). -/
def IsTolerance (w : Word) : Prop := w = 0x80000000#32 ∨ w.toNat ≤ 0x3F800000

/-- The two taps: the point's register, the flag, and where the normalised row goes (R306). -/
def tapForm : Instr → Option (BitVec 7 × BitVec 7 × BitVec 4 × (Lane → Option DWord))
  | .tap a b f => some (a, b, f, fun _ => none)
  | .tapNorm a b f => some (a, b, f, fun l => some (l.pair (a + 2)))
  | _ => none

/-! ## Walker words (R271, R272) -/

/-- The distance of a word from a base, modulo 2^64. -/
def distanceFrom (base x : DWord) : Nat := (x.toNat + 2 ^ 64 - base.toNat) % 2 ^ 64

/-- A walker word that only computes: the context after it, and the number of the next word. -/
def walkEffect (w : Walker) : Instr → Option (Walker × Int)
  | .addw d a b i => some (w.put d (BitVec.ofInt 64 ((w.reg a).toNat + (w.reg b).toNat + i.toInt)), w.wpc + 1)
  | .subw d a b i => some (w.put d (BitVec.ofInt 64 ((w.reg a).toNat - (w.reg b).toNat + i.toInt)), w.wpc + 1)
  | .cmpw d a b => some (w.put d (if w.reg a = w.reg b then 0 else if (w.reg b).toNat < (w.reg a).toNat then 1
      else BitVec.ofNat 64 (2 ^ 64 - 1)), w.wpc + 1)
  | .bltw a b i => some (w, if (w.reg a).toNat < (w.reg b).toNat then w.wpc + i.toInt else w.wpc + 1)
  | .bnew a b i => some (w, if (w.reg a).toNat ≠ (w.reg b).toNat then w.wpc + i.toInt else w.wpc + 1)
  | .loop d i =>
    if d = 0 then none
    else some (w.put d (BitVec.ofInt 64 ((w.reg d).toNat - 1)), if (w.reg d).toNat ≠ 1 then w.wpc + i.toInt else w.wpc + 1)
  | .skip a b => some (w, if w.reg a = w.reg b then w.wpc + 2 else w.wpc + 1)
  | .sett a b => some ({ w with row0 := w.reg a, k0 := w.reg b }, w.wpc + 1)
  | .emit d a b => some (
      if distanceFrom w.row0 (w.reg a) < 128 ∧ distanceFrom w.k0 (w.reg b) < w.tk then
        { w with
          tile := w.tile.set (distanceFrom w.row0 (w.reg a) * w.tk + distanceFrom w.k0 (w.reg b)) ((w.reg d).toNat % 2 ^ fmtBits w.vfmt) }
      else w, w.wpc + 1)
  | _ => none

/-- A load word in a context: its destination, the index with the values it may have, the address and the bytes of an
element, and the value taken from them (R272, R273). -/
structure WalkLoad where
  dst : BitVec 4
  index : Nat
  limit : Nat
  addr : DWord
  size : Nat
  value : Nat → Nat

/-- The index of a load word. -/
def walkIndex (w : Walker) (a : BitVec 4) (i : BitVec 15) : Nat := (BitVec.ofInt 64 ((w.reg a).toNat + i.toInt)).toNat

def walkerLoad (w : Walker) : Instr → Option WalkLoad
  | .ldp d a i => some ⟨d, walkIndex w a i, w.np + 1, w.ptr + BitVec.ofNat 64 (walkIndex w a i * w.pw), w.pw, fun v => v⟩
  | .ldx d a i => some ⟨d, walkIndex w a i, w.nnz, w.idx + BitVec.ofNat 64 (walkIndex w a i * w.iw), w.iw, fun v => v⟩
  | .ldval d a i =>
    let n := fmtBits w.vfmt
    some ⟨d, walkIndex w a i, w.nnz, w.val + BitVec.ofNat 64 (walkIndex w a i * n / 8), max 1 (n / 8),
      fun v => v / 2 ^ (walkIndex w a i * n % 8) % 2 ^ n⟩
  | _ => none

/-- The context that `step` has named, able to run its next word. -/
def State.Walks (s : State) (w : Walker) : Prop :=
  s.walkers.find? (fun x => x.ctx = s.cur.walker) = some w ∧ s.walkRuns w = true

/-- The context stops with a walker fault (R276). -/
def State.walkStops (s : State) (w : Walker) (c : Cause) (a : DWord) : State := s.setWalker { w with stopped := some (c, a) }

/-! ## Special registers (R336, R337) -/

/-- The registers of 64 bits. -/
def wideRegister (n : Nat) : Bool := n = 8 || (10 ≤ n && n ≤ 15)

/-- A value that a register takes. -/
def RegisterTakes (n : Nat) (v : DWord) : Prop :=
  (n = 2 → v.toNat ≤ 255) ∧ (n = 3 → v.toNat ≤ 128) ∧ (n = 12 → v.toNat % 2048 = 0) ∧
  (n = 13 → v.toNat % 65536 = 0) ∧ (n = 15 → v.toNat % 512 = 0) ∧ (n = 16 → v.toNat % 512 = 0) ∧
  (n = 17 → v.toNat % 2 = 0 ∧ v.toNat < 2 ^ 22)

/-- The trap of a value it does not take. -/
def registerTrap (n : Nat) (v : DWord) : Trap := if n = 12 ∨ n = 13 ∨ n = 15 then .atAddr .align v else .of .bounds

/-- The registers that no write changes, though privileged code may name them. -/
def ReadOnly (n : Nat) : Prop := n = 5 ∨ n = 6 ∨ n = 7 ∨ n = 9

/-- The value of a register that has no write outstanding. -/
def registerValue (l : Lane) : Nat → DWord
  | 0 => l.th.fpstat.zeroExtend 64
  | 1 => l.tm.seed.zeroExtend 64
  | 2 => l.tm.age.zeroExtend 64
  | 3 => l.tm.pwin.zeroExtend 64
  | 4 => l.th.seq.zeroExtend 64
  | 5 => BitVec.ofNat 64 l.th.lclass
  | 6 => BitVec.ofNat 64 l.tm.slot
  | 7 => l.s.devid.zeroExtend 64
  | 8 => l.th.trapPc
  | 9 => l.th.trapCause.zeroExtend 64
  | 10 => l.th.trapAddr
  | 11 => l.th.trapInfo
  | 12 => (l.s.space l.tm.fn).tvb
  | 13 => (l.s.space l.tm.fn).ptroot
  | 14 => (l.s.space l.tm.fn).ssb
  | 15 => (l.s.space l.tm.fn).sqbase
  | 16 => (l.s.space l.tm.fn).sqlen.zeroExtend 64
  | _ => l.s.snapmask.zeroExtend 64

/-! ## Memory (R201) -/

/-- The rows of the table whose effect may write bytes of memory: all others leave every byte as it was. -/
def mayWrite : Instr → Bool
  | .qpost .. | .ctxld .. | .operationComplete .. | .storePerform .. | .scratchpadLineArrival .. | .pannierSend ..
  | .copyComplete .. | .copyFault .. | .mmaCallEnd .. | .heldSumFlush .. | .attnStop .. | .kvOpComplete .. | .tapComplete ..
  | .csigWrite .. | .remoteWriteArrival .. | .remoteAccessArrival .. | .hostWriteArrival .. | .atomicopCompletion ..
  | .hostAtomicopArrival .. | .hostReset | .reset | .powerLoss => true
  | _ => false

/-! ## Encodings -/

/-- An instruction that a word encodes: every row but the steps of the device. -/
def hasWord (i : Instr) : Bool := !isDeviceStep i
end Sys2Proof.Machine
end

