-- ==== Sys2Proof/Certificates/Slice0/Obligations.lean ====
section
/-!
DEFINITION. The statements about the machine, for the provers.
-/

open Sys2Proof Sys2Proof.Machine

/-- Integer arithmetic, logic, compares, moves and constants: every member of a group that passes its checks gets the
manual's value in d with latency 4, or 6 for the wide compares; the wide forms write their 64-bit value to the pair d with
latency 6 (R68 to R75). -/
def Obligations.IntegerResults : Prop :=
  (∀ (i : Instr) (r : Fixed) (s : State) (ls : List Lane), integerResult i = some r → s.Ready (instrForm i) ls →
     exec i s = .next (s.completed ls r.done)) ∧
  (∀ (i : Instr) (r : Fixed2) (s : State) (ls : List Lane), wideResult i = some r → s.Ready (instrForm i) ls →
     exec i s = .next (s.completed ls r.done))

/-- Floating point: one rounding of the exact value, the minimum and maximum bit for bit, compares with a NaN unordered; the
special functions and random forms give each member a function of its own operand words alone (R146 to R152, R159 to R161).
The roundings of the special functions rest on log entry 43. -/
def Obligations.FloatResults : Prop :=
  (∀ (i : Instr) (r : Fixed) (s : State) (ls : List Lane), floatResult i = some r → s.Ready (instrForm i) ls →
     exec i s = .next (s.completed ls r.done)) ∧
  (∀ (i : Instr) (r : Fixed) (s : State) (ls : List Lane), specialResult i = some r → s.Ready (instrForm i) ls →
     exec i s = .next (s.completed ls r.done))

/-- The extended forms and the packing forms (R153, R157). -/
def Obligations.ExtendedResults : Prop :=
  (∀ (i : Instr) (r : Fixed2) (s : State) (ls : List Lane), extendedResult i = some r → s.Ready (instrForm i) ls →
    exec i s = .next (s.completed ls r.done)) ∧
  (∀ (i : Instr) (r : Fixed) (s : State) (ls : List Lane), packResult i = some r → s.Ready (instrForm i) ls →
    exec i s = .next (s.completed ls r.done))

/-- Conversions: `REQ` writes the requantised word and sets `SAT` where it clamped (R158); `CVT` writes its word with its
status, and under stochastic rounding the issue slot's state advances once for the whole group (R134, R156). -/
def Obligations.ConversionResults : Prop :=
  (∀ (i : Instr) (r : Stated) (s : State) (ls : List Lane), requantResult i = some r → s.Ready (instrForm i) ls →
    exec i s = .next (s.completed ls r.done)) ∧
  (∀ (d a c : BitVec 7) (t : BitVec 1) (r : BitVec 3) (s : State) (l : Lane) (ls : List Lane),
    s.Ready (instrForm (.cvt d a c t r)) (l :: ls) →
    let u := s.completed (l :: ls) (fun m => Stated.done
      { dst := d, value := fun m => ((cvt c t r m.rsLane (m.reg a)).1, (cvt c t r m.rsLane (m.reg a)).2.bits) } m)
    exec (.cvt d a c t r) s = .next (if r = 4#3 then
      u.modTeam s.cur.team (fun tm => { tm with rs := tm.rs.set s.curSlot l.rsWord }) else u))

/-- Cross-lane instructions: with one partition setting in the group, each member gets its word from the present lanes
of its tile (R22, R84 to R88, R164). -/
def Obligations.CrossLaneResults : Prop :=
  ∀ (i : Instr) (r : Fixed) (s : State) (ls : List Lane), crossResult ls i = some r → s.Ready (instrForm i) ls →
    OnePart ls → exec i s = .next (s.completed ls r.done)

/-- `SOFTMAX` over a tile: every member's word and status, and the first-NaN trap set up where it applies (R140, R162,
R163).
The first-NaN trap is read as log entry 44 says. -/
def Obligations.SoftmaxResult : Prop :=
  ∀ (d a b : BitVec 7) (s : State) (ls : List Lane), s.Ready (instrForm (.softmax d a b)) ls → OnePart ls →
    exec (.softmax d a b) s = .next (s.completed ls (softDone ls s.now d a b))

/-- When the members of a group hold different partition settings, a cross-lane instruction traps with `PARTMIX` in
every member, and has no effect in any (R23). -/
def Obligations.PartitionMix : Prop :=
  ∀ (i : Instr) (s : State) (ls : List Lane), crossesLanes i → s.Ready (instrForm i) ls → ¬OnePart ls →
    exec i s = .next (s.trapped ls (fun _ => .of .partmix))

/-- A branch moves the members in which its condition holds to slot 1 of the bundle disp18 bundles on; the others go on
at the next slot (R32, R65). -/
def Obligations.BranchTargets : Prop :=
  ∀ (i : Instr) (x : BitVec 18) (taken : Lane → Bool) (s : State) (ls : List Lane), branchOf i = some (x, taken) →
    s.Ready (instrForm i) ls → exec i s = .next (s.completed ls (branchDone x taken))

/-- `JMP`, `RET` and `CALLR` go to the address in a pair, and `CALLR` writes the link; `CALL` branches and writes the
link; an address that is not a multiple of 4 traps with `ALIGN` at the branch, in the members that have one and in no other
(R32, R33, R61, R65, R67). -/
def Obligations.JumpsAndCalls : Prop :=
  (∀ (i : Instr) (a : BitVec 7) (d : Option (BitVec 7)) (s : State) (ls : List Lane), jumpOf i = some (a, d) →
    s.Ready (instrForm i) ls →
    ((∀ l ∈ ls, (l.pair a).toNat % 4 = 0) → exec i s = .next (s.completed ls (jumpDone a d))) ∧
    ((∀ l ∈ ls, (l.pair a).toNat % 4 ≠ 0) → exec i s = .next (s.trapped ls (fun l => .atAddr .align (l.pair a)))) ∧
    exec i s = .next (s.mixed ls (jumpDone a d) (fun l =>
      if (l.pair a).toNat % 4 = 0 then none else some (.atAddr .align (l.pair a))))) ∧
  (∀ (a : BitVec 7) (x : BitVec 18) (s : State) (ls : List Lane), s.Ready (instrForm (.call a x)) ls →
    exec (.call a x) s = .next (s.completed ls (fun l =>
      { branchDone x (fun _ => true) l with writes := l.wr2 a l.link, lat := 6 })))

/-- `NOP` only passes on, and after `YIELD` the group counts as one that became ready in its cycle; `EXIT` parks its
threads, each leaving its join registers once the threads that trapped in a place before its own have left theirs;
`REFORM` and `REFORM.B` file the threads that are not in `TRAPPED`, for the core's bins or for their home blocks'
collectors (R10, R11, R14, R17, R24, R63). Where `EXIT` stands is read as log entry 40 says. -/
def Obligations.MiscEffects : Prop :=
  ∀ (s : State) (ls : List Lane),
    (s.Ready (instrForm .nop) ls → exec .nop s = .next (s.completed ls (fun _ => {}))) ∧
    (s.Ready (instrForm .yield) ls → exec .yield s = .next ((s.completed ls (fun _ => {})).modTeam s.cur.team (fun t =>
      { t with groups := t.groups.map (fun g =>
          if ∃ l ∈ ls, l.th.idx ∈ g.members then { g with since := some s.now } else g) }))) ∧
    (s.Ready (instrForm .exit) ls → exec .exit s = .next ((sortBy id (ls.map (fun l => l.th.idx))).foldl
      (fun s j => ((s.leaveBefore s.cur.team j).withdraw s.cur.team j).exitCheck s.cur.team j)
      (s.completed ls (fun _ => { stay := true, upd := fun t => { t with st := .parked, left := t.st, why := .exit } })))) ∧
    (s.Ready (instrForm .reform) ls →
      let u := s.completed ls (fun l => { upd := if l.th.st = .trapped then id else fun t => { t with st := .filed, why := .none } })
      exec .reform s = .next { u with reforms :=
        u.reforms ++ (ls.filter (fun l => l.th.st ≠ .trapped)).map (fun l => (u.cur.team, l.th.idx)) }) ∧
    (s.Ready (instrForm .reformB) ls → exec .reformB s = .next
      ((sortBy id ((ls.filter (fun l => l.th.st ≠ .trapped)).map (fun l => blockOf l.th.idx)).eraseDups).foldl
        (fun s b => s.collectorCheck s.cur.team b)
        (s.completed ls (fun l =>
          { upd := if l.th.st = .trapped then id else fun t => { t with st := .filed, why := .collector } }))))

/-- `BKPT` and `TRAP` trap in every member: with `BKPT`, and with `SWTRAP` and the code in `TRAPINFO`. `RETT` in
`TRAPPED`, once the thread's `SETS` have taken effect, returns to `ACTIVE` at `TRAPPC`; a `TRAPPC` that is not a
multiple of 4 traps with `ALIGN` (R63, R324, R338, R339). -/
def Obligations.TrapInstructions : Prop :=
  (∀ (s : State) (ls : List Lane),
     (s.Ready (instrForm .bkpt) ls → exec .bkpt s = .next (s.trapped ls (fun _ => { cause := .bkpt, addr := 0, info := 0 }))) ∧
     (∀ c : BitVec 7, s.Ready (instrForm (.trap c)) ls → exec (.trap c) s =
       .next (s.trapped ls (fun _ => { cause := .swtrap, addr := 0, info := BitVec.ofNat 64 c.toNat })))) ∧
  (∀ (s : State) (ls : List Lane), s.Ready (instrForm .rett) ls → Priv ls →
     (∀ l ∈ ls, l.s.sregPending l.s.cur.team l.th.idx = false) →
     ((∀ l ∈ ls, l.th.trapPc.toNat % 4 = 0) → exec .rett s = .next (s.completed ls (fun _ =>
       { upd := fun t => { t with st := .active, pc := enterPc t.trapPc, sword := none, waited := false } }))) ∧
     ((∀ l ∈ ls, l.th.trapPc.toNat % 4 ≠ 0) → exec .rett s = .next (s.trapped ls (fun l => .atAddr .align l.th.trapPc))))

/-- `WIN` and `PART` set the window base and the partition setting with latency 4; `PRIO` sets the thread's own class,
and a class above the launch packet's traps with `PRIV`; `SLEEP` puts the thread into `SLEEPING`; `WAITF` translates its
address as a load of one byte and sleeps on that byte's line until its timeout, or traps with the cause and the address
(R76 to R80). -/
def Obligations.ThreadSettings : Prop :=
  (∀ (x : BitVec 18) (s : State) (ls : List Lane),
     (s.Ready (instrForm (.win x)) ls → exec (.win x) s = .next (s.completed ls (fun _ => { writes := [.win x.toNat], lat := 4 }))) ∧
     (s.Ready (instrForm (.part x)) ls → exec (.part x) s = .next (s.completed ls (fun _ => { writes := [.part x.toNat], lat := 4 }))) ∧
     (s.Ready (instrForm (.prio x)) ls → (∀ l ∈ ls, x.toNat ≤ l.th.lclass) →
       exec (.prio x) s = .next (s.completed ls (fun _ => { upd := fun t => { t with cls := x.toNat } }))) ∧
     (s.Ready (instrForm (.prio x)) ls → (∀ l ∈ ls, l.th.lclass < x.toNat) →
       exec (.prio x) s = .next (s.trapped ls (fun _ => .of .priv))) ∧
     (s.Ready (instrForm (.sleep x)) ls → exec (.sleep x) s = .next (s.completed ls (fun _ =>
       { upd := fun t => { t with st := .sleeping, left := t.st, why := .sleep (if x = 0 then 1 else x.toNat) (decide (x = 0)) } })))) ∧
  (∀ (d : BitVec 7) (x : BitVec 18) (s : State) (ls : List Lane), s.Ready (instrForm (.waitf d x)) ls →
     (∀ key : Lane → Nat, (∀ l ∈ ls, ∃ p, l.s.translate l.who .load (l.pair d) 1 = .ok (key l, p)) →
       exec (.waitf d x) s = .next (s.completed ls (fun l =>
         { upd := fun t => { t with st := .sleeping, left := t.st, why := .waitf (l.s.now + x.toNat) (key l / 128) none } }))) ∧
     (∀ c : Lane → Cause, (∀ l ∈ ls, l.s.translate l.who .load (l.pair d) 1 = .error (c l)) →
       exec (.waitf d x) s = .next (s.trapped ls (fun l => .atAddr (c l) (l.pair d)))))

/-- The checks at issue. A word that is not well formed, or that names `lit` with no data slot after it, traps with
`ILLOP`, then registers outside the allocation with `REGRANGE`, then a poisoned source with `MCHK`, before anything the
instruction itself checks. Outside `TRAPPED`, an instruction of the system class traps with `PRIV` and does nothing
else, and so does a read or a write of a special register that user code may not make (R42, R48, R62, R327, R334, R336,
R337). The order of further checks is read as log entry 65 says. -/
def Obligations.ChecksAtIssue : Prop :=
  (∀ (l : Lane) (fm : Form),
    let noLit := fm.namesLit = true ∧ l.s.cur.lit = .none
    (fm.ok = false ∨ noLit → l.check fm = some (.of .illop)) ∧
    (fm.ok = true → ¬noLit → (∃ u ∈ fm.uses, l.outside u = true) → l.check fm = some (.of .regrange)) ∧
    (fm.ok = true → ¬noLit → (∀ u ∈ fm.uses, l.outside u = false) → (∃ u ∈ fm.uses, l.poisonedUse u = true) →
      l.check fm = some (.of .mchk)) ∧
    (fm.ok = true → ¬noLit → (∀ u ∈ fm.uses, l.outside u = false ∧ l.poisonedUse u = false) → l.check fm = none)) ∧
  (∀ (i : Instr) (s : State) (tm : Team) (ls : List Lane) (t : Lane → Trap), actsAlone i = true → s.issuer = some (tm, ls) →
    (∀ l ∈ ls, l.check (formOf i) = some (t l)) → exec i s = .next (s.trapped ls t)) ∧
  (∀ (i : Instr) (s : State) (l : Lane) (t : Trap), actsInTurn i = true → actsInPlace i = false → s.Single l →
    l.check (formOf i) = some t → exec i s = .next (s.actedTrap l t)) ∧
  (∀ (i : Instr) (s : State) (l m : Lane) (t : Trap), actsInPlace i = true → s.Placed l m →
    l.check (formOf i) = some t → m.check (formOf i) = some t → exec i s = .next (s.actedTrap m t)) ∧
  (∀ (i : Instr) (fm : Form) (s : State) (ls : List Lane), privilegedForm i = some fm → s.Ready fm ls →
    (∀ l ∈ ls, l.th.st ≠ .trapped) → exec i s = .next (s.trapped ls (fun _ => .of .priv))) ∧
  (∀ (a b : BitVec 7) (s : State) (ls : List Lane), s.Ready (pairWordForm a b) ls →
    (∀ l ∈ ls, l.th.st ≠ .trapped ∧ tlbWordOk (l.reg b) = true) →
    exec (.tlbinv a b) s = .next (s.trapped ls (fun _ => .of .priv))) ∧
  (∀ (d n : BitVec 7) (s : State) (ls : List Lane), s.Ready (instrForm (.gets d n)) ls →
    (∀ l ∈ ls, l.th.st ≠ .trapped) → ¬(n.toNat ≤ 7 ∨ n.toNat = 14) →
    exec (.gets d n) s = .next (s.trapped ls (fun _ => .of .priv))) ∧
  (∀ (a n : BitVec 7) (s : State) (ls : List Lane), s.Ready (instrForm (.sets a n)) ls →
    (∀ l ∈ ls, l.th.st ≠ .trapped) → 3 < n.toNat →
    exec (.sets a n) s = .next (s.trapped ls (fun _ => .of .priv)))


/-- `JDECL`: an idle register opens with set size N and this thread enrolled; an open one of the same N enrols a thread
that has not enrolled in the round while fewer than N have; on a busy or draining one the thread parks at the
instruction. Any other case, an N outside 1 to 8,192 and a register beyond the reservation trap with `JOINBAD`. Each
thread acts in its place: `m` is the thread after those that trapped in a place before it in the cycle have left their
registers (R24, R82). That a parked thread issues the `JDECL` again is read as log entry 41 says. -/
def Obligations.JoinDeclares : Prop :=
  ∀ (j a : BitVec 7) (s : State) (l m : Lane), s.InTurn (instrForm (.jdecl j a)) l m →
    let n := (m.reg a).toNat
    let me := (m.s.cur.team, m.th.idx)
    let enrolled : Done := { upd := fun t => { t with joinMask := t.joinMask ||| (1#64 <<< j.toNat) } }
    (m.s.join? m.tm.hubset j.toNat = none ∨ n < 1 ∨ 8192 < n →
      exec (.jdecl j a) s = .next (s.actedTrap m (.of .joinbad))) ∧
    (∀ jn, m.s.join? m.tm.hubset j.toNat = some jn → 1 ≤ n → n ≤ 8192 →
      (jn.st = .idle → exec (.jdecl j a) s = .next (s.acted m enrolled (fun s => s.modJoin m.tm.hubset j.toNat (fun _ =>
        { st := .opened, n := n, enrolled := [me], unsigned := [me], signs := [], wd := 0, kind := none })))) ∧
      (jn.st = .opened → n = jn.n → me ∉ jn.enrolled → jn.enrolled.length ≠ n →
        exec (.jdecl j a) s = .next (s.acted m enrolled (fun s => s.modJoin m.tm.hubset j.toNat (fun jn =>
          { jn with enrolled := jn.enrolled ++ [me], unsigned := jn.unsigned ++ [me] })))) ∧
      (jn.st = .opened → n ≠ jn.n ∨ me ∈ jn.enrolled ∨ jn.enrolled.length = n →
        exec (.jdecl j a) s = .next (s.actedTrap m (.of .joinbad))) ∧
      (jn.st = .busy ∨ jn.st = .drain → exec (.jdecl j a) s = .next (s.acted m
        { stay := true, upd := fun t => { t with st := .parked, left := t.st, why := .jdecl j.toNat } } id)))

/-- `JSIGN` and `JLEAVE` by an enrolled, unsigned thread, once for `JSIGN` its earlier accesses are in place: in an open
register a signature is counted and its thread parks, or a withdrawal is counted; a draining register takes the thread
out, and is idle once no enrolled thread is unsigned. Any other thread, a register of kind `MMA` and a register beyond
the reservation trap with `JOINBAD`; each acts in its place, as `JDECL` does. `JCANCEL` cancels the round of an open
register or of one whose call has not been granted: the register drains, or is idle where every enrolled thread has
signed. `JSTAT` answers the word of R25 with latency 8 (R24, R25, R82). `JCANCEL` is read as log entry 59 says. -/
def Obligations.JoinOperations : Prop :=
  (∀ (j : BitVec 7) (s : State) (l m : Lane),
     let me := (m.s.cur.team, m.th.idx)
     (s.InTurn (instrForm (.jsign j)) l m → l.quiet = true →
       (∀ jn, m.s.join? m.tm.hubset j.toNat = some jn → me ∈ jn.unsigned →
         (jn.st = .opened → (∀ dp d, jn.kind ≠ some (.mma dp d)) → ∃ g : Sign, g.team = m.s.cur.team ∧ g.thr = m.th.idx ∧
           exec (.jsign j) s = .next (s.acted m
             { upd := fun t => { t with joinMask := t.joinMask &&& ~~~(1#64 <<< j.toNat), st := .parked, left := t.st,
                                        why := .jsign j.toNat } }
             (fun s => (s.modJoin m.tm.hubset j.toNat (fun jn =>
               { jn with signs := jn.signs ++ [g], unsigned := jn.unsigned.filter (fun e => e ≠ me), kind := some .jsign })).joinCheck
               m.tm.hubset j.toNat))) ∧
         (jn.st = .drain → exec (.jsign j) s = .next (s.acted m {} (fun s => s.leaveJoin s.cur.team m.th.idx m.tm.hubset j.toNat))) ∧
         (jn.st = .opened → (∃ dp d, jn.kind = some (.mma dp d)) → exec (.jsign j) s = .next (s.actedTrap m (.of .joinbad)))) ∧
       ((∀ jn, m.s.join? m.tm.hubset j.toNat = some jn → me ∉ jn.unsigned) →
         exec (.jsign j) s = .next (s.actedTrap m (.of .joinbad)))) ∧
     (s.InTurn (instrForm (.jleave j)) l m →
       ((∃ jn, m.s.join? m.tm.hubset j.toNat = some jn ∧ me ∈ jn.unsigned) →
         exec (.jleave j) s = .next (s.acted m {} (fun s => s.leaveJoin s.cur.team m.th.idx m.tm.hubset j.toNat))) ∧
       ((∀ jn, m.s.join? m.tm.hubset j.toNat = some jn → me ∉ jn.unsigned) →
         exec (.jleave j) s = .next (s.actedTrap m (.of .joinbad))))) ∧
  ((∀ (j : BitVec 7) (s : State) (l m : Lane), s.InTurn (instrForm (.jcancel j)) l m →
     (m.s.join? m.tm.hubset j.toNat = none → exec (.jcancel j) s = .next (s.actedTrap m (.of .joinbad))) ∧
     (∀ jn, m.s.join? m.tm.hubset j.toNat = some jn →
       (jn.st = .opened ∨ jn.st = .busy → exec (.jcancel j) s =
         .next (s.acted m {} (fun s => s.cancelJoin m.tm.hubset j.toNat))) ∧
       (jn.st = .idle ∨ jn.st = .drain → exec (.jcancel j) s = .next (s.acted m {} id)))) ∧
   (∀ (d j : BitVec 7) (s : State) (ls : List Lane), s.Ready (instrForm (.jstat d j)) ls →
     ((∀ l ∈ ls, l.s.join? l.tm.hubset j.toNat = none) →
       exec (.jstat d j) s = .next (s.trapped ls (fun _ => .of .joinbad))) ∧
     (∀ jn : Lane → Join, (∀ l ∈ ls, l.s.join? l.tm.hubset j.toNat = some (jn l)) →
       exec (.jstat d j) s = .next (s.completed ls (fun l =>
         { writes := l.wr d (joinStatus (jn l) ((jn l).unsigned.contains (l.s.cur.team, l.th.idx)) (Tab.get l.th.mine j.toNat .none))
           lat := 8 }))))) ∧
  (∀ (s : State) (k t h n : Nat) (jn : Join), s.join? h n = some jn →
    let idle : Join := { st := .idle, n := 0, enrolled := [], unsigned := [], signs := [], wd := 0, kind := none }
    let rest := jn.unsigned.filter (fun e => e ≠ (k, t))
    ((k, t) ∈ jn.unsigned → jn.st = .drain →
      (s.leaveJoin k t h n).join? h n = some (if rest = [] then idle else { jn with unsigned := rest })) ∧
    ((k, t) ∈ jn.unsigned → jn.st = .opened →
      s.leaveJoin k t h n = ((s.modThread k t (fun th =>
        { th with mine := Tab.put th.mine n .withdrawn .none, joinMask := th.joinMask &&& ~~~(1#64 <<< n) })).modJoin h n
          (fun jn => { jn with unsigned := rest, wd := jn.wd + 1 })).joinCheck h n ∧
      (jn.signs.length + jn.wd + 1 ≠ jn.n →
        (s.leaveJoin k t h n).join? h n = some { jn with unsigned := rest, wd := jn.wd + 1 })) ∧
    (jn.st = .opened ∨ jn.st = .busy → (∀ g ∈ jn.signs, ∀ o, s.op? g.op = some o → ∀ th, s.thread? o.team o.thr = some th → th.held = []) →
      (s.cancelJoin h n).join? h n =
      some (if jn.unsigned = [] then idle else { jn with st := .drain, kind := none })))

/-- When an open register's signatures and withdrawals reach N: its `JSIGN` signers are released with outcome `DONE` and
it is idle again; an `MMA` call enters the reservation table and the register is busy; with no signature nothing is
issued. Else nothing happens. An idle register holds nothing (R24). -/
def Obligations.JoinCompletes : Prop :=
  ∀ (s : State) (h n : Nat) (jn : Join), s.join? h n = some jn →
    (¬(jn.st = .opened ∧ jn.signs.length + jn.wd = jn.n) → s.joinCheck h n = s) ∧
    (jn.st = .opened → jn.signs.length + jn.wd = jn.n →
      ((∀ dp d, jn.kind ≠ some (.mma dp d)) →
        s.joinCheck h n = (s.releaseSigners n jn.signs .done).joinIdle h n) ∧
      (∀ dp d, jn.kind = some (.mma dp d) → jn.signs = [] → s.joinCheck h n = s.joinIdle h n) ∧
      (∀ dp d, jn.kind = some (.mma dp d) → jn.signs ≠ [] →
        ∀ hs, s.hubsets[h]? = some hs → ∃ c : MxCall, c.signers = jn.signs ∧ c.join = some (h, n) ∧ c.desc = d ∧
          s.joinCheck h n = ({ s.setEngine hs.hub { s.engine hs.hub with table := (s.engine hs.hub).table ++ [c] } with
            nextId := s.nextId + 1 } : State).modJoin h n (fun jn => { jn with st := .busy }))) ∧
    (s.joinIdle h n).join? h n =
      some { st := .idle, n := 0, enrolled := [], unsigned := [], signs := [], wd := 0, kind := none }

/-- `.INIT` sets an object's mode and clears its counts, `.EXPECT` adds expected bytes and checks, `.WAIT` parks the
thread at the phase its register names and passes any other, `.PHASE` reads it with latency 8; a number beyond the
team's objects traps with `BOUNDS`. `.ARRIVE` and `.SYNC` count one arrival: in the current phase while ARR is less than
E, else in the next while ARRN is, else they trap with `BOUNDS`; `.SYNC` then waits for the phase of its arrival (R96 to
R99). -/
def Obligations.BarrierOperations : Prop :=
  (∀ (a b : BitVec 7) (s : State) (l : Lane),
     let o := (l.reg a).toNat
     (s.Alone (instrForm (.barInit a b)) l →
       (l.tm.bars.length ≤ o ∨ 1024 < (l.reg b).toNat → exec (.barInit a b) s = .next (s.actedTrap l (.of .bounds))) ∧
       (o < l.tm.bars.length → (l.reg b).toNat ≤ 1024 → exec (.barInit a b) s = .next (s.acted l {} (fun s =>
         s.modTeam s.cur.team (Team.modBar o (fun bar =>
           { bar with count := if l.reg b = 0 then none else some (l.reg b).toNat, arr := [], arrn := [], p := 0 })))))) ∧
     (s.Alone (instrForm (.barExpect a b)) l →
       (l.tm.bars.length ≤ o → exec (.barExpect a b) s = .next (s.actedTrap l (.of .bounds))) ∧
       (o < l.tm.bars.length → exec (.barExpect a b) s = .next (s.acted l {} (fun s =>
         (s.modTeam s.cur.team (Team.modBar o (fun bar => { bar with p := bar.p + l.reg b }))).barCheck 2 s.cur.team o)))) ∧
     (s.Alone (instrForm (.barWait a b)) l →
       (l.tm.bars.length ≤ o → exec (.barWait a b) s = .next (s.actedTrap l (.of .bounds))) ∧
       (∀ bar, l.tm.bars[o]? = some bar →
         (bar.phase = l.reg b → exec (.barWait a b) s = .next (s.acted l
           { upd := fun t => { t with st := .parked, left := t.st, why := .barWait o bar.phase } } id)) ∧
         (bar.phase ≠ l.reg b → exec (.barWait a b) s = .next (s.acted l {} (fun s => s.waitAcquire s.cur.team o))))) ∧
     (∀ (d : BitVec 7) (ls : List Lane), s.Ready (instrForm (.barPhase d a)) ls →
       ((∀ l ∈ ls, l.tm.bars.length ≤ (l.reg a).toNat) → exec (.barPhase d a) s = .next (s.trapped ls (fun _ => .of .bounds))) ∧
       (∀ bar : Lane → Barrier, (∀ l ∈ ls, l.tm.bars[(l.reg a).toNat]? = some (bar l)) →
         exec (.barPhase d a) s = .next (s.completed ls (fun l => { writes := l.wr d (bar l).phase, lat := 8 }))))) ∧
  (∀ (a : BitVec 7) (s : State) (l : Lane) (bar : Barrier),
     let o := (l.reg a).toNat
     let now := bar.arr.length < l.tm.expected bar
     let ahead := ¬now ∧ bar.arrn.length < l.tm.expected bar
     let counted (f : Barrier → Barrier) (s : State) : State := (s.modTeam s.cur.team (Team.modBar o f)).barCheck 2 s.cur.team o
     let first := counted (fun bar => { bar with arr := bar.arr ++ [l.th.idx] })
     let second := counted (fun bar => { bar with arrn := bar.arrn ++ [l.th.idx] })
     l.tm.bars[o]? = some bar → l.quiet = true →
     (s.Alone (instrForm (.barArrive a)) l →
       (now → exec (.barArrive a) s = .next (s.acted l {} first)) ∧
       (ahead → exec (.barArrive a) s = .next (s.acted l {} second)) ∧
       (¬now → ¬ahead → exec (.barArrive a) s = .next (s.actedTrap l (.of .bounds)))) ∧
     (s.Alone (instrForm (.barSync a)) l →
       (now → exec (.barSync a) s = .next (s.acted l
         { upd := fun t => { t with st := .parked, left := t.st, why := .barSync o bar.phase } } first)) ∧
       (ahead → exec (.barSync a) s = .next (s.acted l
         { upd := fun t => { t with st := .parked, left := t.st, why := .barSync o (bar.phase + 1) } } second)) ∧
       (¬now → ¬ahead → exec (.barSync a) s = .next (s.actedTrap l (.of .bounds))))) ∧
  (∀ (i : Instr) (a : BitVec 7) (s : State) (l : Lane), i = .barArrive a ∨ i = .barSync a → s.Alone (instrForm i) l →
     l.quiet = true → l.tm.bars.length ≤ (l.reg a).toNat → exec i s = .next (s.actedTrap l (.of .bounds)))

/-- `.INVAL` advances the phase, clears the counts and releases the threads that wait for the old phase; a number beyond the
team's objects traps with `BOUNDS`. The check of a phase: while ARR is E and P is 0 the phase advances, the arrivals counted
ahead are those of the new phase, and the waiters of the old phase wake (R96, R97).
That no phase completes where E is 0 is the model's choice (log entry 74). -/
def Obligations.BarrierPhases : Prop :=
  (∀ (a : BitVec 7) (s : State) (l : Lane) (bar : Barrier), s.Alone (instrForm (.barInval a)) l →
    l.tm.bars[(l.reg a).toNat]? = some bar →
    exec (.barInval a) s = .next (s.acted l {} (fun s =>
      let u := s.modTeam s.cur.team (Team.modBar (l.reg a).toNat (fun bar =>
        { bar with phase := bar.phase + 1, arr := [], arrn := [], p := 0, engDone := bar.engDone || bar.engPend, engPend := false }))
      match u.teams[s.cur.team]? with
      | none => u
      | some t => u.release s.cur.team (t.waiting (fun _ th =>
          th.why = .barWait (l.reg a).toNat bar.phase || th.why = .barSync (l.reg a).toNat bar.phase))))) ∧
  (∀ (a : BitVec 7) (s : State) (l : Lane), s.Alone (instrForm (.barInval a)) l → l.tm.bars.length ≤ (l.reg a).toNat →
    exec (.barInval a) s = .next (s.actedTrap l (.of .bounds))) ∧
  (∀ (s : State) (k o n : Nat) (t : Team) (bar : Barrier), s.teams[k]? = some t → t.bars[o]? = some bar →
    (¬(t.expected bar ≠ 0 ∧ bar.arr.length = t.expected bar ∧ bar.p = 0) → s.barCheck (n + 1) k o = s) ∧
    (t.expected bar ≠ 0 → bar.arr.length = t.expected bar → bar.p = 0 → s.barCheck (n + 1) k o =
      ((s.modTeam k (Team.modBar o (fun bar =>
        { bar with phase := bar.phase + 1, arr := bar.arrn, arrn := [], engDone := bar.engDone || bar.engPend,
                   engPend := false }))).wakeBar k o bar.phase).barCheck n k o))

/-- A local load, a local store or `ATL` whose address names a place completes with room on its flag: its entry in the
store queue takes the place, and its flag counts. On an absent line the thread parks at the instruction until the line
is present; a place refused traps with the address (R89, R91 to R93). That a parked thread issues its access again is
read as log entry 41 says. -/
def Obligations.LocalAccesses : Prop :=
  ∀ (i : Instr) (g : LocalForm) (s : State) (ls : List Lane), localForm i = some g → s.Ready (instrForm i) ls →
    (∀ loc : Lane → LocalLoc, (∀ l ∈ ls, l.localAt (g.addr l) g.size = .ok (loc l) ∧ l.s.absentLine (loc l) = none) →
      NoAcquire ls → Room g.flag.toNat ls → exec i s = .next (s.completed ls (fun l => g.effect l (loc l)))) ∧
    (∀ (loc : Lane → LocalLoc) (at' : Lane → Nat × Nat),
      (∀ l ∈ ls, l.localAt (g.addr l) g.size = .ok (loc l) ∧ l.s.absentLine (loc l) = some (at' l)) →
      exec i s = .next (s.completed ls (fun l =>
        { stay := true, upd := fun t => { t with st := .parked, left := t.st, why := .line (at' l).1 (at' l).2 } }))) ∧
    (∀ t : Lane → Trap, (∀ l ∈ ls, l.localAt (g.addr l) g.size = .error (t l)) → exec i s = .next (s.trapped ls t))

/-- The checks of a local address: a rank without a team, or another rank in register space, is `RANKBAD`; a misaligned
one `ALIGN`; bits above bit 23, an end beyond the team's scratchpad, or a register beyond the team's threads and their
allocations `SPADBOUND`; else the place is a byte of the scratchpad or of a register (R89, R90). -/
def Obligations.LocalPlaces : Prop :=
  ∀ (l : Lane) (addr : Word) (size : Nat),
    let at' (c : Cause) : Trap := .atAddr c (addr.zeroExtend 64)
    let rank := fieldOf' addr 21 2
    let off := fieldOf' addr 0 21
    let thread := fieldOf' addr 10 10
    let reg := fieldOf' addr 2 8
    (fieldOf' addr 23 1 = 0 →
      (l.rankTeam rank = none → l.localAt addr size = .error (at' .rankbad)) ∧
      (∀ (k : Nat) (t : Team), l.rankTeam rank = some k → l.s.teams[k]? = some t →
        (addr.toNat % size ≠ 0 → l.localAt addr size = .error (at' .align)) ∧
        (addr.toNat % size = 0 → 2 ^ 24 ≤ addr.toNat ∨ t.spadBytes < off + size → l.localAt addr size = .error (at' .spadbound)) ∧
        (addr.toNat % size = 0 → addr.toNat < 2 ^ 24 → off + size ≤ t.spadBytes → l.localAt addr size = .ok (.spad k off)))) ∧
    (fieldOf' addr 23 1 = 1 →
      (rank ≠ rankOf l.tm.core → l.localAt addr size = .error (at' .rankbad)) ∧
      (rank = rankOf l.tm.core →
        (addr.toNat % size ≠ 0 → l.localAt addr size = .error (at' .align)) ∧
        (addr.toNat % size = 0 → 2 ^ 24 ≤ addr.toNat ∨ fieldOf' addr 20 1 = 1 ∨ l.tm.threads.length ≤ thread →
          l.localAt addr size = .error (at' .spadbound)) ∧
        (∀ th, addr.toNat % size = 0 → addr.toNat < 2 ^ 24 → fieldOf' addr 20 1 = 0 → l.tm.threads[thread]? = some th →
          (th.regs.length ≤ reg → l.localAt addr size = .error (at' .spadbound)) ∧
          (reg < th.regs.length → l.localAt addr size = .ok (.reg l.s.cur.team thread reg (off % 4))))))

/-- A generic load or store, an acquire load, a release store, an atomic, `CAS` or `VERR` whose lanes reach pages that take
it completes with room on its flag: what it leaves in flight is its operation and its store-queue entry (R166, R168, R209 to
R216). -/
def Obligations.GlobalAccesses : Prop :=
  ∀ (i : Instr) (g : GlobalForm) (s : State) (ls : List Lane) (key : Lane → Nat) (leaf : Lane → Leaf),
    globalForm i = some g → s.Ready (instrForm i) ls → NoAcquire ls → Room g.flag.toNat ls →
    (∀ l ∈ ls, l.Reaches g (key l) (leaf l) ∧ g.takes (key l) (leaf l) = true) →
    exec i s = .next (s.completed ls (fun l => g.effect l (key l) (leaf l)))

/-- The traps of such an access, each with its address: `ALIGN` before translation, then the cause that translation meets,
then `PROT` or `FMTBAD` where the page does not take it; the members that reach their addresses complete (R61, R62, R166,
R209, R212, R214). -/
def Obligations.AccessTraps : Prop :=
  ∀ (i : Instr) (g : GlobalForm) (s : State) (ls : List Lane), globalForm i = some g → s.Ready (instrForm i) ls →
    ((∀ l ∈ ls, (g.addr l).toNat % g.size ≠ 0) → exec i s = .next (s.trapped ls (fun l => .atAddr .align (g.addr l)))) ∧
    (∀ c : Lane → Cause, (∀ l ∈ ls, (g.addr l).toNat % g.size = 0 ∧
        l.s.translate l.who g.kind (g.addr l) g.size = .error (c l)) →
      exec i s = .next (s.trapped ls (fun l => .atAddr (c l) (g.addr l)))) ∧
    (∀ (key : Lane → Nat) (leaf : Lane → Leaf), (∀ l ∈ ls, l.Reaches g (key l) (leaf l) ∧ g.takes (key l) (leaf l) = false) →
      NoAcquire ls → exec i s = .next (s.trapped ls (fun l => .atAddr (g.refuse (key l) (leaf l)) (g.addr l)))) ∧
    (∀ (key : Lane → Nat) (leaf : Lane → Leaf) (t : Lane → Option Trap), NoAcquire ls → Room g.flag.toNat ls →
      (∀ l ∈ ls,
        (t l = none ∧ l.Reaches g (key l) (leaf l) ∧ g.takes (key l) (leaf l) = true) ∨
        ((g.addr l).toNat % g.size ≠ 0 ∧ t l = some (.atAddr .align (g.addr l))) ∨
        ((g.addr l).toNat % g.size = 0 ∧ ∃ c, l.s.translate l.who g.kind (g.addr l) g.size = .error c ∧
          t l = some (.atAddr c (g.addr l)))) →
      exec i s = .next (s.mixed ls (fun l => g.effect l (key l) (leaf l)) t))

/-- `LDVS`: a versioned load of an aligned address on a page of the device's own or of another device, its line in the
thread's validation set or the set not full: a read in flight, and the line entered for the version the read will
record. A misaligned address traps with `ALIGN`, then what translation meets, then a host page with `PROT`, and a full
set with `VSETFULL` (R62, R207). -/
def Obligations.VersionedLoads : Prop :=
  ∀ (i : Instr) (size : Nat) (d a o : BitVec 7) (f : BitVec 4) (s : State) (ls : List Lane) (key : Lane → Nat) (leaf : Lane → Leaf),
    versionedForm i = some (size, d, a, o, f) → s.Ready (instrForm i) ls →
    ((∀ l ∈ ls, (l.offsetAddr a o size).toNat % size ≠ 0) →
      exec i s = .next (s.trapped ls (fun l => .atAddr .align (l.offsetAddr a o size)))) ∧
    (∀ c : Lane → Cause, (∀ l ∈ ls, (l.offsetAddr a o size).toNat % size = 0 ∧
        l.s.translate l.who .load (l.offsetAddr a o size) size = .error (c l)) →
      exec i s = .next (s.trapped ls (fun l => .atAddr (c l) (l.offsetAddr a o size)))) ∧
    (NoAcquire ls → (∀ l ∈ ls, (l.offsetAddr a o size).toNat % size = 0 ∧
      l.s.translate l.who .load (l.offsetAddr a o size) size = .ok (key l, leaf l)) →
    ((∀ l ∈ ls, keyHost (key l) = false ∧
        ((∃ e ∈ l.th.vset, e.line = key l / 128) ∨ l.th.vset.length < 16)) → Room f.toNat ls →
      exec i s = .next (ls.foldl
        (fun u l => u.modThread u.cur.team l.th.idx (fun t =>
          if t.vset.any (fun e => e.line = key l / 128) then t
          else { t with vset := t.vset ++ [{ line := key l / 128, src := u.opOfLane l, version := none }] }))
        (s.completed ls (fun l => { flag := f.toNat, dst := l.dsts d (size / 4)
                                    op := some (.ldvs (key l) size (l.offsetAddr a o size)) })))) ∧
    ((∀ l ∈ ls, keyHost (key l) = false ∧ (∀ e ∈ l.th.vset, e.line ≠ key l / 128) ∧ 16 ≤ l.th.vset.length) →
      exec i s = .next (s.trapped ls (fun _ => .of .vsetfull))) ∧
    ((∀ l ∈ ls, keyHost (key l) = true) → exec i s = .next (s.trapped ls (fun l => .atAddr .prot (l.offsetAddr a o size)))))

/-- `VALID` checks the set as it stands at issue, and empties it where its immediate is 0; `CASV` leaves the compare of the
line version with its pair, fused with the generation at byte 0 of a sequence record, and refuses byte 4 with `PROT` (R208,
R210, R225), as it does a host page; a misaligned address traps with `ALIGN`, then what translation meets (R62).
Byte 4 of a record is read as log entry 37 says. -/
def Obligations.ValidationAndVersionSwap : Prop :=
  (∀ (d k : BitVec 7) (f : BitVec 4) (s : State) (ls : List Lane), s.Ready (instrForm (.valid d k f)) ls → NoAcquire ls →
    Room f.toNat ls → exec (.valid d k f) s = .next (s.completed ls (fun l =>
      { flag := f.toNat, dst := l.dsts d 1, op := some (.valid l.th.vset l.th.stale)
        upd := fun t => if k = 0 then { t with vset := [], stale := false } else t }))) ∧
  (∀ (d a b : BitVec 7) (f : BitVec 4) (s : State) (ls : List Lane), s.Ready (instrForm (.casv d a b f)) ls →
    let fused (l : Lane) : Prop := l.s.recordByte l.tm.fn (l.pair a) = some 0
    (∀ (key : Lane → Nat) (leaf : Lane → Leaf), NoAcquire ls → Room f.toNat ls →
      (∀ l ∈ ls, (l.pair a).toNat % 4 = 0 ∧
        l.s.translateFor l.who .atomic (l.pair a) 4 (decide (l.s.recordByte l.tm.fn (l.pair a) = some 0)) = .ok (key l, leaf l) ∧
        keyHost (key l) = false ∧ l.s.recordByte l.tm.fn (l.pair a) ≠ some 4) →
      (∀ l ∈ ls, fused l) ∨ (∀ l ∈ ls, ¬fused l) → ∃ c : Bool, (c = true ↔ ∀ l ∈ ls, fused l) ∧
        exec (.casv d a b f) s = .next (s.completed ls (fun l =>
          { flag := f.toNat, dst := l.dsts d 2, op := some .queued
            acts := [(none, .rmw (key l) (.casv ((l.pair d).truncate 48) (l.reg b) c) (l.pair a))] }))) ∧
    ((∀ l ∈ ls, (l.pair a).toNat % 4 ≠ 0) → exec (.casv d a b f) s = .next (s.trapped ls (fun l => .atAddr .align (l.pair a)))) ∧
    (∀ c : Lane → Cause, (∀ l ∈ ls, (l.pair a).toNat % 4 = 0 ∧ l.s.translateFor l.who .atomic (l.pair a) 4
        (decide (l.s.recordByte l.tm.fn (l.pair a) = some 0)) = .error (c l)) →
      exec (.casv d a b f) s = .next (s.trapped ls (fun l => .atAddr (c l) (l.pair a)))) ∧
    ((∀ l ∈ ls, (l.pair a).toNat % 4 = 0 ∧ ∃ key leaf, l.s.translateFor l.who .atomic (l.pair a) 4
        (decide (l.s.recordByte l.tm.fn (l.pair a) = some 0)) = .ok (key, leaf) ∧ keyHost key = true) →
      exec (.casv d a b f) s = .next (s.trapped ls (fun l => .atAddr .prot (l.pair a)))) ∧
    ((∀ l ∈ ls, (l.pair a).toNat % 4 = 0 ∧ l.s.recordByte l.tm.fn (l.pair a) = some 4 ∧
        ∃ p, l.s.translateFor l.who .atomic (l.pair a) 4 false = .ok p) →
      exec (.casv d a b f) s = .next (s.trapped ls (fun l => .atAddr .prot (l.pair a)))))

/-- `LDF` and the format stores: an element of the page's format, converted, with its scale byte where the page has
scales; a store encodes at issue, its status bits join the thread's, and its scale byte is read first; a poisoned one
leaves its cause on the flag and the element unwritten. What refuses the element traps (R141, R142, R170, R171). The
scale byte is read at issue, over a link where it lies at a host, as log entry 57 says, and that the status bits are set
at issue is the model's choice (log entry 75). -/
def Obligations.FormatAccesses : Prop :=
  (∀ (d a o : BitVec 7) (f : BitVec 4) (s : State) (ls : List Lane), s.Ready (instrForm (.ldf d a o f)) ls →
    (∀ e : Lane → Elem, (∀ l ∈ ls, l.elemAt .load (l.offsetAddr a o 1) none = .ok (e l)) → NoAcquire ls → Room f.toNat ls →
      exec (.ldf d a o f) s = .next (s.completed ls (fun l =>
        { flag := f.toNat, dst := l.dsts d 1
          op := some (.load ((e l).key :: ((e l).scale.map Prod.fst).toList)
            (.elem (e l).leaf.fmt (e l).leaf.dom (e l).leaf.e (e l).scale.isSome) none (!keyOwn (e l).key) (l.offsetAddr a o 1)) }))) ∧
    (∀ t : Lane → Trap, (∀ l ∈ ls, l.elemAt .load (l.offsetAddr a o 1) none = .error (t l)) →
      exec (.ldf d a o f) s = .next (s.trapped ls t))) ∧
  (∀ (i : Instr) (d a o : BitVec 7) (f : BitVec 4) (mode : Lane → RMode) (adv : List Lane → State → State) (s : State)
      (ls : List Lane), formatStoreOf i = some (d, a, o, f, mode, adv) → s.Ready (instrForm i) ls →
    (∀ (e : Lane → Elem) (scale : Lane → Option Nat), NoAcquire ls → Room f.toNat ls →
      (∀ l ∈ ls, l.elemAt .store (l.offsetAddr a o 1) none = .ok (e l) ∧
        (((e l).scale = none ∧ scale l = none) ∨
         (∃ p, (e l).scale = some p ∧ l.readsOut = false ∧ l.s.hostAway p.1 = false ∧ ∃ k, l.scaleByte p.1 = some k ∧ scale l = some k))) →
      exec i s = .next (adv ls ((s.completed ls (fun l =>
        { flag := f.toNat, op := if f = 0 then none else some .queued
          acts := [(none, .store (e l).key ((e l).encode (mode l) (l.reg d) (scale l)).1)]
          upd := fun t => { t with fpstat := t.fpstat ||| ((e l).encode (mode l) (l.reg d) (scale l)).2.bits } })).scalesRead ls a o))) ∧
    (∀ (e : Lane → Elem) (p : Lane → Nat × DWord), NoAcquire ls → Room f.toNat ls →
      (∀ l ∈ ls, l.elemAt .store (l.offsetAddr a o 1) none = .ok (e l) ∧ (e l).scale = some (p l) ∧ l.readsOut = false ∧
        l.s.hostAway (p l).1 = false ∧ l.scaleByte (p l).1 = none) →
      exec i s = .next (adv [] ((s.completed ls (fun l =>
        { flag := f.toNat, op := some (.ready []), trap := some (.atAddr .mchk (p l).2) })).scalesRead ls a o))) ∧
    (∀ t : Lane → Trap, (∀ l ∈ ls, l.elemAt .store (l.offsetAddr a o 1) none = .error (t l)) →
      exec i s = .next (adv [] ((s.trapped ls t).scalesRead [] a o))))

/-- `PREF` completes on any address and changes no memory; `CFILL` of 1 to 4,096 lines from an aligned address gives
each line its count, as far as the sets hold counts; a count of 0 or more lines is `BOUNDS`, a misaligned address
`ALIGN` (R172, R173). Which lines keep a count is the model's choice (log entry 17). -/
def Obligations.PrefetchAndFill : Prop :=
  (∀ (a o : BitVec 7) (s : State) (ls : List Lane), s.Ready (instrForm (.pref a o)) ls → NoAcquire ls →
    ∃ l1, exec (.pref a o) s = .next { s.completed ls (fun _ => {}) with l1 := l1 }) ∧
  (∀ (a b : BitVec 7) (f : BitVec 4) (s : State) (ls : List Lane), s.Ready (instrForm (.cfill a b f)) ls →
    let n (l : Lane) : Nat := (l.reg b).toNat / 256
    ((∀ l ∈ ls, n l = 0 ∨ 4096 < n l) → exec (.cfill a b f) s = .next (s.trapped ls (fun _ => .of .bounds))) ∧
    ((∀ l ∈ ls, 1 ≤ n l ∧ n l ≤ 4096 ∧ (l.pair a).toNat % 128 ≠ 0) →
      exec (.cfill a b f) s = .next (s.trapped ls (fun l => .atAddr .align (l.pair a)))) ∧
    (∀ lines : Lane → List Nat, NoAcquire ls → Room f.toNat ls →
      (∀ l ∈ ls, 1 ≤ n l ∧ n l ≤ 4096 ∧ (l.pair a).toNat % 128 = 0 ∧ l.fillLines (l.pair a) (n l) = .ok (lines l)) →
      exec (.cfill a b f) s = .next (ls.foldl
        (fun s l => (lines l).foldl (fun s x =>
          { s with resid := Tab.put s.resid x (if (l.reg b).toNat % 256 ≠ 0 ∧ s.countFits x = true then (l.reg b).toNat % 256 + 1 else 0) 0 }) s)
        (s.completed ls (fun _ => { flag := f.toNat, op := if f = 0 then none else some (.ready []) })))))

/-- A gather or scatter whose lanes reach their elements, while fewer than 64 other groups of the core have requests
pending and nothing keeps its requests from the entries that they join, is one operation for the group, counted on each
member's flag; every lane request stands in a Pannier entry of its core and its sector that has still to be sent. A lane
that does not reach its element traps (R120 to R122, R174, R175). What keeps a request is the model's choice (log entry
16). -/
def Obligations.GathersAndScatters : Prop :=
  ∀ (i : Instr) (g : GatherForm) (s : State) (ls : List Lane), gatherForm i = some g → s.Ready (instrForm i) ls →
    (∀ r : Lane → LaneReq, NoAcquire ls → Room g.flag.toNat ls →
      (∀ l ∈ ls, g.req s l = .ok (r l)) →
      (∀ l ∈ ls, l.s.pannierGroups l.tm.core s.cur.members < 64 ∧ ∀ p ∈ (r l).parts,
        (if g.write then l.scatterHeld p.1 p.2.1 else l.gatherHeld p.1) = false) →
      ∃ (t : State) (op : Op), exec i s = .next t ∧
        let u := s.completed ls (fun _ => { flag := g.flag.toNat })
        t.teams = u.teams ∧ t.mem = s.mem ∧ t.ops = u.ops ++ [op] ∧
        op.id = u.nextId ∧ op.team = s.cur.team ∧ op.flag = g.flag.toNat ∧
        op.kind = .lanes (ls.map (fun l => (l.th.idx, g.dst l, (r l).form, (r l).va)))
          (ls.flatMap (fun l => (List.range (r l).parts.length).map (fun n => (l.th.idx, n)))) [] ∧
        (∀ e ∈ s.pannier, ∃ e' ∈ t.pannier, e'.id = e.id ∧ e'.sent = e.sent ∧ ∃ more, e'.reqs = e.reqs ++ more) ∧
        (∀ l ∈ ls, ∀ p ∈ (r l).parts.zipIdx, ∃ e ∈ t.pannier, e.core = l.tm.core ∧ e.sent = false ∧ e.sector = p.1.1 / 32 ∧ e.write = g.write ∧
          ({ team := s.cur.team, thr := l.th.idx, op := op.id, loc := p.1.1, len := p.1.2.1
             word := (wordOf p.1).1, width := (wordOf p.1).2, data := p.1.2.2, pwin := l.tm.pwin.toNat, part := p.2 } : PannierReq) ∈ e.reqs)) ∧
    (∀ t : Lane → Trap, (∀ l ∈ ls, g.req s l = .error (t l)) → exec i s = .next (s.trapped ls t))

/-- A fence of a thread that waits for nothing and has no cause held: `FENCE.REL` takes its place in the store queue
with its scope, the others are over at once, and at `HUB` or wider those drop the core's L1 sectors. A cause held for
the thread's next fence is delivered instead (R109, R206, R215, R324). -/
def Obligations.Fences : Prop :=
  ∀ (i : Instr) (g : FenceForm) (s : State) (l : Lane), fenceForm i = some g → s.Alone (instrForm i) l → g.waits l = false →
    (l.th.firstHeld [0] = none → exec i s = .next (s.acted l
      { acts := match g.place with | some sc => [(some sc, .fence sc)] | none => [] }
      (fun s => if g.acquires ∧ g.scope ≠ 0 then s.acquireL1 l.tm.core else s))) ∧
    (∀ c, l.th.firstHeld [0] = some c → exec i s = .next
      ((s.dissolve.deliverIn s.now s.cur.team l.th.idx c).modTeam s.cur.team (Team.gather s.now s.cur.members)))

/-- `COPY`, `COPYX` and `BCOPY` whose earlier reads are in place and whose block waits for no link: with a barrier word,
a control block and a plan that pass their checks, and room on the absent lines it writes, the copy is an operation in
flight, its scratchpad lines count absent, and the members go on; a check that fails traps. A `BCOPY` is one operation
of the group, planned by its lowest present member and counted on every member's flag (R61, R104, R177 to R184). What
the issue reads, the block and for `BCOPY` its sequence's map entry, are reads of the operation (R110). The reads of a
control block are read as log entries 39 and 58 say, and bit 23 of a `BCOPY`'s DLOC as log entry 76. -/
def Obligations.Copies : Prop :=
  (∀ (i : Instr) (g : CopyForm) (s : State) (l : Lane),
     copyForm i = some g → s.Alone (instrForm i) l → l.waitsToRead = false →
     let at' := l.pair g.ctl
     let block : Script (List Byte) := Script.read at' g.bytes
     l.scriptAway block = false →
     (∀ t, l.barrierWord (l.reg g.bar) = .error t → exec i s = .next (s.actedTrap l t)) ∧
     (∀ obj, l.barrierWord (l.reg g.bar) = .ok obj →
       (at'.toNat % 64 ≠ 0 → exec i s = .next (s.actedTrap l (.atAddr .align at'))) ∧
       (at'.toNat % 64 = 0 →
         (∀ t, l.runScript block = .error t → exec i s = .next (s.actedTrap l t)) ∧
         (∀ cb, l.runScript block = .ok cb →
           (∀ t, g.plan l cb = .error t → exec i s = .next (s.actedTrap l t)) ∧
           (∀ p, g.plan l cb = .ok p → (∀ x ∈ chunkLines p.chunks, l.s.lineCount x < 3) → Room g.flag.toNat [l] →
             exec i s = .next (s.acted l { flag := g.flag.toNat }
               (fun s => s.startCopy (s.copyOp l s.nextId g.flag obj [l.th.idx] (g.block at') p) l (l.scriptKeys block)))))))) ∧
  (∀ (d a b : BitVec 7) (f : BitVec 4) (s : State) (l : Lane) (rest : List Lane),
     s.Ready (instrForm (.bcopy d a b f)) (l :: rest) →
     let block (m : Lane) := m.blockScript (m.pair a) ((l :: rest).map (fun m => m.reg d))
     (∀ m ∈ l :: rest, m.waitsToRead = false ∧ m.scriptAway (block m) = false) →
     (∀ t, bcopyPlan l a b ((l :: rest).map (fun m => m.reg d)) = .error t →
       exec (.bcopy d a b f) s = .next (s.trapped (l :: rest) (fun _ => t))) ∧
     (∀ obj p, bcopyPlan l a b ((l :: rest).map (fun m => m.reg d)) = .ok (obj, p) → Room f.toNat (l :: rest) →
       (∀ m ∈ l :: rest, m.s.linesFit (chunkLines p.chunks) = true) →
       exec (.bcopy d a b f) s = .next (let u := s.completed (l :: rest) (fun _ => { flag := f.toNat })
         u.startCopy (u.copyOp l u.nextId f obj ((l :: rest).map (fun m => m.th.idx))
           (.bcopy (l.pair a) ((l :: rest).map (fun m => m.reg d))) p) l (l.scriptKeys (block l)))))

/-- The chunks of a copy: they are its bytes, no more and no fewer, each inside one row and one 32-byte destination
sector. Each byte of each row is in exactly one of them, and the destination of a chunk that starts at column c of row r
is the copy's own moved by r times the pitch, and by c (R106, R178, R180). -/
def Obligations.CopyChunks : Prop :=
  ∀ (dst : CopyEnd) (pitch rows rbytes : Nat),
    let cs := copyChunks dst pitch rows rbytes
    (cs.map (fun c => c.len)).sum = rows * rbytes ∧
    (∀ c ∈ cs, 1 ≤ c.len ∧ c.dst.inSector + c.len ≤ 32 ∧ c.row < rows ∧ c.col + c.len ≤ rbytes ∧
      c.off = c.row * rbytes + c.col ∧ c.dst = dst.add (c.row * pitch + c.col)) ∧
    ∀ r x, r < rows → x < rbytes → (cs.filter (fun c => c.row = r ∧ c.col ≤ x ∧ x < c.col + c.len)).length = 1

/-- `MMA` by a thread that may sign, its earlier accesses in place, its copies among them, and its descriptor waiting
for no link: the signature is counted with the thread's column, B register and flag, its operation waits for the call,
and the call is posted with the last signature. A draining register takes the thread out; another thread traps with
`JOINBAD`, and a bad descriptor with its cause. The thread acts in its place: `m` is the thread after those that trapped
in a place before it in the cycle have left their registers (R24, R251, R252, R255, R295). -/
def Obligations.MatrixSigns : Prop :=
  ∀ (j a b : BitVec 7) (f : BitVec 4) (s : State) (l m : Lane), s.InTurn (instrForm (.mma j a b f)) l m →
    l.signHeld a = false → m = l ∨ Room f.toNat [l] →
    let me := (m.s.cur.team, m.th.idx)
    (m.s.join? m.tm.hubset j.toNat = none → exec (.mma j a b f) s = .next (s.actedTrap m (.of .joinbad))) ∧
    (∀ jn, m.s.join? m.tm.hubset j.toNat = some jn →
      (MaySignCall m.s m jn (m.pair a) →
        (∀ t, m.readDesc (m.pair a) true b = .error t → exec (.mma j a b f) s = .next (s.actedTrap m t)) ∧
        (∀ d, m.readDesc (m.pair a) true b = .ok d → Room f.toNat [m] →
          exec (.mma j a b f) s = .next (s.acted m
            { flag := f.toNat, op := some (.matrix 0)
              upd := fun t => { t with joinMask := t.joinMask &&& ~~~(1#64 <<< j.toNat) } }
            (fun u => ((u.noteBlock m (u.nextId - 1) (m.pair a) 64).modJoin m.tm.hubset j.toNat (fun jn =>
              { jn with
                signs := jn.signs ++ [{ team := m.s.cur.team, thr := m.th.idx, col := m.tm.core % 4 * 32 + m.th.idx % 32
                                        op := u.nextId - 1, flag := f.toNat, base := m.alloc b, nanTrap := m.th.nanTrap
                                        priv := m.privileged }]
                unsigned := jn.unsigned.filter (fun e => e ≠ me)
                kind := some (match jn.kind with | some k => k | none => .mma (m.pair a) d) })).joinCheck
              m.tm.hubset j.toNat)))) ∧
      (me ∉ jn.unsigned ∨ jn.st = .idle ∨ jn.st = .busy ∨ (jn.st = .opened ∧ ¬MaySignCall m.s m jn (m.pair a)) →
        exec (.mma j a b f) s = .next (s.actedTrap m (.of .joinbad))) ∧
      (me ∈ jn.unsigned → jn.st = .drain → ∀ d, m.readDesc (m.pair a) true b = .ok d →
        exec (.mma j a b f) s = .next (s.acted m {} (fun s => s.leaveJoin s.cur.team m.th.idx m.tm.hubset j.toNat))))

/-- `MMAS` whose descriptor waits for no link posts a call of its own thread while the reservation table of its hub has
room; `ACCZ` of a region of `ACC64` is an operation that takes its place in the core's store order and writes zeros.
Both leave their cause where a check fails (R252, R257, R263). An `ACCZ` is read as log entry 26 says, and that its
place is an entry of the store queue, as log entry 39 says. -/
def Obligations.MatrixCallsAndZeroing : Prop :=
  (∀ (a b : BitVec 7) (f : BitVec 4) (s : State) (l : Lane), s.Alone (instrForm (.mmas a b f)) l → l.waitsToRead = false →
    l.scriptAway (Script.read (l.pair a) 64) = false →
    (∀ t, l.barrierWord (l.reg b) = .error t → exec (.mmas a b f) s = .next (s.actedTrap l t)) ∧
    (∀ obj, l.barrierWord (l.reg b) = .ok obj →
      (∀ t, l.readDesc (l.pair a) false b = .error t → exec (.mmas a b f) s = .next (s.actedTrap l t)) ∧
      (∀ d, l.readDesc (l.pair a) false b = .ok d → (l.s.liveTable (l.tm.core / 4)).length < 32 → Room f.toNat [l] →
        exec (.mmas a b f) s = .next (s.acted l { flag := f.toNat, op := some (.matrix 0) } (fun u =>
          (u.noteBlock l (u.nextId - 1) (l.pair a) 64).postCall (l.soloCall u (u.nextId - 1) f.toNat obj d)))))) ∧
  (∀ (a b : BitVec 7) (f : BitVec 4) (s : State) (l : Lane), s.Alone (instrForm (.accz a b f)) l → l.acquiring = false →
    ((l.reg b).toNat % 32 ≠ 0 ∨ (l.reg b).toNat < 1024 → exec (.accz a b f) s = .next (s.actedTrap l (.of .bounds))) ∧
    ((l.reg b).toNat % 32 = 0 → 1024 ≤ (l.reg b).toNat →
      ((l.pair a).toNat % 32 ≠ 0 → exec (.accz a b f) s = .next (s.actedTrap l (.atAddr .align (l.pair a)))) ∧
      (∀ c, (l.pair a).toNat % 32 = 0 → l.s.pageOf l.who .store (l.pair a) = .error c →
        exec (.accz a b f) s = .next (s.actedTrap l (.atAddr c (l.pair a)))) ∧
      ((l.pair a).toNat % 32 = 0 → ∀ p, l.s.pageOf l.who .store (l.pair a) = .ok p →
        let scaled := p.geo = 1 ∨ p.geo = 2
        (p.fmt ≠ 25 ∨ scaled → exec (.accz a b f) s = .next (s.actedTrap l (.atAddr .fmtbad (l.pair a)))) ∧
        (p.fmt = 25 → ¬scaled → Room f.toNat [l] → exec (.accz a b f) s = .next (s.acted l { flag := f.toNat } (fun u =>
          let o := u.zeroOp l (l.pair a) (l.reg b).toNat f
          State.copyPlace { u with ops := u.ops ++ [o], nextId := u.nextId + 1 } o l.tm.core))))))

/-- A KV maintenance operation or `TOPK` whose lanes wait for no read and no link: a descriptor that passes its checks
leaves the operation in flight, its result going to d and its reads counted; a bad key scale, a misaligned descriptor
and a check that fails trap (R291, R297 to R305). -/
def Obligations.KvOperations : Prop :=
  ∀ (i : Instr) (g : KvForm) (s : State) (ls : List Lane), kvForm i = some g → s.Ready (instrForm i) ls →
    (∀ l ∈ ls, l.waitsToRead = false ∧ l.scriptAway (g.issue l) = false) →
    ((∀ l ∈ ls, ¬g.Admits l) → exec i s = .next (s.trapped ls (fun _ => .of .fmtbad))) ∧
    ((∀ l ∈ ls, g.Admits l ∧ (l.pair g.desc).toNat % g.align ≠ 0) →
      exec i s = .next (s.trapped ls (fun l => .atAddr .align (l.pair g.desc)))) ∧
    (∀ t : Lane → Trap, (∀ l ∈ ls, g.Admits l ∧ (l.pair g.desc).toNat % g.align = 0 ∧ l.runScript (g.issue l) = .error (t l)) →
      exec i s = .next (s.trapped ls t)) ∧
    (∀ j : Lane → KvJob, Room g.flag.toNat ls →
      (∀ l ∈ ls, g.Admits l ∧ (l.pair g.desc).toNat % g.align = 0 ∧ l.runScript (g.issue l) = .ok (j l)) →
      exec i s = .next ((s.completed ls (fun l =>
        { flag := g.flag.toNat, dst := l.dsts g.dst 1, op := some (.kv (j l)) })).noteScript ls g.issue))

/-- `ATTN` and `ATTNR` whose lanes wait for no read and no link: with a tolerance in [0, 1], an aligned descriptor and
checks that pass the call is in flight, its three result words going to d; else it traps (R218, R220, R241 to R243). The
query page and the reads at issue are read as log entries 32, 58, 78 and 79 say. -/
def Obligations.AttentionCalls : Prop :=
  ∀ (i : Instr) (resume : Bool) (d a b : BitVec 7) (f : BitVec 4) (s : State) (ls : List Lane),
    attnForm i = some (resume, d, a, b, f) → s.Ready (instrForm i) ls →
    let issue (l : Lane) := attnIssue l resume (tolerance (l.reg b)) (l.pair a)
    (∀ l ∈ ls, l.waitsToRead = false ∧ l.scriptAway (issue l) = false) →
    ((∀ l ∈ ls, ¬IsTolerance (l.reg b)) → exec i s = .next (s.trapped ls (fun _ => .of .fmtbad))) ∧
    ((∀ l ∈ ls, IsTolerance (l.reg b) ∧ (l.pair a).toNat % 64 ≠ 0) →
      exec i s = .next (s.trapped ls (fun l => .atAddr .align (l.pair a)))) ∧
    (∀ t : Lane → Trap, (∀ l ∈ ls, IsTolerance (l.reg b) ∧ (l.pair a).toNat % 64 = 0 ∧ l.runScript (issue l) = .error (t l)) →
      exec i s = .next (s.trapped ls t)) ∧
    (∀ j : Lane → AttnJob, Room f.toNat ls →
      (∀ l ∈ ls, IsTolerance (l.reg b) ∧ (l.pair a).toNat % 64 = 0 ∧ l.runScript (issue l) = .ok (j l)) →
      exec i s = .next ((s.completed ls (fun l =>
        { flag := f.toNat, dst := l.dsts d 3, op := some (.attn (j l)) })).noteScript ls issue))

/-- `TAP` and `TAP.NORM` at a point below 64 of the current generation, with aligned rows on pages that admit them,
leave the tap in flight under that generation; without tables or at a point beyond they trap with `BOUNDS`, on a
misaligned row with `ALIGN`. A normalising tap whose entry has a probe after it traps with `TAPMODE`. `TAPLD` in
`TRAPPED` checks both addresses and the pages of both tables, then reads the tables whole, over a link where they lie at
a host, and checks them; a table that is refused traps, else its thread parks and the tables wait to become the current
generation. `TAPQ` stores the 16 bytes of R307 at an aligned address, and a point beyond 63 traps with `BOUNDS` (R280 to
R283, R306, R307, R345). The reads at issue are read as log entry 58 says. -/
def Obligations.Taps : Prop :=
  (∀ (i : Instr) (a b : BitVec 7) (f : BitVec 4) (out : Lane → Option DWord) (s : State) (ls : List Lane),
     tapForm i = some (a, b, f, out) → s.Ready (instrForm i) ls →
     ((∀ l ∈ ls, l.s.tapGens = [] ∨ 64 ≤ (l.reg b).toNat) → exec i s = .next (s.trapped ls (fun _ => .of .bounds))) ∧
     ((∀ l ∈ ls, l.s.tapGens ≠ [] ∧ (l.reg b).toNat < 64 ∧ (l.pair a).toNat % 4 ≠ 0) →
       exec i s = .next (s.trapped ls (fun l => .atAddr .align (l.pair a)))) ∧
     (∀ (g : Lane → TapGen) (page : Lane → Leaf), NoAcquire ls →
       (∀ l ∈ ls, (∃ old, l.s.tapGens = g l :: old) ∧ (l.reg b).toNat < 64 ∧ (l.pair a).toNat % 4 = 0 ∧
         l.s.pageOf l.who .atomic (l.pair a) = .ok (page l) ∧
         (∀ o, out l = some o → o.toNat % 4 = 0 ∧ ∃ p, l.s.pageOf l.who .store o = .ok p)) →
       (∀ k : Lane → Nat, (∀ l ∈ ls, (out l).isSome = true ∧ ((g l).entry (l.reg b).toNat).firstPost = some (k l)) →
         exec i s = .next (s.trapped ls (fun l =>
           { cause := .tapmode, addr := 0, info := BitVec.ofNat 64 ((l.reg b).toNat * 2 ^ 8 + k l) }))) ∧
       ((∀ l ∈ ls, out l = none ∨ ((g l).entry (l.reg b).toNat).firstPost = none) → Room f.toNat ls →
         exec i s = .next (s.completed ls (fun l =>
           { flag := f.toNat
             op := some (.tap { fn := l.tm.fn, priv := l.privileged, core := l.tm.core, gen := (g l).gen
                                point := (l.reg b).toNat, record := l.s.recordOf l.tm.fn l.th.seq, row := l.pair a
                                out := out l, log := [] }) }))))) ∧
  ((∀ (a b : BitVec 7) (s : State) (ls : List Lane), s.Ready (tapldForm a b) ls → Priv ls →
     (∀ l ∈ ls, l.waitsToRead = false ∧ l.scriptAway (tapTables (l.pair a) (l.pair b)) = false) →
     ((∀ l ∈ ls, (l.pair a).toNat % 512 ≠ 0) → exec (.tapld a b) s = .next (s.trapped ls (fun l => .atAddr .align (l.pair a)))) ∧
     ((∀ l ∈ ls, (l.pair a).toNat % 512 = 0 ∧ (l.pair b).toNat % 16 ≠ 0) →
       exec (.tapld a b) s = .next (s.trapped ls (fun l => .atAddr .align (l.pair b)))) ∧
     (∀ t : Lane → Trap,
       (∀ l ∈ ls, (l.pair a).toNat % 512 = 0 ∧ (l.pair b).toNat % 16 = 0 ∧
         (∀ x ∈ l.pageTraps (l.pair a) 32768 .load ++ l.pageTraps (l.pair b) 4096 .load, x = none) ∧
         l.runScript (tapTables (l.pair a) (l.pair b)) = .error (t l)) →
       exec (.tapld a b) s = .next (s.trapped ls (fun l => (t l).atSector))) ∧
     (∀ r : Lane → List Byte × List Byte,
       (∀ l ∈ ls, (l.pair a).toNat % 512 = 0 ∧ (l.pair b).toNat % 16 = 0 ∧
         (∀ x ∈ l.pageTraps (l.pair a) 32768 .load ++ l.pageTraps (l.pair b) 4096 .load, x = none) ∧
         l.runScript (tapTables (l.pair a) (l.pair b)) = .ok (r l)) →
       exec (.tapld a b) s = .next (ls.foldl
         (fun u l => State.tapInstall { u with tapWait := u.tapWait ++ [(u.cur.team, l.th.idx, (r l).1, (r l).2)] })
         ((s.completed ls (fun _ => { upd := fun t => { t with st := .parked, left := t.st, why := .tapld 0 } })).readScripts ls
           (fun l => tapTables (l.pair a) (l.pair b)))))) ∧
   (∀ (a b : BitVec 7) (s : State) (ls : List Lane), s.Ready (instrForm (.tapq a b)) ls →
     (∀ l ∈ ls, l.waitsToRead = false ∧ l.scriptAway l.line1Script = false) →
     ((∀ l ∈ ls, 64 ≤ (l.reg b).toNat) → exec (.tapq a b) s = .next (s.trapped ls (fun _ => .of .bounds))) ∧
     ((∀ l ∈ ls, (l.reg b).toNat < 64 ∧ (l.pair a).toNat % 16 ≠ 0) →
       exec (.tapq a b) s = .next (s.trapped ls (fun l => .atAddr .align (l.pair a)))) ∧
     (∀ (key : Lane → Nat) (leaf : Lane → Leaf) (l1 : Lane → List Byte),
       (∀ l ∈ ls, (l.reg b).toNat < 64 ∧ (l.pair a).toNat % 16 = 0 ∧
         l.s.translate l.who .store (l.pair a) 16 = .ok (key l, leaf l) ∧ l.line1 = .ok (l1 l)) →
       exec (.tapq a b) s = .next ((s.completed ls (fun l =>
         { acts := [(none, .store (key l) (l.s.tapRecord (l.reg b).toNat (l1 l)))] })).readScripts ls Lane.line1Script))))


/-- The words of a walker program that compute, load or end it. The context goes on at the word they name, and a number
outside the program, or `LOOP w0`, is a walker fault `ILLOP`. A load whose index is beyond the array is a walker fault
`BOUNDS`, one that meets a cause stops the context with it and its address, and one of a host to which no link goes
waits; else the element is written to the word's register, and a host is asked for what lies there (R271 to R273, R275,
R276, R349). That a read waits for a link is the model's choice (log entry 82). -/
def Obligations.WalkerWords : Prop :=
  (∀ (s : State) (w : Walker), s.Walks w →
     (∀ (i : Instr) (w' : Walker) (target : Int), walkEffect w i = some (w', target) →
       exec i s = .next (if 0 ≤ target ∧ target < w.prog.length then s.setWalker { w' with wpc := target.toNat }
         else s.setWalker { w' with stopped := some (.illop, 0) })) ∧
     (∀ i : BitVec 15, exec (.loop 0 i) s = .next (s.walkStops w .illop 0)) ∧
     exec .haltw s = .next (s.setWalker { w with halted := true })) ∧
  (∀ (i : Instr) (w : Walker) (g : WalkLoad) (s : State), walkerLoad w i = some g → s.Walks w →
     (g.limit ≤ g.index → exec i s = .next (s.walkStops w .bounds 0)) ∧
     (g.index < g.limit → s.placesAway w.who .load g.addr g.size = true → exec i s = .next s) ∧
     (g.index < g.limit → s.placesAway w.who .load g.addr g.size = false →
       (∀ c a, s.walkRead w g.addr g.size = .error (c, a) → exec i s = .next (s.walkStops w c a)) ∧
       (∀ ks bs, s.walkRead w g.addr g.size = .ok (ks, bs) → exec i s = .next (State.askHost (
         if w.wpc + 1 < w.prog.length then s.setWalker { w.put g.dst (BitVec.ofNat 64 (g.value (leNat bs))) with wpc := w.wpc + 1 }
         else s.setWalker { w.put g.dst (BitVec.ofNat 64 (g.value (leNat bs))) with stopped := some (.illop, 0) }) ks))))

/-- `SPOKE`, its thread's earlier reads in place and its own waiting for no link: with a barrier word and a plan that
pass their checks, a free context of the hub and room on its flag, it starts a walk in that context; a check that fails
traps. `FLUSH` posts the call of its descriptor with the tile as operand A and goes on with an empty one; a misaligned
or refused descriptor stops the context (R267, R270, R274). A full table is read as log entry 23 says. -/
def Obligations.Walks : Prop :=
  (∀ (a b : BitVec 7) (f : BitVec 4) (s : State) (l : Lane), s.Alone (instrForm (.spoke a b f)) l → l.waitsToRead = false →
    l.walkAway (l.pair a) = false →
    (∀ t, l.barrierWord (l.reg b) = .error t → exec (.spoke a b f) s = .next (s.actedTrap l t)) ∧
    (∀ obj, l.barrierWord (l.reg b) = .ok obj →
      (∀ t, l.walkPlan (l.pair a) = .error t → exec (.spoke a b f) s = .next (s.actedTrap l t)) ∧
      (∀ p c, l.walkPlan (l.pair a) = .ok p → l.s.freeContext (l.tm.core / 4) = some c → Room f.toNat [l] →
        exec (.spoke a b f) s = .next (s.acted l { flag := f.toNat, op := some (.spoke c) } (fun u =>
          { u.noteWalk l (u.nextId - 1) p (l.pair a) with
            walkers := (u.noteWalk l (u.nextId - 1) p (l.pair a)).walkers ++ [l.startWalk c (u.nextId - 1) obj p] }))))) ∧
  (∀ (a : BitVec 4) (s : State) (w : Walker) (l : Lane), s.Walks w → s.walkLane w = some l →
    ((w.reg a).toNat % 64 ≠ 0 → exec (.flush a) s = .next (s.walkStops w .align (w.reg a))) ∧
    ((w.reg a).toNat % 64 = 0 → s.placesAway w.who .load (w.reg a) 64 = false →
      (∀ c x, s.walkRead w (w.reg a) 64 = .error (c, x) → exec (.flush a) s = .next (s.walkStops w c x)) ∧
      (∀ ks bs, s.walkRead w (w.reg a) 64 = .ok (ks, bs) →
        (∀ t, firstTrap (l.descTraps bs false true ++ w.tileTraps (MxDesc.ofBytes bs)) = some t →
          exec (.flush a) s = .next (s.walkStops w t.cause t.addr)) ∧
        (firstTrap (l.descTraps bs false true ++ w.tileTraps (MxDesc.ofBytes bs)) = none → s.tableFull (w.core / 4) = false →
          w.wpc + 1 < w.prog.length →
          exec (.flush a) s = .next (((s.setWalker { w with
            tile := List.replicate (128 * w.tk) 0, buf := !w.buf, busy := w.busy ++ [(s.nextId, w.buf)]
            posted := w.posted ++ [s.nextId]
            wpc := w.wpc + 1 }).askHost ks).postCall (s.walkerCall w (MxDesc.ofBytes bs)))))))

/-- `GETS` answers the register's value with latency 8, the thread's own last write at once; `SETS` of a value the
register takes is a write that takes effect in one of the next 8 cycles, and any other value traps. User code may read
registers 0 to 7 and 14 and write 0 to 3; a privileged write of a read-only register is discarded (R336, R337). The
moment a write takes effect is read as log entry 45 says, and that bits 30:3 of a value written to FPSTAT read as zero,
as log entry 83 says. -/
def Obligations.SpecialRegisters : Prop :=
  (∀ (d n : BitVec 7) (s : State) (ls : List Lane), s.Ready (instrForm (.gets d n)) ls →
    Priv ls ∨ n.toNat ≤ 7 ∨ n.toNat = 14 →
    exec (.gets d n) s = .next (s.completed ls (fun l =>
      { writes := if wideRegister n.toNat then l.wr2 d (l.sreg n.toNat) else l.wr d ((l.sreg n.toNat).truncate 32), lat := 8 }))) ∧
  (∀ (l : Lane) (n : Nat), (∀ p ∈ l.s.sregs, p.team = l.s.cur.team → p.thr ≠ l.th.idx) → l.sreg n = registerValue l n) ∧
  (∀ (l : Lane) (ps : List SregPend) (p : SregPend), l.s.teams[l.s.cur.team]? = some l.tm → l.s.sregs = ps ++ [p] → p.team = l.s.cur.team → p.thr = l.th.idx →
    l.sreg p.reg = p.value) ∧
  (∀ (a n : BitVec 7) (s : State) (ls : List Lane), s.Ready (instrForm (.sets a n)) ls → Priv ls ∨ n.toNat ≤ 3 →
    let value (l : Lane) : DWord := if wideRegister n.toNat then l.pair a else (l.reg a).zeroExtend 64
    (ReadOnly n.toNat → exec (.sets a n) s = .next (s.completed ls (fun _ => {}))) ∧
    (¬ReadOnly n.toNat → (∀ l ∈ ls, ¬RegisterTakes n.toNat (value l)) →
      exec (.sets a n) s = .next (s.trapped ls (fun l => registerTrap n.toNat (value l)))) ∧
    (¬ReadOnly n.toNat → (∀ l ∈ ls, RegisterTakes n.toNat (value l)) →
      exec (.sets a n) s = .next (ls.foldl (fun u l =>
        u.sregWrite u.cur.team l.th.idx n.toNat (value l) (u.draw (laneOf l.th.idx) 6)) (s.completed ls (fun _ => {}))))) ∧
  (∀ (s : State) (k j n : Nat) (v : DWord) (pick : Nat), (∀ p ∈ s.sregs, s.sregSame p n k j = false) →
    ∃ p ∈ (s.sregWrite k j n v pick).sregs, p.reg = n ∧ p.team = k ∧ p.thr = j ∧
      p.value = (if n = 0 then v &&& 0x80000007#64 else v) ∧ s.now + 1 ≤ p.lands ∧ p.lands ≤ s.now + 8)

/-- `SNAP`, `HALT` and `TLBINV` in `TRAPPED`: a snapshot with source 0 is triggered; the thread's grid is halted: its
teams are gone with every thread `EXITED`, nothing held and no group, no save and no context of theirs is left, their
join registers are idle, and its queue shows error 0x09 and is disabled; the control word is checked (`ILLOP`), an
address that is not canonical traps with `PAGE` for kind 0, and the thread parks while the device drops the translations
(R332, R340 to R342). The snapshot's header, `TLBINV` and `HALT` are read as log entries 46, 47 and 51 say. -/
def Obligations.SystemInstructions : Prop :=
  (∀ (s : State) (ls : List Lane), s.Ready (instrForm .snap) ls → Priv ls →
    exec .snap s = .next (ls.foldl (fun u l => u.triggerSnap 0 0 l.tm.core l.th.idx) (s.completed ls (fun _ => {})))) ∧
  (∀ (s : State) (l : Lane) (ls : List Lane), s.Ready (instrForm .halt) (l :: ls) → Priv (l :: ls) →
    exec .halt s = .next ((s.completed (l :: ls) (fun _ => {})).haltGrid l.tm.grid)) ∧
  (∀ (s : State) (gi : Nat) (g : Grid), s.grids[gi]? = some g →
    (g.ended = true → s.haltGrid gi = s) ∧
    (g.ended = false → ∃ u : State, s.haltGrid gi = u.reportHalt g ∧ u.mem = s.mem ∧
      (∃ x, u.grids[gi]? = some x ∧ x.ended = true) ∧
      (∀ k ∈ g.teams, ∀ tm, s.teams[k]? = some tm → ∃ t, u.teams[k]? = some t ∧ t.status = .gone ∧ t.groups = [] ∧
        t.queue = [] ∧ t.threads = tm.threads.map (fun th =>
          { th with st := .exited, why := .none, held := [], pend := [], nanAt := none })) ∧
      (∀ k, k ∉ g.teams → (∀ p ∈ s.saves, p.team = k → ∀ x ∈ p.teams, x ∉ g.teams) → u.teams[k]? = s.teams[k]?) ∧
      (∀ p ∈ u.saves, ∀ k ∈ p.teams, k ∉ g.teams) ∧ (∀ c ∈ u.contexts, ∀ k ∈ c.teams, k ∉ g.teams) ∧
      (∀ hs ∈ u.hubsets, (∃ k ∈ hs.teams, k ∈ g.teams) → ∀ jn ∈ hs.joins, jn = Join.idle) ∧
      (∀ w ∈ u.walkers, w.team ∉ g.teams) ∧ (∀ b ∈ u.bins, b.team ∉ g.teams) ∧
      (g.parent = 0 → ∃ q ∈ (s.haltGrid gi).queues, q.key = (s.queue g.queue).key ∧ q.err = true ∧ q.ecode = 9 ∧
        q.epkt = BitVec.ofNat 64 g.pktNo ∧ q.en = false))) ∧
  (∀ (a b : BitVec 7) (s : State) (ls : List Lane), s.Ready (pairWordForm a b) ls →
    let legal (w : Word) : Prop := w.toNat / 64 = 0 ∧ fieldOf' w 4 2 ≠ 3 ∧ fieldOf' w 3 1 = 0 ∧ fieldOf' w 0 3 ≤ 5
    ((∀ l ∈ ls, ¬legal (l.reg b)) → exec (.tlbinv a b) s = .next (s.trapped ls (fun _ => .of .illop))) ∧
    ((∀ l ∈ ls, legal (l.reg b) ∧ fieldOf' (l.reg b) 4 2 = 0 ∧ canonical (l.pair a) = false) → Priv ls →
      exec (.tlbinv a b) s = .next (s.trapped ls (fun l => .atAddr .page (l.pair a)))) ∧
    ((∀ l ∈ ls, legal (l.reg b) ∧ (fieldOf' (l.reg b) 4 2 = 0 → canonical (l.pair a) = true)) → Priv ls →
      exec (.tlbinv a b) s = .next (s.completed ls (fun l =>
        { upd := fun t => { t with
            st := .parked, left := t.st
            why := .tlbinv (fieldOf' (l.reg b) 4 2) (fieldOf' (l.reg b) 0 3) (l.pair a) l.s.nextId false } }))))

/-- `CTXSV` and `CTXLD` in `TRAPPED`. A slot that is empty, or that holds the thread's own hub set, traps with `BOUNDS`,
a misaligned area with `ALIGN`, and every other check that fails traps. Else the named teams stop, and the thread parks
until they are drained; then the area's first 24 bytes hold its size, the team count and a number, the teams' resources
are free, and they stand saved as a context. A restore that still has room seats the area's teams again, drops the L1
sectors of their cores and of the thread's, writes 0 to the team count, and the area's context is spent; one without
changes no byte. A team saved and restored has its threads in the states they had, with their results landed and their
validation sets stale (R328, R330, R331, R343, R344). The layout of the rest of an area, and where the device places the
teams, are read as log entries 48 and 49 say. -/
def Obligations.Contexts : Prop :=
  (∀ (a b : BitVec 7) (s : State) (ls : List Lane), s.Ready (pairWordForm a b) ls → Priv ls →
    ((∀ t : Lane → Trap, (∀ l ∈ ls, l.savePlan (l.pair a) (l.reg b) = .error (t l)) →
        exec (.ctxsv a b) s = .next (s.trapped ls t)) ∧
      (∀ p : Lane → Save, (∀ l ∈ ls, l.savePlan (l.pair a) (l.reg b) = .ok (p l)) →
        exec (.ctxsv a b) s = .next (ls.foldl (fun u l =>
          { u.stopTeams (p l).teams false with saves := u.saves ++ [{ p l with id := u.nextId }], nextId := u.nextId + 1 })
          (s.completed ls (fun _ => { upd := fun t => { t with st := .parked, left := t.st, why := .ctxsv } })))) ∧
      (∀ l ∈ ls, ∀ c, l.s.physCore (fieldOf' (l.reg b) 16 16) = c →
        ((∀ core, c = some core → l.s.teamIn core (fieldOf' (l.reg b) 0 5) = none) →
          l.savePlan (l.pair a) (l.reg b) = .error (.of .bounds)) ∧
        (∀ core k t, c = some core → l.s.teamIn core (fieldOf' (l.reg b) 0 5) = some k → l.s.teams[k]? = some t →
          t.hubset = l.tm.hubset → l.savePlan (l.pair a) (l.reg b) = .error (.of .bounds))) ∧
      (∀ l ∈ ls, ∀ ks, l.saveTargets (l.reg b) = .ok ks → (l.pair a).toNat % 4096 ≠ 0 →
        l.savePlan (l.pair a) (l.reg b) = .error (.atAddr .align (l.pair a)))) ∧
    ((∀ l ∈ ls, l.loadHeld (l.pair a) = false) →
      (∀ t : Lane → Trap, (∀ l ∈ ls, l.loadPlan (l.pair a) (l.reg b) = .error (t l)) →
        exec (.ctxld a b) s = .next (s.trapped ls t)) ∧
      (∀ p : Lane → LoadPlan, (∀ l ∈ ls, l.loadPlan (l.pair a) (l.reg b) = .ok (p l) ∧
          ∀ ks, (p l).source = .live ks → l.s.blocksAway ks = false) →
        exec (.ctxld a b) s = .next (ls.foldl (fun u l => (u.loadTeams l.tm.core (p l)).acquireL1 l.tm.core)
          (s.completed ls (fun _ => { upd := fun t => { t with st := .parked, left := t.st, why := .ctxld } })))) ∧
      (∀ l ∈ ls, l.s.physCore (fieldOf' (l.reg b) 16 16) = none →
        l.loadPlan (l.pair a) (l.reg b) = .error (.of .bounds)) ∧
      (∀ l ∈ ls, l.s.physCore (fieldOf' (l.reg b) 16 16) ≠ none → (l.pair a).toNat % 4096 ≠ 0 →
        l.loadPlan (l.pair a) (l.reg b) = .error (.atAddr .align (l.pair a))))) ∧
  (∀ (s : State) (p : Save), s.saveStep p = if s.drained p.teams = true ∧ s.quiet p.team p.thr = true ∧
      (∀ u ∈ s.unacked, ¬(u.team = p.team ∧ u.thr = p.thr)) ∧ (∀ x ∈ p.keys, s.hostAway x = false) then s.saveTeams p else s) ∧
  (∀ (s : State) (p : Save), Memory.wf s.mem = true → p.keys.Nodup → p.keys.length = s.areaSize p.teams →
    24 ≤ p.keys.length →
    (p.keys.take 24).map (s.saveTeams p).byte = leBytes 8 p.keys.length ++ leBytes 8 p.teams.length ++ leBytes 8 s.nextId ∧
    (∀ x, x ∉ p.keys → (s.saveTeams p).byte x = s.byte x) ∧ p ∉ (s.saveTeams p).saves ∧
    (∃ c ∈ (s.saveTeams p).contexts, c.teams = p.teams ∧ c.area = p.keys.map (s.saveTeams p).byte) ∧
    (∀ k ∈ p.teams, ∀ tm held, k ≠ p.team → s.teams[k]? = some tm → tm.status = .stopped held →
      ∃ t, (s.saveTeams p).teams[k]? = some t ∧ t.status = .saved)) ∧
  (∀ (t : Team) (core slot : Nat), t.status = .resident →
    (Team.seat core slot false (t.stop false).release).status = .resident ∧
    (Team.seat core slot false (t.stop false).release).core = core ∧
    (Team.seat core slot false (t.stop false).release).slot = slot ∧
    (Team.seat core slot false (t.stop false).release).spad = t.spad ∧
    (Team.seat core slot false (t.stop false).release).bars = t.bars ∧
    (Team.seat core slot false (t.stop false).release).threads = t.threads.map (fun th =>
      if th.st = .exited then th else { th.final with stSaved := .active, whySaved := .none, stale := true })) ∧
  (∀ (s : State) (core : Nat) (p : LoadPlan), Memory.wf s.mem = true →
    let r := (s.readKeys core p.keys).bring p.source
    let u := s.loadTeams core p
    (r.1.restoreFits (r.2.zip p.cores) p.hub = true →
      (∀ x, u.byte x = if x ∈ p.count then 0 else s.byte x) ∧
      ((∃ x ∈ p.count, s.byte x ≠ 0) → ∀ c ∈ u.contexts, c.area.drop 16 = p.area → c.teams = [] ∧ c.fate ≠ .waiting)) ∧
    (r.1.restoreFits (r.2.zip p.cores) p.hub = false → ∀ x, u.byte x = s.byte x))

/-- `QPOST` to a queue of the thread's own function, its earlier accesses in place and its own waiting for no link: a
full or disabled ring answers 0xFFFF_FFFF and takes nothing, else the packet is written to the ring's next slot and sent
where that lies elsewhere, the tail moves and the old tail is the result; a queue number beyond 63 traps with `BOUNDS`,
and a slot on protected bytes of a record with `PROT` outside `TRAPPED`. The read of the packet counts for the
operation. `LAUNCH` takes a packet of scratchpad as the only one of a private queue, and its operation holds d until the
child grid has ended (R346, R347). A posted packet is read as log entries 15 and 42 say, the slot's translation on the
device's behalf and its trap as log entry 30, and that reads and writes of a host wait for a link, as log entry 82. -/
def Obligations.QueuePosts : Prop :=
  (∀ (d a b : BitVec 7) (f : BitVec 4) (s : State) (l : Lane), s.Alone (instrForm (.qpost d a b f)) l → l.quiet = true →
    l.unacked = false → l.scriptAway (Script.read (l.pair a) 64) = false →
    let noted (u : State) : State := u.noteKeys l.tm.core (u.nextId - 1) (l.scriptKeys (Script.read (l.pair a) 64))
    let key := l.tm.fn * 128 + 16 + (l.reg b).toNat
    let q := l.s.queue key
    let posts (w : Word) : Done := { flag := f.toNat, dst := l.dsts d 1, op := some (.ready [w]) }
    (64 ≤ (l.reg b).toNat → exec (.qpost d a b f) s = .next (s.actedTrap l (.of .bounds))) ∧
    ((l.reg b).toNat < 64 →
      (∀ t, l.postedPacket (l.pair a) = .error t → exec (.qpost d a b f) s = .next (s.actedTrap l t)) ∧
      (∀ bs, l.postedPacket (l.pair a) = .ok bs →
        (q.en = false ∨ q.head.toNat + 2 ^ q.log2 ≤ q.tail.toNat → Room f.toNat [l] →
          exec (.qpost d a b f) s = .next (s.acted l (posts 0xFFFFFFFF#32) noted)) ∧
        (q.en = true → q.tail.toNat < q.head.toNat + 2 ^ q.log2 →
          let va := q.base + BitVec.ofNat 64 (64 * (q.tail.toNat % 2 ^ q.log2))
          (∀ c, l.s.translate (deviceWho l.tm.fn) .store va 64 = .error c →
            exec (.qpost d a b f) s = .next (s.actedTrap l (.atAddr c va))) ∧
          (l.th.st ≠ .trapped → l.s.seqProtected l.tm.fn va 64 = true → ∀ k p,
            l.s.translate (deviceWho l.tm.fn) .store va 64 = .ok (k, p) →
              exec (.qpost d a b f) s = .next (s.actedTrap l (.atAddr .prot va))) ∧
          (∀ k p, l.s.translate (deviceWho l.tm.fn) .store va 64 = .ok (k, p) → Room f.toNat [l] →
            l.th.st = .trapped ∨ l.s.seqProtected l.tm.fn va 64 = false → l.s.hostAway k = false →
            exec (.qpost d a b f) s = .next (s.acted l (posts (q.tail.truncate 32)) (fun u =>
              (((noted u).writeMem (some l.tm.core) k bs).sendRemote l.s.cur.team l.th.idx k).setQueue { (noted u).queue key with
                tail := q.tail + 1, posted := q.posted ++ [(q.tail.toNat, l.th.lclass, l.privileged)] }))))))) ∧
  (∀ (d a : BitVec 7) (f : BitVec 4) (s : State) (l : Lane), s.Alone (launchForm d a f) l → l.quiet = true →
    (∀ t, l.launchPacket (l.reg a) = .error t → exec (.launch d a f) s = .next (s.actedTrap l t)) ∧
    (∀ bs, l.launchPacket (l.reg a) = .ok (some bs) → l.s.launchesOn l.tm.core < 16 → Room f.toNat [l] →
      exec (.launch d a f) s = .next (s.acted l
        { flag := f.toNat, dst := l.dsts d 1, op := some (.launch (launchQueue l.s.nextId)) }
        (fun u => u.takePacket { Queue.idle (launchQueue (u.nextId - 1)) with fn := l.tm.fn }
          (.new 0 bs (some (l.th.lclass, l.privileged)) (u.nextId - 1))))))

/-- `BUNDLE_ENTRY` and `FLAG_WAIT_RELEASE`. Every member that has not entered its bundle reads the S-word: one that
cannot be fetched, or that breaks the rules of R35, traps at the first slot the thread would run; else the thread stands
at that slot, or in the next bundle where no slot is left. A wait whose counters are all zero releases: a member with a
cause held on a named flag takes it, any other has made the wait. Neither happens to a group with a member that waits
for its `SOFTMAX`, and a bundle at a host to which no link goes is not entered (R35 to R37, R163, R324). The slot of a
trap where no slot is left to run or the S-word is poisoned is read as log entry 72 says, a barred group as log entry
73, a group that enters after its hub has issued takes part from the next cycle on, as log entry 71 says, and that a
fetch waits for a link as log entry 82. -/
def Obligations.BundleEntryAndWaits : Prop :=
  (∀ (s : State) (k g : Nat) (t : Team) (gr : Group), s.groupAt k g = some (t, gr) →
    (t.needsEntry s.now gr = true → s.fetchAway t gr = true → exec (.bundleEntry k g) s = .next s) ∧
    (t.needsEntry s.now gr = true → s.fetchAway t gr = false → exec (.bundleEntry k g) s = .next (
      let u := (sortBy id gr.members).foldl (fun u j => u.enterBundle k j) (s.askFetch k gr)
      u.modTeam k (fun t =>
        let v := t.splitGroup u.now gr
        if u.hubIssued (v.core / 4) then
          { v with groups := v.groups.map (fun h =>
              if h.members.any (fun j => gr.members.contains j) then { h with readyAt := max h.readyAt (u.now + 1) } else h) }
        else v))) ∧
    (t.waitReady s.now gr = true → exec (.flagWaitRelease k g) s = .next (
      let u := (sortBy id gr.members).foldl (fun u j => u.releaseWait k j) s
      u.modTeam k (fun t => { t with groups := t.groups.map (fun h =>
        if h.members.any (fun j => gr.members.contains j) then { h with readyAt := max h.readyAt (u.now + 1) } else h) })))) ∧
  (∀ (s : State) (k j : Nat) (tm : Team) (th : Thread), s.teams[k]? = some tm → s.thread? k j = some th → th.sword = none →
    (∀ t, s.fetchWord tm th (bundleOf th.pc) = .error t →
      (t.cause ≠ .mchk → s.enterBundle k j = (s.modThread k j (fun x => { x with pc := th.pc })).takeTrap k j t false) ∧
      (t.cause = .mchk → s.enterBundle k j =
        (s.modThread k j (fun x => { x with pc := entrySlot (s.swordHeld tm th) th.pc })).takeTrap k j t false)) ∧
    (∀ (w : Word) (key : Nat), s.fetchWord tm th (bundleOf th.pc) = .ok (w, key) →
      let data (n : Nat) : Prop := fieldOf' w (2 + n) 1 = 1
      let wait := fieldOf' w 18 2
      let bad := fieldOf' w 0 3 ≠ 0 ∨ data 1 ∨ (wait = 0 ∧ fieldOf' w 20 12 ≠ 0) ∨ (wait ≠ 0 ∧ data wait) ∨
        (data 2 ∧ fieldOf' w 12 3 ≠ 0) ∨ (data 3 ∧ fieldOf' w 9 3 ≠ 0)
      (bad → s.enterBundle k j =
        (s.modThread k j (fun th => { th with pc := entrySlot w th.pc })).takeTrap k j (.of .illbun) false) ∧
      (¬bad → bundleOf (firstSlot w th.pc) = bundleOf th.pc → s.enterBundle k j =
        s.modThread k j (fun th => { th with pc := firstSlot w th.pc, sword := some w, waited := false })) ∧
      (¬bad → bundleOf (firstSlot w th.pc) ≠ bundleOf th.pc → s.enterBundle k j =
        s.modThread k j (fun x => { x with pc := firstSlot w th.pc, sword := none, waited := false })))) ∧
  (∀ (s : State) (k j : Nat) (th : Thread), s.thread? k j = some th → th.waitDue = true →
    (∀ d, th.firstHeld (waitFlags (th.sword.getD 0)) = some d → s.releaseWait k j = s.deliver k j d) ∧
    (th.firstHeld (waitFlags (th.sword.getD 0)) = none →
      s.releaseWait k j = s.modThread k j (fun th => { th with waited := true })))

/-- The other steps of a core. A group passed over 64 times rises one class; a sleeping thread continues when its
cycles, its timeout or its line's write have come, or, for `WAITF`, at a moment of the device's choosing; once the
core's slots have issued and the cycle's arrivals are filed, a bin that is full, aged or idle, with no older one due,
releases its threads as one group, and once no bin is due free bins go to the queue heads, and the core's bins have
acted in this cycle: none releases after that (R14 to R16, R28, R79, R80). The order of these steps is read as log
entries 60 to 62 say. -/
def Obligations.CoreSteps : Prop :=
  (∀ (s : State) (k g : Nat), exec (.issuePromotion k g) s = .next (s.modTeam k (fun t => { t with groups := t.groups.modify g (fun gr =>
    if 64 ≤ gr.passed then { gr with boost := gr.boost + 1, passed := gr.passed - 64 } else gr) }))) ∧
  (∀ (s : State) (k j : Nat) (th : Thread), s.thread? k j = some th → th.st = .sleeping →
    (∀ x, th.why = .sleep 0 x → exec (.sleepWake k j) s = .next (s.release k [j])) ∧
    (∀ dl line dirty, th.why = .waitf dl line dirty →
      (dl ≤ s.now → exec (.waitfTimeout k j) s = .next (s.release k [j])) ∧
      (∀ c, dirty = some c → c + 256 ≤ s.now → exec (.waitfWriteWake k j) s = .next (s.release k [j])) ∧
      exec (.waitfEarlyWake k j) s = .next (s.release k [j]))) ∧
  (∀ (s : State) (core n : Nat), s.slotsOpen core = false → core ∉ s.binsDone →
    let u := (s.closeCore core).fileArrivals core
    (∀ b, (u.coreBins core)[n]? = some b → (∀ c ∈ (u.coreBins core).take n, u.binDue c = false) →
      let released := ({ u with bins := u.bins.erase b } : State).modTeam b.team (fun t =>
        let t := b.threads.foldl (fun t j => t.modThread j (fun th => { th with st := .active })) t
        { t with groups := t.groups ++ [mkGroup u.now b.threads] })
      (u.binFull b = true ∨ u.binAged b = true → exec (.binAgeRelease core n) s = .next released) ∧
      (u.binIdle b = true → exec (.binIdleRelease core n) s = .next released)) ∧
    ({ u with binsDone := core :: u.binsDone } : State).binRelease core n (fun _ _ => true) = { u with binsDone := core :: u.binsDone } ∧
    ((∀ b ∈ u.coreBins core, u.binDue b = false) → exec (.binRefill core) s =
      .next { State.refillBins 64 u core with binsDone := core :: u.binsDone }))

/-- The steps of the memory side. A store queue performs its oldest entry once a release may and the older reads it must
come after have read: a store, two adjacent stores merged where the device chooses, an atomic at home or sent to a host,
the lanes of one local atomic, a scatter's lane once its entry has been sent. The Pannier sends an entry whose time has
come, once the core's slots have issued and the older entries of its sector have been sent, and serves it as soon as
nothing keeps it, a write entry in its place of the store order; an operation whose result is there completes, and a
load once its read has taken its place; a walk fills the walk caches with the entries above the leaf, and where it
succeeds the core's TLB and its hub's, of 256 and 4096 translations; a counted line whose last transaction is left
expires; a host's answer ends an AtomicOp (R43, R93, R110, R118, R120 to R122, R195, R204, R214). When a read takes its
place and what is sent is served are read as log entries 12, 14 and 16 say. -/
def Obligations.MemorySteps : Prop :=
  (∀ (s : State) (core : Nat) (e : SqEntry) (rest : List SqEntry), s.queueOf core = e :: rest →
    (∀ sc, e.release = some sc → s.releaseReady e sc = true) →
    (∀ loc bs u, e.act = .store loc bs → s.mergeNext core e rest = none → s.beforeStore e loc bs.length = some u →
      exec (.storePerform core) s = .next (((u.popQueue core 1).performStore e loc bs).storeDone e loc)) ∧
    (∀ loc bs e2 later bs2 u v, e.act = .store loc bs → rest = e2 :: later → e2.act = .store loc bs2 → e.mergesWith e2 = true →
      e2.release = none → s.beforeStore e loc bs.length = some u → s.beforeStore e2 loc bs2.length = some v →
      exec (.storePerform core) s = .next (((u.popQueue core 1).performStore e loc bs).storeDone e loc) ∨
      exec (.storePerform core) s = .next ((((v.popQueue core 2).performStore e2 loc bs2).storeDone e loc).storeDone e2 loc)) ∧
    (∀ loc act va u, e.act = .rmw loc act va → s.bindBefore e = some u →
      (∀ v, keyHost loc = false → u.beforeStore e loc act.size = some v → exec (.storePerform core) s =
        .next ((((v.popQueue core 1).performRmw core e.team e.thr e.op loc act va).markPassed e.team e.thr e.id).redDone e.op)) ∧
      (keyHost loc = true → u.hostLink ≠ none → exec (.storePerform core) s =
        .next (((u.popQueue core 1).setOpKind e.op (.hostAtomic loc act)).sendHost loc))) ∧
    (∀ loc c d addr u, e.act = .localAtomic loc c d addr →
      State.bindBeforeAll ((e :: rest).takeWhile (fun x => x.ins = e.ins)) s = some u →
      exec (.storePerform core) s = .next (((e :: rest).takeWhile (fun x => x.ins = e.ins)).foldl State.performLocal
        (u.popQueue core ((e :: rest).takeWhile (fun x => x.ins = e.ins)).length))) ∧
    (∀ loc bs, e.act = .localStore loc bs → exec (.storePerform core) s =
      .next ((((s.popQueue core 1).localWrite loc bs).markPassed e.team e.thr e.id).setReady e.op [] none)) ∧
    (∀ loc n addr u, e.act = .localLoad loc n addr → s.bindBefore e = some u →
      exec (.storePerform core) s = .next ((u.popQueue core 1).performLocal e)) ∧
    (∀ x, e.act = .fence x → exec (.storePerform core) s = .next (s.popQueue core 1))) ∧
  (∀ (s : State) (n : Nat) (e : PannierEntry), s.pannier.find? (fun e => e.id = n) = some e →
    let first := ∀ x ∈ s.pannier, x.core = e.core → x.sent = false → x.sector = e.sector → e.id ≤ x.id
    let u : State := { s.closeCore e.core with pannier := s.pannier.map (fun x => if x.id = n then { x with sent := true } else x) }
    (e.sent = false → s.windowOver e = false ∨ s.slotsOpen e.core = true ∨ ¬first → exec (.pannierSend n) s = .next s) ∧
    (e.sent = false → s.windowOver e = true → s.slotsOpen e.core = false → first →
      (∀ v, u.serveEntry e = some v → exec (.pannierSend n) s = .next v) ∧
      (u.serveEntry e = none → exec (.pannierSend n) s = .next u)) ∧
    (e.sent = true → (∀ v, s.serveEntry e = some v → exec (.pannierSend n) s = .next v) ∧
      (s.serveEntry e = none → exec (.pannierSend n) s = .next s)) ∧
    (e.write = false → s.serveEntry e = s.serveReads e.core [n]) ∧
    (e.write = true → (∀ h rest, s.queueOf e.core = h :: rest → h.act ≠ .scatter n) → s.serveEntry e = none) ∧
    (e.write = true → ∀ h rest, s.queueOf e.core = h :: rest → h.act = .scatter n → ∀ v, s.serveEntry e = some v →
      exec (.storePerform e.core) s = .next v)) ∧
  (∀ (s u : State) (core : Nat) (h : SqEntry) (rest : List SqEntry) (e : PannierEntry) (r : PannierReq),
    s.queueOf core = h :: rest → h.act = .scatter e.id → h.release = none → s.pannier.find? (fun x => x.id = e.id) = some e →
    e.reqs = [r] → r.op = h.id → r.thr = h.thr →
    (e.sent = false → exec (.storePerform core) s = .next s) ∧
    (e.sent = true → (∀ x ∈ s.pannier, x.id = e.id → x = e) →
      (∀ x ∈ s.pannier, x.core = e.core → x.sector = e.sector → x.write = false → e.id ≤ x.id) → s.hostAway r.loc = false →
      s.beforeStore h r.loc r.len = some u → u.unreachable r.loc = false →
      ∃ v, exec (.storePerform core) s = .next v ∧ v.mem = memPut u.mem r.loc r.data ∧ ∀ x ∈ v.pannier, x.id ≠ e.id)) ∧
  (∀ (s : State) (n : Nat) (o : Op), s.op? n = some o →
    (∀ ws, o.kind = .ready ws → exec (.operationComplete n) s = .next (s.completeOp o ws o.trap)) ∧
    (∀ ks form acq coh va u o' ws, o.kind = .load ks form acq coh va →
      s.bind o o.thr = some u → u.op? o.id = some o' →
      o'.kind = .ready ws → exec (.operationComplete n) s = .next ((u.completeOp o' ws o'.trap).acquired o acq)) ∧
    (∀ loc act, o.kind = .hostAtomic loc act →
      exec (.atomicopCompletion n true) s = .next ((s.performRmw (s.opCore o) o.team o.thr n loc act 0).redDone n) ∧
      exec (.atomicopCompletion n false) s = .next ((s.setReady n [] (some (.of .mchk))).redDone n))) ∧
  (∀ (s : State) (core fn : Nat) (va : DWord),
    let kept := s.cacheWalk (s.walkPath fn va (s.draw 0 0))
    (∀ c, s.walk fn va (s.draw 0 0) = .error c → exec (.pageWalk core fn va) s = .next kept) ∧
    (∀ pte level, s.walk fn va (s.draw 0 0) = .ok (pte, level) →
      let entry (p : TlbPlace) : TlbEntry := { place := p, fn := fn, page := va.toNat % 2 ^ 52 / 65536, pte := pte, level := level }
      ∃ tlb, exec (.pageWalk core fn va) s = .next { kept with tlb := tlb } ∧ entry (.core core) ∈ tlb ∧
        entry (.hub (core / 4)) ∈ tlb ∧ (tlb.filter (fun x => x.place = .core core)).length ≤ 256 ∧
        (tlb.filter (fun x => x.place = .hub (core / 4))).length ≤ 4096)) ∧
  (∀ (s : State) (line : Nat), exec (.residencyExpire line) s =
    .next { s with resid := if Tab.get s.resid line 0 = 1 then Tab.del s.resid line else s.resid })

/-- The steps of a copy, in its place in the store order. Where no chunk is hindered, `COPY_COMPLETE` writes them all:
the lines are present, every member's flag falls, and the object counts the bytes. Where a chunk faults, the chunks
before it are written, the lines are present, and `ENGFAULT` is held on the flags. A line arrives once its chunks are
written. An `ACCZ` ends so by `OPERATION_COMPLETE` (R91, R96, R104, R177, R181, R263). A copy is written whole, in its
place, as log entries 35 and 39 say. -/
def Obligations.CopySteps : Prop :=
  ∀ (s : State) (n : Nat) (o : Op) (j : CopyJob), s.op? n = some o → o.kind = .copy j → s.copyReady o j = true →
    let lowered (u : State) (j' : CopyJob) : State := j'.lines.foldl State.lowerLine u
    let ended (u : State) (j' : CopyJob) : State :=
      let v := (lowered u j').completeAll o j'.members none
      match j'.obj with | some b => v.barCount o.team b j'.total | none => v
    (j.src ≠ .zeros → exec (.copyComplete n) s = .next (s.copyComplete n) ∧ exec (.copyFault n) s = .next (s.copyFault n)) ∧
    (j.src = .zeros → exec (.operationComplete n) s = .next ((s.copyComplete n).copyFault n)) ∧
    (∀ u j', State.writeChunks o j.todo j s = (u, j', none) → s.copyComplete n = ended u j') ∧
    (∀ u j' c f at', State.writeChunks o j.todo j s = (u, j', some (c, .fault f at')) →
      s.copyComplete n = u ∧
      s.copyFault n = (lowered u j').completeAll o j'.members (some (engineTrap ((lowered u j').opCore o) at' j'.unit j'.engineNo f))) ∧
    (∀ u j' team line, (team, line) ∈ j.lines →
      State.writeChunks o (j.todo.filter (fun c => match c.dst with
        | .spad k off => decide (k = team) && decide (off / 128 = line) | .mem _ => false)) j s = (u, j', none) →
      exec (.scratchpadLineArrival n team line) s =
        .next ((u.setOpKind n (.copy { j' with lines := j'.lines.erase (team, line) })).lowerLine (team, line)))

/-- The ends of engine operations, their turn come and no access of theirs waiting for a link: a maintenance operation
answers its status word or holds `ENGFAULT`; an attention call runs to its stop and answers three words, with `NANFIRST`
or `ENGFAULT` held where the stop has a cause; a tap holds `TAPHIT` where a trapping probe hit; the older tap generation
retires once no tap runs under it; a walk whose calls have completed counts its flushed bytes, unless a fault stopped
it, leaves its causes on its flag and completes it (R247, R275, R276, R282, R285, R291, R292). An engine's accesses and
faults are read as log entries 33 to 35 say, and that an access waits for a link as log entry 82. -/
def Obligations.EngineSteps : Prop :=
  (∀ (s : State) (n : Nat) (o : Op) (j : KvJob), s.op? n = some o → o.kind = .kv j → s.engineReady j.core n = true →
    State.scriptAway (s.engOf o j.fn j.priv) (j.script.resume j.log) s = false →
    (∀ u st, State.runScript (s.engOf o j.fn j.priv) (j.script.resume j.log) s = (u, .ok st) →
      exec (.kvOpComplete n) s = .next (u.completeOp o [st.word] none)) ∧
    (∀ u f, State.runScript (s.engOf o j.fn j.priv) (j.script.resume j.log) s = (u, .error f) →
      exec (.kvOpComplete n) s = .next (u.completeOp o [] (some (engineTrap j.core 0 0 4 f))))) ∧
  (∀ (s : State) (n : Nat) (o : Op) (j : AttnJob), s.op? n = some o → o.kind = .attn j → s.engineReady j.core n = true →
    State.scriptAway (s.attnEng o j) (j.script.resume j.log) s = false →
    (∀ u r, State.runScript (s.attnEng o j) (j.script.resume j.log) s = (u, .ok r) →
      exec (.attnStop n) s = .next (u.completeOpBoth o r.words (match r.stop.fault with
        | some f => some (engineTrap j.core 0 0 3 f)
        | none => if r.stop.status = 5 ∧ j.nanTrap = true then
            some { cause := .nanfirst, addr := 0, info := BitVec.ofNat 64 r.stop.fblk } else none))) ∧
    (∀ u f, State.runScript (s.attnEng o j) (j.script.resume j.log) s = (u, .error f) →
      exec (.attnStop n) s = .next (u.completeOp o [] (some (engineTrap j.core 0 0 3 f))))) ∧
  (∀ (s : State) (n : Nat) (o : Op) (j : TapJob) (g : TapGen), s.op? n = some o → o.kind = .tap j →
    s.engineReady j.core n = true → s.genOf j = some g →
    State.scriptAway (s.engOf o j.fn j.priv) ((j.script g).resume j.log) s = false →
    (∀ u r, State.runScript (s.engOf o j.fn j.priv) ((j.script g).resume j.log) s = (u, .ok r) →
      exec (.tapComplete n) s = .next (u.completeOp o [] (if r.nhit = 0 then none
        else some { cause := .taphit, addr := 0, info := tapInfo r.nhit j.point r.probe }))) ∧
    (∀ u f, State.runScript (s.engOf o j.fn j.priv) ((j.script g).resume j.log) s = (u, .error f) →
      exec (.tapComplete n) s = .next (u.completeOp o [] (some (engineTrap j.core 0 0 5 f))))) ∧
  (∀ (s : State) (new old : TapGen), s.tapGens = [new, old] →
    (s.tapRuns old.gen = true → exec .tapGenerationRetire s = .next s) ∧
    (s.tapRuns old.gen = false → exec .tapGenerationRetire s = .next (State.tapInstall { s with tapGens := [new] }))) ∧
  (∀ (s : State) (ctx : Nat) (w : Walker) (o : Op), s.walkers.find? (fun w => w.ctx = ctx) = some w →
    w.halted = true ∨ w.stopped ≠ none → w.posted = [] →
    let left : State := { s with walkers := s.walkers.filter (fun x => x.op ≠ w.op) }
    let u := match w.obj with
      | some b => if w.stopped = none ∧ 0 < w.counted then left.barCount w.team b w.counted else left
      | none => left
    u.op? w.op = some o →
    exec (.spokeComplete ctx) s = .next (((u.modThread w.team w.thr (fun th =>
      { th with held := th.held ++ w.leaves.map (fun t => ({ flag := o.flag, order := o.id, trap := t } : Deferred)) })).completeOp
        o [] none).handContexts))

/-- The steps of a matrix engine. Free, it grants the entry that R257 puts first: a join call's signers have outcome
`DONE` and its register is idle. An entry passed over 32 times rises one class. A call whose passes are over ends: with
`FLUSH` or a stop its buffer starts to flush, else the buffer is held and its flags complete. A held buffer starts to
flush when evicted, and a flush performs its sectors in order (R24, R255, R257 to R260). The passes of a call are taken
whole as log entry 24 says; the outcome of its signers at the grant rests on log entry 27, and the status of a flush on
log entry 25. That a promoted entry has been passed over 32 times fewer from then on, `passed - 32`, is the model's
choice (log entry 61), as is that the end of a call waits for its status page, the premise `statusReady` (log entry 81).
-/
def Obligations.MatrixSteps : Prop :=
  (∀ (s : State) (hub : Nat) (c : MxCall), (s.engine hub).running = none → nextGrant (s.liveTable hub) = some c →
    s.callReady c = true → ∃ (table : List MxCall) (run : MxRun), run.call.id = c.id ∧ run.pass = 0 ∧ run.buf = none ∧
      exec (.mmaGrant hub) s = .next (
        let u := s.setEngine hub { s.engine hub with table := table, running := some run }
        match c.join with
        | some (h, n) => (c.signers.foldl (fun u g => u.modThread g.team g.thr (Thread.outcome n .done)) u).joinIdle h n
        | none => u)) ∧
  (∀ (s : State) (hub call : Nat), exec (.reservationPromotion hub call) s =
    .next (s.modEngine hub (fun e => { e with table := e.table.map (fun c =>
      if c.id = call ∧ 32 ≤ c.passed then { c with cls := min 3 (c.cls + 1), passed := c.passed - 32 } else c) }))) ∧
  (∀ (s : State) (hub n : Nat) (r r' : MxRun), (s.engine hub).running = some r →
    let u := State.runPasses (r.call.desc.passes + 1) s hub
    (u.engine hub).running = some r' → r'.buf = some n → r'.stop ≠ none ∨ r'.call.desc.passes ≤ r'.pass →
    u.statusReady r'.call = true →
    let v : State := { u.tileFree r'.call with nextId := u.nextId + 1 }
    let free : MxEngine := { u.engine hub with running := none }
    (r'.call.desc.flush = true ∨ r'.stop ≠ none → exec (.mmaCallEnd hub) s = .next (v.setEngine hub (free.modBuf n (fun b =>
      { b with phase := .flushing, order := u.nextId, ends := true, status := r'.status, next := 0, stop := r'.stop, call := r'.call })))) ∧
    (r'.call.desc.flush = false → r'.stop = none → exec (.mmaCallEnd hub) s =
      .next (((v.setEngine hub (free.modBuf n (fun b => { b with phase := .held, order := u.nextId, ends := false, stop := none }))).orStatus
        r'.call r'.status).completeCall r'.call [] true))) ∧
  (∀ (s : State) (hub n : Nat), (∃ b ∈ (s.engine hub).bufs, b.id = n ∧ b.phase = .held) →
    exec (.bufferEviction hub n) s = .next { s.modEngine hub (fun e => e.modBuf n (fun b =>
      { b with phase := .flushing, order := s.nextId, ends := false, status := 0, next := 0 })) with nextId := s.nextId + 1 }) ∧
  (∀ (s : State) (hub n : Nat), exec (.heldSumFlush hub n) s = .next ((List.range 4097).foldl (fun u _ => u.flushStep hub n) s)) ∧
  (∀ (s : State) (hub n : Nat) (b : MxBuf), (s.engine hub).bufs.find? (fun b => b.id = n && decide (b.phase = .flushing)) = some b →
    b.next < 4096 → ∀ k, s.sectorFault b (b.caddr + BitVec.ofNat 64 (b.next / 32 * b.call.desc.cpitch + b.next % 32 * 32)) = .ok k →
    s.flushStep hub n = (s.sectorWrite b.call k (b.addSector (4 * b.next) (s.bytesAt k 32)).1).modEngine hub (fun e =>
      e.modBuf n (fun x => { x with next := x.next + 1, status := x.status ||| (b.addSector (4 * b.next) (s.bytesAt k 32)).2 })))

/-- Writes of a queue's registers: a misaligned base, a size or reserved bits outside the limits, and the enabling of a
queue without a size are discarded with `CFGBAD`, a tail that goes back or passes the ring with `TAILBAD`, each with the
interrupt; any other write takes effect. An enabled queue reads its next packet whole and checks it, and one without
dependences is examined at once; a poll examines the packet again; a packet that fails a check is rejected, and one
whose dependences are met takes its place among those that wait. Of the waiting packets that fit, the one that has
waited longest is placed, and those left take the cores it gave back; one that does not fit reserves what it can; a grid
whose work is over ends and its signal is written, but not to the protected bytes of a record that its poster may not
write (R224, R312, R313, R317 to R320, R347, R348, R360). The device's own accesses are read as log entry 30 says, the
order of placements as log entry 89, and that they wait for a link to a host, and a host that completes the signal's
write with an error, as log entry 82. -/
def Obligations.QueueSteps : Prop :=
  (∀ (s : State) (key : Nat), key < 17 * 128 → key % 128 < 80 →
     let q := s.queue key
     let refused (code : BitVec 8) : State :=
       (s.setQueue { q with err := true, ecode := code }).send (.irq (key / 128) (if key % 128 < 16 then key % 128 else 16))
     (∀ v : DWord, (v.toNat % 64 ≠ 0 → exec (.qbaseWrite key v) s = .next (refused 0x0A#8)) ∧
       (v.toNat % 64 = 0 → exec (.qbaseWrite key v) s = .next (s.setQueue { q with base := v }))) ∧
     (∀ v : Word,
       let size := fieldOf' v 0 5
       (size < 1 ∨ 16 < size ∨ fieldOf' v 5 26 ≠ 0 → exec (.qlog2Write key v) s = .next (refused 0x0A#8)) ∧
       (1 ≤ size → size ≤ 16 → fieldOf' v 5 26 = 0 →
         exec (.qlog2Write key v) s = .next (s.setQueue { q with en := v.msb, log2 := size }))) ∧
     (q.log2 = 0 → exec (.queueEnable key) s = .next (refused 0x0A#8)) ∧
     (q.log2 ≠ 0 → exec (.queueEnable key) s = .next (s.setQueue { q with en := true })) ∧
     (∀ v : DWord,
       (v.toNat < q.tail.toNat ∨ q.head.toNat + 2 ^ q.log2 < v.toNat → exec (.qtailWrite key v) s = .next (refused 0x08#8)) ∧
       (q.tail.toNat ≤ v.toNat → v.toNat ≤ q.head.toNat + 2 ^ q.log2 →
         exec (.qtailWrite key v) s = .next (s.setQueue { q with tail := v }))) ∧
     exec (.errClear key) s = .next (s.setQueue { q with err := false })) ∧
  ((∀ (s : State) (key : Nat),
     let q := s.queue key
     let n := q.head.toNat
     let taken : Queue := { q with head := q.head + 1, posted := q.posted.filter (fun x => x.1 ≠ n) }
     let poster := (q.posted.find? (fun x => x.1 = n)).map (fun x => (x.2.1, x.2.2))
     let slot := q.base + BitVec.ofNat 64 (64 * (n % 2 ^ q.log2))
     let v := s.askHost (s.deviceKeys q.fn slot 64)
     q.en = true → q.cur = none → queueExists key = true → n < q.tail.toNat → s.mgmt.state ≠ 2 →
     (s.readAway (s.deviceKeys q.fn slot 64) = true → exec (.packetRead key) s = .next s) ∧
     (s.readAway (s.deviceKeys q.fn slot 64) = false →
     (s.deviceRead q.fn slot 64 = none →
       exec (.packetRead key) s = .next (v.reject taken (.new n (List.replicate 64 0) poster 0) 0x03#8)) ∧
     (∀ bs, s.deviceRead q.fn slot 64 = some bs →
       (∀ c, (Packet.new n bs poster 0).fieldError = some c →
         exec (.packetRead key) s = .next (v.reject taken (.new n bs poster 0) c)) ∧
       ((Packet.new n bs poster 0).fieldError = none → (Packet.new n bs poster 0).ndep ≠ 0 →
         exec (.packetRead key) s = .next (v.setQueue { taken with cur := some (.new n bs poster 0) })) ∧
       ((Packet.new n bs poster 0).fieldError = none → (Packet.new n bs poster 0).ndep = 0 →
         exec (.packetRead key) s = .next (v.examineQueue taken (.new n bs poster 0)))))) ∧
   (∀ (s : State) (key : Nat) (p : Packet), (s.queue key).cur = some p → p.checked = false →
     exec (.dependencePoll key) s = .next (s.examineQueue (s.queue key) p)) ∧
   (∀ (s : State) (q : Queue) (p : Packet),
     let away := s.readAway (s.examineKeys q.fn p)
     let v := s.askHost (s.examineKeys q.fn p)
     (away = true → s.examineQueue q p = s.setQueue { q with cur := some p }) ∧
     (∀ c, away = false → s.examine q.fn p = .error c → s.examineQueue q p = v.reject q p c) ∧
     (∀ p', away = false → s.examine q.fn p = .ok p' →
       (p'.checked = true → p'.met = none → s.examineQueue q p = State.placement { v.setQueue { q with
         cur := some { p' with met := some s.nextId } } with nextId := s.nextId + 1 } q.key) ∧
       (p'.checked = false ∨ p'.met ≠ none →
         s.examineQueue q p = State.placement (v.setQueue { q with cur := some p' }) q.key)) ∧
     (∀ code, p.parent = 0 → s.reject q p code = ((s.setQueue { q with
       err := true, ecode := code, epkt := BitVec.ofNat 64 p.no, en := false, cur := none, reserved := [] }).queueIrq q.key).takeFreed) ∧
     (∀ code o, p.parent ≠ 0 → (s.dropQueue q.key).takeFreed.op? p.parent = some o →
       s.reject q p code = (s.dropQueue q.key).takeFreed.completeOp o [code.zeroExtend 32] none)) ∧
   (∀ (s : State) (key : Nat) (p : Packet), (s.queue key).cur = some p → p.checked = true → s.mgmt.state ≠ 2 →
     s.mgmt.fencing = [] →
     (s.hasRoom key p (s.physMap p.map) = true →
       (s.waitingQueues.find? s.fitsNow = some key →
         exec (.placement key) s = .next (s.place (s.queue key) p (s.physMap p.map)).takeFreed) ∧
       (s.waitingQueues.find? s.fitsNow ≠ some key → exec (.placement key) s = .next s)) ∧
     (s.hasRoom key p (s.physMap p.map) = false → exec (.placement key) s = .next (s.setQueue { s.queue key with
       reserved := (s.queue key).reserved ++
         (s.physMap p.map).eraseDups.filter (fun c => !(s.queue key).reserved.contains c && !s.reservedElse key c) }))) ∧
   (∀ (s : State) (n : Nat) (g : Grid), s.grids[n]? = some g → g.ended = false → s.gridQuiet g = true →
     let u : State := { s with grids := s.grids.modify n (fun g => { g with ended := true }) }
     (g.csig = 0 → exec (.csigWrite n) s = .next (if g.parent = 0 then u else u.launchDone g.parent 0x80000000#32)) ∧
     (g.csig ≠ 0 →
       (∀ c, u.translate (deviceWho g.fn) .store g.csig 8 = .error c → exec (.csigWrite n) s = .next (
         if g.parent = 0 then
           (u.setQueue { u.queue g.queue with err := true, ecode := 0x03#8, epkt := BitVec.ofNat 64 g.pktNo }).queueIrq g.queue
         else u.launchDone g.parent 0x80000003#32)) ∧
       (∀ k p, u.translate (deviceWho g.fn) .store g.csig 8 = .ok (k, p) →
         let v := (u.writeMem none k (bytesOfPair g.cval)).sendRemote (g.teams.headD 0) 0 k
         let written := if g.parent = 0 then v else v.launchDone g.parent 0x80000000#32
         let failed := if g.parent = 0 then
             (u.setQueue { u.queue g.queue with err := true, ecode := 0x03#8, epkt := BitVec.ofNat 64 g.pktNo }).queueIrq g.queue
           else u.launchDone g.parent 0x80000003#32
         let allowed := g.priv = true ∨ u.seqProtected g.fn g.csig 8 = false
         (keyHost k = true → u.hostLink = none → exec (.csigWrite n) s = .next s) ∧
         (keyHost k = false ∨ u.hostLink ≠ none → ¬allowed → exec (.csigWrite n) s = .next failed) ∧
         (keyHost k = false → allowed → exec (.csigWrite n) s = .next written) ∧
         (keyHost k = true → u.hostLink ≠ none → allowed →
           exec (.csigWrite n) s = .next written ∨ exec (.csigWrite n) s = .next failed)))))


/-- What other devices and the host do. A write whose number is next is applied once and acknowledged, one applied
before is acknowledged only, and the atomics of another device are in that order too; an acknowledged write is no longer
outstanding; a remote read and a host read are answered from the home; a host write is applied where it is not refused;
the host's AtomicOps are performed and answered with the old bytes, others as unsupported (R113, R188, R202, R203, R214,
R224, R349). Other agents are read as log entries 55 and 67 say. -/
def Obligations.OutsideAccesses : Prop :=
  (∀ (s : State) (src seq pa : Nat) (bytes : List Byte) (priv : Bool), src ≠ s.ownNode → src ≤ 143 →
    let due := Tab.get s.rxSeq src 0
    let counted (u : State) : State := ({ u with rxSeq := Tab.put s.rxSeq src ((due + 1) % 2 ^ 48) 0 }).send (.ack src seq)
    (seq = due → s.writeRefused pa bytes.length priv = false →
      exec (.remoteWriteArrival src seq pa bytes priv) s = .next (counted (s.writeMem none pa bytes))) ∧
    (seq = due → s.writeRefused pa bytes.length priv = true →
      exec (.remoteWriteArrival src seq pa bytes priv) s = .next (counted s)) ∧
    (seq ≠ due → (due + 2 ^ 48 - seq) % 2 ^ 48 < 2 ^ 47 →
      exec (.remoteWriteArrival src seq pa bytes priv) s = .next (s.send (.ack src seq))) ∧
    (∀ acc act, rmwOf acc = some act →
      (seq = due → exec (.remoteAccessArrival ⟨src, seq⟩ pa acc priv) s = .next (counted
        ((s.agentRmw pa act priv).1.send (.remoteResult src ((s.agentRmw pa act priv).2.map Prod.snd))))) ∧
      (seq ≠ due → (due + 2 ^ 48 - seq) % 2 ^ 48 < 2 ^ 47 →
        exec (.remoteAccessArrival ⟨src, seq⟩ pa acc priv) s = .next (s.send (.ack src seq))))) ∧
  (∀ (s : State) (dst seq : Nat), exec (.remoteWriteAcknowledged dst seq) s =
    .next { s with unacked := s.unacked.filter (fun u => !(decide (u.dst = dst) && decide (u.seq = seq))) }) ∧
  (∀ (s : State) (src seq pa n : Nat) (priv : Bool), exec (.remoteAccessArrival ⟨src, seq⟩ pa (.read n) priv) s =
    .next ((s.noteAgent pa n).send (.remoteRead src ((s.agentRead pa n).map (fun bs => (bs, s.version (pa / 128))))))) ∧
  (∀ (s : State) (link pa : Nat), s.linkUp link = true →
    (∀ bytes, s.writeRefused pa bytes.length true = false →
      exec (.hostWriteArrival link pa bytes) s = .next (s.writeMem none pa bytes)) ∧
    (∀ n, exec (.hostReadArrival link pa n) s = .next ((s.noteAgent pa n).send (.hostRead link (s.agentRead pa n)))) ∧
    (∀ acc act, atomicOpOf acc = some act → exec (.hostAtomicopArrival link pa acc) s =
      .next ((s.agentRmw pa act true).1.send (.hostResult link ((s.agentRmw pa act true).2.map Prod.fst)))) ∧
    (∀ acc, atomicOpOf acc = none → exec (.hostAtomicopArrival link pa acc) s = .next (s.send (.hostResult link none)))) ∧
  (∀ (s : State) (pa : Nat) (act : Rmw) (priv : Bool) (bs : List Byte), pa % act.size = 0 →
    s.writeRefused pa act.size (priv || act.fused) = false → s.poisoned pa act.size = false →
    (act.run (s.bytesAt pa act.size) (s.version (pa / 128))).write = some bs →
    s.agentRmw pa act priv = (s.writeMem none pa bs, some (s.bytesAt pa act.size,
      (act.run (s.bytesAt pa act.size) (s.version (pa / 128))).words)))

/-- Snapshots, errors and failures. A snapshot is latched in its cycle with what the registers then hold, read and armed
again; a trigger while one is held is only counted. A corrected error is counted at its place, an uncorrectable one
poisons its unit; links, ports and lost devices are recorded; the fencing of a unit that fails begins with its record
and the alerts of R356, the teams of a core's hub sets stop, and once none is left the unit is fenced; a thermal trip
fails the device, and a current limit withholds a cycle's issues (R327, R332, R333, R349 to R352, R356). Snapshots,
fencing, limits and the places of corrected errors are read as log entries 46, 52, 53, 63 and 87 say. -/
def Obligations.DeviceHealth : Prop :=
  (∀ (s : State) (h : SnapHeader), s.snap.pending = some h → h.cycle.toNat ≤ s.now →
    exec .snapshotLatch s = .next { s with snap := { s.snap with pending := none, held := some (h, s.snapRegs) } }) ∧
  (∀ s : State,
    exec .snapread s = .next (s.send (.snapshot s.snap.held s.snap.missed)) ∧
    exec .snapRearm s = .next { s.send (.snapshot s.snap.held s.snap.missed) with snap := { s.snap with held := none, missed := 0 } } ∧
    (s.snap.pending = none → s.snap.held = none →
      let h : SnapHeader := { source := 1, cycle := BitVec.ofNat 64 (s.now + 64), cause := 0, core := s.logicalCore 0, thr := 0 }
      exec .snaptrig s = .next { s with snap := { s.snap with pending := some h } }) ∧
    (s.snap.pending ≠ none ∨ s.snap.held ≠ none → exec .snaptrig s =
      .next { s with snap := { s.snap with missed := min (s.snap.missed + 1) 0xFFFF } }) ∧
    (∀ e, exec (.correctedError e) s = .next { s with mgmt := { s.mgmt with
      corrected := s.mgmt.corrected.modify (placeNo e) (fun n => n + 1) } }) ∧
    (∀ n, inPhysical (32 * n) 32 = true → exec (.uncorrectableError (.sector n)) s =
      .next { s with poison := s.poison ++ (List.range' (32 * n) 32).filter (fun k => !s.poison.contains k) }) ∧
    (∀ k j n, exec (.uncorrectableError (.reg k j n)) s = .next (s.modThread k j (fun th =>
      if n < th.regs.length then { th with poisonRegs := addNew th.poisonRegs [n] } else th))) ∧
    (∀ k w, exec (.uncorrectableError (.spad k w)) s = .next (s.modTeam k (fun t =>
      if 4 * w + 4 ≤ t.spadBytes then { t with spadPoison := addNew t.spadPoison (List.range' (4 * w) 4) } else t))) ∧
    (∀ port, port < 16 → port ∉ s.mgmt.failedPorts →
      exec (.fabricLinkFailure port) s = .next { s with mgmt := { s.mgmt with failedPorts := s.mgmt.failedPorts ++ [port] } }) ∧
    (∀ node, node ≤ 143 → node ≠ s.ownNode → node ∉ s.mgmt.lost →
      exec (.deviceLost node) s = .next { s with mgmt := { s.mgmt with lost := s.mgmt.lost ++ [node] } }) ∧
    exec (.pcieLinkDown 0) s = .next { s with mgmt := { s.mgmt with link0Up := false } } ∧
    exec (.pcieLinkDown 1) s = .next { s with mgmt := { s.mgmt with link1Up := false } } ∧
    exec (.pcieLinkUp 0) s = .next { s with mgmt := { s.mgmt with link0Up := true } } ∧
    exec (.pcieLinkUp 1) s = .next { s with mgmt := { s.mgmt with link1Up := true } } ∧
    exec .thermalTrip s = .next { s with mgmt := { s.mgmt with state := 2, hot := true } } ∧
    exec .currentLimit s = .next ((List.range 192).foldl State.closeCore s)) ∧
  (∀ (s : State) (u : DeviceUnit), s.mgmt.canFence u = true → exec (.unitFailure u) s = exec (.fence u) s ∧
    exec (.unitFailure u) s = .next (s.fenceBegin u).fenceSteps ∧
    (s.fenceBegin u).mgmt = { s.mgmt with
      record := s.mgmt.record ++ [u], replace := true, state := max 1 s.mgmt.state, fencing := s.mgmt.fencing ++ [u] } ∧
    (∀ n, u = .core n → ∀ (k : Nat) (t t' : Team), s.teams[k]? = some t → t.status = .resident → t' ∈ s.teams → t'.core = n → t'.seated = true →
      t'.hubset = t.hubset → ∃ v : Team, (s.fenceBegin u).teams[k]? = some v ∧ v.status = .stopped false) ∧
    ((∀ n, u ≠ .core n) → s.fenceBegin u = State.alertMasters { s with mgmt := { s.mgmt with
      record := s.mgmt.record ++ [u], replace := true, state := max 1 s.mgmt.state, fencing := s.mgmt.fencing ++ [u] } })) ∧
  (∀ (s : State) (u : DeviceUnit), s.mgmt.fencing = [u] → (∀ n, u = .core n → s.setsOn n = []) → s.fenceSteps = (
    let m := { s.mgmt.addUnit u with fencing := [] }
    { s with queues := s.queues.map Queue.recheck, mgmt := { m with state := if m.cannotRun then 2 else m.state } }))

/-- The management port's commands, the registers a function reads, and the resets. `PCAP` takes 800 to 2,600 W;
`FWUPDATE` stages an image whose version is not below the rollback counter, which `FWCOMMIT` never lowers; `FENCE_CLEAR`
clears the record at the next reset; `ATTESTATION` counts each signature over the measurement, the tap generation and
`HEALTH`, and refuses once they are used up; `HEALTH` answers, and a function reads it at offset 0. A request of another
message type or vendor is ignored, and a command byte with its payload is a row of the table. A reset of any kind leaves
the device as at the start but for what survives it, takes a staged image only if its signature passes, and leaves a
device whose temperature is not below the trip `FAILED` (R348, R351, R353 to R355, R357). What a reset leaves, and how a
signature is checked, is read as log entries 6 and 54 say, a function's read and a request as log entry 88, and a
payload's layout as log entry 100. -/
def Obligations.ManagementCommands : Prop :=
  ∀ s : State,
    (∀ n, 800 ≤ n → n ≤ 2600 → exec (.pcap n) s = .next { s with mgmt := { s.mgmt with pcap := n } }) ∧
    (∀ n, n < 800 ∨ 2600 < n → exec (.pcap n) s = .next (s.send (.refused 0x06))) ∧
    (∀ (i : FwImage) (sig : List Byte), s.mgmt.rollback ≤ i.version →
      exec (.fwupdate i sig) s = .next { s with mgmt := { s.mgmt with staged := some (i, sig) } }) ∧
    (∀ (i : FwImage) (sig : List Byte), i.version < s.mgmt.rollback → exec (.fwupdate i sig) s = .next (s.send (.refused 0x04))) ∧
    exec .fwcommit s = .next { s with mgmt := { s.mgmt with rollback := max s.mgmt.rollback s.mgmt.running.version } } ∧
    exec .fenceClear s = .next { s with mgmt := { s.mgmt with clearRecord := true } } ∧
    (∀ u, s.mgmt.canFence u = false → exec (.fence u) s = .next (s.send (.refused 0x07))) ∧
    (s.mgmt.attest < 2 ^ 20 → exec .attestation s = .next (({ s with mgmt := { s.mgmt with attest := s.mgmt.attest + 1 } } : State).send
      (let m := Config.measure s.mgmt.running.body
       .attestation s.mgmt.attest m s.tapGen s.health (Config.attestSign s.mgmt.attest m s.tapGen s.health)))) ∧
    (2 ^ 20 ≤ s.mgmt.attest → exec .attestation s = .next s) ∧
    exec .health s = .next (s.send (.health s.health s.mgmt.corrected (Config.vendor 0))) ∧
    (∀ fn < 17, s.takeInput (.read fn 0) = s.send (.register fn 0 (some s.health))) ∧
    (∀ kind vendor cmd payload, kind ≠ 0x7F#8 ∨ vendor ≠ Config.vendor 0 →
      (Input.request kind vendor cmd payload).row = none ∧ s.takeInput (.request kind vendor cmd payload) = s) ∧
    (∀ payload : List Byte,
      let row (cmd : Byte) := (Input.request 0x7F (Config.vendor 0) cmd payload).row
      row 0x01 = some .health ∧ row 0x02 = some (if payload = [1] then .snapRearm else .snapread) ∧ row 0x03 = some .snaptrig ∧
      row 0x05 = some .reset ∧ row 0x06 = some (.pcap (leNat payload)) ∧ (payload = [0xFF] → row 0x07 = some .fenceClear) ∧
      row 0x08 = some .fwcommit) ∧
    (∃ u : State, exec .reset s = .next u ∧ exec .hostReset s = .next u ∧ exec .powerLoss s = .next u ∧
      u.teams = [] ∧ u.grids = [] ∧ u.queues = [] ∧ u.now = 0 ∧ u.mgmt.rollback = s.mgmt.rollback ∧ u.mgmt.attest = s.mgmt.attest ∧
      (s.mgmt.clearRecord = true → u.mgmt.record = []) ∧ (s.mgmt.clearRecord = false → u.mgmt.record = s.mgmt.record) ∧
      (s.mgmt.hot = true → u.mgmt.state = 2) ∧ (∀ c ∈ u.contexts, c.teams = []) ∧
      (∀ i sig, s.mgmt.staged = some (i, sig) →
        (sig.length = 2820 ∧ s.mgmt.rollback ≤ i.version ∧
          xmssVerify ((List.range 64).map Config.fwKey) (Config.signedBytes i.version i.body) sig = true → u.mgmt.running = i) ∧
        (sig.length ≠ 2820 ∨ i.version < s.mgmt.rollback ∨
          xmssVerify ((List.range 64).map Config.fwKey) (Config.signedBytes i.version i.body) sig = false →
          u.mgmt.running = s.mgmt.running)) ∧
      ∀ x ∈ u.mem, x ∈ s.mem ∧ 2 ^ 52 ≤ x.1)

/-- Some words of the manual's own examples, and what they decode to; a walker word; a word of a reserved opcode and one
whose unused field is not zero are refused (R45, R46, R51, R271). -/
def Obligations.DecodeWords : Prop :=
  decodeCore 0x021C1845#32 = .ok (.imad 7 3 4) ∧ decodeCore 0x06241846#32 = .ok (.isetLtN 9 3 4) ∧
  decodeCore 0x10448820#32 = .ok (.iaddi 17 17 32) ∧ decodeCore 0x0A501127#32 = .ok (.lea2 20 2 18) ∧
  decodeCore 0x347FFFFB#32 = .ok (.bnez 31 0x3FFFB) ∧ decodeCore 0x3CA06002#32 = .ok (.callr 40 12) ∧
  decodeCore 0x80141833#32 = .ok (.ffma 5 3 3) ∧ decodeCore 0x90242060#32 = .ok (.reqI8 9 4 6) ∧
  decodeCore 0x4024F000#32 = .ok (.jdecl 9 30) ∧ decodeCore 0x7C03C003#32 = .ok (.barSync 120) ∧
  decodeCore 0xA458A001#32 = .ok (.ldgW 22 20 0 1) ∧ decodeCore 0xFC000050#32 = .ok (.trap 5) ∧
  decodeWalker 0x18880001#32 = .ok (.ldval 1 1 1) ∧
  decodeCore 0xFFFFFFFF#32 = .error .unusedField ∧ decodeCore 0x00000010#32 = .error .unusedField ∧
  decodeCore 0x0000000F#32 = .error .reserved

/-- Decoding reverses encoding. Every row but a step of the device has a word, in the format of core code or of a walker
program; the word, and its four bytes before any others, decode to the instruction with every operand as it was. Two
instructions with one word in one format are the same (R1, R45, R271, R272). -/
def Obligations.DecodeEncode : Prop :=
  (∀ i : Instr, hasWord i = true ↔ ∃ sp w, encode i = some (sp, w)) ∧
  (∀ (i : Instr) (sp : WordSpace) (w : Word), encode i = some (sp, w) →
    decodeWord sp w = .ok i ∧ ∀ rest, decode sp (leBytes 4 w.toNat ++ rest) = .ok (i, rest)) ∧
  (∀ (i j : Instr) (p : WordSpace × Word), encode i = some p → encode j = some p → i = j)

/-- A step runs the decoded instruction. An issue slot that has not issued in this cycle, on a device that has not
failed, picks its group; when the four bytes at the group's program counter can be fetched and decode to an instruction,
and it has to act in order with no group of another slot of the hub, the step is that instruction's execution, by that
group, with the slot used and the other ready groups passed over once. Where groups act in order, the step of a slot
among them, once the hub's slots have issued, is the instruction's execution by the thread whose turn it is. A walker
that has not acted in this cycle and whose next word decodes executes it; an event of the device is executed, and so is
the row that an input is (R24, R27, R28, R35, R51, R97, R271, R277). Which agent moves next is the model's agenda (log
entry 8), and the turns of one cycle are read as log entry 85 says. -/
def Obligations.StepRunsDecoded : Prop :=
  ∀ (s : State) (m : Move) (ms : List Move), s.agenda = m :: ms →
    let u : State := { s with agenda := ms, fresh := s.fresh + 1, cur := { s.cur with promo := 0 } }
    (∀ core slot k t g th key leaf i, m = .issue core slot → (core, slot) ∉ s.issued → s.mgmt.state ≠ 2 →
      (∀ x ∈ u.openTurns (core / 4), ¬(x.core = core ∧ x.slot = slot)) → u.aloneInHub core slot = true →
      u.pickGroup core slot = some (k, t, g) → t.threads[g.lead]? = some th →
      let v : State := { u.passOver core slot k g.members with
        issued := (core, slot) :: (u.passOver core slot k g.members).issued }
      v.translate (fetchWho t th) .fetch th.pc 4 = .ok (key, leaf) → v.poisoned key 4 = false →
      decode .core (v.bytesAt key 4) = .ok (i, []) →
      step s = exec i { v with cur :=
        { team := k, members := g.members, lit := v.litAt th key, walker := 0, promo := g.promotion } }) ∧
    (∀ (core slot : Nat) (t : Turn) (j : Nat) (tm : Team) (th : Thread), m = .issue core slot → s.mgmt.state ≠ 2 →
      (∃ x ∈ u.openTurns (core / 4), x.core = core ∧ x.slot = slot) → u.hubOpen (core / 4) = false → u.nextTurn (core / 4) = some (t, j) →
      u.teams[t.team]? = some tm → tm.status = .resident → u.thread? t.team j = some th → th.runnable = true →
      step s = exec t.ins { u with
        turns := u.turns.map (fun x => if x.core = t.core ∧ x.slot = t.slot ∧ x.team = t.team then { x with left := x.left.erase j } else x)
        cur := { team := t.team, members := [j], lit := t.lit, walker := 0, promo := t.promo } }) ∧
    (∀ ctx w x i, m = .walker ctx → ctx ∉ u.walked → u.walkers.find? (fun w => w.ctx = ctx) = some w → u.walkRuns w = true →
      w.prog[w.wpc]? = some x → decodeWalker x = .ok i →
      step s = exec i { u with walked := ctx :: u.walked, cur := { u.cur with walker := ctx } }) ∧
    (∀ i, m = .event i → isDeviceStep i = true → step s = exec i u) ∧
    (∀ x i, m = .input x → x.row = some i → step s = exec i u)

/-- The machine after reset: nothing is placed or in flight, no queue is set up, every line's version is 0, the address
spaces' and the device's special registers hold the values of R336, `HEALTH` says 192 cores and `OK`, and memory has its
canonical form. A thread at its start: `ARGS` in v0 and v1 and zero in its other registers, window base 0, partition 32,
no flag raised, the packet's class, and the trap registers and `FPSTAT` 0; its team's `AGE` and `PWIN` are 32 and
`FPENV` is 1 (R8, R50, R201, R312, R315, R336, R355). The form of memory, what its unlisted bytes read as and the
stochastic seed are the model's choice (log entries 1, 5). -/
def Obligations.ResetState : Prop :=
  (let s := State.reset;
    s.teams = [] ∧ s.grids = [] ∧ s.ops = [] ∧ s.sq = [] ∧ s.pannier = [] ∧ s.walkers = [] ∧ s.snap.held = none ∧
    (∀ key, s.queue key = { key := key, fn := key / 128, base := 0, en := false, log2 := 0, tail := 0, head := 0, err := false
                            ecode := 0, epkt := 0, posted := [], cur := none, reserved := [] }) ∧
    (∀ line, s.version line = 0) ∧
    (∀ fn, fn < 17 → (s.space fn).tvb = 0 ∧ (s.space fn).ptroot = 0 ∧ (s.space fn).ssb = 0 ∧ (s.space fn).sqbase = 0 ∧
      (s.space fn).sqlen = 0) ∧
    s.snapmask = 0 ∧ s.health = BitVec.ofNat 64 (192 * 2 ^ 48) ∧ Memory.wf s.mem = true) ∧
  (∀ (p : Packet) (m j : Nat),
    let th := newThread p m j
    th.st = .active ∧ th.pc = p.kaddr + 4 ∧ th.regs[0]? = some p.args.lo ∧ th.regs[1]? = some p.args.hi ∧
    (∀ n v, 2 ≤ n → th.regs[n]? = some v → v = 0) ∧ th.win = 0 ∧ th.part = 32 ∧ (∀ k, th.flag k = 0) ∧ th.cls = p.prio ∧
    th.lclass = p.prio ∧ th.fpstat = 0 ∧ th.trapPc = 0 ∧ th.trapCause = 0 ∧ th.trapAddr = 0 ∧ th.trapInfo = 0 ∧
    (p.seqen = false → th.seq = 0xFFFFFFFF#32)) ∧
  (∀ (p : Packet) (now grid m hubset fn core slot : Nat),
    let t := newTeam p now grid m hubset fn core slot
    t.age = 32 ∧ t.pwin = 32 ∧ t.seed = 1 ∧ t.status = .resident)

/-- Every step keeps the canonical form of memory, from every state that has it: keys rise strictly and no entry equals
what an unlisted byte reads as, so that equal memories are equal data. The form is the model's own (log entry 1). -/
def Obligations.StepKeepsMemory : Prop :=
  ∀ s t : State, Memory.wf s.mem = true → step s = .next t → Memory.wf t.mem = true

/-- The frame of a completed instruction. Outside its own team it changes nothing but the operations and store-queue
entries it adds; in the team only the members and the groups; of a member, unless the instruction changes the thread's
own state, only its place, the results outstanding, its issue cycle and the one flag it counts on, and its registers
stay as they are until a result lands. A result of latency L is in its register L cycles later (R38, R39, R43, R61).
Which cycle before that a result lands in is open (log entry 11). -/
def Obligations.CompletionFrame : Prop :=
  (∀ (s : State) (ls : List Lane) (d : Lane → Done), ∃ (teams : List Team),
    s.completed ls d = { s with
      teams := teams
      ops := s.ops ++ ls.zipIdx.flatMap (fun p => (d p.1).opOf p.1 s.nextId (s.nextId + p.2))
      sq := s.sq ++ ls.zipIdx.flatMap (fun p => (d p.1).sqOf p.1 s.nextId (s.nextId + p.2))
      nextId := s.nextId + ls.length } ∧
    (∀ k, k ≠ s.cur.team → teams[k]? = s.teams[k]?) ∧
    (∀ t, s.teams[s.cur.team]? = some t → ∃ t', teams[s.cur.team]? = some t' ∧
      t' = { t with threads := t'.threads, groups := t'.groups } ∧
      ∀ (j : Nat) (th : Thread), t.threads[j]? = some th →
        ((∀ l ∈ ls, l.th.idx ≠ th.idx) → t'.threads[j]? = some th) ∧
        (∀ l, ls.find? (fun l => l.th.idx = th.idx) = some l → ∃ pick, t'.threads[j]? = some ((d l).apply s.now pick s.nextId l.th)))) ∧
  (∀ (d : Done) (now pick order : Nat) (th : Thread), d.upd = id →
    let u := d.apply now pick order th
    (u = { th with
      pc := u.pc, sword := u.sword, waited := u.waited, flags := u.flags, pend := u.pend, lastIssue := some now }) ∧
    (∀ k, k ≠ d.flag → u.flag k = th.flag k) ∧ (d.writes = [] → u.pend = th.pend) ∧
    (1 ≤ d.flag → d.flag ≤ th.flags.length → u.flag d.flag = th.flag d.flag + 1)) ∧
  (∀ (th : Thread) (now lat pick order n : Nat) (v : Word), th.pend = [] → 1 ≤ lat → n < th.regs.length →
    ((th.addPend now lat pick order [.reg n v]).settle now).regs = th.regs ∧
    ((th.addPend now lat pick order [.reg n v]).settle (now + lat)).regs = th.regs.set n v)

/-- Of all rows of the table only those that `mayWrite` lists can change a byte of memory: the steps that perform stores
and end operations, the writes of others, posts, saves and restores, and the resets. Every other instruction or event
leaves every address reading as before. -/
def Obligations.OnlyTheseWriteMemory : Prop :=
  ∀ (i : Instr) (s t : State), mayWrite i = false → exec i s = .next t → ∀ a, t.byte a = s.byte a

/-- A write event: the bytes read back, every other byte reads as before, the version of each line it touches rises by
one whatever the bytes, and no other version changes. A store that its queue performs changes the bytes it stores to and
no others (R1, R195, R201). The form of memory in its premise is the model's own (log entry 1). -/
def Obligations.MemoryReadsBack : Prop :=
  (∀ (s : State) (core : Option Nat) (k : Nat) (bs : List Byte), Memory.wf s.mem = true →
    let u := s.writeMem core k bs
    u.bytesAt k bs.length = bs ∧ (∀ a, a < k ∨ k + bs.length ≤ a → u.byte a = s.byte a)) ∧
  (∀ (s : State) (core : Option Nat) (k : Nat) (bs : List Byte), Tab.wf 0 s.vers = true → k + bs.length ≤ 257 * 2 ^ 52 →
    ∀ line, (s.writeMem core k bs).version line =
      if bs ≠ [] ∧ k / 128 ≤ line ∧ line ≤ (k + bs.length - 1) / 128 then s.version line + 1 else s.version line) ∧
  (∀ (s : State) (e : SqEntry) (k : Nat) (bs : List Byte), Memory.wf s.mem = true →
    (∀ a, a < k ∨ k + bs.length ≤ a → (s.performStore e k bs).byte a = s.byte a) ∧
    (s.unreachable k = false → (s.performStore e k bs).bytesAt k bs.length = bs))

/-- Taking a trap: the four trap registers keep where and why, the thread enters `TRAPPED` at its cause's vector in a
group of its own and, where it is enrolled and unsigned in a join register, is to leave it, and the snapshot that
`SNAPMASK` asks for is triggered. Those that are to leave in a cycle are withdrawn one by one, in ascending core rank
and then ascending team-local index: the ones placed before an operation of their hub with it, the rest when the cycle
ends. A cause in `TRAPPED` stops the team, or the teams of its hub set where one of its threads is enrolled in a join
register, at once, sends the alert, and leaves the trap registers. The codes of the causes (R24, R26, R321, R322, R324,
R325, R332). What a double trap keeps is read as log entry 50 says, and which cycle's operations a trap is counted among
as log entry 85 says. -/
def Obligations.TrapEntry : Prop :=
  (∀ (s : State) (k j : Nat) (t : Trap) (later : Bool) (tm : Team) (th : Thread), s.teams[k]? = some tm → s.thread? k j = some th →
    (th.st ≠ .trapped →
      let entered (x : Thread) : Thread := { x.settle s.now with
        trapPc := x.pc, trapCause := BitVec.ofNat 32 (t.cause.code + if later then 256 else 0), trapAddr := t.addr
        trapInfo := t.info, st := .trapped, why := .none
        pc := (s.space tm.fn).tvb + BitVec.ofNat 64 (64 * t.cause.code) + 4, sword := none, waited := false }
      let alone (x : Team) : Team := { x.leave [j] with groups := (x.leave [j]).groups ++ [mkGroup s.now [j]] }
      let u := (s.modThread k j entered).modTeam k alone
      let v := if u.enrolled k j = true then { u with leaving := u.leaving ++ [{ team := k, thr := j, since := s.trapCycle k }] } else u
      s.takeTrap k j t later = if v.snapmask.getLsbD t.cause.code then
        v.triggerSnap 3 (BitVec.ofNat 32 t.cause.code) tm.core j else v) ∧
    (th.st = .trapped → s.takeTrap k j t later = s.doubleTrap k j t.cause ∧
      ∀ x, (s.doubleTrap k j t.cause).thread? k j = some x → x.trapPc = th.trapPc ∧ x.trapCause = th.trapCause ∧
        x.trapAddr = th.trapAddr ∧ x.trapInfo = th.trapInfo)) ∧
  (∀ (s : State) (p : Leave → Bool), ∃ xs : List Leave, xs.Perm (s.leaving.filter p) ∧
    xs.Pairwise (fun x y => s.orderPlace x.team x.thr ≤ s.orderPlace y.team y.thr) ∧
    s.leaveWhere p = xs.foldl (fun s x => s.withdraw x.team x.thr) { s with leaving := s.leaving.filter (fun x => !p x) }) ∧
  (∀ (s : State) (k j : Nat) (tm : Team), s.teams[k]? = some tm →
    s.orderPlace k j = tm.core * 65536 + j ∧
    s.trapCycle k = (if ∃ x ∈ s.issued, hubOf x.1 = hubOf tm.core then s.now + 1 else s.now) ∧
    (s.enrolled k j = true ↔ ∃ h, s.hubsets[tm.hubset]? = some h ∧ ∃ jn ∈ h.joins, (k, j) ∈ jn.unsigned) ∧
    s.leaveAll = s.leaveWhere (fun x => decide (x.since ≤ s.now)) ∧
    s.leaveBefore k j = s.leaveWhere (fun x => decide (x.since ≤ s.now ∧ s.orderPlace x.team x.thr ≤ s.orderPlace k j ∧
      hubOf (s.orderPlace x.team x.thr / 65536) = hubOf (s.orderPlace k j / 65536)))) ∧
  (∀ (s : State) (k j : Nat) (c : Cause) (tm : Team), s.teams[k]? = some tm →
    Out.alert ∈ (s.doubleTrap k j c).out ∧
    (∀ k' ∈ s.widened k, ∀ t, s.teams[k']? = some t → t.status = .resident →
      ∃ u, (s.doubleTrap k j c).teams[k']? = some u ∧ u.status = .stopped true ∧ u.queue = [] ∧
        u.threads = t.threads.map (fun th => if th.st = .exited then th else
          { th.final with st := .saved, stSaved := th.st, whySaved := th.why, why := .none, stale := true })) ∧
    (∀ k', k' ∉ s.widened k → (s.doubleTrap k j c).teams[k']? = s.teams[k']?) ∧
    (∀ h, s.hubsets[tm.hubset]? = some h →
      ((∀ jn ∈ h.joins, jn.st = .idle ∨ ∀ e ∈ jn.enrolled, e.1 ≠ k) → s.widened k = [k]) ∧
      ((∃ jn ∈ h.joins, jn.st ≠ .idle ∧ ∃ e ∈ jn.enrolled, e.1 = k) →
        ∀ k', k' ∈ s.widened k ↔ k' ∈ h.teams ∧ ∃ t, s.teams[k']? = some t ∧ t.seated = true))) ∧
  [Cause.illop, .illbun, .priv, .align, .page, .prot, .spadbound, .rankbad, .nanfirst, .taphit, .tapmode, .partmix, .regrange,
    .mchk, .vsetfull, .joinbad, .engfault, .swtrap, .fmtbad, .bounds, .bkpt].map Cause.code = List.range' 1 21
end

