-- ==== Sys2Proof/Laws/Control.lean ====
section
/-!
SUPPORT. Program counters as numbers: the bundle of an address, the target of a branch and the slot a target names (R31, R32,
R65).
-/

namespace Sys2Proof.Machine

theorem bundleOf_eq (pc : DWord) : bundleOf pc = BitVec.ofNat 64 (bundleNo pc) := by
  unfold bundleOf bundleNo
  apply BitVec.eq_of_toNat_eq
  have h : pc &&& ~~~15#64 = (pc >>> 4) <<< 4 := by
    apply BitVec.eq_of_getLsbD_eq
    intro i hi
    simp only [BitVec.getLsbD_and, BitVec.getLsbD_not, BitVec.getLsbD_shiftLeft, BitVec.getLsbD_ushiftRight]
    have h15 : (15#64).getLsbD i = decide (i < 4) := by
      have : ∀ i : Fin 64, (15#64).getLsbD i = decide (i.1 < 4) := by decide
      exact this ⟨i, hi⟩
    rw [h15]
    by_cases h : i < 4
    · simp [h]
    · simp [h, hi, Nat.add_sub_cancel' (Nat.le_of_not_lt h)]
  rw [h]
  simp [Nat.shiftRight_eq_div_pow, Nat.shiftLeft_eq]
  omega

theorem branchTarget_eq (pc : DWord) (x : BitVec 18) :
    branchTarget pc x = BitVec.ofInt 64 (bundleNo pc + 16 * x.toInt + 4) := by
  have hx : x.signExtend 64 = BitVec.ofInt 64 x.toInt := by
    apply BitVec.eq_of_toInt_eq
    rw [BitVec.toInt_signExtend_of_le (by omega), BitVec.toInt_ofInt, Int.bmod_eq_of_le]
    · have := BitVec.le_toInt x; omega
    · have := BitVec.toInt_lt (x := x); omega
  unfold branchTarget
  rw [bundleOf_eq, hx, BitVec.ofInt_add, BitVec.ofInt_add, BitVec.ofInt_mul]
  rfl

theorem enterPc_eq (pc : DWord) : enterPc pc = if pc.toNat / 4 % 4 = 0 then BitVec.ofNat 64 (bundleNo pc + 4) else pc := by
  unfold enterPc slotNo
  rw [bundleOf_eq, BitVec.ofNat_add]
  rfl

end Sys2Proof.Machine
end

