-- ==== Sys2Proof/Laws/State.lean ====
section
/-!
SUPPORT. What each update of the state, of a team and of a thread leaves as it was: one lemma for each field (those about
memory are in Laws/Frame.lean).
-/

namespace Sys2Proof.Machine

@[simp] theorem State.modTeam_now (s : State) (k : Nat) (f : Team → Team) : (s.modTeam k f).now = s.now := rfl
@[simp] theorem State.modTeam_fresh (s : State) (k : Nat) (f : Team → Team) : (s.modTeam k f).fresh = s.fresh := rfl
@[simp] theorem State.modTeam_nextId (s : State) (k : Nat) (f : Team → Team) : (s.modTeam k f).nextId = s.nextId := rfl
@[simp] theorem State.modTeam_agenda (s : State) (k : Nat) (f : Team → Team) : (s.modTeam k f).agenda = s.agenda := rfl
@[simp] theorem State.modTeam_cur (s : State) (k : Nat) (f : Team → Team) : (s.modTeam k f).cur = s.cur := rfl
@[simp] theorem State.modTeam_issued (s : State) (k : Nat) (f : Team → Team) : (s.modTeam k f).issued = s.issued := rfl
@[simp] theorem State.modTeam_walked (s : State) (k : Nat) (f : Team → Team) : (s.modTeam k f).walked = s.walked := rfl
@[simp] theorem State.modTeam_turns (s : State) (k : Nat) (f : Team → Team) : (s.modTeam k f).turns = s.turns := rfl
@[simp] theorem State.modTeam_binsDone (s : State) (k : Nat) (f : Team → Team) : (s.modTeam k f).binsDone = s.binsDone := rfl
@[simp] theorem State.modTeam_reforms (s : State) (k : Nat) (f : Team → Team) : (s.modTeam k f).reforms = s.reforms := rfl
@[simp] theorem State.modTeam_bins (s : State) (k : Nat) (f : Team → Team) : (s.modTeam k f).bins = s.bins := rfl
@[simp] theorem State.modTeam_hubsets (s : State) (k : Nat) (f : Team → Team) : (s.modTeam k f).hubsets = s.hubsets := rfl
@[simp] theorem State.modTeam_grids (s : State) (k : Nat) (f : Team → Team) : (s.modTeam k f).grids = s.grids := rfl
@[simp] theorem State.modTeam_vers (s : State) (k : Nat) (f : Team → Team) : (s.modTeam k f).vers = s.vers := rfl
@[simp] theorem State.modTeam_resid (s : State) (k : Nat) (f : Team → Team) : (s.modTeam k f).resid = s.resid := rfl
@[simp] theorem State.modTeam_poison (s : State) (k : Nat) (f : Team → Team) : (s.modTeam k f).poison = s.poison := rfl
@[simp] theorem State.modTeam_tlb (s : State) (k : Nat) (f : Team → Team) : (s.modTeam k f).tlb = s.tlb := rfl
@[simp] theorem State.modTeam_walkCache (s : State) (k : Nat) (f : Team → Team) : (s.modTeam k f).walkCache = s.walkCache := rfl
@[simp] theorem State.modTeam_l1 (s : State) (k : Nat) (f : Team → Team) : (s.modTeam k f).l1 = s.l1 := rfl
@[simp] theorem State.modTeam_sq (s : State) (k : Nat) (f : Team → Team) : (s.modTeam k f).sq = s.sq := rfl
@[simp] theorem State.modTeam_pannier (s : State) (k : Nat) (f : Team → Team) : (s.modTeam k f).pannier = s.pannier := rfl
@[simp] theorem State.modTeam_ops (s : State) (k : Nat) (f : Team → Team) : (s.modTeam k f).ops = s.ops := rfl
@[simp] theorem State.modTeam_engines (s : State) (k : Nat) (f : Team → Team) : (s.modTeam k f).engines = s.engines := rfl
@[simp] theorem State.modTeam_walkers (s : State) (k : Nat) (f : Team → Team) : (s.modTeam k f).walkers = s.walkers := rfl
@[simp] theorem State.modTeam_tapGens (s : State) (k : Nat) (f : Team → Team) : (s.modTeam k f).tapGens = s.tapGens := rfl
@[simp] theorem State.modTeam_tapGen (s : State) (k : Nat) (f : Team → Team) : (s.modTeam k f).tapGen = s.tapGen := rfl
@[simp] theorem State.modTeam_tapWait (s : State) (k : Nat) (f : Team → Team) : (s.modTeam k f).tapWait = s.tapWait := rfl
@[simp] theorem State.modTeam_queues (s : State) (k : Nat) (f : Team → Team) : (s.modTeam k f).queues = s.queues := rfl
@[simp] theorem State.modTeam_spaces (s : State) (k : Nat) (f : Team → Team) : (s.modTeam k f).spaces = s.spaces := rfl
@[simp] theorem State.modTeam_sregs (s : State) (k : Nat) (f : Team → Team) : (s.modTeam k f).sregs = s.sregs := rfl
@[simp] theorem State.modTeam_devid (s : State) (k : Nat) (f : Team → Team) : (s.modTeam k f).devid = s.devid := rfl
@[simp] theorem State.modTeam_snapmask (s : State) (k : Nat) (f : Team → Team) : (s.modTeam k f).snapmask = s.snapmask := rfl
@[simp] theorem State.modTeam_snap (s : State) (k : Nat) (f : Team → Team) : (s.modTeam k f).snap = s.snap := rfl
@[simp] theorem State.modTeam_saves (s : State) (k : Nat) (f : Team → Team) : (s.modTeam k f).saves = s.saves := rfl
@[simp] theorem State.modTeam_contexts (s : State) (k : Nat) (f : Team → Team) : (s.modTeam k f).contexts = s.contexts := rfl
@[simp] theorem State.modTeam_unacked (s : State) (k : Nat) (f : Team → Team) : (s.modTeam k f).unacked = s.unacked := rfl
@[simp] theorem State.modTeam_txSeq (s : State) (k : Nat) (f : Team → Team) : (s.modTeam k f).txSeq = s.txSeq := rfl
@[simp] theorem State.modTeam_rxSeq (s : State) (k : Nat) (f : Team → Team) : (s.modTeam k f).rxSeq = s.rxSeq := rfl
@[simp] theorem State.modTeam_mgmt (s : State) (k : Nat) (f : Team → Team) : (s.modTeam k f).mgmt = s.mgmt := rfl
@[simp] theorem State.modTeam_out (s : State) (k : Nat) (f : Team → Team) : (s.modTeam k f).out = s.out := rfl

@[simp] theorem State.modThread_now (s : State) (k j : Nat) (f : Thread → Thread) : (s.modThread k j f).now = s.now := rfl
@[simp] theorem State.modThread_fresh (s : State) (k j : Nat) (f : Thread → Thread) : (s.modThread k j f).fresh = s.fresh := rfl
@[simp] theorem State.modThread_nextId (s : State) (k j : Nat) (f : Thread → Thread) : (s.modThread k j f).nextId = s.nextId := rfl
@[simp] theorem State.modThread_agenda (s : State) (k j : Nat) (f : Thread → Thread) : (s.modThread k j f).agenda = s.agenda := rfl
@[simp] theorem State.modThread_cur (s : State) (k j : Nat) (f : Thread → Thread) : (s.modThread k j f).cur = s.cur := rfl
@[simp] theorem State.modThread_issued (s : State) (k j : Nat) (f : Thread → Thread) : (s.modThread k j f).issued = s.issued := rfl
@[simp] theorem State.modThread_walked (s : State) (k j : Nat) (f : Thread → Thread) : (s.modThread k j f).walked = s.walked := rfl
@[simp] theorem State.modThread_turns (s : State) (k j : Nat) (f : Thread → Thread) : (s.modThread k j f).turns = s.turns := rfl
@[simp] theorem State.modThread_leaving (s : State) (k j : Nat) (f : Thread → Thread) : (s.modThread k j f).leaving = s.leaving := rfl
@[simp] theorem State.modThread_binsDone (s : State) (k j : Nat) (f : Thread → Thread) : (s.modThread k j f).binsDone = s.binsDone := rfl
@[simp] theorem State.modThread_reforms (s : State) (k j : Nat) (f : Thread → Thread) : (s.modThread k j f).reforms = s.reforms := rfl
@[simp] theorem State.modThread_bins (s : State) (k j : Nat) (f : Thread → Thread) : (s.modThread k j f).bins = s.bins := rfl
@[simp] theorem State.modThread_hubsets (s : State) (k j : Nat) (f : Thread → Thread) : (s.modThread k j f).hubsets = s.hubsets := rfl
@[simp] theorem State.modThread_grids (s : State) (k j : Nat) (f : Thread → Thread) : (s.modThread k j f).grids = s.grids := rfl
@[simp] theorem State.modThread_vers (s : State) (k j : Nat) (f : Thread → Thread) : (s.modThread k j f).vers = s.vers := rfl
@[simp] theorem State.modThread_resid (s : State) (k j : Nat) (f : Thread → Thread) : (s.modThread k j f).resid = s.resid := rfl
@[simp] theorem State.modThread_poison (s : State) (k j : Nat) (f : Thread → Thread) : (s.modThread k j f).poison = s.poison := rfl
@[simp] theorem State.modThread_tlb (s : State) (k j : Nat) (f : Thread → Thread) : (s.modThread k j f).tlb = s.tlb := rfl
@[simp] theorem State.modThread_walkCache (s : State) (k j : Nat) (f : Thread → Thread) : (s.modThread k j f).walkCache = s.walkCache := rfl
@[simp] theorem State.modThread_l1 (s : State) (k j : Nat) (f : Thread → Thread) : (s.modThread k j f).l1 = s.l1 := rfl
@[simp] theorem State.modThread_sq (s : State) (k j : Nat) (f : Thread → Thread) : (s.modThread k j f).sq = s.sq := rfl
@[simp] theorem State.modThread_pannier (s : State) (k j : Nat) (f : Thread → Thread) : (s.modThread k j f).pannier = s.pannier := rfl
@[simp] theorem State.modThread_ops (s : State) (k j : Nat) (f : Thread → Thread) : (s.modThread k j f).ops = s.ops := rfl
@[simp] theorem State.modThread_engines (s : State) (k j : Nat) (f : Thread → Thread) : (s.modThread k j f).engines = s.engines := rfl
@[simp] theorem State.modThread_walkers (s : State) (k j : Nat) (f : Thread → Thread) : (s.modThread k j f).walkers = s.walkers := rfl
@[simp] theorem State.modThread_tapGens (s : State) (k j : Nat) (f : Thread → Thread) : (s.modThread k j f).tapGens = s.tapGens := rfl
@[simp] theorem State.modThread_tapGen (s : State) (k j : Nat) (f : Thread → Thread) : (s.modThread k j f).tapGen = s.tapGen := rfl
@[simp] theorem State.modThread_tapWait (s : State) (k j : Nat) (f : Thread → Thread) : (s.modThread k j f).tapWait = s.tapWait := rfl
@[simp] theorem State.modThread_queues (s : State) (k j : Nat) (f : Thread → Thread) : (s.modThread k j f).queues = s.queues := rfl
@[simp] theorem State.modThread_spaces (s : State) (k j : Nat) (f : Thread → Thread) : (s.modThread k j f).spaces = s.spaces := rfl
@[simp] theorem State.modThread_sregs (s : State) (k j : Nat) (f : Thread → Thread) : (s.modThread k j f).sregs = s.sregs := rfl
@[simp] theorem State.modThread_devid (s : State) (k j : Nat) (f : Thread → Thread) : (s.modThread k j f).devid = s.devid := rfl
@[simp] theorem State.modThread_snapmask (s : State) (k j : Nat) (f : Thread → Thread) : (s.modThread k j f).snapmask = s.snapmask := rfl
@[simp] theorem State.modThread_snap (s : State) (k j : Nat) (f : Thread → Thread) : (s.modThread k j f).snap = s.snap := rfl
@[simp] theorem State.modThread_saves (s : State) (k j : Nat) (f : Thread → Thread) : (s.modThread k j f).saves = s.saves := rfl
@[simp] theorem State.modThread_contexts (s : State) (k j : Nat) (f : Thread → Thread) : (s.modThread k j f).contexts = s.contexts := rfl
@[simp] theorem State.modThread_unacked (s : State) (k j : Nat) (f : Thread → Thread) : (s.modThread k j f).unacked = s.unacked := rfl
@[simp] theorem State.modThread_txSeq (s : State) (k j : Nat) (f : Thread → Thread) : (s.modThread k j f).txSeq = s.txSeq := rfl
@[simp] theorem State.modThread_rxSeq (s : State) (k j : Nat) (f : Thread → Thread) : (s.modThread k j f).rxSeq = s.rxSeq := rfl
@[simp] theorem State.modThread_mgmt (s : State) (k j : Nat) (f : Thread → Thread) : (s.modThread k j f).mgmt = s.mgmt := rfl
@[simp] theorem State.modThread_out (s : State) (k j : Nat) (f : Thread → Thread) : (s.modThread k j f).out = s.out := rfl

@[simp] theorem State.send_now (s : State) (o : Out) : (s.send o).now = s.now := rfl
@[simp] theorem State.send_fresh (s : State) (o : Out) : (s.send o).fresh = s.fresh := rfl
@[simp] theorem State.send_nextId (s : State) (o : Out) : (s.send o).nextId = s.nextId := rfl
@[simp] theorem State.send_agenda (s : State) (o : Out) : (s.send o).agenda = s.agenda := rfl
@[simp] theorem State.send_cur (s : State) (o : Out) : (s.send o).cur = s.cur := rfl
@[simp] theorem State.send_issued (s : State) (o : Out) : (s.send o).issued = s.issued := rfl
@[simp] theorem State.send_walked (s : State) (o : Out) : (s.send o).walked = s.walked := rfl
@[simp] theorem State.send_turns (s : State) (o : Out) : (s.send o).turns = s.turns := rfl
@[simp] theorem State.send_leaving (s : State) (o : Out) : (s.send o).leaving = s.leaving := rfl
@[simp] theorem State.send_binsDone (s : State) (o : Out) : (s.send o).binsDone = s.binsDone := rfl
@[simp] theorem State.send_reforms (s : State) (o : Out) : (s.send o).reforms = s.reforms := rfl
@[simp] theorem State.send_teams (s : State) (o : Out) : (s.send o).teams = s.teams := rfl
@[simp] theorem State.send_bins (s : State) (o : Out) : (s.send o).bins = s.bins := rfl
@[simp] theorem State.send_hubsets (s : State) (o : Out) : (s.send o).hubsets = s.hubsets := rfl
@[simp] theorem State.send_grids (s : State) (o : Out) : (s.send o).grids = s.grids := rfl
@[simp] theorem State.send_vers (s : State) (o : Out) : (s.send o).vers = s.vers := rfl
@[simp] theorem State.send_resid (s : State) (o : Out) : (s.send o).resid = s.resid := rfl
@[simp] theorem State.send_poison (s : State) (o : Out) : (s.send o).poison = s.poison := rfl
@[simp] theorem State.send_tlb (s : State) (o : Out) : (s.send o).tlb = s.tlb := rfl
@[simp] theorem State.send_walkCache (s : State) (o : Out) : (s.send o).walkCache = s.walkCache := rfl
@[simp] theorem State.send_l1 (s : State) (o : Out) : (s.send o).l1 = s.l1 := rfl
@[simp] theorem State.send_sq (s : State) (o : Out) : (s.send o).sq = s.sq := rfl
@[simp] theorem State.send_pannier (s : State) (o : Out) : (s.send o).pannier = s.pannier := rfl
@[simp] theorem State.send_ops (s : State) (o : Out) : (s.send o).ops = s.ops := rfl
@[simp] theorem State.send_engines (s : State) (o : Out) : (s.send o).engines = s.engines := rfl
@[simp] theorem State.send_walkers (s : State) (o : Out) : (s.send o).walkers = s.walkers := rfl
@[simp] theorem State.send_tapGens (s : State) (o : Out) : (s.send o).tapGens = s.tapGens := rfl
@[simp] theorem State.send_tapGen (s : State) (o : Out) : (s.send o).tapGen = s.tapGen := rfl
@[simp] theorem State.send_tapWait (s : State) (o : Out) : (s.send o).tapWait = s.tapWait := rfl
@[simp] theorem State.send_queues (s : State) (o : Out) : (s.send o).queues = s.queues := rfl
@[simp] theorem State.send_spaces (s : State) (o : Out) : (s.send o).spaces = s.spaces := rfl
@[simp] theorem State.send_sregs (s : State) (o : Out) : (s.send o).sregs = s.sregs := rfl
@[simp] theorem State.send_devid (s : State) (o : Out) : (s.send o).devid = s.devid := rfl
@[simp] theorem State.send_snapmask (s : State) (o : Out) : (s.send o).snapmask = s.snapmask := rfl
@[simp] theorem State.send_snap (s : State) (o : Out) : (s.send o).snap = s.snap := rfl
@[simp] theorem State.send_saves (s : State) (o : Out) : (s.send o).saves = s.saves := rfl
@[simp] theorem State.send_contexts (s : State) (o : Out) : (s.send o).contexts = s.contexts := rfl
@[simp] theorem State.send_unacked (s : State) (o : Out) : (s.send o).unacked = s.unacked := rfl
@[simp] theorem State.send_txSeq (s : State) (o : Out) : (s.send o).txSeq = s.txSeq := rfl
@[simp] theorem State.send_rxSeq (s : State) (o : Out) : (s.send o).rxSeq = s.rxSeq := rfl
@[simp] theorem State.send_mgmt (s : State) (o : Out) : (s.send o).mgmt = s.mgmt := rfl

@[simp] theorem State.dropL1_now (s : State) (core : Nat) : (s.dropL1 core).now = s.now := rfl
@[simp] theorem State.dropL1_fresh (s : State) (core : Nat) : (s.dropL1 core).fresh = s.fresh := rfl
@[simp] theorem State.dropL1_nextId (s : State) (core : Nat) : (s.dropL1 core).nextId = s.nextId := rfl
@[simp] theorem State.dropL1_agenda (s : State) (core : Nat) : (s.dropL1 core).agenda = s.agenda := rfl
@[simp] theorem State.dropL1_cur (s : State) (core : Nat) : (s.dropL1 core).cur = s.cur := rfl
@[simp] theorem State.dropL1_issued (s : State) (core : Nat) : (s.dropL1 core).issued = s.issued := rfl
@[simp] theorem State.dropL1_walked (s : State) (core : Nat) : (s.dropL1 core).walked = s.walked := rfl
@[simp] theorem State.dropL1_turns (s : State) (core : Nat) : (s.dropL1 core).turns = s.turns := rfl
@[simp] theorem State.dropL1_leaving (s : State) (core : Nat) : (s.dropL1 core).leaving = s.leaving := rfl
@[simp] theorem State.dropL1_binsDone (s : State) (core : Nat) : (s.dropL1 core).binsDone = s.binsDone := rfl
@[simp] theorem State.dropL1_reforms (s : State) (core : Nat) : (s.dropL1 core).reforms = s.reforms := rfl
@[simp] theorem State.dropL1_teams (s : State) (core : Nat) : (s.dropL1 core).teams = s.teams := rfl
@[simp] theorem State.dropL1_bins (s : State) (core : Nat) : (s.dropL1 core).bins = s.bins := rfl
@[simp] theorem State.dropL1_hubsets (s : State) (core : Nat) : (s.dropL1 core).hubsets = s.hubsets := rfl
@[simp] theorem State.dropL1_grids (s : State) (core : Nat) : (s.dropL1 core).grids = s.grids := rfl
@[simp] theorem State.dropL1_vers (s : State) (core : Nat) : (s.dropL1 core).vers = s.vers := rfl
@[simp] theorem State.dropL1_resid (s : State) (core : Nat) : (s.dropL1 core).resid = s.resid := rfl
@[simp] theorem State.dropL1_poison (s : State) (core : Nat) : (s.dropL1 core).poison = s.poison := rfl
@[simp] theorem State.dropL1_tlb (s : State) (core : Nat) : (s.dropL1 core).tlb = s.tlb := rfl
@[simp] theorem State.dropL1_walkCache (s : State) (core : Nat) : (s.dropL1 core).walkCache = s.walkCache := rfl
@[simp] theorem State.dropL1_sq (s : State) (core : Nat) : (s.dropL1 core).sq = s.sq := rfl
@[simp] theorem State.dropL1_pannier (s : State) (core : Nat) : (s.dropL1 core).pannier = s.pannier := rfl
@[simp] theorem State.dropL1_ops (s : State) (core : Nat) : (s.dropL1 core).ops = s.ops := rfl
@[simp] theorem State.dropL1_engines (s : State) (core : Nat) : (s.dropL1 core).engines = s.engines := rfl
@[simp] theorem State.dropL1_walkers (s : State) (core : Nat) : (s.dropL1 core).walkers = s.walkers := rfl
@[simp] theorem State.dropL1_tapGens (s : State) (core : Nat) : (s.dropL1 core).tapGens = s.tapGens := rfl
@[simp] theorem State.dropL1_tapGen (s : State) (core : Nat) : (s.dropL1 core).tapGen = s.tapGen := rfl
@[simp] theorem State.dropL1_tapWait (s : State) (core : Nat) : (s.dropL1 core).tapWait = s.tapWait := rfl
@[simp] theorem State.dropL1_queues (s : State) (core : Nat) : (s.dropL1 core).queues = s.queues := rfl
@[simp] theorem State.dropL1_spaces (s : State) (core : Nat) : (s.dropL1 core).spaces = s.spaces := rfl
@[simp] theorem State.dropL1_sregs (s : State) (core : Nat) : (s.dropL1 core).sregs = s.sregs := rfl
@[simp] theorem State.dropL1_devid (s : State) (core : Nat) : (s.dropL1 core).devid = s.devid := rfl
@[simp] theorem State.dropL1_snapmask (s : State) (core : Nat) : (s.dropL1 core).snapmask = s.snapmask := rfl
@[simp] theorem State.dropL1_snap (s : State) (core : Nat) : (s.dropL1 core).snap = s.snap := rfl
@[simp] theorem State.dropL1_saves (s : State) (core : Nat) : (s.dropL1 core).saves = s.saves := rfl
@[simp] theorem State.dropL1_contexts (s : State) (core : Nat) : (s.dropL1 core).contexts = s.contexts := rfl
@[simp] theorem State.dropL1_unacked (s : State) (core : Nat) : (s.dropL1 core).unacked = s.unacked := rfl
@[simp] theorem State.dropL1_txSeq (s : State) (core : Nat) : (s.dropL1 core).txSeq = s.txSeq := rfl
@[simp] theorem State.dropL1_rxSeq (s : State) (core : Nat) : (s.dropL1 core).rxSeq = s.rxSeq := rfl
@[simp] theorem State.dropL1_mgmt (s : State) (core : Nat) : (s.dropL1 core).mgmt = s.mgmt := rfl
@[simp] theorem State.dropL1_out (s : State) (core : Nat) : (s.dropL1 core).out = s.out := rfl

theorem State.sendHost_eq (s : State) (k : Nat) : ∃ o, s.sendHost k = { s with out := o } := by
  unfold State.sendHost; split <;> exact ⟨_, rfl⟩

/-- A read transaction changes the line's residency and what leaves the device. -/
theorem State.readTransaction_eq (s : State) (line : Nat) :
    ∃ r o, s.readTransaction line = { s with resid := r, out := o } := by
  unfold State.readTransaction; obtain ⟨o, h⟩ := s.sendHost_eq (line * 128); split
  · rw [h]; exact ⟨_, o, rfl⟩
  · exact ⟨_, s.out, rfl⟩

@[simp] theorem State.readTransaction_now (s : State) (line : Nat) : (s.readTransaction line).now = s.now := by
  obtain ⟨_, _, h⟩ := s.readTransaction_eq line; rw [h]
@[simp] theorem State.readTransaction_fresh (s : State) (line : Nat) : (s.readTransaction line).fresh = s.fresh := by
  obtain ⟨_, _, h⟩ := s.readTransaction_eq line; rw [h]
@[simp] theorem State.readTransaction_nextId (s : State) (line : Nat) : (s.readTransaction line).nextId = s.nextId := by
  obtain ⟨_, _, h⟩ := s.readTransaction_eq line; rw [h]
@[simp] theorem State.readTransaction_agenda (s : State) (line : Nat) : (s.readTransaction line).agenda = s.agenda := by
  obtain ⟨_, _, h⟩ := s.readTransaction_eq line; rw [h]
@[simp] theorem State.readTransaction_cur (s : State) (line : Nat) : (s.readTransaction line).cur = s.cur := by
  obtain ⟨_, _, h⟩ := s.readTransaction_eq line; rw [h]
@[simp] theorem State.readTransaction_issued (s : State) (line : Nat) : (s.readTransaction line).issued = s.issued := by
  obtain ⟨_, _, h⟩ := s.readTransaction_eq line; rw [h]
@[simp] theorem State.readTransaction_walked (s : State) (line : Nat) : (s.readTransaction line).walked = s.walked := by
  obtain ⟨_, _, h⟩ := s.readTransaction_eq line; rw [h]
@[simp] theorem State.readTransaction_turns (s : State) (line : Nat) : (s.readTransaction line).turns = s.turns := by
  obtain ⟨_, _, h⟩ := s.readTransaction_eq line; rw [h]
@[simp] theorem State.readTransaction_leaving (s : State) (line : Nat) : (s.readTransaction line).leaving = s.leaving := by
  obtain ⟨_, _, h⟩ := s.readTransaction_eq line; rw [h]
@[simp] theorem State.readTransaction_binsDone (s : State) (line : Nat) : (s.readTransaction line).binsDone = s.binsDone := by
  obtain ⟨_, _, h⟩ := s.readTransaction_eq line; rw [h]
@[simp] theorem State.readTransaction_reforms (s : State) (line : Nat) : (s.readTransaction line).reforms = s.reforms := by
  obtain ⟨_, _, h⟩ := s.readTransaction_eq line; rw [h]
@[simp] theorem State.readTransaction_teams (s : State) (line : Nat) : (s.readTransaction line).teams = s.teams := by
  obtain ⟨_, _, h⟩ := s.readTransaction_eq line; rw [h]
@[simp] theorem State.readTransaction_bins (s : State) (line : Nat) : (s.readTransaction line).bins = s.bins := by
  obtain ⟨_, _, h⟩ := s.readTransaction_eq line; rw [h]
@[simp] theorem State.readTransaction_hubsets (s : State) (line : Nat) : (s.readTransaction line).hubsets = s.hubsets := by
  obtain ⟨_, _, h⟩ := s.readTransaction_eq line; rw [h]
@[simp] theorem State.readTransaction_grids (s : State) (line : Nat) : (s.readTransaction line).grids = s.grids := by
  obtain ⟨_, _, h⟩ := s.readTransaction_eq line; rw [h]
@[simp] theorem State.readTransaction_vers (s : State) (line : Nat) : (s.readTransaction line).vers = s.vers := by
  obtain ⟨_, _, h⟩ := s.readTransaction_eq line; rw [h]
@[simp] theorem State.readTransaction_poison (s : State) (line : Nat) : (s.readTransaction line).poison = s.poison := by
  obtain ⟨_, _, h⟩ := s.readTransaction_eq line; rw [h]
@[simp] theorem State.readTransaction_tlb (s : State) (line : Nat) : (s.readTransaction line).tlb = s.tlb := by
  obtain ⟨_, _, h⟩ := s.readTransaction_eq line; rw [h]
@[simp] theorem State.readTransaction_walkCache (s : State) (line : Nat) : (s.readTransaction line).walkCache = s.walkCache := by
  obtain ⟨_, _, h⟩ := s.readTransaction_eq line; rw [h]
@[simp] theorem State.readTransaction_l1 (s : State) (line : Nat) : (s.readTransaction line).l1 = s.l1 := by
  obtain ⟨_, _, h⟩ := s.readTransaction_eq line; rw [h]
@[simp] theorem State.readTransaction_sq (s : State) (line : Nat) : (s.readTransaction line).sq = s.sq := by
  obtain ⟨_, _, h⟩ := s.readTransaction_eq line; rw [h]
@[simp] theorem State.readTransaction_pannier (s : State) (line : Nat) : (s.readTransaction line).pannier = s.pannier := by
  obtain ⟨_, _, h⟩ := s.readTransaction_eq line; rw [h]
@[simp] theorem State.readTransaction_ops (s : State) (line : Nat) : (s.readTransaction line).ops = s.ops := by
  obtain ⟨_, _, h⟩ := s.readTransaction_eq line; rw [h]
@[simp] theorem State.readTransaction_engines (s : State) (line : Nat) : (s.readTransaction line).engines = s.engines := by
  obtain ⟨_, _, h⟩ := s.readTransaction_eq line; rw [h]
@[simp] theorem State.readTransaction_walkers (s : State) (line : Nat) : (s.readTransaction line).walkers = s.walkers := by
  obtain ⟨_, _, h⟩ := s.readTransaction_eq line; rw [h]
@[simp] theorem State.readTransaction_tapGens (s : State) (line : Nat) : (s.readTransaction line).tapGens = s.tapGens := by
  obtain ⟨_, _, h⟩ := s.readTransaction_eq line; rw [h]
@[simp] theorem State.readTransaction_tapGen (s : State) (line : Nat) : (s.readTransaction line).tapGen = s.tapGen := by
  obtain ⟨_, _, h⟩ := s.readTransaction_eq line; rw [h]
@[simp] theorem State.readTransaction_tapWait (s : State) (line : Nat) : (s.readTransaction line).tapWait = s.tapWait := by
  obtain ⟨_, _, h⟩ := s.readTransaction_eq line; rw [h]
@[simp] theorem State.readTransaction_queues (s : State) (line : Nat) : (s.readTransaction line).queues = s.queues := by
  obtain ⟨_, _, h⟩ := s.readTransaction_eq line; rw [h]
@[simp] theorem State.readTransaction_spaces (s : State) (line : Nat) : (s.readTransaction line).spaces = s.spaces := by
  obtain ⟨_, _, h⟩ := s.readTransaction_eq line; rw [h]
@[simp] theorem State.readTransaction_sregs (s : State) (line : Nat) : (s.readTransaction line).sregs = s.sregs := by
  obtain ⟨_, _, h⟩ := s.readTransaction_eq line; rw [h]
@[simp] theorem State.readTransaction_devid (s : State) (line : Nat) : (s.readTransaction line).devid = s.devid := by
  obtain ⟨_, _, h⟩ := s.readTransaction_eq line; rw [h]
@[simp] theorem State.readTransaction_snapmask (s : State) (line : Nat) : (s.readTransaction line).snapmask = s.snapmask := by
  obtain ⟨_, _, h⟩ := s.readTransaction_eq line; rw [h]
@[simp] theorem State.readTransaction_snap (s : State) (line : Nat) : (s.readTransaction line).snap = s.snap := by
  obtain ⟨_, _, h⟩ := s.readTransaction_eq line; rw [h]
@[simp] theorem State.readTransaction_saves (s : State) (line : Nat) : (s.readTransaction line).saves = s.saves := by
  obtain ⟨_, _, h⟩ := s.readTransaction_eq line; rw [h]
@[simp] theorem State.readTransaction_contexts (s : State) (line : Nat) : (s.readTransaction line).contexts = s.contexts := by
  obtain ⟨_, _, h⟩ := s.readTransaction_eq line; rw [h]
@[simp] theorem State.readTransaction_unacked (s : State) (line : Nat) : (s.readTransaction line).unacked = s.unacked := by
  obtain ⟨_, _, h⟩ := s.readTransaction_eq line; rw [h]
@[simp] theorem State.readTransaction_txSeq (s : State) (line : Nat) : (s.readTransaction line).txSeq = s.txSeq := by
  obtain ⟨_, _, h⟩ := s.readTransaction_eq line; rw [h]
@[simp] theorem State.readTransaction_rxSeq (s : State) (line : Nat) : (s.readTransaction line).rxSeq = s.rxSeq := by
  obtain ⟨_, _, h⟩ := s.readTransaction_eq line; rw [h]
@[simp] theorem State.readTransaction_mgmt (s : State) (line : Nat) : (s.readTransaction line).mgmt = s.mgmt := by
  obtain ⟨_, _, h⟩ := s.readTransaction_eq line; rw [h]

@[simp] theorem State.dropOp_now (s : State) (id : Nat) : (s.dropOp id).now = s.now := rfl
@[simp] theorem State.dropOp_fresh (s : State) (id : Nat) : (s.dropOp id).fresh = s.fresh := rfl
@[simp] theorem State.dropOp_nextId (s : State) (id : Nat) : (s.dropOp id).nextId = s.nextId := rfl
@[simp] theorem State.dropOp_agenda (s : State) (id : Nat) : (s.dropOp id).agenda = s.agenda := rfl
@[simp] theorem State.dropOp_cur (s : State) (id : Nat) : (s.dropOp id).cur = s.cur := rfl
@[simp] theorem State.dropOp_issued (s : State) (id : Nat) : (s.dropOp id).issued = s.issued := rfl
@[simp] theorem State.dropOp_walked (s : State) (id : Nat) : (s.dropOp id).walked = s.walked := rfl
@[simp] theorem State.dropOp_turns (s : State) (id : Nat) : (s.dropOp id).turns = s.turns := rfl
@[simp] theorem State.dropOp_leaving (s : State) (id : Nat) : (s.dropOp id).leaving = s.leaving := rfl
@[simp] theorem State.dropOp_binsDone (s : State) (id : Nat) : (s.dropOp id).binsDone = s.binsDone := rfl
@[simp] theorem State.dropOp_reforms (s : State) (id : Nat) : (s.dropOp id).reforms = s.reforms := rfl
@[simp] theorem State.dropOp_teams (s : State) (id : Nat) : (s.dropOp id).teams = s.teams := rfl
@[simp] theorem State.dropOp_bins (s : State) (id : Nat) : (s.dropOp id).bins = s.bins := rfl
@[simp] theorem State.dropOp_hubsets (s : State) (id : Nat) : (s.dropOp id).hubsets = s.hubsets := rfl
@[simp] theorem State.dropOp_grids (s : State) (id : Nat) : (s.dropOp id).grids = s.grids := rfl
@[simp] theorem State.dropOp_vers (s : State) (id : Nat) : (s.dropOp id).vers = s.vers := rfl
@[simp] theorem State.dropOp_resid (s : State) (id : Nat) : (s.dropOp id).resid = s.resid := rfl
@[simp] theorem State.dropOp_poison (s : State) (id : Nat) : (s.dropOp id).poison = s.poison := rfl
@[simp] theorem State.dropOp_tlb (s : State) (id : Nat) : (s.dropOp id).tlb = s.tlb := rfl
@[simp] theorem State.dropOp_walkCache (s : State) (id : Nat) : (s.dropOp id).walkCache = s.walkCache := rfl
@[simp] theorem State.dropOp_l1 (s : State) (id : Nat) : (s.dropOp id).l1 = s.l1 := rfl
@[simp] theorem State.dropOp_pannier (s : State) (id : Nat) : (s.dropOp id).pannier = s.pannier := rfl
@[simp] theorem State.dropOp_engines (s : State) (id : Nat) : (s.dropOp id).engines = s.engines := rfl
@[simp] theorem State.dropOp_walkers (s : State) (id : Nat) : (s.dropOp id).walkers = s.walkers := rfl
@[simp] theorem State.dropOp_tapGens (s : State) (id : Nat) : (s.dropOp id).tapGens = s.tapGens := rfl
@[simp] theorem State.dropOp_tapGen (s : State) (id : Nat) : (s.dropOp id).tapGen = s.tapGen := rfl
@[simp] theorem State.dropOp_tapWait (s : State) (id : Nat) : (s.dropOp id).tapWait = s.tapWait := rfl
@[simp] theorem State.dropOp_queues (s : State) (id : Nat) : (s.dropOp id).queues = s.queues := rfl
@[simp] theorem State.dropOp_spaces (s : State) (id : Nat) : (s.dropOp id).spaces = s.spaces := rfl
@[simp] theorem State.dropOp_sregs (s : State) (id : Nat) : (s.dropOp id).sregs = s.sregs := rfl
@[simp] theorem State.dropOp_devid (s : State) (id : Nat) : (s.dropOp id).devid = s.devid := rfl
@[simp] theorem State.dropOp_snapmask (s : State) (id : Nat) : (s.dropOp id).snapmask = s.snapmask := rfl
@[simp] theorem State.dropOp_snap (s : State) (id : Nat) : (s.dropOp id).snap = s.snap := rfl
@[simp] theorem State.dropOp_saves (s : State) (id : Nat) : (s.dropOp id).saves = s.saves := rfl
@[simp] theorem State.dropOp_contexts (s : State) (id : Nat) : (s.dropOp id).contexts = s.contexts := rfl
@[simp] theorem State.dropOp_unacked (s : State) (id : Nat) : (s.dropOp id).unacked = s.unacked := rfl
@[simp] theorem State.dropOp_txSeq (s : State) (id : Nat) : (s.dropOp id).txSeq = s.txSeq := rfl
@[simp] theorem State.dropOp_rxSeq (s : State) (id : Nat) : (s.dropOp id).rxSeq = s.rxSeq := rfl
@[simp] theorem State.dropOp_mgmt (s : State) (id : Nat) : (s.dropOp id).mgmt = s.mgmt := rfl
@[simp] theorem State.dropOp_out (s : State) (id : Nat) : (s.dropOp id).out = s.out := rfl

@[simp] theorem State.setOpKind_now (s : State) (id : Nat) (kd : OpKind) : (s.setOpKind id kd).now = s.now := rfl
@[simp] theorem State.setOpKind_fresh (s : State) (id : Nat) (kd : OpKind) : (s.setOpKind id kd).fresh = s.fresh := rfl
@[simp] theorem State.setOpKind_nextId (s : State) (id : Nat) (kd : OpKind) : (s.setOpKind id kd).nextId = s.nextId := rfl
@[simp] theorem State.setOpKind_agenda (s : State) (id : Nat) (kd : OpKind) : (s.setOpKind id kd).agenda = s.agenda := rfl
@[simp] theorem State.setOpKind_cur (s : State) (id : Nat) (kd : OpKind) : (s.setOpKind id kd).cur = s.cur := rfl
@[simp] theorem State.setOpKind_issued (s : State) (id : Nat) (kd : OpKind) : (s.setOpKind id kd).issued = s.issued := rfl
@[simp] theorem State.setOpKind_walked (s : State) (id : Nat) (kd : OpKind) : (s.setOpKind id kd).walked = s.walked := rfl
@[simp] theorem State.setOpKind_turns (s : State) (id : Nat) (kd : OpKind) : (s.setOpKind id kd).turns = s.turns := rfl
@[simp] theorem State.setOpKind_leaving (s : State) (id : Nat) (kd : OpKind) : (s.setOpKind id kd).leaving = s.leaving := rfl
@[simp] theorem State.setOpKind_binsDone (s : State) (id : Nat) (kd : OpKind) : (s.setOpKind id kd).binsDone = s.binsDone := rfl
@[simp] theorem State.setOpKind_reforms (s : State) (id : Nat) (kd : OpKind) : (s.setOpKind id kd).reforms = s.reforms := rfl
@[simp] theorem State.setOpKind_teams (s : State) (id : Nat) (kd : OpKind) : (s.setOpKind id kd).teams = s.teams := rfl
@[simp] theorem State.setOpKind_bins (s : State) (id : Nat) (kd : OpKind) : (s.setOpKind id kd).bins = s.bins := rfl
@[simp] theorem State.setOpKind_hubsets (s : State) (id : Nat) (kd : OpKind) : (s.setOpKind id kd).hubsets = s.hubsets := rfl
@[simp] theorem State.setOpKind_grids (s : State) (id : Nat) (kd : OpKind) : (s.setOpKind id kd).grids = s.grids := rfl
@[simp] theorem State.setOpKind_vers (s : State) (id : Nat) (kd : OpKind) : (s.setOpKind id kd).vers = s.vers := rfl
@[simp] theorem State.setOpKind_resid (s : State) (id : Nat) (kd : OpKind) : (s.setOpKind id kd).resid = s.resid := rfl
@[simp] theorem State.setOpKind_poison (s : State) (id : Nat) (kd : OpKind) : (s.setOpKind id kd).poison = s.poison := rfl
@[simp] theorem State.setOpKind_tlb (s : State) (id : Nat) (kd : OpKind) : (s.setOpKind id kd).tlb = s.tlb := rfl
@[simp] theorem State.setOpKind_walkCache (s : State) (id : Nat) (kd : OpKind) : (s.setOpKind id kd).walkCache = s.walkCache := rfl
@[simp] theorem State.setOpKind_l1 (s : State) (id : Nat) (kd : OpKind) : (s.setOpKind id kd).l1 = s.l1 := rfl
@[simp] theorem State.setOpKind_sq (s : State) (id : Nat) (kd : OpKind) : (s.setOpKind id kd).sq = s.sq := rfl
@[simp] theorem State.setOpKind_pannier (s : State) (id : Nat) (kd : OpKind) : (s.setOpKind id kd).pannier = s.pannier := rfl
@[simp] theorem State.setOpKind_engines (s : State) (id : Nat) (kd : OpKind) : (s.setOpKind id kd).engines = s.engines := rfl
@[simp] theorem State.setOpKind_walkers (s : State) (id : Nat) (kd : OpKind) : (s.setOpKind id kd).walkers = s.walkers := rfl
@[simp] theorem State.setOpKind_tapGens (s : State) (id : Nat) (kd : OpKind) : (s.setOpKind id kd).tapGens = s.tapGens := rfl
@[simp] theorem State.setOpKind_tapGen (s : State) (id : Nat) (kd : OpKind) : (s.setOpKind id kd).tapGen = s.tapGen := rfl
@[simp] theorem State.setOpKind_tapWait (s : State) (id : Nat) (kd : OpKind) : (s.setOpKind id kd).tapWait = s.tapWait := rfl
@[simp] theorem State.setOpKind_queues (s : State) (id : Nat) (kd : OpKind) : (s.setOpKind id kd).queues = s.queues := rfl
@[simp] theorem State.setOpKind_spaces (s : State) (id : Nat) (kd : OpKind) : (s.setOpKind id kd).spaces = s.spaces := rfl
@[simp] theorem State.setOpKind_sregs (s : State) (id : Nat) (kd : OpKind) : (s.setOpKind id kd).sregs = s.sregs := rfl
@[simp] theorem State.setOpKind_devid (s : State) (id : Nat) (kd : OpKind) : (s.setOpKind id kd).devid = s.devid := rfl
@[simp] theorem State.setOpKind_snapmask (s : State) (id : Nat) (kd : OpKind) : (s.setOpKind id kd).snapmask = s.snapmask := rfl
@[simp] theorem State.setOpKind_snap (s : State) (id : Nat) (kd : OpKind) : (s.setOpKind id kd).snap = s.snap := rfl
@[simp] theorem State.setOpKind_saves (s : State) (id : Nat) (kd : OpKind) : (s.setOpKind id kd).saves = s.saves := rfl
@[simp] theorem State.setOpKind_contexts (s : State) (id : Nat) (kd : OpKind) : (s.setOpKind id kd).contexts = s.contexts := rfl
@[simp] theorem State.setOpKind_unacked (s : State) (id : Nat) (kd : OpKind) : (s.setOpKind id kd).unacked = s.unacked := rfl
@[simp] theorem State.setOpKind_txSeq (s : State) (id : Nat) (kd : OpKind) : (s.setOpKind id kd).txSeq = s.txSeq := rfl
@[simp] theorem State.setOpKind_rxSeq (s : State) (id : Nat) (kd : OpKind) : (s.setOpKind id kd).rxSeq = s.rxSeq := rfl
@[simp] theorem State.setOpKind_mgmt (s : State) (id : Nat) (kd : OpKind) : (s.setOpKind id kd).mgmt = s.mgmt := rfl
@[simp] theorem State.setOpKind_out (s : State) (id : Nat) (kd : OpKind) : (s.setOpKind id kd).out = s.out := rfl

@[simp] theorem State.setReady_now (s : State) (id : Nat) (ws : List Word) (t : Option Trap) : (s.setReady id ws t).now = s.now := rfl
@[simp] theorem State.setReady_fresh (s : State) (id : Nat) (ws : List Word) (t : Option Trap) : (s.setReady id ws t).fresh = s.fresh := rfl
@[simp] theorem State.setReady_nextId (s : State) (id : Nat) (ws : List Word) (t : Option Trap) : (s.setReady id ws t).nextId = s.nextId := rfl
@[simp] theorem State.setReady_agenda (s : State) (id : Nat) (ws : List Word) (t : Option Trap) : (s.setReady id ws t).agenda = s.agenda := rfl
@[simp] theorem State.setReady_cur (s : State) (id : Nat) (ws : List Word) (t : Option Trap) : (s.setReady id ws t).cur = s.cur := rfl
@[simp] theorem State.setReady_issued (s : State) (id : Nat) (ws : List Word) (t : Option Trap) : (s.setReady id ws t).issued = s.issued := rfl
@[simp] theorem State.setReady_walked (s : State) (id : Nat) (ws : List Word) (t : Option Trap) : (s.setReady id ws t).walked = s.walked := rfl
@[simp] theorem State.setReady_turns (s : State) (id : Nat) (ws : List Word) (t : Option Trap) : (s.setReady id ws t).turns = s.turns := rfl
@[simp] theorem State.setReady_leaving (s : State) (id : Nat) (ws : List Word) (t : Option Trap) : (s.setReady id ws t).leaving = s.leaving := rfl
@[simp] theorem State.setReady_binsDone (s : State) (id : Nat) (ws : List Word) (t : Option Trap) : (s.setReady id ws t).binsDone = s.binsDone := rfl
@[simp] theorem State.setReady_reforms (s : State) (id : Nat) (ws : List Word) (t : Option Trap) : (s.setReady id ws t).reforms = s.reforms := rfl
@[simp] theorem State.setReady_teams (s : State) (id : Nat) (ws : List Word) (t : Option Trap) : (s.setReady id ws t).teams = s.teams := rfl
@[simp] theorem State.setReady_bins (s : State) (id : Nat) (ws : List Word) (t : Option Trap) : (s.setReady id ws t).bins = s.bins := rfl
@[simp] theorem State.setReady_hubsets (s : State) (id : Nat) (ws : List Word) (t : Option Trap) : (s.setReady id ws t).hubsets = s.hubsets := rfl
@[simp] theorem State.setReady_grids (s : State) (id : Nat) (ws : List Word) (t : Option Trap) : (s.setReady id ws t).grids = s.grids := rfl
@[simp] theorem State.setReady_vers (s : State) (id : Nat) (ws : List Word) (t : Option Trap) : (s.setReady id ws t).vers = s.vers := rfl
@[simp] theorem State.setReady_resid (s : State) (id : Nat) (ws : List Word) (t : Option Trap) : (s.setReady id ws t).resid = s.resid := rfl
@[simp] theorem State.setReady_poison (s : State) (id : Nat) (ws : List Word) (t : Option Trap) : (s.setReady id ws t).poison = s.poison := rfl
@[simp] theorem State.setReady_tlb (s : State) (id : Nat) (ws : List Word) (t : Option Trap) : (s.setReady id ws t).tlb = s.tlb := rfl
@[simp] theorem State.setReady_walkCache (s : State) (id : Nat) (ws : List Word) (t : Option Trap) : (s.setReady id ws t).walkCache = s.walkCache := rfl
@[simp] theorem State.setReady_l1 (s : State) (id : Nat) (ws : List Word) (t : Option Trap) : (s.setReady id ws t).l1 = s.l1 := rfl
@[simp] theorem State.setReady_sq (s : State) (id : Nat) (ws : List Word) (t : Option Trap) : (s.setReady id ws t).sq = s.sq := rfl
@[simp] theorem State.setReady_pannier (s : State) (id : Nat) (ws : List Word) (t : Option Trap) : (s.setReady id ws t).pannier = s.pannier := rfl
@[simp] theorem State.setReady_engines (s : State) (id : Nat) (ws : List Word) (t : Option Trap) : (s.setReady id ws t).engines = s.engines := rfl
@[simp] theorem State.setReady_walkers (s : State) (id : Nat) (ws : List Word) (t : Option Trap) : (s.setReady id ws t).walkers = s.walkers := rfl
@[simp] theorem State.setReady_tapGens (s : State) (id : Nat) (ws : List Word) (t : Option Trap) : (s.setReady id ws t).tapGens = s.tapGens := rfl
@[simp] theorem State.setReady_tapGen (s : State) (id : Nat) (ws : List Word) (t : Option Trap) : (s.setReady id ws t).tapGen = s.tapGen := rfl
@[simp] theorem State.setReady_tapWait (s : State) (id : Nat) (ws : List Word) (t : Option Trap) : (s.setReady id ws t).tapWait = s.tapWait := rfl
@[simp] theorem State.setReady_queues (s : State) (id : Nat) (ws : List Word) (t : Option Trap) : (s.setReady id ws t).queues = s.queues := rfl
@[simp] theorem State.setReady_spaces (s : State) (id : Nat) (ws : List Word) (t : Option Trap) : (s.setReady id ws t).spaces = s.spaces := rfl
@[simp] theorem State.setReady_sregs (s : State) (id : Nat) (ws : List Word) (t : Option Trap) : (s.setReady id ws t).sregs = s.sregs := rfl
@[simp] theorem State.setReady_devid (s : State) (id : Nat) (ws : List Word) (t : Option Trap) : (s.setReady id ws t).devid = s.devid := rfl
@[simp] theorem State.setReady_snapmask (s : State) (id : Nat) (ws : List Word) (t : Option Trap) : (s.setReady id ws t).snapmask = s.snapmask := rfl
@[simp] theorem State.setReady_snap (s : State) (id : Nat) (ws : List Word) (t : Option Trap) : (s.setReady id ws t).snap = s.snap := rfl
@[simp] theorem State.setReady_saves (s : State) (id : Nat) (ws : List Word) (t : Option Trap) : (s.setReady id ws t).saves = s.saves := rfl
@[simp] theorem State.setReady_contexts (s : State) (id : Nat) (ws : List Word) (t : Option Trap) : (s.setReady id ws t).contexts = s.contexts := rfl
@[simp] theorem State.setReady_unacked (s : State) (id : Nat) (ws : List Word) (t : Option Trap) : (s.setReady id ws t).unacked = s.unacked := rfl
@[simp] theorem State.setReady_txSeq (s : State) (id : Nat) (ws : List Word) (t : Option Trap) : (s.setReady id ws t).txSeq = s.txSeq := rfl
@[simp] theorem State.setReady_rxSeq (s : State) (id : Nat) (ws : List Word) (t : Option Trap) : (s.setReady id ws t).rxSeq = s.rxSeq := rfl
@[simp] theorem State.setReady_mgmt (s : State) (id : Nat) (ws : List Word) (t : Option Trap) : (s.setReady id ws t).mgmt = s.mgmt := rfl
@[simp] theorem State.setReady_out (s : State) (id : Nat) (ws : List Word) (t : Option Trap) : (s.setReady id ws t).out = s.out := rfl

@[simp] theorem State.setEngine_now (s : State) (hub : Nat) (e : MxEngine) : (s.setEngine hub e).now = s.now := rfl
@[simp] theorem State.setEngine_fresh (s : State) (hub : Nat) (e : MxEngine) : (s.setEngine hub e).fresh = s.fresh := rfl
@[simp] theorem State.setEngine_nextId (s : State) (hub : Nat) (e : MxEngine) : (s.setEngine hub e).nextId = s.nextId := rfl
@[simp] theorem State.setEngine_agenda (s : State) (hub : Nat) (e : MxEngine) : (s.setEngine hub e).agenda = s.agenda := rfl
@[simp] theorem State.setEngine_cur (s : State) (hub : Nat) (e : MxEngine) : (s.setEngine hub e).cur = s.cur := rfl
@[simp] theorem State.setEngine_issued (s : State) (hub : Nat) (e : MxEngine) : (s.setEngine hub e).issued = s.issued := rfl
@[simp] theorem State.setEngine_walked (s : State) (hub : Nat) (e : MxEngine) : (s.setEngine hub e).walked = s.walked := rfl
@[simp] theorem State.setEngine_turns (s : State) (hub : Nat) (e : MxEngine) : (s.setEngine hub e).turns = s.turns := rfl
@[simp] theorem State.setEngine_leaving (s : State) (hub : Nat) (e : MxEngine) : (s.setEngine hub e).leaving = s.leaving := rfl
@[simp] theorem State.setEngine_binsDone (s : State) (hub : Nat) (e : MxEngine) : (s.setEngine hub e).binsDone = s.binsDone := rfl
@[simp] theorem State.setEngine_reforms (s : State) (hub : Nat) (e : MxEngine) : (s.setEngine hub e).reforms = s.reforms := rfl
@[simp] theorem State.setEngine_teams (s : State) (hub : Nat) (e : MxEngine) : (s.setEngine hub e).teams = s.teams := rfl
@[simp] theorem State.setEngine_bins (s : State) (hub : Nat) (e : MxEngine) : (s.setEngine hub e).bins = s.bins := rfl
@[simp] theorem State.setEngine_hubsets (s : State) (hub : Nat) (e : MxEngine) : (s.setEngine hub e).hubsets = s.hubsets := rfl
@[simp] theorem State.setEngine_grids (s : State) (hub : Nat) (e : MxEngine) : (s.setEngine hub e).grids = s.grids := rfl
@[simp] theorem State.setEngine_vers (s : State) (hub : Nat) (e : MxEngine) : (s.setEngine hub e).vers = s.vers := rfl
@[simp] theorem State.setEngine_resid (s : State) (hub : Nat) (e : MxEngine) : (s.setEngine hub e).resid = s.resid := rfl
@[simp] theorem State.setEngine_poison (s : State) (hub : Nat) (e : MxEngine) : (s.setEngine hub e).poison = s.poison := rfl
@[simp] theorem State.setEngine_tlb (s : State) (hub : Nat) (e : MxEngine) : (s.setEngine hub e).tlb = s.tlb := rfl
@[simp] theorem State.setEngine_walkCache (s : State) (hub : Nat) (e : MxEngine) : (s.setEngine hub e).walkCache = s.walkCache := rfl
@[simp] theorem State.setEngine_l1 (s : State) (hub : Nat) (e : MxEngine) : (s.setEngine hub e).l1 = s.l1 := rfl
@[simp] theorem State.setEngine_sq (s : State) (hub : Nat) (e : MxEngine) : (s.setEngine hub e).sq = s.sq := rfl
@[simp] theorem State.setEngine_pannier (s : State) (hub : Nat) (e : MxEngine) : (s.setEngine hub e).pannier = s.pannier := rfl
@[simp] theorem State.setEngine_ops (s : State) (hub : Nat) (e : MxEngine) : (s.setEngine hub e).ops = s.ops := rfl
@[simp] theorem State.setEngine_walkers (s : State) (hub : Nat) (e : MxEngine) : (s.setEngine hub e).walkers = s.walkers := rfl
@[simp] theorem State.setEngine_tapGens (s : State) (hub : Nat) (e : MxEngine) : (s.setEngine hub e).tapGens = s.tapGens := rfl
@[simp] theorem State.setEngine_tapGen (s : State) (hub : Nat) (e : MxEngine) : (s.setEngine hub e).tapGen = s.tapGen := rfl
@[simp] theorem State.setEngine_tapWait (s : State) (hub : Nat) (e : MxEngine) : (s.setEngine hub e).tapWait = s.tapWait := rfl
@[simp] theorem State.setEngine_queues (s : State) (hub : Nat) (e : MxEngine) : (s.setEngine hub e).queues = s.queues := rfl
@[simp] theorem State.setEngine_spaces (s : State) (hub : Nat) (e : MxEngine) : (s.setEngine hub e).spaces = s.spaces := rfl
@[simp] theorem State.setEngine_sregs (s : State) (hub : Nat) (e : MxEngine) : (s.setEngine hub e).sregs = s.sregs := rfl
@[simp] theorem State.setEngine_devid (s : State) (hub : Nat) (e : MxEngine) : (s.setEngine hub e).devid = s.devid := rfl
@[simp] theorem State.setEngine_snapmask (s : State) (hub : Nat) (e : MxEngine) : (s.setEngine hub e).snapmask = s.snapmask := rfl
@[simp] theorem State.setEngine_snap (s : State) (hub : Nat) (e : MxEngine) : (s.setEngine hub e).snap = s.snap := rfl
@[simp] theorem State.setEngine_saves (s : State) (hub : Nat) (e : MxEngine) : (s.setEngine hub e).saves = s.saves := rfl
@[simp] theorem State.setEngine_contexts (s : State) (hub : Nat) (e : MxEngine) : (s.setEngine hub e).contexts = s.contexts := rfl
@[simp] theorem State.setEngine_unacked (s : State) (hub : Nat) (e : MxEngine) : (s.setEngine hub e).unacked = s.unacked := rfl
@[simp] theorem State.setEngine_txSeq (s : State) (hub : Nat) (e : MxEngine) : (s.setEngine hub e).txSeq = s.txSeq := rfl
@[simp] theorem State.setEngine_rxSeq (s : State) (hub : Nat) (e : MxEngine) : (s.setEngine hub e).rxSeq = s.rxSeq := rfl
@[simp] theorem State.setEngine_mgmt (s : State) (hub : Nat) (e : MxEngine) : (s.setEngine hub e).mgmt = s.mgmt := rfl
@[simp] theorem State.setEngine_out (s : State) (hub : Nat) (e : MxEngine) : (s.setEngine hub e).out = s.out := rfl

@[simp] theorem State.setWalker_now (s : State) (w : Walker) : (s.setWalker w).now = s.now := rfl
@[simp] theorem State.setWalker_fresh (s : State) (w : Walker) : (s.setWalker w).fresh = s.fresh := rfl
@[simp] theorem State.setWalker_nextId (s : State) (w : Walker) : (s.setWalker w).nextId = s.nextId := rfl
@[simp] theorem State.setWalker_agenda (s : State) (w : Walker) : (s.setWalker w).agenda = s.agenda := rfl
@[simp] theorem State.setWalker_cur (s : State) (w : Walker) : (s.setWalker w).cur = s.cur := rfl
@[simp] theorem State.setWalker_issued (s : State) (w : Walker) : (s.setWalker w).issued = s.issued := rfl
@[simp] theorem State.setWalker_walked (s : State) (w : Walker) : (s.setWalker w).walked = s.walked := rfl
@[simp] theorem State.setWalker_turns (s : State) (w : Walker) : (s.setWalker w).turns = s.turns := rfl
@[simp] theorem State.setWalker_leaving (s : State) (w : Walker) : (s.setWalker w).leaving = s.leaving := rfl
@[simp] theorem State.setWalker_binsDone (s : State) (w : Walker) : (s.setWalker w).binsDone = s.binsDone := rfl
@[simp] theorem State.setWalker_reforms (s : State) (w : Walker) : (s.setWalker w).reforms = s.reforms := rfl
@[simp] theorem State.setWalker_teams (s : State) (w : Walker) : (s.setWalker w).teams = s.teams := rfl
@[simp] theorem State.setWalker_bins (s : State) (w : Walker) : (s.setWalker w).bins = s.bins := rfl
@[simp] theorem State.setWalker_hubsets (s : State) (w : Walker) : (s.setWalker w).hubsets = s.hubsets := rfl
@[simp] theorem State.setWalker_grids (s : State) (w : Walker) : (s.setWalker w).grids = s.grids := rfl
@[simp] theorem State.setWalker_vers (s : State) (w : Walker) : (s.setWalker w).vers = s.vers := rfl
@[simp] theorem State.setWalker_resid (s : State) (w : Walker) : (s.setWalker w).resid = s.resid := rfl
@[simp] theorem State.setWalker_poison (s : State) (w : Walker) : (s.setWalker w).poison = s.poison := rfl
@[simp] theorem State.setWalker_tlb (s : State) (w : Walker) : (s.setWalker w).tlb = s.tlb := rfl
@[simp] theorem State.setWalker_walkCache (s : State) (w : Walker) : (s.setWalker w).walkCache = s.walkCache := rfl
@[simp] theorem State.setWalker_l1 (s : State) (w : Walker) : (s.setWalker w).l1 = s.l1 := rfl
@[simp] theorem State.setWalker_sq (s : State) (w : Walker) : (s.setWalker w).sq = s.sq := rfl
@[simp] theorem State.setWalker_pannier (s : State) (w : Walker) : (s.setWalker w).pannier = s.pannier := rfl
@[simp] theorem State.setWalker_ops (s : State) (w : Walker) : (s.setWalker w).ops = s.ops := rfl
@[simp] theorem State.setWalker_engines (s : State) (w : Walker) : (s.setWalker w).engines = s.engines := rfl
@[simp] theorem State.setWalker_tapGens (s : State) (w : Walker) : (s.setWalker w).tapGens = s.tapGens := rfl
@[simp] theorem State.setWalker_tapGen (s : State) (w : Walker) : (s.setWalker w).tapGen = s.tapGen := rfl
@[simp] theorem State.setWalker_tapWait (s : State) (w : Walker) : (s.setWalker w).tapWait = s.tapWait := rfl
@[simp] theorem State.setWalker_queues (s : State) (w : Walker) : (s.setWalker w).queues = s.queues := rfl
@[simp] theorem State.setWalker_spaces (s : State) (w : Walker) : (s.setWalker w).spaces = s.spaces := rfl
@[simp] theorem State.setWalker_sregs (s : State) (w : Walker) : (s.setWalker w).sregs = s.sregs := rfl
@[simp] theorem State.setWalker_devid (s : State) (w : Walker) : (s.setWalker w).devid = s.devid := rfl
@[simp] theorem State.setWalker_snapmask (s : State) (w : Walker) : (s.setWalker w).snapmask = s.snapmask := rfl
@[simp] theorem State.setWalker_snap (s : State) (w : Walker) : (s.setWalker w).snap = s.snap := rfl
@[simp] theorem State.setWalker_saves (s : State) (w : Walker) : (s.setWalker w).saves = s.saves := rfl
@[simp] theorem State.setWalker_contexts (s : State) (w : Walker) : (s.setWalker w).contexts = s.contexts := rfl
@[simp] theorem State.setWalker_unacked (s : State) (w : Walker) : (s.setWalker w).unacked = s.unacked := rfl
@[simp] theorem State.setWalker_txSeq (s : State) (w : Walker) : (s.setWalker w).txSeq = s.txSeq := rfl
@[simp] theorem State.setWalker_rxSeq (s : State) (w : Walker) : (s.setWalker w).rxSeq = s.rxSeq := rfl
@[simp] theorem State.setWalker_mgmt (s : State) (w : Walker) : (s.setWalker w).mgmt = s.mgmt := rfl
@[simp] theorem State.setWalker_out (s : State) (w : Walker) : (s.setWalker w).out = s.out := rfl

@[simp] theorem State.modJoin_now (s : State) (hs n : Nat) (f : Join → Join) : (s.modJoin hs n f).now = s.now := rfl
@[simp] theorem State.modJoin_fresh (s : State) (hs n : Nat) (f : Join → Join) : (s.modJoin hs n f).fresh = s.fresh := rfl
@[simp] theorem State.modJoin_nextId (s : State) (hs n : Nat) (f : Join → Join) : (s.modJoin hs n f).nextId = s.nextId := rfl
@[simp] theorem State.modJoin_agenda (s : State) (hs n : Nat) (f : Join → Join) : (s.modJoin hs n f).agenda = s.agenda := rfl
@[simp] theorem State.modJoin_cur (s : State) (hs n : Nat) (f : Join → Join) : (s.modJoin hs n f).cur = s.cur := rfl
@[simp] theorem State.modJoin_issued (s : State) (hs n : Nat) (f : Join → Join) : (s.modJoin hs n f).issued = s.issued := rfl
@[simp] theorem State.modJoin_walked (s : State) (hs n : Nat) (f : Join → Join) : (s.modJoin hs n f).walked = s.walked := rfl
@[simp] theorem State.modJoin_turns (s : State) (hs n : Nat) (f : Join → Join) : (s.modJoin hs n f).turns = s.turns := rfl
@[simp] theorem State.modJoin_leaving (s : State) (hs n : Nat) (f : Join → Join) : (s.modJoin hs n f).leaving = s.leaving := rfl
@[simp] theorem State.modJoin_binsDone (s : State) (hs n : Nat) (f : Join → Join) : (s.modJoin hs n f).binsDone = s.binsDone := rfl
@[simp] theorem State.modJoin_reforms (s : State) (hs n : Nat) (f : Join → Join) : (s.modJoin hs n f).reforms = s.reforms := rfl
@[simp] theorem State.modJoin_teams (s : State) (hs n : Nat) (f : Join → Join) : (s.modJoin hs n f).teams = s.teams := rfl
@[simp] theorem State.modJoin_bins (s : State) (hs n : Nat) (f : Join → Join) : (s.modJoin hs n f).bins = s.bins := rfl
@[simp] theorem State.modJoin_grids (s : State) (hs n : Nat) (f : Join → Join) : (s.modJoin hs n f).grids = s.grids := rfl
@[simp] theorem State.modJoin_vers (s : State) (hs n : Nat) (f : Join → Join) : (s.modJoin hs n f).vers = s.vers := rfl
@[simp] theorem State.modJoin_resid (s : State) (hs n : Nat) (f : Join → Join) : (s.modJoin hs n f).resid = s.resid := rfl
@[simp] theorem State.modJoin_poison (s : State) (hs n : Nat) (f : Join → Join) : (s.modJoin hs n f).poison = s.poison := rfl
@[simp] theorem State.modJoin_tlb (s : State) (hs n : Nat) (f : Join → Join) : (s.modJoin hs n f).tlb = s.tlb := rfl
@[simp] theorem State.modJoin_walkCache (s : State) (hs n : Nat) (f : Join → Join) : (s.modJoin hs n f).walkCache = s.walkCache := rfl
@[simp] theorem State.modJoin_l1 (s : State) (hs n : Nat) (f : Join → Join) : (s.modJoin hs n f).l1 = s.l1 := rfl
@[simp] theorem State.modJoin_sq (s : State) (hs n : Nat) (f : Join → Join) : (s.modJoin hs n f).sq = s.sq := rfl
@[simp] theorem State.modJoin_pannier (s : State) (hs n : Nat) (f : Join → Join) : (s.modJoin hs n f).pannier = s.pannier := rfl
@[simp] theorem State.modJoin_ops (s : State) (hs n : Nat) (f : Join → Join) : (s.modJoin hs n f).ops = s.ops := rfl
@[simp] theorem State.modJoin_engines (s : State) (hs n : Nat) (f : Join → Join) : (s.modJoin hs n f).engines = s.engines := rfl
@[simp] theorem State.modJoin_walkers (s : State) (hs n : Nat) (f : Join → Join) : (s.modJoin hs n f).walkers = s.walkers := rfl
@[simp] theorem State.modJoin_tapGens (s : State) (hs n : Nat) (f : Join → Join) : (s.modJoin hs n f).tapGens = s.tapGens := rfl
@[simp] theorem State.modJoin_tapGen (s : State) (hs n : Nat) (f : Join → Join) : (s.modJoin hs n f).tapGen = s.tapGen := rfl
@[simp] theorem State.modJoin_tapWait (s : State) (hs n : Nat) (f : Join → Join) : (s.modJoin hs n f).tapWait = s.tapWait := rfl
@[simp] theorem State.modJoin_queues (s : State) (hs n : Nat) (f : Join → Join) : (s.modJoin hs n f).queues = s.queues := rfl
@[simp] theorem State.modJoin_spaces (s : State) (hs n : Nat) (f : Join → Join) : (s.modJoin hs n f).spaces = s.spaces := rfl
@[simp] theorem State.modJoin_sregs (s : State) (hs n : Nat) (f : Join → Join) : (s.modJoin hs n f).sregs = s.sregs := rfl
@[simp] theorem State.modJoin_devid (s : State) (hs n : Nat) (f : Join → Join) : (s.modJoin hs n f).devid = s.devid := rfl
@[simp] theorem State.modJoin_snapmask (s : State) (hs n : Nat) (f : Join → Join) : (s.modJoin hs n f).snapmask = s.snapmask := rfl
@[simp] theorem State.modJoin_snap (s : State) (hs n : Nat) (f : Join → Join) : (s.modJoin hs n f).snap = s.snap := rfl
@[simp] theorem State.modJoin_saves (s : State) (hs n : Nat) (f : Join → Join) : (s.modJoin hs n f).saves = s.saves := rfl
@[simp] theorem State.modJoin_contexts (s : State) (hs n : Nat) (f : Join → Join) : (s.modJoin hs n f).contexts = s.contexts := rfl
@[simp] theorem State.modJoin_unacked (s : State) (hs n : Nat) (f : Join → Join) : (s.modJoin hs n f).unacked = s.unacked := rfl
@[simp] theorem State.modJoin_txSeq (s : State) (hs n : Nat) (f : Join → Join) : (s.modJoin hs n f).txSeq = s.txSeq := rfl
@[simp] theorem State.modJoin_rxSeq (s : State) (hs n : Nat) (f : Join → Join) : (s.modJoin hs n f).rxSeq = s.rxSeq := rfl
@[simp] theorem State.modJoin_mgmt (s : State) (hs n : Nat) (f : Join → Join) : (s.modJoin hs n f).mgmt = s.mgmt := rfl
@[simp] theorem State.modJoin_out (s : State) (hs n : Nat) (f : Join → Join) : (s.modJoin hs n f).out = s.out := rfl

@[simp] theorem State.holdGroup_now (s : State) : (s.holdGroup).now = s.now := rfl
@[simp] theorem State.holdGroup_fresh (s : State) : (s.holdGroup).fresh = s.fresh := rfl
@[simp] theorem State.holdGroup_nextId (s : State) : (s.holdGroup).nextId = s.nextId := rfl
@[simp] theorem State.holdGroup_agenda (s : State) : (s.holdGroup).agenda = s.agenda := rfl
@[simp] theorem State.holdGroup_cur (s : State) : (s.holdGroup).cur = s.cur := rfl
@[simp] theorem State.holdGroup_issued (s : State) : (s.holdGroup).issued = s.issued := rfl
@[simp] theorem State.holdGroup_walked (s : State) : (s.holdGroup).walked = s.walked := rfl
@[simp] theorem State.holdGroup_turns (s : State) : (s.holdGroup).turns = s.turns := rfl
@[simp] theorem State.holdGroup_leaving (s : State) : (s.holdGroup).leaving = s.leaving := rfl
@[simp] theorem State.holdGroup_binsDone (s : State) : (s.holdGroup).binsDone = s.binsDone := rfl
@[simp] theorem State.holdGroup_reforms (s : State) : (s.holdGroup).reforms = s.reforms := rfl
@[simp] theorem State.holdGroup_bins (s : State) : (s.holdGroup).bins = s.bins := rfl
@[simp] theorem State.holdGroup_hubsets (s : State) : (s.holdGroup).hubsets = s.hubsets := rfl
@[simp] theorem State.holdGroup_grids (s : State) : (s.holdGroup).grids = s.grids := rfl
@[simp] theorem State.holdGroup_vers (s : State) : (s.holdGroup).vers = s.vers := rfl
@[simp] theorem State.holdGroup_resid (s : State) : (s.holdGroup).resid = s.resid := rfl
@[simp] theorem State.holdGroup_poison (s : State) : (s.holdGroup).poison = s.poison := rfl
@[simp] theorem State.holdGroup_tlb (s : State) : (s.holdGroup).tlb = s.tlb := rfl
@[simp] theorem State.holdGroup_walkCache (s : State) : (s.holdGroup).walkCache = s.walkCache := rfl
@[simp] theorem State.holdGroup_l1 (s : State) : (s.holdGroup).l1 = s.l1 := rfl
@[simp] theorem State.holdGroup_sq (s : State) : (s.holdGroup).sq = s.sq := rfl
@[simp] theorem State.holdGroup_pannier (s : State) : (s.holdGroup).pannier = s.pannier := rfl
@[simp] theorem State.holdGroup_ops (s : State) : (s.holdGroup).ops = s.ops := rfl
@[simp] theorem State.holdGroup_engines (s : State) : (s.holdGroup).engines = s.engines := rfl
@[simp] theorem State.holdGroup_walkers (s : State) : (s.holdGroup).walkers = s.walkers := rfl
@[simp] theorem State.holdGroup_tapGens (s : State) : (s.holdGroup).tapGens = s.tapGens := rfl
@[simp] theorem State.holdGroup_tapGen (s : State) : (s.holdGroup).tapGen = s.tapGen := rfl
@[simp] theorem State.holdGroup_tapWait (s : State) : (s.holdGroup).tapWait = s.tapWait := rfl
@[simp] theorem State.holdGroup_queues (s : State) : (s.holdGroup).queues = s.queues := rfl
@[simp] theorem State.holdGroup_spaces (s : State) : (s.holdGroup).spaces = s.spaces := rfl
@[simp] theorem State.holdGroup_sregs (s : State) : (s.holdGroup).sregs = s.sregs := rfl
@[simp] theorem State.holdGroup_devid (s : State) : (s.holdGroup).devid = s.devid := rfl
@[simp] theorem State.holdGroup_snapmask (s : State) : (s.holdGroup).snapmask = s.snapmask := rfl
@[simp] theorem State.holdGroup_snap (s : State) : (s.holdGroup).snap = s.snap := rfl
@[simp] theorem State.holdGroup_saves (s : State) : (s.holdGroup).saves = s.saves := rfl
@[simp] theorem State.holdGroup_contexts (s : State) : (s.holdGroup).contexts = s.contexts := rfl
@[simp] theorem State.holdGroup_unacked (s : State) : (s.holdGroup).unacked = s.unacked := rfl
@[simp] theorem State.holdGroup_txSeq (s : State) : (s.holdGroup).txSeq = s.txSeq := rfl
@[simp] theorem State.holdGroup_rxSeq (s : State) : (s.holdGroup).rxSeq = s.rxSeq := rfl
@[simp] theorem State.holdGroup_mgmt (s : State) : (s.holdGroup).mgmt = s.mgmt := rfl
@[simp] theorem State.holdGroup_out (s : State) : (s.holdGroup).out = s.out := rfl

@[simp] theorem State.dissolve_now (s : State) : (s.dissolve).now = s.now := rfl
@[simp] theorem State.dissolve_fresh (s : State) : (s.dissolve).fresh = s.fresh := rfl
@[simp] theorem State.dissolve_nextId (s : State) : (s.dissolve).nextId = s.nextId := rfl
@[simp] theorem State.dissolve_agenda (s : State) : (s.dissolve).agenda = s.agenda := rfl
@[simp] theorem State.dissolve_cur (s : State) : (s.dissolve).cur = s.cur := rfl
@[simp] theorem State.dissolve_issued (s : State) : (s.dissolve).issued = s.issued := rfl
@[simp] theorem State.dissolve_walked (s : State) : (s.dissolve).walked = s.walked := rfl
@[simp] theorem State.dissolve_turns (s : State) : (s.dissolve).turns = s.turns := rfl
@[simp] theorem State.dissolve_leaving (s : State) : (s.dissolve).leaving = s.leaving := rfl
@[simp] theorem State.dissolve_binsDone (s : State) : (s.dissolve).binsDone = s.binsDone := rfl
@[simp] theorem State.dissolve_reforms (s : State) : (s.dissolve).reforms = s.reforms := rfl
@[simp] theorem State.dissolve_bins (s : State) : (s.dissolve).bins = s.bins := rfl
@[simp] theorem State.dissolve_hubsets (s : State) : (s.dissolve).hubsets = s.hubsets := rfl
@[simp] theorem State.dissolve_grids (s : State) : (s.dissolve).grids = s.grids := rfl
@[simp] theorem State.dissolve_vers (s : State) : (s.dissolve).vers = s.vers := rfl
@[simp] theorem State.dissolve_resid (s : State) : (s.dissolve).resid = s.resid := rfl
@[simp] theorem State.dissolve_poison (s : State) : (s.dissolve).poison = s.poison := rfl
@[simp] theorem State.dissolve_tlb (s : State) : (s.dissolve).tlb = s.tlb := rfl
@[simp] theorem State.dissolve_walkCache (s : State) : (s.dissolve).walkCache = s.walkCache := rfl
@[simp] theorem State.dissolve_l1 (s : State) : (s.dissolve).l1 = s.l1 := rfl
@[simp] theorem State.dissolve_sq (s : State) : (s.dissolve).sq = s.sq := rfl
@[simp] theorem State.dissolve_pannier (s : State) : (s.dissolve).pannier = s.pannier := rfl
@[simp] theorem State.dissolve_ops (s : State) : (s.dissolve).ops = s.ops := rfl
@[simp] theorem State.dissolve_engines (s : State) : (s.dissolve).engines = s.engines := rfl
@[simp] theorem State.dissolve_walkers (s : State) : (s.dissolve).walkers = s.walkers := rfl
@[simp] theorem State.dissolve_tapGens (s : State) : (s.dissolve).tapGens = s.tapGens := rfl
@[simp] theorem State.dissolve_tapGen (s : State) : (s.dissolve).tapGen = s.tapGen := rfl
@[simp] theorem State.dissolve_tapWait (s : State) : (s.dissolve).tapWait = s.tapWait := rfl
@[simp] theorem State.dissolve_queues (s : State) : (s.dissolve).queues = s.queues := rfl
@[simp] theorem State.dissolve_spaces (s : State) : (s.dissolve).spaces = s.spaces := rfl
@[simp] theorem State.dissolve_sregs (s : State) : (s.dissolve).sregs = s.sregs := rfl
@[simp] theorem State.dissolve_devid (s : State) : (s.dissolve).devid = s.devid := rfl
@[simp] theorem State.dissolve_snapmask (s : State) : (s.dissolve).snapmask = s.snapmask := rfl
@[simp] theorem State.dissolve_snap (s : State) : (s.dissolve).snap = s.snap := rfl
@[simp] theorem State.dissolve_saves (s : State) : (s.dissolve).saves = s.saves := rfl
@[simp] theorem State.dissolve_contexts (s : State) : (s.dissolve).contexts = s.contexts := rfl
@[simp] theorem State.dissolve_unacked (s : State) : (s.dissolve).unacked = s.unacked := rfl
@[simp] theorem State.dissolve_txSeq (s : State) : (s.dissolve).txSeq = s.txSeq := rfl
@[simp] theorem State.dissolve_rxSeq (s : State) : (s.dissolve).rxSeq = s.rxSeq := rfl
@[simp] theorem State.dissolve_mgmt (s : State) : (s.dissolve).mgmt = s.mgmt := rfl
@[simp] theorem State.dissolve_out (s : State) : (s.dissolve).out = s.out := rfl

@[simp] theorem State.finishMember_now (s : State) (l : Lane) (d : Done) : (s.finishMember l d).now = s.now := rfl
@[simp] theorem State.finishMember_fresh (s : State) (l : Lane) (d : Done) : (s.finishMember l d).fresh = s.fresh := rfl
@[simp] theorem State.finishMember_agenda (s : State) (l : Lane) (d : Done) : (s.finishMember l d).agenda = s.agenda := rfl
@[simp] theorem State.finishMember_cur (s : State) (l : Lane) (d : Done) : (s.finishMember l d).cur = s.cur := rfl
@[simp] theorem State.finishMember_issued (s : State) (l : Lane) (d : Done) : (s.finishMember l d).issued = s.issued := rfl
@[simp] theorem State.finishMember_walked (s : State) (l : Lane) (d : Done) : (s.finishMember l d).walked = s.walked := rfl
@[simp] theorem State.finishMember_turns (s : State) (l : Lane) (d : Done) : (s.finishMember l d).turns = s.turns := rfl
@[simp] theorem State.finishMember_leaving (s : State) (l : Lane) (d : Done) : (s.finishMember l d).leaving = s.leaving := rfl
@[simp] theorem State.finishMember_binsDone (s : State) (l : Lane) (d : Done) : (s.finishMember l d).binsDone = s.binsDone := rfl
@[simp] theorem State.finishMember_reforms (s : State) (l : Lane) (d : Done) : (s.finishMember l d).reforms = s.reforms := rfl
@[simp] theorem State.finishMember_bins (s : State) (l : Lane) (d : Done) : (s.finishMember l d).bins = s.bins := rfl
@[simp] theorem State.finishMember_hubsets (s : State) (l : Lane) (d : Done) : (s.finishMember l d).hubsets = s.hubsets := rfl
@[simp] theorem State.finishMember_grids (s : State) (l : Lane) (d : Done) : (s.finishMember l d).grids = s.grids := rfl
@[simp] theorem State.finishMember_vers (s : State) (l : Lane) (d : Done) : (s.finishMember l d).vers = s.vers := rfl
@[simp] theorem State.finishMember_resid (s : State) (l : Lane) (d : Done) : (s.finishMember l d).resid = s.resid := rfl
@[simp] theorem State.finishMember_poison (s : State) (l : Lane) (d : Done) : (s.finishMember l d).poison = s.poison := rfl
@[simp] theorem State.finishMember_tlb (s : State) (l : Lane) (d : Done) : (s.finishMember l d).tlb = s.tlb := rfl
@[simp] theorem State.finishMember_walkCache (s : State) (l : Lane) (d : Done) : (s.finishMember l d).walkCache = s.walkCache := rfl
@[simp] theorem State.finishMember_l1 (s : State) (l : Lane) (d : Done) : (s.finishMember l d).l1 = s.l1 := rfl
@[simp] theorem State.finishMember_pannier (s : State) (l : Lane) (d : Done) : (s.finishMember l d).pannier = s.pannier := rfl
@[simp] theorem State.finishMember_engines (s : State) (l : Lane) (d : Done) : (s.finishMember l d).engines = s.engines := rfl
@[simp] theorem State.finishMember_walkers (s : State) (l : Lane) (d : Done) : (s.finishMember l d).walkers = s.walkers := rfl
@[simp] theorem State.finishMember_tapGens (s : State) (l : Lane) (d : Done) : (s.finishMember l d).tapGens = s.tapGens := rfl
@[simp] theorem State.finishMember_tapGen (s : State) (l : Lane) (d : Done) : (s.finishMember l d).tapGen = s.tapGen := rfl
@[simp] theorem State.finishMember_tapWait (s : State) (l : Lane) (d : Done) : (s.finishMember l d).tapWait = s.tapWait := rfl
@[simp] theorem State.finishMember_queues (s : State) (l : Lane) (d : Done) : (s.finishMember l d).queues = s.queues := rfl
@[simp] theorem State.finishMember_spaces (s : State) (l : Lane) (d : Done) : (s.finishMember l d).spaces = s.spaces := rfl
@[simp] theorem State.finishMember_sregs (s : State) (l : Lane) (d : Done) : (s.finishMember l d).sregs = s.sregs := rfl
@[simp] theorem State.finishMember_devid (s : State) (l : Lane) (d : Done) : (s.finishMember l d).devid = s.devid := rfl
@[simp] theorem State.finishMember_snapmask (s : State) (l : Lane) (d : Done) : (s.finishMember l d).snapmask = s.snapmask := rfl
@[simp] theorem State.finishMember_snap (s : State) (l : Lane) (d : Done) : (s.finishMember l d).snap = s.snap := rfl
@[simp] theorem State.finishMember_saves (s : State) (l : Lane) (d : Done) : (s.finishMember l d).saves = s.saves := rfl
@[simp] theorem State.finishMember_contexts (s : State) (l : Lane) (d : Done) : (s.finishMember l d).contexts = s.contexts := rfl
@[simp] theorem State.finishMember_unacked (s : State) (l : Lane) (d : Done) : (s.finishMember l d).unacked = s.unacked := rfl
@[simp] theorem State.finishMember_txSeq (s : State) (l : Lane) (d : Done) : (s.finishMember l d).txSeq = s.txSeq := rfl
@[simp] theorem State.finishMember_rxSeq (s : State) (l : Lane) (d : Done) : (s.finishMember l d).rxSeq = s.rxSeq := rfl
@[simp] theorem State.finishMember_mgmt (s : State) (l : Lane) (d : Done) : (s.finishMember l d).mgmt = s.mgmt := rfl
@[simp] theorem State.finishMember_out (s : State) (l : Lane) (d : Done) : (s.finishMember l d).out = s.out := rfl

@[simp] theorem Thread.jumpTo_idx (pc : DWord) (t : Thread) : (t.jumpTo pc).idx = t.idx := rfl
@[simp] theorem Thread.jumpTo_role (pc : DWord) (t : Thread) : (t.jumpTo pc).role = t.role := rfl
@[simp] theorem Thread.jumpTo_st (pc : DWord) (t : Thread) : (t.jumpTo pc).st = t.st := rfl
@[simp] theorem Thread.jumpTo_left (pc : DWord) (t : Thread) : (t.jumpTo pc).left = t.left := rfl
@[simp] theorem Thread.jumpTo_why (pc : DWord) (t : Thread) : (t.jumpTo pc).why = t.why := rfl
@[simp] theorem Thread.jumpTo_whySaved (pc : DWord) (t : Thread) : (t.jumpTo pc).whySaved = t.whySaved := rfl
@[simp] theorem Thread.jumpTo_stSaved (pc : DWord) (t : Thread) : (t.jumpTo pc).stSaved = t.stSaved := rfl
@[simp] theorem Thread.jumpTo_regs (pc : DWord) (t : Thread) : (t.jumpTo pc).regs = t.regs := rfl
@[simp] theorem Thread.jumpTo_poisonRegs (pc : DWord) (t : Thread) : (t.jumpTo pc).poisonRegs = t.poisonRegs := rfl
@[simp] theorem Thread.jumpTo_pend (pc : DWord) (t : Thread) : (t.jumpTo pc).pend = t.pend := rfl
@[simp] theorem Thread.jumpTo_win (pc : DWord) (t : Thread) : (t.jumpTo pc).win = t.win := rfl
@[simp] theorem Thread.jumpTo_part (pc : DWord) (t : Thread) : (t.jumpTo pc).part = t.part := rfl
@[simp] theorem Thread.jumpTo_flags (pc : DWord) (t : Thread) : (t.jumpTo pc).flags = t.flags := rfl
@[simp] theorem Thread.jumpTo_cls (pc : DWord) (t : Thread) : (t.jumpTo pc).cls = t.cls := rfl
@[simp] theorem Thread.jumpTo_lclass (pc : DWord) (t : Thread) : (t.jumpTo pc).lclass = t.lclass := rfl
@[simp] theorem Thread.jumpTo_seq (pc : DWord) (t : Thread) : (t.jumpTo pc).seq = t.seq := rfl
@[simp] theorem Thread.jumpTo_vset (pc : DWord) (t : Thread) : (t.jumpTo pc).vset = t.vset := rfl
@[simp] theorem Thread.jumpTo_stale (pc : DWord) (t : Thread) : (t.jumpTo pc).stale = t.stale := rfl
@[simp] theorem Thread.jumpTo_joinMask (pc : DWord) (t : Thread) : (t.jumpTo pc).joinMask = t.joinMask := rfl
@[simp] theorem Thread.jumpTo_mine (pc : DWord) (t : Thread) : (t.jumpTo pc).mine = t.mine := rfl
@[simp] theorem Thread.jumpTo_fpstat (pc : DWord) (t : Thread) : (t.jumpTo pc).fpstat = t.fpstat := rfl
@[simp] theorem Thread.jumpTo_trapPc (pc : DWord) (t : Thread) : (t.jumpTo pc).trapPc = t.trapPc := rfl
@[simp] theorem Thread.jumpTo_trapCause (pc : DWord) (t : Thread) : (t.jumpTo pc).trapCause = t.trapCause := rfl
@[simp] theorem Thread.jumpTo_trapAddr (pc : DWord) (t : Thread) : (t.jumpTo pc).trapAddr = t.trapAddr := rfl
@[simp] theorem Thread.jumpTo_trapInfo (pc : DWord) (t : Thread) : (t.jumpTo pc).trapInfo = t.trapInfo := rfl
@[simp] theorem Thread.jumpTo_lastIssue (pc : DWord) (t : Thread) : (t.jumpTo pc).lastIssue = t.lastIssue := rfl
@[simp] theorem Thread.jumpTo_held (pc : DWord) (t : Thread) : (t.jumpTo pc).held = t.held := rfl
@[simp] theorem Thread.jumpTo_freeAt (pc : DWord) (t : Thread) : (t.jumpTo pc).freeAt = t.freeAt := rfl
@[simp] theorem Thread.jumpTo_nanAt (pc : DWord) (t : Thread) : (t.jumpTo pc).nanAt = t.nanAt := rfl

@[simp] theorem Thread.runTo_idx (pc : DWord) (t : Thread) : (t.runTo pc).idx = t.idx := by
  unfold Thread.runTo; split <;> rfl
@[simp] theorem Thread.runTo_role (pc : DWord) (t : Thread) : (t.runTo pc).role = t.role := by
  unfold Thread.runTo; split <;> rfl
@[simp] theorem Thread.runTo_st (pc : DWord) (t : Thread) : (t.runTo pc).st = t.st := by
  unfold Thread.runTo; split <;> rfl
@[simp] theorem Thread.runTo_left (pc : DWord) (t : Thread) : (t.runTo pc).left = t.left := by
  unfold Thread.runTo; split <;> rfl
@[simp] theorem Thread.runTo_why (pc : DWord) (t : Thread) : (t.runTo pc).why = t.why := by
  unfold Thread.runTo; split <;> rfl
@[simp] theorem Thread.runTo_whySaved (pc : DWord) (t : Thread) : (t.runTo pc).whySaved = t.whySaved := by
  unfold Thread.runTo; split <;> rfl
@[simp] theorem Thread.runTo_stSaved (pc : DWord) (t : Thread) : (t.runTo pc).stSaved = t.stSaved := by
  unfold Thread.runTo; split <;> rfl
@[simp] theorem Thread.runTo_regs (pc : DWord) (t : Thread) : (t.runTo pc).regs = t.regs := by
  unfold Thread.runTo; split <;> rfl
@[simp] theorem Thread.runTo_poisonRegs (pc : DWord) (t : Thread) : (t.runTo pc).poisonRegs = t.poisonRegs := by
  unfold Thread.runTo; split <;> rfl
@[simp] theorem Thread.runTo_pend (pc : DWord) (t : Thread) : (t.runTo pc).pend = t.pend := by
  unfold Thread.runTo; split <;> rfl
@[simp] theorem Thread.runTo_win (pc : DWord) (t : Thread) : (t.runTo pc).win = t.win := by
  unfold Thread.runTo; split <;> rfl
@[simp] theorem Thread.runTo_part (pc : DWord) (t : Thread) : (t.runTo pc).part = t.part := by
  unfold Thread.runTo; split <;> rfl
@[simp] theorem Thread.runTo_flags (pc : DWord) (t : Thread) : (t.runTo pc).flags = t.flags := by
  unfold Thread.runTo; split <;> rfl
@[simp] theorem Thread.runTo_cls (pc : DWord) (t : Thread) : (t.runTo pc).cls = t.cls := by
  unfold Thread.runTo; split <;> rfl
@[simp] theorem Thread.runTo_lclass (pc : DWord) (t : Thread) : (t.runTo pc).lclass = t.lclass := by
  unfold Thread.runTo; split <;> rfl
@[simp] theorem Thread.runTo_seq (pc : DWord) (t : Thread) : (t.runTo pc).seq = t.seq := by
  unfold Thread.runTo; split <;> rfl
@[simp] theorem Thread.runTo_vset (pc : DWord) (t : Thread) : (t.runTo pc).vset = t.vset := by
  unfold Thread.runTo; split <;> rfl
@[simp] theorem Thread.runTo_stale (pc : DWord) (t : Thread) : (t.runTo pc).stale = t.stale := by
  unfold Thread.runTo; split <;> rfl
@[simp] theorem Thread.runTo_joinMask (pc : DWord) (t : Thread) : (t.runTo pc).joinMask = t.joinMask := by
  unfold Thread.runTo; split <;> rfl
@[simp] theorem Thread.runTo_mine (pc : DWord) (t : Thread) : (t.runTo pc).mine = t.mine := by
  unfold Thread.runTo; split <;> rfl
@[simp] theorem Thread.runTo_fpstat (pc : DWord) (t : Thread) : (t.runTo pc).fpstat = t.fpstat := by
  unfold Thread.runTo; split <;> rfl
@[simp] theorem Thread.runTo_trapPc (pc : DWord) (t : Thread) : (t.runTo pc).trapPc = t.trapPc := by
  unfold Thread.runTo; split <;> rfl
@[simp] theorem Thread.runTo_trapCause (pc : DWord) (t : Thread) : (t.runTo pc).trapCause = t.trapCause := by
  unfold Thread.runTo; split <;> rfl
@[simp] theorem Thread.runTo_trapAddr (pc : DWord) (t : Thread) : (t.runTo pc).trapAddr = t.trapAddr := by
  unfold Thread.runTo; split <;> rfl
@[simp] theorem Thread.runTo_trapInfo (pc : DWord) (t : Thread) : (t.runTo pc).trapInfo = t.trapInfo := by
  unfold Thread.runTo; split <;> rfl
@[simp] theorem Thread.runTo_lastIssue (pc : DWord) (t : Thread) : (t.runTo pc).lastIssue = t.lastIssue := by
  unfold Thread.runTo; split <;> rfl
@[simp] theorem Thread.runTo_held (pc : DWord) (t : Thread) : (t.runTo pc).held = t.held := by
  unfold Thread.runTo; split <;> rfl
@[simp] theorem Thread.runTo_freeAt (pc : DWord) (t : Thread) : (t.runTo pc).freeAt = t.freeAt := by
  unfold Thread.runTo; split <;> rfl
@[simp] theorem Thread.runTo_nanAt (pc : DWord) (t : Thread) : (t.runTo pc).nanAt = t.nanAt := by
  unfold Thread.runTo; split <;> rfl

@[simp] theorem Thread.advance_idx (t : Thread) : (t.advance).idx = t.idx := by
  simp [Thread.advance]
@[simp] theorem Thread.advance_role (t : Thread) : (t.advance).role = t.role := by
  simp [Thread.advance]
@[simp] theorem Thread.advance_st (t : Thread) : (t.advance).st = t.st := by
  simp [Thread.advance]
@[simp] theorem Thread.advance_left (t : Thread) : (t.advance).left = t.left := by
  simp [Thread.advance]
@[simp] theorem Thread.advance_why (t : Thread) : (t.advance).why = t.why := by
  simp [Thread.advance]
@[simp] theorem Thread.advance_whySaved (t : Thread) : (t.advance).whySaved = t.whySaved := by
  simp [Thread.advance]
@[simp] theorem Thread.advance_stSaved (t : Thread) : (t.advance).stSaved = t.stSaved := by
  simp [Thread.advance]
@[simp] theorem Thread.advance_regs (t : Thread) : (t.advance).regs = t.regs := by
  simp [Thread.advance]
@[simp] theorem Thread.advance_poisonRegs (t : Thread) : (t.advance).poisonRegs = t.poisonRegs := by
  simp [Thread.advance]
@[simp] theorem Thread.advance_pend (t : Thread) : (t.advance).pend = t.pend := by
  simp [Thread.advance]
@[simp] theorem Thread.advance_win (t : Thread) : (t.advance).win = t.win := by
  simp [Thread.advance]
@[simp] theorem Thread.advance_part (t : Thread) : (t.advance).part = t.part := by
  simp [Thread.advance]
@[simp] theorem Thread.advance_flags (t : Thread) : (t.advance).flags = t.flags := by
  simp [Thread.advance]
@[simp] theorem Thread.advance_cls (t : Thread) : (t.advance).cls = t.cls := by
  simp [Thread.advance]
@[simp] theorem Thread.advance_lclass (t : Thread) : (t.advance).lclass = t.lclass := by
  simp [Thread.advance]
@[simp] theorem Thread.advance_seq (t : Thread) : (t.advance).seq = t.seq := by
  simp [Thread.advance]
@[simp] theorem Thread.advance_vset (t : Thread) : (t.advance).vset = t.vset := by
  simp [Thread.advance]
@[simp] theorem Thread.advance_stale (t : Thread) : (t.advance).stale = t.stale := by
  simp [Thread.advance]
@[simp] theorem Thread.advance_joinMask (t : Thread) : (t.advance).joinMask = t.joinMask := by
  simp [Thread.advance]
@[simp] theorem Thread.advance_mine (t : Thread) : (t.advance).mine = t.mine := by
  simp [Thread.advance]
@[simp] theorem Thread.advance_fpstat (t : Thread) : (t.advance).fpstat = t.fpstat := by
  simp [Thread.advance]
@[simp] theorem Thread.advance_trapPc (t : Thread) : (t.advance).trapPc = t.trapPc := by
  simp [Thread.advance]
@[simp] theorem Thread.advance_trapCause (t : Thread) : (t.advance).trapCause = t.trapCause := by
  simp [Thread.advance]
@[simp] theorem Thread.advance_trapAddr (t : Thread) : (t.advance).trapAddr = t.trapAddr := by
  simp [Thread.advance]
@[simp] theorem Thread.advance_trapInfo (t : Thread) : (t.advance).trapInfo = t.trapInfo := by
  simp [Thread.advance]
@[simp] theorem Thread.advance_lastIssue (t : Thread) : (t.advance).lastIssue = t.lastIssue := by
  simp [Thread.advance]
@[simp] theorem Thread.advance_held (t : Thread) : (t.advance).held = t.held := by
  simp [Thread.advance]
@[simp] theorem Thread.advance_freeAt (t : Thread) : (t.advance).freeAt = t.freeAt := by
  simp [Thread.advance]
@[simp] theorem Thread.advance_nanAt (t : Thread) : (t.advance).nanAt = t.nanAt := by
  simp [Thread.advance]

@[simp] theorem Thread.park_idx (why : Why) (t : Thread) : (t.park why).idx = t.idx := rfl
@[simp] theorem Thread.park_role (why : Why) (t : Thread) : (t.park why).role = t.role := rfl
@[simp] theorem Thread.park_whySaved (why : Why) (t : Thread) : (t.park why).whySaved = t.whySaved := rfl
@[simp] theorem Thread.park_stSaved (why : Why) (t : Thread) : (t.park why).stSaved = t.stSaved := rfl
@[simp] theorem Thread.park_pc (why : Why) (t : Thread) : (t.park why).pc = t.pc := rfl
@[simp] theorem Thread.park_regs (why : Why) (t : Thread) : (t.park why).regs = t.regs := rfl
@[simp] theorem Thread.park_poisonRegs (why : Why) (t : Thread) : (t.park why).poisonRegs = t.poisonRegs := rfl
@[simp] theorem Thread.park_pend (why : Why) (t : Thread) : (t.park why).pend = t.pend := rfl
@[simp] theorem Thread.park_win (why : Why) (t : Thread) : (t.park why).win = t.win := rfl
@[simp] theorem Thread.park_part (why : Why) (t : Thread) : (t.park why).part = t.part := rfl
@[simp] theorem Thread.park_flags (why : Why) (t : Thread) : (t.park why).flags = t.flags := rfl
@[simp] theorem Thread.park_cls (why : Why) (t : Thread) : (t.park why).cls = t.cls := rfl
@[simp] theorem Thread.park_lclass (why : Why) (t : Thread) : (t.park why).lclass = t.lclass := rfl
@[simp] theorem Thread.park_seq (why : Why) (t : Thread) : (t.park why).seq = t.seq := rfl
@[simp] theorem Thread.park_vset (why : Why) (t : Thread) : (t.park why).vset = t.vset := rfl
@[simp] theorem Thread.park_stale (why : Why) (t : Thread) : (t.park why).stale = t.stale := rfl
@[simp] theorem Thread.park_joinMask (why : Why) (t : Thread) : (t.park why).joinMask = t.joinMask := rfl
@[simp] theorem Thread.park_mine (why : Why) (t : Thread) : (t.park why).mine = t.mine := rfl
@[simp] theorem Thread.park_fpstat (why : Why) (t : Thread) : (t.park why).fpstat = t.fpstat := rfl
@[simp] theorem Thread.park_trapPc (why : Why) (t : Thread) : (t.park why).trapPc = t.trapPc := rfl
@[simp] theorem Thread.park_trapCause (why : Why) (t : Thread) : (t.park why).trapCause = t.trapCause := rfl
@[simp] theorem Thread.park_trapAddr (why : Why) (t : Thread) : (t.park why).trapAddr = t.trapAddr := rfl
@[simp] theorem Thread.park_trapInfo (why : Why) (t : Thread) : (t.park why).trapInfo = t.trapInfo := rfl
@[simp] theorem Thread.park_sword (why : Why) (t : Thread) : (t.park why).sword = t.sword := rfl
@[simp] theorem Thread.park_waited (why : Why) (t : Thread) : (t.park why).waited = t.waited := rfl
@[simp] theorem Thread.park_lastIssue (why : Why) (t : Thread) : (t.park why).lastIssue = t.lastIssue := rfl
@[simp] theorem Thread.park_held (why : Why) (t : Thread) : (t.park why).held = t.held := rfl
@[simp] theorem Thread.park_freeAt (why : Why) (t : Thread) : (t.park why).freeAt = t.freeAt := rfl
@[simp] theorem Thread.park_nanAt (why : Why) (t : Thread) : (t.park why).nanAt = t.nanAt := rfl

@[simp] theorem Thread.doze_idx (why : Why) (t : Thread) : (t.doze why).idx = t.idx := rfl
@[simp] theorem Thread.doze_role (why : Why) (t : Thread) : (t.doze why).role = t.role := rfl
@[simp] theorem Thread.doze_whySaved (why : Why) (t : Thread) : (t.doze why).whySaved = t.whySaved := rfl
@[simp] theorem Thread.doze_stSaved (why : Why) (t : Thread) : (t.doze why).stSaved = t.stSaved := rfl
@[simp] theorem Thread.doze_pc (why : Why) (t : Thread) : (t.doze why).pc = t.pc := rfl
@[simp] theorem Thread.doze_regs (why : Why) (t : Thread) : (t.doze why).regs = t.regs := rfl
@[simp] theorem Thread.doze_poisonRegs (why : Why) (t : Thread) : (t.doze why).poisonRegs = t.poisonRegs := rfl
@[simp] theorem Thread.doze_pend (why : Why) (t : Thread) : (t.doze why).pend = t.pend := rfl
@[simp] theorem Thread.doze_win (why : Why) (t : Thread) : (t.doze why).win = t.win := rfl
@[simp] theorem Thread.doze_part (why : Why) (t : Thread) : (t.doze why).part = t.part := rfl
@[simp] theorem Thread.doze_flags (why : Why) (t : Thread) : (t.doze why).flags = t.flags := rfl
@[simp] theorem Thread.doze_cls (why : Why) (t : Thread) : (t.doze why).cls = t.cls := rfl
@[simp] theorem Thread.doze_lclass (why : Why) (t : Thread) : (t.doze why).lclass = t.lclass := rfl
@[simp] theorem Thread.doze_seq (why : Why) (t : Thread) : (t.doze why).seq = t.seq := rfl
@[simp] theorem Thread.doze_vset (why : Why) (t : Thread) : (t.doze why).vset = t.vset := rfl
@[simp] theorem Thread.doze_stale (why : Why) (t : Thread) : (t.doze why).stale = t.stale := rfl
@[simp] theorem Thread.doze_joinMask (why : Why) (t : Thread) : (t.doze why).joinMask = t.joinMask := rfl
@[simp] theorem Thread.doze_mine (why : Why) (t : Thread) : (t.doze why).mine = t.mine := rfl
@[simp] theorem Thread.doze_fpstat (why : Why) (t : Thread) : (t.doze why).fpstat = t.fpstat := rfl
@[simp] theorem Thread.doze_trapPc (why : Why) (t : Thread) : (t.doze why).trapPc = t.trapPc := rfl
@[simp] theorem Thread.doze_trapCause (why : Why) (t : Thread) : (t.doze why).trapCause = t.trapCause := rfl
@[simp] theorem Thread.doze_trapAddr (why : Why) (t : Thread) : (t.doze why).trapAddr = t.trapAddr := rfl
@[simp] theorem Thread.doze_trapInfo (why : Why) (t : Thread) : (t.doze why).trapInfo = t.trapInfo := rfl
@[simp] theorem Thread.doze_sword (why : Why) (t : Thread) : (t.doze why).sword = t.sword := rfl
@[simp] theorem Thread.doze_waited (why : Why) (t : Thread) : (t.doze why).waited = t.waited := rfl
@[simp] theorem Thread.doze_lastIssue (why : Why) (t : Thread) : (t.doze why).lastIssue = t.lastIssue := rfl
@[simp] theorem Thread.doze_held (why : Why) (t : Thread) : (t.doze why).held = t.held := rfl
@[simp] theorem Thread.doze_freeAt (why : Why) (t : Thread) : (t.doze why).freeAt = t.freeAt := rfl
@[simp] theorem Thread.doze_nanAt (why : Why) (t : Thread) : (t.doze why).nanAt = t.nanAt := rfl

@[simp] theorem Thread.setFlag_idx (t : Thread) (k v : Nat) : (t.setFlag k v).idx = t.idx := by
  unfold Thread.setFlag; split <;> rfl
@[simp] theorem Thread.setFlag_role (t : Thread) (k v : Nat) : (t.setFlag k v).role = t.role := by
  unfold Thread.setFlag; split <;> rfl
@[simp] theorem Thread.setFlag_st (t : Thread) (k v : Nat) : (t.setFlag k v).st = t.st := by
  unfold Thread.setFlag; split <;> rfl
@[simp] theorem Thread.setFlag_left (t : Thread) (k v : Nat) : (t.setFlag k v).left = t.left := by
  unfold Thread.setFlag; split <;> rfl
@[simp] theorem Thread.setFlag_why (t : Thread) (k v : Nat) : (t.setFlag k v).why = t.why := by
  unfold Thread.setFlag; split <;> rfl
@[simp] theorem Thread.setFlag_whySaved (t : Thread) (k v : Nat) : (t.setFlag k v).whySaved = t.whySaved := by
  unfold Thread.setFlag; split <;> rfl
@[simp] theorem Thread.setFlag_stSaved (t : Thread) (k v : Nat) : (t.setFlag k v).stSaved = t.stSaved := by
  unfold Thread.setFlag; split <;> rfl
@[simp] theorem Thread.setFlag_pc (t : Thread) (k v : Nat) : (t.setFlag k v).pc = t.pc := by
  unfold Thread.setFlag; split <;> rfl
@[simp] theorem Thread.setFlag_regs (t : Thread) (k v : Nat) : (t.setFlag k v).regs = t.regs := by
  unfold Thread.setFlag; split <;> rfl
@[simp] theorem Thread.setFlag_poisonRegs (t : Thread) (k v : Nat) : (t.setFlag k v).poisonRegs = t.poisonRegs := by
  unfold Thread.setFlag; split <;> rfl
@[simp] theorem Thread.setFlag_pend (t : Thread) (k v : Nat) : (t.setFlag k v).pend = t.pend := by
  unfold Thread.setFlag; split <;> rfl
@[simp] theorem Thread.setFlag_win (t : Thread) (k v : Nat) : (t.setFlag k v).win = t.win := by
  unfold Thread.setFlag; split <;> rfl
@[simp] theorem Thread.setFlag_part (t : Thread) (k v : Nat) : (t.setFlag k v).part = t.part := by
  unfold Thread.setFlag; split <;> rfl
@[simp] theorem Thread.setFlag_cls (t : Thread) (k v : Nat) : (t.setFlag k v).cls = t.cls := by
  unfold Thread.setFlag; split <;> rfl
@[simp] theorem Thread.setFlag_lclass (t : Thread) (k v : Nat) : (t.setFlag k v).lclass = t.lclass := by
  unfold Thread.setFlag; split <;> rfl
@[simp] theorem Thread.setFlag_seq (t : Thread) (k v : Nat) : (t.setFlag k v).seq = t.seq := by
  unfold Thread.setFlag; split <;> rfl
@[simp] theorem Thread.setFlag_vset (t : Thread) (k v : Nat) : (t.setFlag k v).vset = t.vset := by
  unfold Thread.setFlag; split <;> rfl
@[simp] theorem Thread.setFlag_stale (t : Thread) (k v : Nat) : (t.setFlag k v).stale = t.stale := by
  unfold Thread.setFlag; split <;> rfl
@[simp] theorem Thread.setFlag_joinMask (t : Thread) (k v : Nat) : (t.setFlag k v).joinMask = t.joinMask := by
  unfold Thread.setFlag; split <;> rfl
@[simp] theorem Thread.setFlag_mine (t : Thread) (k v : Nat) : (t.setFlag k v).mine = t.mine := by
  unfold Thread.setFlag; split <;> rfl
@[simp] theorem Thread.setFlag_fpstat (t : Thread) (k v : Nat) : (t.setFlag k v).fpstat = t.fpstat := by
  unfold Thread.setFlag; split <;> rfl
@[simp] theorem Thread.setFlag_trapPc (t : Thread) (k v : Nat) : (t.setFlag k v).trapPc = t.trapPc := by
  unfold Thread.setFlag; split <;> rfl
@[simp] theorem Thread.setFlag_trapCause (t : Thread) (k v : Nat) : (t.setFlag k v).trapCause = t.trapCause := by
  unfold Thread.setFlag; split <;> rfl
@[simp] theorem Thread.setFlag_trapAddr (t : Thread) (k v : Nat) : (t.setFlag k v).trapAddr = t.trapAddr := by
  unfold Thread.setFlag; split <;> rfl
@[simp] theorem Thread.setFlag_trapInfo (t : Thread) (k v : Nat) : (t.setFlag k v).trapInfo = t.trapInfo := by
  unfold Thread.setFlag; split <;> rfl
@[simp] theorem Thread.setFlag_sword (t : Thread) (k v : Nat) : (t.setFlag k v).sword = t.sword := by
  unfold Thread.setFlag; split <;> rfl
@[simp] theorem Thread.setFlag_waited (t : Thread) (k v : Nat) : (t.setFlag k v).waited = t.waited := by
  unfold Thread.setFlag; split <;> rfl
@[simp] theorem Thread.setFlag_lastIssue (t : Thread) (k v : Nat) : (t.setFlag k v).lastIssue = t.lastIssue := by
  unfold Thread.setFlag; split <;> rfl
@[simp] theorem Thread.setFlag_held (t : Thread) (k v : Nat) : (t.setFlag k v).held = t.held := by
  unfold Thread.setFlag; split <;> rfl
@[simp] theorem Thread.setFlag_freeAt (t : Thread) (k v : Nat) : (t.setFlag k v).freeAt = t.freeAt := by
  unfold Thread.setFlag; split <;> rfl
@[simp] theorem Thread.setFlag_nanAt (t : Thread) (k v : Nat) : (t.setFlag k v).nanAt = t.nanAt := by
  unfold Thread.setFlag; split <;> rfl

@[simp] theorem Thread.flagUp_idx (k : Nat) (t : Thread) : (t.flagUp k).idx = t.idx := by
  simp [Thread.flagUp]
@[simp] theorem Thread.flagUp_role (k : Nat) (t : Thread) : (t.flagUp k).role = t.role := by
  simp [Thread.flagUp]
@[simp] theorem Thread.flagUp_st (k : Nat) (t : Thread) : (t.flagUp k).st = t.st := by
  simp [Thread.flagUp]
@[simp] theorem Thread.flagUp_left (k : Nat) (t : Thread) : (t.flagUp k).left = t.left := by
  simp [Thread.flagUp]
@[simp] theorem Thread.flagUp_why (k : Nat) (t : Thread) : (t.flagUp k).why = t.why := by
  simp [Thread.flagUp]
@[simp] theorem Thread.flagUp_whySaved (k : Nat) (t : Thread) : (t.flagUp k).whySaved = t.whySaved := by
  simp [Thread.flagUp]
@[simp] theorem Thread.flagUp_stSaved (k : Nat) (t : Thread) : (t.flagUp k).stSaved = t.stSaved := by
  simp [Thread.flagUp]
@[simp] theorem Thread.flagUp_pc (k : Nat) (t : Thread) : (t.flagUp k).pc = t.pc := by
  simp [Thread.flagUp]
@[simp] theorem Thread.flagUp_regs (k : Nat) (t : Thread) : (t.flagUp k).regs = t.regs := by
  simp [Thread.flagUp]
@[simp] theorem Thread.flagUp_poisonRegs (k : Nat) (t : Thread) : (t.flagUp k).poisonRegs = t.poisonRegs := by
  simp [Thread.flagUp]
@[simp] theorem Thread.flagUp_pend (k : Nat) (t : Thread) : (t.flagUp k).pend = t.pend := by
  simp [Thread.flagUp]
@[simp] theorem Thread.flagUp_win (k : Nat) (t : Thread) : (t.flagUp k).win = t.win := by
  simp [Thread.flagUp]
@[simp] theorem Thread.flagUp_part (k : Nat) (t : Thread) : (t.flagUp k).part = t.part := by
  simp [Thread.flagUp]
@[simp] theorem Thread.flagUp_cls (k : Nat) (t : Thread) : (t.flagUp k).cls = t.cls := by
  simp [Thread.flagUp]
@[simp] theorem Thread.flagUp_lclass (k : Nat) (t : Thread) : (t.flagUp k).lclass = t.lclass := by
  simp [Thread.flagUp]
@[simp] theorem Thread.flagUp_seq (k : Nat) (t : Thread) : (t.flagUp k).seq = t.seq := by
  simp [Thread.flagUp]
@[simp] theorem Thread.flagUp_vset (k : Nat) (t : Thread) : (t.flagUp k).vset = t.vset := by
  simp [Thread.flagUp]
@[simp] theorem Thread.flagUp_stale (k : Nat) (t : Thread) : (t.flagUp k).stale = t.stale := by
  simp [Thread.flagUp]
@[simp] theorem Thread.flagUp_joinMask (k : Nat) (t : Thread) : (t.flagUp k).joinMask = t.joinMask := by
  simp [Thread.flagUp]
@[simp] theorem Thread.flagUp_mine (k : Nat) (t : Thread) : (t.flagUp k).mine = t.mine := by
  simp [Thread.flagUp]
@[simp] theorem Thread.flagUp_fpstat (k : Nat) (t : Thread) : (t.flagUp k).fpstat = t.fpstat := by
  simp [Thread.flagUp]
@[simp] theorem Thread.flagUp_trapPc (k : Nat) (t : Thread) : (t.flagUp k).trapPc = t.trapPc := by
  simp [Thread.flagUp]
@[simp] theorem Thread.flagUp_trapCause (k : Nat) (t : Thread) : (t.flagUp k).trapCause = t.trapCause := by
  simp [Thread.flagUp]
@[simp] theorem Thread.flagUp_trapAddr (k : Nat) (t : Thread) : (t.flagUp k).trapAddr = t.trapAddr := by
  simp [Thread.flagUp]
@[simp] theorem Thread.flagUp_trapInfo (k : Nat) (t : Thread) : (t.flagUp k).trapInfo = t.trapInfo := by
  simp [Thread.flagUp]
@[simp] theorem Thread.flagUp_sword (k : Nat) (t : Thread) : (t.flagUp k).sword = t.sword := by
  simp [Thread.flagUp]
@[simp] theorem Thread.flagUp_waited (k : Nat) (t : Thread) : (t.flagUp k).waited = t.waited := by
  simp [Thread.flagUp]
@[simp] theorem Thread.flagUp_lastIssue (k : Nat) (t : Thread) : (t.flagUp k).lastIssue = t.lastIssue := by
  simp [Thread.flagUp]
@[simp] theorem Thread.flagUp_held (k : Nat) (t : Thread) : (t.flagUp k).held = t.held := by
  simp [Thread.flagUp]
@[simp] theorem Thread.flagUp_freeAt (k : Nat) (t : Thread) : (t.flagUp k).freeAt = t.freeAt := by
  simp [Thread.flagUp]
@[simp] theorem Thread.flagUp_nanAt (k : Nat) (t : Thread) : (t.flagUp k).nanAt = t.nanAt := by
  simp [Thread.flagUp]

@[simp] theorem Thread.flagDown_idx (k : Nat) (t : Thread) : (t.flagDown k).idx = t.idx := by
  simp [Thread.flagDown]
@[simp] theorem Thread.flagDown_role (k : Nat) (t : Thread) : (t.flagDown k).role = t.role := by
  simp [Thread.flagDown]
@[simp] theorem Thread.flagDown_st (k : Nat) (t : Thread) : (t.flagDown k).st = t.st := by
  simp [Thread.flagDown]
@[simp] theorem Thread.flagDown_left (k : Nat) (t : Thread) : (t.flagDown k).left = t.left := by
  simp [Thread.flagDown]
@[simp] theorem Thread.flagDown_why (k : Nat) (t : Thread) : (t.flagDown k).why = t.why := by
  simp [Thread.flagDown]
@[simp] theorem Thread.flagDown_whySaved (k : Nat) (t : Thread) : (t.flagDown k).whySaved = t.whySaved := by
  simp [Thread.flagDown]
@[simp] theorem Thread.flagDown_stSaved (k : Nat) (t : Thread) : (t.flagDown k).stSaved = t.stSaved := by
  simp [Thread.flagDown]
@[simp] theorem Thread.flagDown_pc (k : Nat) (t : Thread) : (t.flagDown k).pc = t.pc := by
  simp [Thread.flagDown]
@[simp] theorem Thread.flagDown_regs (k : Nat) (t : Thread) : (t.flagDown k).regs = t.regs := by
  simp [Thread.flagDown]
@[simp] theorem Thread.flagDown_poisonRegs (k : Nat) (t : Thread) : (t.flagDown k).poisonRegs = t.poisonRegs := by
  simp [Thread.flagDown]
@[simp] theorem Thread.flagDown_pend (k : Nat) (t : Thread) : (t.flagDown k).pend = t.pend := by
  simp [Thread.flagDown]
@[simp] theorem Thread.flagDown_win (k : Nat) (t : Thread) : (t.flagDown k).win = t.win := by
  simp [Thread.flagDown]
@[simp] theorem Thread.flagDown_part (k : Nat) (t : Thread) : (t.flagDown k).part = t.part := by
  simp [Thread.flagDown]
@[simp] theorem Thread.flagDown_cls (k : Nat) (t : Thread) : (t.flagDown k).cls = t.cls := by
  simp [Thread.flagDown]
@[simp] theorem Thread.flagDown_lclass (k : Nat) (t : Thread) : (t.flagDown k).lclass = t.lclass := by
  simp [Thread.flagDown]
@[simp] theorem Thread.flagDown_seq (k : Nat) (t : Thread) : (t.flagDown k).seq = t.seq := by
  simp [Thread.flagDown]
@[simp] theorem Thread.flagDown_vset (k : Nat) (t : Thread) : (t.flagDown k).vset = t.vset := by
  simp [Thread.flagDown]
@[simp] theorem Thread.flagDown_stale (k : Nat) (t : Thread) : (t.flagDown k).stale = t.stale := by
  simp [Thread.flagDown]
@[simp] theorem Thread.flagDown_joinMask (k : Nat) (t : Thread) : (t.flagDown k).joinMask = t.joinMask := by
  simp [Thread.flagDown]
@[simp] theorem Thread.flagDown_mine (k : Nat) (t : Thread) : (t.flagDown k).mine = t.mine := by
  simp [Thread.flagDown]
@[simp] theorem Thread.flagDown_fpstat (k : Nat) (t : Thread) : (t.flagDown k).fpstat = t.fpstat := by
  simp [Thread.flagDown]
@[simp] theorem Thread.flagDown_trapPc (k : Nat) (t : Thread) : (t.flagDown k).trapPc = t.trapPc := by
  simp [Thread.flagDown]
@[simp] theorem Thread.flagDown_trapCause (k : Nat) (t : Thread) : (t.flagDown k).trapCause = t.trapCause := by
  simp [Thread.flagDown]
@[simp] theorem Thread.flagDown_trapAddr (k : Nat) (t : Thread) : (t.flagDown k).trapAddr = t.trapAddr := by
  simp [Thread.flagDown]
@[simp] theorem Thread.flagDown_trapInfo (k : Nat) (t : Thread) : (t.flagDown k).trapInfo = t.trapInfo := by
  simp [Thread.flagDown]
@[simp] theorem Thread.flagDown_sword (k : Nat) (t : Thread) : (t.flagDown k).sword = t.sword := by
  simp [Thread.flagDown]
@[simp] theorem Thread.flagDown_waited (k : Nat) (t : Thread) : (t.flagDown k).waited = t.waited := by
  simp [Thread.flagDown]
@[simp] theorem Thread.flagDown_lastIssue (k : Nat) (t : Thread) : (t.flagDown k).lastIssue = t.lastIssue := by
  simp [Thread.flagDown]
@[simp] theorem Thread.flagDown_held (k : Nat) (t : Thread) : (t.flagDown k).held = t.held := by
  simp [Thread.flagDown]
@[simp] theorem Thread.flagDown_freeAt (k : Nat) (t : Thread) : (t.flagDown k).freeAt = t.freeAt := by
  simp [Thread.flagDown]
@[simp] theorem Thread.flagDown_nanAt (k : Nat) (t : Thread) : (t.flagDown k).nanAt = t.nanAt := by
  simp [Thread.flagDown]

@[simp] theorem Thread.addPend_idx (now lat pick order : Nat) (ws : List Landing) (t : Thread) : (t.addPend now lat pick order ws).idx = t.idx := by
  unfold Thread.addPend; split <;> rfl
@[simp] theorem Thread.addPend_role (now lat pick order : Nat) (ws : List Landing) (t : Thread) : (t.addPend now lat pick order ws).role = t.role := by
  unfold Thread.addPend; split <;> rfl
@[simp] theorem Thread.addPend_st (now lat pick order : Nat) (ws : List Landing) (t : Thread) : (t.addPend now lat pick order ws).st = t.st := by
  unfold Thread.addPend; split <;> rfl
@[simp] theorem Thread.addPend_left (now lat pick order : Nat) (ws : List Landing) (t : Thread) : (t.addPend now lat pick order ws).left = t.left := by
  unfold Thread.addPend; split <;> rfl
@[simp] theorem Thread.addPend_why (now lat pick order : Nat) (ws : List Landing) (t : Thread) : (t.addPend now lat pick order ws).why = t.why := by
  unfold Thread.addPend; split <;> rfl
@[simp] theorem Thread.addPend_whySaved (now lat pick order : Nat) (ws : List Landing) (t : Thread) : (t.addPend now lat pick order ws).whySaved = t.whySaved := by
  unfold Thread.addPend; split <;> rfl
@[simp] theorem Thread.addPend_stSaved (now lat pick order : Nat) (ws : List Landing) (t : Thread) : (t.addPend now lat pick order ws).stSaved = t.stSaved := by
  unfold Thread.addPend; split <;> rfl
@[simp] theorem Thread.addPend_pc (now lat pick order : Nat) (ws : List Landing) (t : Thread) : (t.addPend now lat pick order ws).pc = t.pc := by
  unfold Thread.addPend; split <;> rfl
@[simp] theorem Thread.addPend_regs (now lat pick order : Nat) (ws : List Landing) (t : Thread) : (t.addPend now lat pick order ws).regs = t.regs := by
  unfold Thread.addPend; split <;> rfl
@[simp] theorem Thread.addPend_poisonRegs (now lat pick order : Nat) (ws : List Landing) (t : Thread) : (t.addPend now lat pick order ws).poisonRegs = t.poisonRegs := by
  unfold Thread.addPend; split <;> rfl
@[simp] theorem Thread.addPend_win (now lat pick order : Nat) (ws : List Landing) (t : Thread) : (t.addPend now lat pick order ws).win = t.win := by
  unfold Thread.addPend; split <;> rfl
@[simp] theorem Thread.addPend_part (now lat pick order : Nat) (ws : List Landing) (t : Thread) : (t.addPend now lat pick order ws).part = t.part := by
  unfold Thread.addPend; split <;> rfl
@[simp] theorem Thread.addPend_flags (now lat pick order : Nat) (ws : List Landing) (t : Thread) : (t.addPend now lat pick order ws).flags = t.flags := by
  unfold Thread.addPend; split <;> rfl
@[simp] theorem Thread.addPend_cls (now lat pick order : Nat) (ws : List Landing) (t : Thread) : (t.addPend now lat pick order ws).cls = t.cls := by
  unfold Thread.addPend; split <;> rfl
@[simp] theorem Thread.addPend_lclass (now lat pick order : Nat) (ws : List Landing) (t : Thread) : (t.addPend now lat pick order ws).lclass = t.lclass := by
  unfold Thread.addPend; split <;> rfl
@[simp] theorem Thread.addPend_seq (now lat pick order : Nat) (ws : List Landing) (t : Thread) : (t.addPend now lat pick order ws).seq = t.seq := by
  unfold Thread.addPend; split <;> rfl
@[simp] theorem Thread.addPend_vset (now lat pick order : Nat) (ws : List Landing) (t : Thread) : (t.addPend now lat pick order ws).vset = t.vset := by
  unfold Thread.addPend; split <;> rfl
@[simp] theorem Thread.addPend_stale (now lat pick order : Nat) (ws : List Landing) (t : Thread) : (t.addPend now lat pick order ws).stale = t.stale := by
  unfold Thread.addPend; split <;> rfl
@[simp] theorem Thread.addPend_joinMask (now lat pick order : Nat) (ws : List Landing) (t : Thread) : (t.addPend now lat pick order ws).joinMask = t.joinMask := by
  unfold Thread.addPend; split <;> rfl
@[simp] theorem Thread.addPend_mine (now lat pick order : Nat) (ws : List Landing) (t : Thread) : (t.addPend now lat pick order ws).mine = t.mine := by
  unfold Thread.addPend; split <;> rfl
@[simp] theorem Thread.addPend_fpstat (now lat pick order : Nat) (ws : List Landing) (t : Thread) : (t.addPend now lat pick order ws).fpstat = t.fpstat := by
  unfold Thread.addPend; split <;> rfl
@[simp] theorem Thread.addPend_trapPc (now lat pick order : Nat) (ws : List Landing) (t : Thread) : (t.addPend now lat pick order ws).trapPc = t.trapPc := by
  unfold Thread.addPend; split <;> rfl
@[simp] theorem Thread.addPend_trapCause (now lat pick order : Nat) (ws : List Landing) (t : Thread) : (t.addPend now lat pick order ws).trapCause = t.trapCause := by
  unfold Thread.addPend; split <;> rfl
@[simp] theorem Thread.addPend_trapAddr (now lat pick order : Nat) (ws : List Landing) (t : Thread) : (t.addPend now lat pick order ws).trapAddr = t.trapAddr := by
  unfold Thread.addPend; split <;> rfl
@[simp] theorem Thread.addPend_trapInfo (now lat pick order : Nat) (ws : List Landing) (t : Thread) : (t.addPend now lat pick order ws).trapInfo = t.trapInfo := by
  unfold Thread.addPend; split <;> rfl
@[simp] theorem Thread.addPend_sword (now lat pick order : Nat) (ws : List Landing) (t : Thread) : (t.addPend now lat pick order ws).sword = t.sword := by
  unfold Thread.addPend; split <;> rfl
@[simp] theorem Thread.addPend_waited (now lat pick order : Nat) (ws : List Landing) (t : Thread) : (t.addPend now lat pick order ws).waited = t.waited := by
  unfold Thread.addPend; split <;> rfl
@[simp] theorem Thread.addPend_lastIssue (now lat pick order : Nat) (ws : List Landing) (t : Thread) : (t.addPend now lat pick order ws).lastIssue = t.lastIssue := by
  unfold Thread.addPend; split <;> rfl
@[simp] theorem Thread.addPend_held (now lat pick order : Nat) (ws : List Landing) (t : Thread) : (t.addPend now lat pick order ws).held = t.held := by
  unfold Thread.addPend; split <;> rfl
@[simp] theorem Thread.addPend_freeAt (now lat pick order : Nat) (ws : List Landing) (t : Thread) : (t.addPend now lat pick order ws).freeAt = t.freeAt := by
  unfold Thread.addPend; split <;> rfl
@[simp] theorem Thread.addPend_nanAt (now lat pick order : Nat) (ws : List Landing) (t : Thread) : (t.addPend now lat pick order ws).nanAt = t.nanAt := by
  unfold Thread.addPend; split <;> rfl

@[simp] theorem Thread.trapEntry_idx (tvb : DWord) (t : Trap) (defer : Bool) (th : Thread) : (th.trapEntry tvb t defer).idx = th.idx := rfl
@[simp] theorem Thread.trapEntry_role (tvb : DWord) (t : Trap) (defer : Bool) (th : Thread) : (th.trapEntry tvb t defer).role = th.role := rfl
@[simp] theorem Thread.trapEntry_left (tvb : DWord) (t : Trap) (defer : Bool) (th : Thread) : (th.trapEntry tvb t defer).left = th.left := rfl
@[simp] theorem Thread.trapEntry_whySaved (tvb : DWord) (t : Trap) (defer : Bool) (th : Thread) : (th.trapEntry tvb t defer).whySaved = th.whySaved := rfl
@[simp] theorem Thread.trapEntry_stSaved (tvb : DWord) (t : Trap) (defer : Bool) (th : Thread) : (th.trapEntry tvb t defer).stSaved = th.stSaved := rfl
@[simp] theorem Thread.trapEntry_regs (tvb : DWord) (t : Trap) (defer : Bool) (th : Thread) : (th.trapEntry tvb t defer).regs = th.regs := rfl
@[simp] theorem Thread.trapEntry_poisonRegs (tvb : DWord) (t : Trap) (defer : Bool) (th : Thread) : (th.trapEntry tvb t defer).poisonRegs = th.poisonRegs := rfl
@[simp] theorem Thread.trapEntry_pend (tvb : DWord) (t : Trap) (defer : Bool) (th : Thread) : (th.trapEntry tvb t defer).pend = th.pend := rfl
@[simp] theorem Thread.trapEntry_win (tvb : DWord) (t : Trap) (defer : Bool) (th : Thread) : (th.trapEntry tvb t defer).win = th.win := rfl
@[simp] theorem Thread.trapEntry_part (tvb : DWord) (t : Trap) (defer : Bool) (th : Thread) : (th.trapEntry tvb t defer).part = th.part := rfl
@[simp] theorem Thread.trapEntry_flags (tvb : DWord) (t : Trap) (defer : Bool) (th : Thread) : (th.trapEntry tvb t defer).flags = th.flags := rfl
@[simp] theorem Thread.trapEntry_cls (tvb : DWord) (t : Trap) (defer : Bool) (th : Thread) : (th.trapEntry tvb t defer).cls = th.cls := rfl
@[simp] theorem Thread.trapEntry_lclass (tvb : DWord) (t : Trap) (defer : Bool) (th : Thread) : (th.trapEntry tvb t defer).lclass = th.lclass := rfl
@[simp] theorem Thread.trapEntry_seq (tvb : DWord) (t : Trap) (defer : Bool) (th : Thread) : (th.trapEntry tvb t defer).seq = th.seq := rfl
@[simp] theorem Thread.trapEntry_vset (tvb : DWord) (t : Trap) (defer : Bool) (th : Thread) : (th.trapEntry tvb t defer).vset = th.vset := rfl
@[simp] theorem Thread.trapEntry_stale (tvb : DWord) (t : Trap) (defer : Bool) (th : Thread) : (th.trapEntry tvb t defer).stale = th.stale := rfl
@[simp] theorem Thread.trapEntry_joinMask (tvb : DWord) (t : Trap) (defer : Bool) (th : Thread) : (th.trapEntry tvb t defer).joinMask = th.joinMask := rfl
@[simp] theorem Thread.trapEntry_mine (tvb : DWord) (t : Trap) (defer : Bool) (th : Thread) : (th.trapEntry tvb t defer).mine = th.mine := rfl
@[simp] theorem Thread.trapEntry_fpstat (tvb : DWord) (t : Trap) (defer : Bool) (th : Thread) : (th.trapEntry tvb t defer).fpstat = th.fpstat := rfl
@[simp] theorem Thread.trapEntry_lastIssue (tvb : DWord) (t : Trap) (defer : Bool) (th : Thread) : (th.trapEntry tvb t defer).lastIssue = th.lastIssue := rfl
@[simp] theorem Thread.trapEntry_held (tvb : DWord) (t : Trap) (defer : Bool) (th : Thread) : (th.trapEntry tvb t defer).held = th.held := rfl
@[simp] theorem Thread.trapEntry_freeAt (tvb : DWord) (t : Trap) (defer : Bool) (th : Thread) : (th.trapEntry tvb t defer).freeAt = th.freeAt := rfl
@[simp] theorem Thread.trapEntry_nanAt (tvb : DWord) (t : Trap) (defer : Bool) (th : Thread) : (th.trapEntry tvb t defer).nanAt = th.nanAt := rfl

@[simp] theorem Thread.trapReturn_idx (th : Thread) : (th.trapReturn).idx = th.idx := rfl
@[simp] theorem Thread.trapReturn_role (th : Thread) : (th.trapReturn).role = th.role := rfl
@[simp] theorem Thread.trapReturn_left (th : Thread) : (th.trapReturn).left = th.left := rfl
@[simp] theorem Thread.trapReturn_why (th : Thread) : (th.trapReturn).why = th.why := rfl
@[simp] theorem Thread.trapReturn_whySaved (th : Thread) : (th.trapReturn).whySaved = th.whySaved := rfl
@[simp] theorem Thread.trapReturn_stSaved (th : Thread) : (th.trapReturn).stSaved = th.stSaved := rfl
@[simp] theorem Thread.trapReturn_regs (th : Thread) : (th.trapReturn).regs = th.regs := rfl
@[simp] theorem Thread.trapReturn_poisonRegs (th : Thread) : (th.trapReturn).poisonRegs = th.poisonRegs := rfl
@[simp] theorem Thread.trapReturn_pend (th : Thread) : (th.trapReturn).pend = th.pend := rfl
@[simp] theorem Thread.trapReturn_win (th : Thread) : (th.trapReturn).win = th.win := rfl
@[simp] theorem Thread.trapReturn_part (th : Thread) : (th.trapReturn).part = th.part := rfl
@[simp] theorem Thread.trapReturn_flags (th : Thread) : (th.trapReturn).flags = th.flags := rfl
@[simp] theorem Thread.trapReturn_cls (th : Thread) : (th.trapReturn).cls = th.cls := rfl
@[simp] theorem Thread.trapReturn_lclass (th : Thread) : (th.trapReturn).lclass = th.lclass := rfl
@[simp] theorem Thread.trapReturn_seq (th : Thread) : (th.trapReturn).seq = th.seq := rfl
@[simp] theorem Thread.trapReturn_vset (th : Thread) : (th.trapReturn).vset = th.vset := rfl
@[simp] theorem Thread.trapReturn_stale (th : Thread) : (th.trapReturn).stale = th.stale := rfl
@[simp] theorem Thread.trapReturn_joinMask (th : Thread) : (th.trapReturn).joinMask = th.joinMask := rfl
@[simp] theorem Thread.trapReturn_mine (th : Thread) : (th.trapReturn).mine = th.mine := rfl
@[simp] theorem Thread.trapReturn_fpstat (th : Thread) : (th.trapReturn).fpstat = th.fpstat := rfl
@[simp] theorem Thread.trapReturn_trapPc (th : Thread) : (th.trapReturn).trapPc = th.trapPc := rfl
@[simp] theorem Thread.trapReturn_trapCause (th : Thread) : (th.trapReturn).trapCause = th.trapCause := rfl
@[simp] theorem Thread.trapReturn_trapAddr (th : Thread) : (th.trapReturn).trapAddr = th.trapAddr := rfl
@[simp] theorem Thread.trapReturn_trapInfo (th : Thread) : (th.trapReturn).trapInfo = th.trapInfo := rfl
@[simp] theorem Thread.trapReturn_lastIssue (th : Thread) : (th.trapReturn).lastIssue = th.lastIssue := rfl
@[simp] theorem Thread.trapReturn_held (th : Thread) : (th.trapReturn).held = th.held := rfl
@[simp] theorem Thread.trapReturn_freeAt (th : Thread) : (th.trapReturn).freeAt = th.freeAt := rfl
@[simp] theorem Thread.trapReturn_nanAt (th : Thread) : (th.trapReturn).nanAt = th.nanAt := rfl

@[simp] theorem Team.modThread_grid (t : Team) (j : Nat) (f : Thread → Thread) : (t.modThread j f).grid = t.grid := rfl
@[simp] theorem Team.modThread_gridIdx (t : Team) (j : Nat) (f : Thread → Thread) : (t.modThread j f).gridIdx = t.gridIdx := rfl
@[simp] theorem Team.modThread_hubset (t : Team) (j : Nat) (f : Thread → Thread) : (t.modThread j f).hubset = t.hubset := rfl
@[simp] theorem Team.modThread_fn (t : Team) (j : Nat) (f : Thread → Thread) : (t.modThread j f).fn = t.fn := rfl
@[simp] theorem Team.modThread_core (t : Team) (j : Nat) (f : Thread → Thread) : (t.modThread j f).core = t.core := rfl
@[simp] theorem Team.modThread_slot (t : Team) (j : Nat) (f : Thread → Thread) : (t.modThread j f).slot = t.slot := rfl
@[simp] theorem Team.modThread_status (t : Team) (j : Nat) (f : Thread → Thread) : (t.modThread j f).status = t.status := rfl
@[simp] theorem Team.modThread_roles (t : Team) (j : Nat) (f : Thread → Thread) : (t.modThread j f).roles = t.roles := rfl
@[simp] theorem Team.modThread_groups (t : Team) (j : Nat) (f : Thread → Thread) : (t.modThread j f).groups = t.groups := rfl
@[simp] theorem Team.modThread_spadBytes (t : Team) (j : Nat) (f : Thread → Thread) : (t.modThread j f).spadBytes = t.spadBytes := rfl
@[simp] theorem Team.modThread_spad (t : Team) (j : Nat) (f : Thread → Thread) : (t.modThread j f).spad = t.spad := rfl
@[simp] theorem Team.modThread_spadPoison (t : Team) (j : Nat) (f : Thread → Thread) : (t.modThread j f).spadPoison = t.spadPoison := rfl
@[simp] theorem Team.modThread_absent (t : Team) (j : Nat) (f : Thread → Thread) : (t.modThread j f).absent = t.absent := rfl
@[simp] theorem Team.modThread_bars (t : Team) (j : Nat) (f : Thread → Thread) : (t.modThread j f).bars = t.bars := rfl
@[simp] theorem Team.modThread_age (t : Team) (j : Nat) (f : Thread → Thread) : (t.modThread j f).age = t.age := rfl
@[simp] theorem Team.modThread_pwin (t : Team) (j : Nat) (f : Thread → Thread) : (t.modThread j f).pwin = t.pwin := rfl
@[simp] theorem Team.modThread_seed (t : Team) (j : Nat) (f : Thread → Thread) : (t.modThread j f).seed = t.seed := rfl
@[simp] theorem Team.modThread_rs (t : Team) (j : Nat) (f : Thread → Thread) : (t.modThread j f).rs = t.rs := rfl
@[simp] theorem Team.modThread_queue (t : Team) (j : Nat) (f : Thread → Thread) : (t.modThread j f).queue = t.queue := rfl

@[simp] theorem Team.modBar_grid (o : Nat) (f : Barrier → Barrier) (t : Team) : (t.modBar o f).grid = t.grid := rfl
@[simp] theorem Team.modBar_gridIdx (o : Nat) (f : Barrier → Barrier) (t : Team) : (t.modBar o f).gridIdx = t.gridIdx := rfl
@[simp] theorem Team.modBar_hubset (o : Nat) (f : Barrier → Barrier) (t : Team) : (t.modBar o f).hubset = t.hubset := rfl
@[simp] theorem Team.modBar_fn (o : Nat) (f : Barrier → Barrier) (t : Team) : (t.modBar o f).fn = t.fn := rfl
@[simp] theorem Team.modBar_core (o : Nat) (f : Barrier → Barrier) (t : Team) : (t.modBar o f).core = t.core := rfl
@[simp] theorem Team.modBar_slot (o : Nat) (f : Barrier → Barrier) (t : Team) : (t.modBar o f).slot = t.slot := rfl
@[simp] theorem Team.modBar_status (o : Nat) (f : Barrier → Barrier) (t : Team) : (t.modBar o f).status = t.status := rfl
@[simp] theorem Team.modBar_roles (o : Nat) (f : Barrier → Barrier) (t : Team) : (t.modBar o f).roles = t.roles := rfl
@[simp] theorem Team.modBar_threads (o : Nat) (f : Barrier → Barrier) (t : Team) : (t.modBar o f).threads = t.threads := rfl
@[simp] theorem Team.modBar_groups (o : Nat) (f : Barrier → Barrier) (t : Team) : (t.modBar o f).groups = t.groups := rfl
@[simp] theorem Team.modBar_spadBytes (o : Nat) (f : Barrier → Barrier) (t : Team) : (t.modBar o f).spadBytes = t.spadBytes := rfl
@[simp] theorem Team.modBar_spad (o : Nat) (f : Barrier → Barrier) (t : Team) : (t.modBar o f).spad = t.spad := rfl
@[simp] theorem Team.modBar_spadPoison (o : Nat) (f : Barrier → Barrier) (t : Team) : (t.modBar o f).spadPoison = t.spadPoison := rfl
@[simp] theorem Team.modBar_absent (o : Nat) (f : Barrier → Barrier) (t : Team) : (t.modBar o f).absent = t.absent := rfl
@[simp] theorem Team.modBar_age (o : Nat) (f : Barrier → Barrier) (t : Team) : (t.modBar o f).age = t.age := rfl
@[simp] theorem Team.modBar_pwin (o : Nat) (f : Barrier → Barrier) (t : Team) : (t.modBar o f).pwin = t.pwin := rfl
@[simp] theorem Team.modBar_seed (o : Nat) (f : Barrier → Barrier) (t : Team) : (t.modBar o f).seed = t.seed := rfl
@[simp] theorem Team.modBar_rs (o : Nat) (f : Barrier → Barrier) (t : Team) : (t.modBar o f).rs = t.rs := rfl
@[simp] theorem Team.modBar_queue (o : Nat) (f : Barrier → Barrier) (t : Team) : (t.modBar o f).queue = t.queue := rfl

@[simp] theorem Team.leave_grid (js : List Nat) (t : Team) : (t.leave js).grid = t.grid := rfl
@[simp] theorem Team.leave_gridIdx (js : List Nat) (t : Team) : (t.leave js).gridIdx = t.gridIdx := rfl
@[simp] theorem Team.leave_hubset (js : List Nat) (t : Team) : (t.leave js).hubset = t.hubset := rfl
@[simp] theorem Team.leave_fn (js : List Nat) (t : Team) : (t.leave js).fn = t.fn := rfl
@[simp] theorem Team.leave_core (js : List Nat) (t : Team) : (t.leave js).core = t.core := rfl
@[simp] theorem Team.leave_slot (js : List Nat) (t : Team) : (t.leave js).slot = t.slot := rfl
@[simp] theorem Team.leave_status (js : List Nat) (t : Team) : (t.leave js).status = t.status := rfl
@[simp] theorem Team.leave_roles (js : List Nat) (t : Team) : (t.leave js).roles = t.roles := rfl
@[simp] theorem Team.leave_threads (js : List Nat) (t : Team) : (t.leave js).threads = t.threads := rfl
@[simp] theorem Team.leave_spadBytes (js : List Nat) (t : Team) : (t.leave js).spadBytes = t.spadBytes := rfl
@[simp] theorem Team.leave_spad (js : List Nat) (t : Team) : (t.leave js).spad = t.spad := rfl
@[simp] theorem Team.leave_spadPoison (js : List Nat) (t : Team) : (t.leave js).spadPoison = t.spadPoison := rfl
@[simp] theorem Team.leave_absent (js : List Nat) (t : Team) : (t.leave js).absent = t.absent := rfl
@[simp] theorem Team.leave_bars (js : List Nat) (t : Team) : (t.leave js).bars = t.bars := rfl
@[simp] theorem Team.leave_age (js : List Nat) (t : Team) : (t.leave js).age = t.age := rfl
@[simp] theorem Team.leave_pwin (js : List Nat) (t : Team) : (t.leave js).pwin = t.pwin := rfl
@[simp] theorem Team.leave_seed (js : List Nat) (t : Team) : (t.leave js).seed = t.seed := rfl
@[simp] theorem Team.leave_rs (js : List Nat) (t : Team) : (t.leave js).rs = t.rs := rfl
@[simp] theorem Team.leave_queue (js : List Nat) (t : Team) : (t.leave js).queue = t.queue := rfl

@[simp] theorem Team.regroup_grid (now : Nat) (members : List Nat) (t : Team) : (t.regroup now members).grid = t.grid := rfl
@[simp] theorem Team.regroup_gridIdx (now : Nat) (members : List Nat) (t : Team) : (t.regroup now members).gridIdx = t.gridIdx := rfl
@[simp] theorem Team.regroup_hubset (now : Nat) (members : List Nat) (t : Team) : (t.regroup now members).hubset = t.hubset := rfl
@[simp] theorem Team.regroup_fn (now : Nat) (members : List Nat) (t : Team) : (t.regroup now members).fn = t.fn := rfl
@[simp] theorem Team.regroup_core (now : Nat) (members : List Nat) (t : Team) : (t.regroup now members).core = t.core := rfl
@[simp] theorem Team.regroup_slot (now : Nat) (members : List Nat) (t : Team) : (t.regroup now members).slot = t.slot := rfl
@[simp] theorem Team.regroup_status (now : Nat) (members : List Nat) (t : Team) : (t.regroup now members).status = t.status := rfl
@[simp] theorem Team.regroup_roles (now : Nat) (members : List Nat) (t : Team) : (t.regroup now members).roles = t.roles := rfl
@[simp] theorem Team.regroup_threads (now : Nat) (members : List Nat) (t : Team) : (t.regroup now members).threads = t.threads := rfl
@[simp] theorem Team.regroup_spadBytes (now : Nat) (members : List Nat) (t : Team) : (t.regroup now members).spadBytes = t.spadBytes := rfl
@[simp] theorem Team.regroup_spad (now : Nat) (members : List Nat) (t : Team) : (t.regroup now members).spad = t.spad := rfl
@[simp] theorem Team.regroup_spadPoison (now : Nat) (members : List Nat) (t : Team) : (t.regroup now members).spadPoison = t.spadPoison := rfl
@[simp] theorem Team.regroup_absent (now : Nat) (members : List Nat) (t : Team) : (t.regroup now members).absent = t.absent := rfl
@[simp] theorem Team.regroup_bars (now : Nat) (members : List Nat) (t : Team) : (t.regroup now members).bars = t.bars := rfl
@[simp] theorem Team.regroup_age (now : Nat) (members : List Nat) (t : Team) : (t.regroup now members).age = t.age := rfl
@[simp] theorem Team.regroup_pwin (now : Nat) (members : List Nat) (t : Team) : (t.regroup now members).pwin = t.pwin := rfl
@[simp] theorem Team.regroup_seed (now : Nat) (members : List Nat) (t : Team) : (t.regroup now members).seed = t.seed := rfl
@[simp] theorem Team.regroup_rs (now : Nat) (members : List Nat) (t : Team) : (t.regroup now members).rs = t.rs := rfl
@[simp] theorem Team.regroup_queue (now : Nat) (members : List Nat) (t : Team) : (t.regroup now members).queue = t.queue := rfl

@[simp] theorem Team.gather_grid (now : Nat) (members : List Nat) (t : Team) : (t.gather now members).grid = t.grid := rfl
@[simp] theorem Team.gather_gridIdx (now : Nat) (members : List Nat) (t : Team) : (t.gather now members).gridIdx = t.gridIdx := rfl
@[simp] theorem Team.gather_hubset (now : Nat) (members : List Nat) (t : Team) : (t.gather now members).hubset = t.hubset := rfl
@[simp] theorem Team.gather_fn (now : Nat) (members : List Nat) (t : Team) : (t.gather now members).fn = t.fn := rfl
@[simp] theorem Team.gather_core (now : Nat) (members : List Nat) (t : Team) : (t.gather now members).core = t.core := rfl
@[simp] theorem Team.gather_slot (now : Nat) (members : List Nat) (t : Team) : (t.gather now members).slot = t.slot := rfl
@[simp] theorem Team.gather_status (now : Nat) (members : List Nat) (t : Team) : (t.gather now members).status = t.status := rfl
@[simp] theorem Team.gather_roles (now : Nat) (members : List Nat) (t : Team) : (t.gather now members).roles = t.roles := rfl
@[simp] theorem Team.gather_threads (now : Nat) (members : List Nat) (t : Team) : (t.gather now members).threads = t.threads := rfl
@[simp] theorem Team.gather_spadBytes (now : Nat) (members : List Nat) (t : Team) : (t.gather now members).spadBytes = t.spadBytes := rfl
@[simp] theorem Team.gather_spad (now : Nat) (members : List Nat) (t : Team) : (t.gather now members).spad = t.spad := rfl
@[simp] theorem Team.gather_spadPoison (now : Nat) (members : List Nat) (t : Team) : (t.gather now members).spadPoison = t.spadPoison := rfl
@[simp] theorem Team.gather_absent (now : Nat) (members : List Nat) (t : Team) : (t.gather now members).absent = t.absent := rfl
@[simp] theorem Team.gather_bars (now : Nat) (members : List Nat) (t : Team) : (t.gather now members).bars = t.bars := rfl
@[simp] theorem Team.gather_age (now : Nat) (members : List Nat) (t : Team) : (t.gather now members).age = t.age := rfl
@[simp] theorem Team.gather_pwin (now : Nat) (members : List Nat) (t : Team) : (t.gather now members).pwin = t.pwin := rfl
@[simp] theorem Team.gather_seed (now : Nat) (members : List Nat) (t : Team) : (t.gather now members).seed = t.seed := rfl
@[simp] theorem Team.gather_rs (now : Nat) (members : List Nat) (t : Team) : (t.gather now members).rs = t.rs := rfl
@[simp] theorem Team.gather_queue (now : Nat) (members : List Nat) (t : Team) : (t.gather now members).queue = t.queue := rfl

end Sys2Proof.Machine
end

