-- ==== Sys2Proof/Laws/Table.lean ====
section
/-!
SUPPORT. Sorted tables and the memory held in them: what a read gives after a write, and that the canonical form
stays (R1, R201).
-/

namespace Sys2Proof

variable {α : Type} [DecidableEq α]

/-! ## Bounds of a table in canonical form -/

theorem Tab.okAbove_cons {d : α} {b : Option Nat} {k : Nat} {v : α} {r : Tab α} :
    Tab.okAbove d b ((k, v) :: r) = true ↔ (∀ x, b = some x → x < k) ∧ v ≠ d ∧ Tab.okAbove d (some k) r = true := by
  cases b <;> simp [Tab.okAbove, and_assoc]

/-- A bound may be lowered or dropped. -/
theorem Tab.okAbove_mono {d : α} {b c : Option Nat} (h : ∀ y, c = some y → ∃ x, b = some x ∧ y ≤ x) {t : Tab α}
    (ht : Tab.okAbove d b t = true) : Tab.okAbove d c t = true := by
  cases t with
  | nil => rfl
  | cons p r =>
    obtain ⟨k, v⟩ := p
    rw [Tab.okAbove_cons] at ht ⊢
    refine ⟨fun y hy => ?_, ht.2⟩
    obtain ⟨x, hx, hle⟩ := h y hy
    exact lt_of_le_of_lt hle (ht.1 x hx)

theorem Tab.okAbove_none {d : α} {b : Option Nat} {t : Tab α} (ht : Tab.okAbove d b t = true) :
    Tab.okAbove d none t = true := Tab.okAbove_mono (by simp) ht

/-- Nothing is listed at or below a bound. -/
theorem Tab.get_of_okAbove {d : α} {b k : Nat} {t : Tab α} (ht : Tab.okAbove d (some b) t = true) (hk : k ≤ b) :
    Tab.get t k d = d := by
  cases t with
  | nil => rfl
  | cons p r =>
    obtain ⟨k', v⟩ := p
    rw [Tab.okAbove_cons] at ht
    have := ht.1 b rfl
    simp [Tab.get, show k ≠ k' by omega, show k < k' by omega]

/-! ## Removing and listing a key -/

theorem Tab.del_okAbove {d : α} {b : Option Nat} {t : Tab α} (k : Nat) (ht : Tab.okAbove d b t = true) :
    Tab.okAbove d b (t.del k) = true := by
  induction t generalizing b with
  | nil => rfl
  | cons p r ih =>
    obtain ⟨k', v⟩ := p
    unfold Tab.del
    have h := Tab.okAbove_cons.1 ht
    split
    · exact Tab.okAbove_mono (fun y hy => ⟨k', rfl, le_of_lt (h.1 y hy)⟩) h.2.2
    · split
      · exact ht
      · exact Tab.okAbove_cons.2 ⟨h.1, h.2.1, ih h.2.2⟩

theorem Tab.set_okAbove {d : α} {b : Option Nat} {t : Tab α} {k : Nat} {v : α} (hv : v ≠ d)
    (hb : ∀ x, b = some x → x < k) (ht : Tab.okAbove d b t = true) : Tab.okAbove d b (t.set k v) = true := by
  induction t generalizing b with
  | nil => exact Tab.okAbove_cons.2 ⟨hb, hv, rfl⟩
  | cons p r ih =>
    obtain ⟨k', v'⟩ := p
    unfold Tab.set
    have h := Tab.okAbove_cons.1 ht
    split
    · next e => subst e; exact Tab.okAbove_cons.2 ⟨hb, hv, h.2.2⟩
    · split
      · next hlt => exact Tab.okAbove_cons.2 ⟨hb, hv, Tab.okAbove_cons.2 ⟨by simpa using hlt, h.2⟩⟩
      · exact Tab.okAbove_cons.2 ⟨h.1, h.2.1, ih (by intro x hx; cases hx; omega) h.2.2⟩

theorem Tab.get_del {d : α} {b : Option Nat} {t : Tab α} (k k' : Nat) (ht : Tab.okAbove d b t = true) :
    Tab.get (t.del k) k' d = if k' = k then d else Tab.get t k' d := by
  induction t generalizing b with
  | nil => simp [Tab.del, Tab.get]
  | cons p r ih =>
    obtain ⟨x, v⟩ := p
    have h := Tab.okAbove_cons.1 ht
    have low := fun (j : Nat) (hj : j ≤ x) => Tab.get_of_okAbove h.2.2 hj
    have ih := ih h.2.2
    simp only [Tab.del, Tab.get]
    grind [Tab.get]

theorem Tab.get_set {d : α} {b : Option Nat} {t : Tab α} (k k' : Nat) (v : α) (ht : Tab.okAbove d b t = true) :
    Tab.get (t.set k v) k' d = if k' = k then v else Tab.get t k' d := by
  induction t generalizing b with
  | nil => simp [Tab.set, Tab.get]
  | cons p r ih =>
    obtain ⟨x, w⟩ := p
    have h := Tab.okAbove_cons.1 ht
    have ih := ih h.2.2
    simp only [Tab.set, Tab.get]
    grind [Tab.get]

/-! ## The one write of a table -/

/-- A write keeps the canonical form. -/
theorem Tab.put_wf {d : α} {t : Tab α} (k : Nat) (v : α) (ht : Tab.wf d t = true) : Tab.wf d (t.put k v d) = true := by
  unfold Tab.put
  split
  · exact Tab.del_okAbove k ht
  · next hv => exact Tab.set_okAbove hv (by simp) ht

/-- A read after a write. -/
theorem Tab.get_put {d : α} {t : Tab α} (k k' : Nat) (v : α) (ht : Tab.wf d t = true) :
    Tab.get (t.put k v d) k' d = if k' = k then v else Tab.get t k' d := by
  unfold Tab.put
  split
  · next hv => subst hv; exact Tab.get_del k k' ht
  · exact Tab.get_set k k' v ht

/-- Tables in canonical form that read the same are the same. -/
theorem Tab.ext_of_okAbove {d : α} {b : Option Nat} {t u : Tab α} (ht : Tab.okAbove d b t = true)
    (hu : Tab.okAbove d b u = true) (h : ∀ k, Tab.get t k d = Tab.get u k d) : t = u := by
  induction t generalizing b u with
  | nil =>
    cases u with
    | nil => rfl
    | cons q s =>
      obtain ⟨k, v⟩ := q
      have := h k
      simp only [Tab.get, if_true] at this
      exact absurd this.symm (Tab.okAbove_cons.1 hu).2.1
  | cons p r ih =>
    obtain ⟨k, v⟩ := p
    have ht' := Tab.okAbove_cons.1 ht
    cases u with
    | nil =>
      have := h k
      simp only [Tab.get, if_true] at this
      exact absurd this ht'.2.1
    | cons q s =>
      obtain ⟨k', v'⟩ := q
      have hu' := Tab.okAbove_cons.1 hu
      have hk : k = k' := by
        rcases lt_trichotomy k k' with hlt | heq | hlt
        · have := h k
          simp [Tab.get, show k ≠ k' by omega, hlt] at this
          exact absurd this ht'.2.1
        · exact heq
        · have := h k'
          simp [Tab.get, show k' ≠ k by omega, hlt] at this
          exact absurd this.symm hu'.2.1
      subst hk
      have hv : v = v' := by simpa [Tab.get] using h k
      subst hv
      have : r = s := by
        refine ih ht'.2.2 hu'.2.2 (fun j => ?_)
        rcases lt_trichotomy j k with hlt | heq | hlt
        · rw [Tab.get_of_okAbove ht'.2.2 (le_of_lt hlt), Tab.get_of_okAbove hu'.2.2 (le_of_lt hlt)]
        · rw [Tab.get_of_okAbove ht'.2.2 (le_of_eq heq), Tab.get_of_okAbove hu'.2.2 (le_of_eq heq)]
        · have := h j
          simpa [Tab.get, show j ≠ k by omega, show ¬ j < k by omega] using this
      rw [this]

theorem Tab.ext_of_wf {d : α} {t u : Tab α} (ht : Tab.wf d t = true) (hu : Tab.wf d u = true)
    (h : ∀ k, Tab.get t k d = Tab.get u k d) : t = u := Tab.ext_of_okAbove ht hu h

/-- Entries left out by their keys leave the canonical form. -/
theorem Tab.filter_okAbove {d : α} {b : Option Nat} {t : Tab α} (p : Nat × α → Bool) (ht : Tab.okAbove d b t = true) :
    Tab.okAbove d b (t.filter p) = true := by
  induction t generalizing b with
  | nil => rfl
  | cons q r ih =>
    obtain ⟨k, v⟩ := q
    have h := Tab.okAbove_cons.1 ht
    by_cases hp : p (k, v) = true
    · rw [List.filter_cons_of_pos hp]
      exact Tab.okAbove_cons.2 ⟨h.1, h.2.1, ih h.2.2⟩
    · rw [List.filter_cons_of_neg hp]
      exact Tab.okAbove_mono (fun y hy => ⟨k, rfl, le_of_lt (h.1 y hy)⟩) (ih h.2.2)

namespace Machine

/-! ## Memory -/

/-- Storing bytes keeps the canonical form. -/
theorem memPut_wf {m : Tab Byte} (k : Nat) (bs : List Byte) (h : Memory.wf m = true) : Memory.wf (memPut m k bs) = true := by
  induction bs generalizing m k with
  | nil => exact h
  | cons b bs ih => exact ih (k + 1) (Tab.put_wf k b h)

/-- A byte read after bytes have been stored. -/
theorem memByte_memPut {m : Tab Byte} (k j : Nat) (bs : List Byte) (h : Memory.wf m = true) :
    memByte (memPut m k bs) j = if k ≤ j ∧ j < k + bs.length then bs.getD (j - k) 0 else memByte m j := by
  induction bs generalizing m k with
  | nil => simp [memPut, show ¬ (k ≤ j ∧ j < k) by omega]
  | cons b bs ih =>
    rw [memPut, ih (k + 1) (Tab.put_wf k b h)]
    simp only [memByte, Tab.get_put k j b h, List.length_cons]
    by_cases hj : j = k
    · subst hj; simp
    · by_cases hin : k ≤ j ∧ j < k + (bs.length + 1)
      · have e : j - k = (j - (k + 1)) + 1 := by omega
        rw [if_pos hin, if_pos (by omega), e, List.getD_cons_succ]
      · rw [if_neg hin, if_neg (by omega), if_neg hj]

/-- A byte outside the stored ones is left. -/
theorem memByte_memPut_outside {m : Tab Byte} {k j : Nat} {bs : List Byte} (h : Memory.wf m = true)
    (hj : j < k ∨ k + bs.length ≤ j) : memByte (memPut m k bs) j = memByte m j := by
  rw [memByte_memPut k j bs h, if_neg (by omega)]

/-- The bytes stored are read back. -/
theorem memBytes_memPut {m : Tab Byte} (k : Nat) (bs : List Byte) (h : Memory.wf m = true) :
    memBytes (memPut m k bs) k bs.length = bs := by
  induction bs generalizing m k with
  | nil => rfl
  | cons b bs ih =>
    simp only [memPut, List.length_cons, memBytes]
    rw [ih (k + 1) (Tab.put_wf k b h), memByte_memPut_outside (Tab.put_wf k b h) (Or.inl (Nat.lt_succ_self k))]
    simp [memByte, Tab.get_put k k b h]

end Machine
end Sys2Proof
end

