-- ==== Sys2Proof/Laws/Frame.lean ====
section
/-!
SUPPORT. What the shared operations do to memory: for an operation that writes none, that memory is the same after
it; for one that writes, that memory keeps its canonical form.
-/

namespace Sys2Proof.Machine

/-- A fold whose steps leave memory alone leaves it alone. -/
theorem foldl_mem {β : Type} {f : State → β → State} (hf : ∀ s b, (f s b).mem = s.mem) (l : List β) (s : State) :
    (l.foldl f s).mem = s.mem := by
  induction l generalizing s with
  | nil => rfl
  | cons b l ih => rw [List.foldl_cons, ih, hf]

/-- A fold whose steps keep the canonical form keeps it. -/
theorem foldl_wf {β : Type} {f : State → β → State} (hf : ∀ s b, Memory.wf s.mem = true → Memory.wf (f s b).mem = true)
    {l : List β} {s : State} (h : Memory.wf s.mem = true) : Memory.wf (l.foldl f s).mem = true := by
  induction l generalizing s with
  | nil => exact h
  | cons b l ih => exact ih (hf s b h)

@[simp] theorem memPut_keeps_wf {m : Tab Byte} (k : Nat) (bs : List Byte) (h : Memory.wf m = true) : Memory.wf (memPut m k bs) = true := memPut_wf k bs h

@[simp] theorem State.noteChange_mem (s : State) (line : Nat) :
    (State.noteChange s line).mem = s.mem := rfl

@[simp] theorem State.bumpVersion_mem (s : State) (line : Nat) :
    (State.bumpVersion s line).mem = s.mem := by
  unfold State.bumpVersion; split <;> simp

@[simp] theorem State.storeBytes_wf (core : Option Nat) (s : State) (w : Nat × List Byte) (h : Memory.wf s.mem = true) :
    Memory.wf (State.storeBytes core s w).mem = true := by
  unfold State.storeBytes
  exact memPut_wf _ _ (foldl_wf (fun _ _ _ => by simp [*]) h)

@[simp] theorem State.writeParts_wf (s : State) (core : Option Nat) (ws : List (Nat × List Byte)) (h : Memory.wf s.mem = true) :
    Memory.wf (State.writeParts s core ws).mem = true := by
  unfold State.writeParts
  repeat' first
    | assumption
    | (simp [*]; done)
    | split
    | refine foldl_wf (fun _ _ _ => ?_) ?_

@[simp] theorem State.writeMem_wf (s : State) (core : Option Nat) (k : Nat) (bs : List Byte) (h : Memory.wf s.mem = true) :
    Memory.wf (State.writeMem s core k bs).mem = true := by
  simp [State.writeMem, h]

@[simp] theorem State.readTransaction_mem (s : State) (line : Nat) :
    (State.readTransaction s line).mem = s.mem := by
  obtain ⟨_, _, h⟩ := s.readTransaction_eq line; rw [h]

@[simp] theorem State.sendHost_mem (s : State) (k : Nat) : (s.sendHost k).mem = s.mem := by
  obtain ⟨_, h⟩ := s.sendHost_eq k; rw [h]

@[simp] theorem State.askHost_mem (s : State) (keys : List Nat) : (s.askHost keys).mem = s.mem :=
  foldl_mem (fun _ _ => by simp) _ _

@[simp] theorem State.askFetch_mem (s : State) (k : Nat) (g : Group) : (s.askFetch k g).mem = s.mem := by
  unfold State.askFetch; split <;> simp

@[simp] theorem State.dropL1_mem (s : State) (core : Nat) :
    (State.dropL1 s core).mem = s.mem := rfl

@[simp] theorem State.modTeam_mem (s : State) (k : Nat) (f : Team → Team) :
    (State.modTeam s k f).mem = s.mem := rfl

@[simp] theorem State.modThread_mem (s : State) (k j : Nat) (f : Thread → Thread) :
    (State.modThread s k j f).mem = s.mem := rfl

@[simp] theorem State.send_mem (s : State) (o : Out) :
    (State.send s o).mem = s.mem := rfl

@[simp] theorem State.release_mem (s : State) (k : Nat) (js : List Nat) :
    (State.release s k js).mem = s.mem := by
  unfold State.release; split <;> simp

@[simp] theorem State.releaseWhere_mem (s : State) (p : Nat → Nat → Thread → Bool) :
    (State.releaseWhere s p).mem = s.mem := by
  unfold State.releaseWhere
  repeat' first | rfl | split | (simp; done) | refine (foldl_mem (fun _ _ => ?_) _ _).trans ?_

@[simp] theorem State.acquireL1_mem (s : State) (core : Nat) :
    (State.acquireL1 s core).mem = s.mem := rfl

@[simp] theorem State.wakeBar_mem (s : State) (k o : Nat) (phase : Word) :
    (State.wakeBar s k o phase).mem = s.mem := by
  unfold State.wakeBar
  repeat' first | rfl | split | simp

@[simp] theorem State.barCheck_mem (n : Nat) (s : State) (k o : Nat) : (State.barCheck n s k o).mem = s.mem := by
  induction n generalizing s with
  | zero => rfl
  | succ n ih => unfold State.barCheck; repeat' first | rfl | (simp [ih]; done) | split

@[simp] theorem State.barCount_mem (s : State) (k o bytes : Nat) :
    (State.barCount s k o bytes).mem = s.mem := by
  simp [State.barCount]

@[simp] theorem State.barCheckAll_mem (s : State) (k : Nat) :
    (State.barCheckAll s k).mem = s.mem := by
  unfold State.barCheckAll
  repeat' first | rfl | split | (simp; done) | refine (foldl_mem (fun _ _ => ?_) _ _).trans ?_

@[simp] theorem State.modJoin_mem (s : State) (hs n : Nat) (f : Join → Join) :
    (State.modJoin s hs n f).mem = s.mem := rfl

@[simp] theorem State.joinIdle_mem (s : State) (hs n : Nat) :
    (State.joinIdle s hs n).mem = s.mem := by
  simp [State.joinIdle]

@[simp] theorem State.releaseSigners_mem (s : State) (n : Nat) (signs : List Sign) (m : Mine) :
    (State.releaseSigners s n signs m).mem = s.mem := by
  unfold State.releaseSigners
  repeat' first | rfl | split | (simp; done) | refine (foldl_mem (fun _ _ => ?_) _ _).trans ?_

@[simp] theorem State.setEngine_mem (s : State) (hub : Nat) (e : MxEngine) :
    (State.setEngine s hub e).mem = s.mem := rfl

@[simp] theorem State.postJoin_mem (s : State) (hs n : Nat) (jn : Join) (d : MxDesc) :
    (State.postJoin s hs n jn d).mem = s.mem := by
  unfold State.postJoin; split <;> simp

@[simp] theorem State.joinCheck_mem (s : State) (hs n : Nat) :
    (State.joinCheck s hs n).mem = s.mem := by
  unfold State.joinCheck
  repeat' first | rfl | split | simp

@[simp] theorem State.leaveJoin_mem (s : State) (k j hs n : Nat) :
    (State.leaveJoin s k j hs n).mem = s.mem := by
  unfold State.leaveJoin
  repeat' first | rfl | split | simp

@[simp] theorem State.withdraw_mem (s : State) (k j : Nat) :
    (State.withdraw s k j).mem = s.mem := by
  unfold State.withdraw
  repeat' first | rfl | split | (simp; done) | refine (foldl_mem (fun _ _ => ?_) _ _).trans ?_

@[simp] theorem State.leaveLater_mem (s : State) (since k j : Nat) : (s.leaveLater since k j).mem = s.mem := by
  unfold State.leaveLater; split <;> rfl

@[simp] theorem State.leaveWhere_mem (s : State) (p : Leave → Bool) : (s.leaveWhere p).mem = s.mem := by
  unfold State.leaveWhere; exact foldl_mem (fun _ _ => by simp) _ _

@[simp] theorem State.leaveBefore_mem (s : State) (k j : Nat) : (s.leaveBefore k j).mem = s.mem := by
  simp [State.leaveBefore]

@[simp] theorem State.leaveAll_mem (s : State) : s.leaveAll.mem = s.mem := by simp [State.leaveAll]

@[simp] theorem State.triggerSnap_mem (s : State) (source : Nat) (cause : Word) (core thr : Nat) :
    (State.triggerSnap s source cause core thr).mem = s.mem := by
  unfold State.triggerSnap; split <;> simp

@[simp] theorem State.queueIrq_mem (s : State) (key : Nat) :
    (State.queueIrq s key).mem = s.mem := by
  unfold State.queueIrq; split <;> simp

@[simp] theorem State.endTurns_mem (s : State) (p : Turn → Bool) : (State.endTurns s p).mem = s.mem := by
  unfold State.endTurns; exact foldl_mem (fun _ _ => by simp) _ _

@[simp] theorem State.stopTeams_mem (s : State) (ks : List Nat) (held : Bool) :
    (State.stopTeams s ks held).mem = s.mem := by
  unfold State.stopTeams; exact (foldl_mem (fun _ _ => by simp) _ _).trans (by simp)

@[simp] theorem State.releaseTeams_mem (s : State) (ks : List Nat) : (State.releaseTeams s ks).mem = s.mem := by
  unfold State.releaseTeams; exact foldl_mem (fun _ _ => by simp) _ _

@[simp] theorem State.doubleTrap_mem (s : State) (k j : Nat) (c : Cause) :
    (State.doubleTrap s k j c).mem = s.mem := by
  unfold State.doubleTrap
  repeat' first | rfl | split | simp

@[simp] theorem State.takeTrapIn_mem (s : State) (since k j : Nat) (t : Trap) (defer : Bool) :
    (State.takeTrapIn s since k j t defer).mem = s.mem := by
  unfold State.takeTrapIn; dsimp only
  split <;> [split <;> [skip; split]; skip] <;> simp

@[simp] theorem State.takeTrap_mem (s : State) (k j : Nat) (t : Trap) (defer : Bool) :
    (State.takeTrap s k j t defer).mem = s.mem := by
  simp [State.takeTrap]

@[simp] theorem State.trapIssued_mem (s : State) (k j : Nat) (t : Trap) : (State.trapIssued s k j t).mem = s.mem := by
  simp [State.trapIssued]

@[simp] theorem State.collectorCheck_mem (s : State) (k b : Nat) :
    (State.collectorCheck s k b).mem = s.mem := by
  unfold State.collectorCheck
  repeat' first | rfl | split | simp

@[simp] theorem State.exitThread_mem (s : State) (k j : Nat) :
    (State.exitThread s k j).mem = s.mem := by
  simp [State.exitThread]

@[simp] theorem State.deliverIn_mem (s : State) (since k j : Nat) (d : Deferred) :
    (State.deliverIn s since k j d).mem = s.mem := by
  simp [State.deliverIn]

@[simp] theorem State.deliver_mem (s : State) (k j : Nat) (d : Deferred) :
    (State.deliver s k j d).mem = s.mem := by
  simp [State.deliver]

@[simp] theorem State.exitCheck_mem (s : State) (k j : Nat) :
    (State.exitCheck s k j).mem = s.mem := by
  unfold State.exitCheck
  repeat' first | rfl | split | simp

@[simp] theorem State.dropOp_mem (s : State) (id : Nat) :
    (State.dropOp s id).mem = s.mem := rfl

@[simp] theorem State.setOpKind_mem (s : State) (id : Nat) (kd : OpKind) :
    (State.setOpKind s id kd).mem = s.mem := rfl

@[simp] theorem State.completeOp_mem (s : State) (o : Op) (result : List Word) (trap : Option Trap) :
    (State.completeOp s o result trap).mem = s.mem := by
  simp [State.completeOp]

@[simp] theorem State.completeOpBoth_mem (s : State) (o : Op) (result : List Word) (trap : Option Trap) :
    (State.completeOpBoth s o result trap).mem = s.mem := by
  unfold State.completeOpBoth; split <;> simp

@[simp] theorem State.holdGroup_mem (s : State) :
    (State.holdGroup s).mem = s.mem := rfl

@[simp] theorem State.commit_mem (s : State) (outs : List (Lane × LaneOut)) :
    (State.commit s outs).mem = s.mem := by
  unfold State.commit
  repeat' first | rfl | split | (simp; done) | refine (foldl_mem (fun _ _ => ?_) _ _).trans ?_

@[simp] theorem State.finishMember_mem (s : State) (l : Lane) (d : Done) :
    (State.finishMember s l d).mem = s.mem := rfl

theorem State.member_mem (fm : Form) (f : Lane → LaneOut × (State → State)) (hf : ∀ l s, ((f l).2 s).mem = s.mem) (s : State) (j : Nat) :
    (State.member fm f s j).mem = s.mem := by
  unfold State.member
  repeat' first
    | rfl
    | (simp; done)
    | split
  next d after e _ => rename Lane => l; have := hf l (s.finishMember l d); rw [e] at this; simpa using this
theorem State.member_wf (fm : Form) (f : Lane → LaneOut × (State → State))
    (hf : ∀ l s, Memory.wf s.mem = true → Memory.wf ((f l).2 s).mem = true) (s : State) (j : Nat) (h : Memory.wf s.mem = true) :
    Memory.wf (State.member fm f s j).mem = true := by
  unfold State.member
  repeat' first
    | assumption
    | (simp [h]; done)
    | split
  next d after e _ => rename Lane => l; have := hf l (s.finishMember l d) (by simp [h]); rwa [e] at this

@[simp] theorem State.dissolve_mem (s : State) :
    (State.dissolve s).mem = s.mem := rfl

@[simp] theorem State.fileThread_mem (s : State) (k j : Nat) :
    (State.fileThread s k j).mem = s.mem := by
  unfold State.fileThread
  repeat' first | rfl | split | simp

@[simp] theorem State.fileArrivals_mem (s : State) (core : Nat) :
    (State.fileArrivals s core).mem = s.mem := by
  unfold State.fileArrivals; exact foldl_mem (fun _ _ => by simp) _ _

@[simp] theorem State.releaseBin_mem (s : State) (b : Bin) :
    (State.releaseBin s b).mem = s.mem := rfl

@[simp] theorem State.releaseBins_mem (s : State) (core : Nat) :
    (State.releaseBins s core).mem = s.mem := by
  unfold State.releaseBins
  repeat' first | rfl | split | (simp; done) | refine (foldl_mem (fun _ _ => ?_) _ _).trans ?_

@[simp] theorem State.refillBins_mem (n : Nat) (s : State) (core : Nat) : (State.refillBins n s core).mem = s.mem := by
  induction n generalizing s with
  | zero => rfl
  | succ n ih => unfold State.refillBins; repeat' first | rfl | (simp [ih]; done) | split

@[simp] theorem State.binCycle_mem (s : State) (core : Nat) :
    (State.binCycle s core).mem = s.mem := by
  simp [State.binCycle]

@[simp] theorem State.closeCore_mem (s : State) (core : Nat) :
    (State.closeCore s core).mem = s.mem := rfl

@[simp] theorem State.sregApply_mem (s : State) (p : SregPend) :
    (State.sregApply s p).mem = s.mem := by
  unfold State.sregApply
  repeat' first | rfl | split

@[simp] theorem State.sregWrite_mem (s : State) (k j n : Nat) (v : DWord) (pick : Nat) :
    (State.sregWrite s k j n v pick).mem = s.mem := rfl

@[simp] theorem State.sregLand_mem (s : State) :
    (State.sregLand s).mem = s.mem := by
  unfold State.sregLand; exact foldl_mem (fun _ _ => by simp) _ _

@[simp] theorem State.enterBundle_mem (s : State) (k j : Nat) :
    (State.enterBundle s k j).mem = s.mem := by
  unfold State.enterBundle
  repeat' first | rfl | split | simp

@[simp] theorem State.enterGroup_mem (s : State) (k : Nat) (g : Group) :
    (State.enterGroup s k g).mem = s.mem := by
  simp [State.enterGroup, foldl_mem (fun _ _ => State.enterBundle_mem ..)]

@[simp] theorem State.releaseWait_mem (s : State) (k j : Nat) :
    (State.releaseWait s k j).mem = s.mem := by
  unfold State.releaseWait
  repeat' first | rfl | split | simp

@[simp] theorem State.releaseGroup_mem (s : State) (k : Nat) (g : Group) :
    (State.releaseGroup s k g).mem = s.mem := by
  unfold State.releaseGroup; exact foldl_mem (fun _ _ => by simp) _ _

@[simp] theorem State.passOver_mem (s : State) (core slot k : Nat) (members : List Nat) :
    (State.passOver s core slot k members).mem = s.mem := by
  unfold State.passOver; exact foldl_mem (fun _ _ => by simp) _ _

@[simp] theorem State.trapGroup_mem (s : State) (k : Nat) (members : List Nat) (t : Trap) (issued : Bool) :
    (State.trapGroup s k members t issued).mem = s.mem := by
  unfold State.trapGroup; exact foldl_mem (fun _ _ => by split <;> simp) _ _

@[simp] theorem State.takeNan_mem (s : State) (k j : Nat) :
    (State.takeNan s k j).mem = s.mem := by
  unfold State.takeNan; split <;> simp

@[simp] theorem State.nanTraps_mem (s : State) :
    (State.nanTraps s).mem = s.mem := by
  unfold State.nanTraps
  repeat' first | rfl | split | (simp; done) | refine (foldl_mem (fun _ _ => ?_) _ _).trans ?_

@[simp] theorem State.tlbStep_mem (s : State) (k j : Nat) :
    (State.tlbStep s k j).mem = s.mem := by
  unfold State.tlbStep
  repeat' first | rfl | split

@[simp] theorem State.tlbSteps_mem (s : State) :
    (State.tlbSteps s).mem = s.mem := by
  unfold State.tlbSteps
  repeat' first | rfl | split | (simp; done) | refine (foldl_mem (fun _ _ => ?_) _ _).trans ?_

@[simp] theorem State.napWake_mem (s : State) : (State.napWake s).mem = s.mem := by simp [State.napWake]

@[simp] theorem State.startTurn_mem (s : State) (p : Turn × Bool) : (State.startTurn s p).mem = s.mem := by
  unfold State.startTurn; dsimp only; split <;> simp

@[simp] theorem State.cancelJoin_mem (s : State) (hs n : Nat) :
    (State.cancelJoin s hs n).mem = s.mem := by
  unfold State.cancelJoin
  repeat' first | rfl | split | (simp; done) | refine (foldl_mem (fun _ _ => ?_) _ _).trans ?_

@[simp] theorem State.advanceRs_mem (s : State) (ls : List Lane) :
    (State.advanceRs s ls).mem = s.mem := by
  unfold State.advanceRs; split <;> simp

@[simp] theorem State.barArrive_mem (s : State) (k o j : Nat) (w : Arrival) :
    (State.barArrive s k o j w).mem = s.mem := by
  simp [State.barArrive]

@[simp] theorem State.waitAcquire_mem (s : State) (k o : Nat) :
    (State.waitAcquire s k o).mem = s.mem := by
  unfold State.waitAcquire
  repeat' first | rfl | split

end Sys2Proof.Machine
end

