-- ==== Sys2Proof/Laws/Issue.lean ====
section
/-!
SUPPORT. What the one shape of all core instructions can do (R61): the group is held, or its members complete and trap,
each on its own. For each form of it, when it completes and what the next state is.
-/

namespace Sys2Proof.Machine

/-- A member that passes the checks and completes an instruction with room on its flag. -/
theorem Lane.outcome_done {l : Lane} {fm : Form} {f : Lane → LaneOut} {d : Done} (hc : l.check fm = none) (hf : f l = .done d)
    (hr : d.flag = 0 ∨ l.th.flag d.flag < 15) : l.outcome fm f = .done d := by
  unfold Lane.outcome
  rw [hc, hf]
  dsimp only
  rw [if_neg (by omega)]

/-- A member that fails a check traps with its cause. -/
theorem Lane.outcome_check {l : Lane} {fm : Form} {f : Lane → LaneOut} {t : Trap} (hc : l.check fm = some t) :
    l.outcome fm f = .trap t := by
  unfold Lane.outcome; rw [hc]

/-- A member that passes the checks and that its instruction traps. -/
theorem Lane.outcome_trap {l : Lane} {fm : Form} {f : Lane → LaneOut} {t : Trap} (hc : l.check fm = none) (hf : f l = .trap t) :
    l.outcome fm f = .trap t := by
  unfold Lane.outcome; rw [hc, hf]

/-- A member that is held. -/
theorem Lane.outcome_hold {l : Lane} {fm : Form} {f : Lane → LaneOut} (hc : l.check fm = none) (hf : f l = .hold) :
    l.outcome fm f = .hold := by
  unfold Lane.outcome; rw [hc, hf]

/-- A member with a full flag counter is held (R43). -/
theorem Lane.outcome_full {l : Lane} {fm : Form} {f : Lane → LaneOut} {d : Done} (hc : l.check fm = none) (hf : f l = .done d)
    (hn : d.flag ≠ 0) (hr : 15 ≤ l.th.flag d.flag) : l.outcome fm f = .hold := by
  unfold Lane.outcome
  rw [hc, hf]
  dsimp only
  rw [if_pos ⟨hn, hr⟩]

/-- Everything an instruction of this shape can do: no issuer, a held group, or the members' outcomes committed. -/
theorem runFormThen_cases (fm : Form) (s : State) (f : Lane → LaneOut) (after : List Lane → State → State) :
    (s.issuer = none ∧ runFormThen fm s f after = .fault .noIssuer) ∨
    ∃ tm ls, s.issuer = some (tm, ls) ∧
      ((∃ l ∈ ls, l.outcome fm f = .hold) ∧ runFormThen fm s f after = .next s.holdGroup ∨
       (∀ l ∈ ls, l.outcome fm f ≠ .hold) ∧ runFormThen fm s f after = .next (after
          ((ls.map (fun l => (l, l.outcome fm f))).filterMap (fun o => match o.2 with | .done _ => some o.1 | _ => none))
          (s.commit (ls.map (fun l => (l, l.outcome fm f)))))) := by
  unfold runFormThen
  cases e : s.issuer with
  | none => exact .inl ⟨rfl, rfl⟩
  | some p =>
    obtain ⟨tm, ls⟩ := p
    refine .inr ⟨tm, ls, rfl, ?_⟩
    dsimp only
    by_cases h : (ls.map (fun l => (l, l.outcome fm f))).any (fun o => o.2.isHold) = true
    · rw [if_pos h]
      refine .inl ⟨?_, rfl⟩
      rw [List.any_map, List.any_eq_true] at h
      obtain ⟨l, hl, hh⟩ := h
      refine ⟨l, hl, ?_⟩
      revert hh
      dsimp only [Function.comp]
      cases l.outcome fm f <;> simp [LaneOut.isHold]
    · rw [if_neg h]
      refine .inr ⟨fun l hl hh => h ?_, rfl⟩
      rw [List.any_map, List.any_eq_true]
      exact ⟨l, hl, by dsimp only [Function.comp]; rw [hh]; rfl⟩

/-- The member completes. -/
def LaneOut.isDone : LaneOut → Bool
  | .done _ => true
  | _ => false

/-- No member holds: the outcomes are committed. -/
theorem runFormThen_commit {fm : Form} {s : State} {f : Lane → LaneOut} {after : List Lane → State → State} {tm : Team}
    {ls : List Lane} {out : Lane → LaneOut} (hi : s.issuer = some (tm, ls)) (ho : ∀ l ∈ ls, l.outcome fm f = out l)
    (hh : ∀ l ∈ ls, (out l).isHold = false) :
    runFormThen fm s f after = .next (after (ls.filter (fun l => (out l).isDone))
      (s.commit (ls.map (fun l => (l, out l))))) := by
  have hm : ls.map (fun l => (l, l.outcome fm f)) = ls.map (fun l => (l, out l)) :=
    List.map_congr_left (fun l hl => by rw [ho l hl])
  unfold runFormThen
  rw [hi]
  dsimp only
  rw [hm, if_neg]
  · congr 2
    rw [List.filterMap_map, ← List.filterMap_eq_filter]
    congr 1
    funext l
    have h (o : LaneOut) : (match o with | .done _ => some l | _ => none) = if o.isDone then some l else none := by
      cases o <;> rfl
    exact h (out l)
  · rw [List.any_map, List.any_eq_true]
    rintro ⟨l, hl, hx⟩
    dsimp only [Function.comp] at hx
    rw [hh l hl] at hx
    cases hx

/-- Every member completes. -/
theorem runFormThen_done {fm : Form} {s : State} {f : Lane → LaneOut} {after : List Lane → State → State} {tm : Team}
    {ls : List Lane} {d : Lane → Done} (hi : s.issuer = some (tm, ls)) (hc : ∀ l ∈ ls, l.check fm = none)
    (hf : ∀ l ∈ ls, f l = .done (d l)) (hr : ∀ l ∈ ls, (d l).flag = 0 ∨ l.th.flag (d l).flag < 15) :
    runFormThen fm s f after = .next (after ls (s.commit (ls.map (fun l => (l, .done (d l)))))) := by
  rw [runFormThen_commit hi (fun l hl => Lane.outcome_done (hc l hl) (hf l hl) (hr l hl)) (fun _ _ => rfl)]
  simp [LaneOut.isDone]

theorem runLanes_done {i : Instr} {s : State} {f : Lane → LaneOut} {tm : Team} {ls : List Lane} {d : Lane → Done}
    (hi : s.issuer = some (tm, ls)) (hc : ∀ l ∈ ls, l.check (instrForm i) = none) (hf : ∀ l ∈ ls, f l = .done (d l))
    (hr : ∀ l ∈ ls, (d l).flag = 0 ∨ l.th.flag (d l).flag < 15) :
    runLanes i s f = .next (s.commit (ls.map (fun l => (l, .done (d l))))) :=
  runFormThen_done (after := fun _ s => s) hi hc hf hr

/-- Every member traps. -/
theorem runFormThen_trap {fm : Form} {s : State} {f : Lane → LaneOut} {after : List Lane → State → State} {tm : Team}
    {ls : List Lane} {t : Lane → Trap} (hi : s.issuer = some (tm, ls)) (ho : ∀ l ∈ ls, l.outcome fm f = .trap (t l)) :
    runFormThen fm s f after = .next (after [] (s.commit (ls.map (fun l => (l, .trap (t l)))))) := by
  rw [runFormThen_commit hi ho (fun _ _ => rfl)]
  simp [LaneOut.isDone]

/-- A member holds the group. -/
theorem runFormThen_hold {fm : Form} {s : State} {f : Lane → LaneOut} {after : List Lane → State → State} {tm : Team}
    {ls : List Lane} {l : Lane} (hi : s.issuer = some (tm, ls)) (hl : l ∈ ls) (ho : l.outcome fm f = .hold) :
    runFormThen fm s f after = .next s.holdGroup := by
  unfold runFormThen
  rw [hi]
  dsimp only
  rw [if_pos]
  rw [List.any_map, List.any_eq_true]
  exact ⟨l, hl, by dsimp only [Function.comp]; rw [ho]; rfl⟩

theorem fixed_done {i : Instr} {lat : Nat} {r : BitVec 7} {f : Lane → Word} {s : State} {tm : Team} {ls : List Lane}
    (hi : s.issuer = some (tm, ls)) (hc : ∀ l ∈ ls, l.check (instrForm i) = none) :
    fixed i lat r f s = .next (s.commit (ls.map (fun l => (l, .done { writes := l.wr r (f l), lat := lat })))) :=
  runLanes_done hi hc (fun _ _ => rfl) (fun _ _ => .inl rfl)

theorem fixed2_done {i : Instr} {lat : Nat} {r : BitVec 7} {f : Lane → DWord} {s : State} {tm : Team} {ls : List Lane}
    (hi : s.issuer = some (tm, ls)) (hc : ∀ l ∈ ls, l.check (instrForm i) = none) :
    fixed2 i lat r f s = .next (s.commit (ls.map (fun l => (l, .done { writes := l.wr2 r (f l), lat := lat })))) :=
  runLanes_done hi hc (fun _ _ => rfl) (fun _ _ => .inl rfl)

/-! ## What committing does -/

/-- The team's threads once some lanes have completed. -/
def Team.complete (s : State) (ls : List Lane) (d : Lane → Done) (t : Team) : Team :=
  { t with threads := t.threads.map (fun th =>
      match ls.find? (fun l => l.th.idx = th.idx) with
      | some l => (d l).apply s.now (s.draw (laneOf th.idx) 2) s.nextId l.th
      | none => th) }

/-- Lanes that all complete are committed without a trap. -/
theorem State.commit_done (s : State) (ls : List Lane) (d : Lane → Done) :
    s.commit (ls.map (fun l => (l, .done (d l)))) =
      ({ s.modTeam s.cur.team (Team.complete s ls d) with
          ops := s.ops ++ ls.zipIdx.flatMap (fun p => (d p.1).opOf p.1 s.nextId (s.nextId + p.2))
          sq := s.sq ++ ls.zipIdx.flatMap (fun p => (d p.1).sqOf p.1 s.nextId (s.nextId + p.2))
          nextId := s.nextId + ls.length } : State).modTeam s.cur.team (Team.regroup s.now s.cur.members) := by
  have hteam : (fun t : Team => ({ t with threads := t.threads.map (fun th =>
      match (ls.map (fun l => ((l, .done (d l)) : Lane × LaneOut))).find? (fun o => o.1.th.idx = th.idx) with
      | some (l, .done d) => d.apply s.now (s.draw (laneOf th.idx) 2) s.nextId l.th
      | _ => th) } : Team)) = Team.complete s ls d := by
    funext t
    unfold Team.complete
    congr 1
    apply List.map_congr_left
    intro th _
    rw [List.find?_map]
    have e : ((fun o : Lane × LaneOut => decide (o.1.th.idx = th.idx)) ∘ fun l => (l, .done (d l))) =
        fun l : Lane => decide (l.th.idx = th.idx) := rfl
    rw [e]
    cases ls.find? (fun l => decide (l.th.idx = th.idx)) <;> rfl
  rw [← hteam]
  unfold State.commit
  simp only [List.filterMap_map, Function.comp_def, List.filterMap_none, List.map_nil, List.zipIdx_map, List.flatMap_map,
    List.length_map, Prod.map_fst, Prod.map_snd, List.map_map, id]
  rfl

end Sys2Proof.Machine
end

