-- ==== Sys2Proof/Laws/Cross.lean ====
section
/-!
SUPPORT. The one shape of the cross-lane instructions (R23, R61): it completes in every member, or traps in every member.
-/

namespace Sys2Proof.Machine

/-- Where every member passes its checks, all of them take part. -/
theorem partners_eq {i : Instr} {s : State} {tm : Team} {ls : List Lane} (hi : s.issuer = some (tm, ls))
    (hc : ∀ l ∈ ls, l.check (instrForm i) = none) : partners i s = ls := by
  unfold partners; rw [hi]; simp only [List.filter_eq_self]; intro l hl; rw [hc l hl]; rfl
/-- The members hold one partition setting. -/
theorem mixed_eq {s : State} {tm : Team} {ls : List Lane} (hi : s.issuer = some (tm, ls)) : mixedParts s = false ↔ OnePart ls := by
  unfold mixedParts OnePart
  cases ls with
  | nil => rw [hi]; simp
  | cons l ls =>
    rw [hi]
    simp only [List.any_eq_false, decide_eq_true_eq, not_not]
    constructor
    · intro h a ha b hb
      have e (x) (hx : x ∈ l :: ls) : x.th.part = l.th.part := by
        rcases List.mem_cons.1 hx with rfl | hx
        · rfl
        · exact h x hx
      rw [e a ha, e b hb]
    · intro h m hm
      exact h m (List.mem_cons_of_mem _ hm) l List.mem_cons_self
/-- A cross-lane instruction with one partition setting completes in every member. -/
theorem cross_done {i : Instr} {lat : Nat} {d : BitVec 7} {f : Present → Nat → Lane → Word} {s : State} {tm : Team} {ls : List Lane}
    (hi : s.issuer = some (tm, ls)) (hc : ∀ l ∈ ls, l.check (instrForm i) = none) (ho : OnePart ls) :
    cross i lat d s f = .next (s.completed ls (fun l => { writes := l.wr d (f (presentOf ls) l.th.part l), lat := lat })) := by
  unfold cross
  rw [(mixed_eq hi).2 ho, partners_eq hi hc]
  exact runLanes_done hi hc (fun _ _ => rfl) (fun _ _ => .inl rfl)
/-- With several it traps in every member (R23). -/
theorem cross_mix {i : Instr} {lat : Nat} {d : BitVec 7} {f : Present → Nat → Lane → Word} {s : State} {tm : Team} {ls : List Lane}
    (hi : s.issuer = some (tm, ls)) (hc : ∀ l ∈ ls, l.check (instrForm i) = none) (ho : ¬OnePart ls) :
    cross i lat d s f = .next (s.trapped ls (fun _ => .of .partmix)) := by
  unfold cross
  rw [← mixed_eq hi] at ho
  rw [eq_true_of_ne_false ho]
  exact runFormThen_trap (after := fun _ s => s) hi (fun l hl => Lane.outcome_trap (hc l hl) rfl)

end Sys2Proof.Machine
end

