-- ==== Sys2Proof/Laws/Dispatch.lean ====
section
/-!
SUPPORT. Each arm of the dispatch: what an instruction's execution is a call of.
-/

namespace Sys2Proof.Machine

@[simp] theorem exec_nop (s : State) : exec .nop s = execNop s := rfl
@[simp] theorem exec_exit (s : State) : exec .exit s = execExit s := rfl
@[simp] theorem exec_reform (s : State) : exec .reform s = execReform s := rfl
@[simp] theorem exec_reformB (s : State) : exec .reformB s = execReformB s := rfl
@[simp] theorem exec_yield (s : State) : exec .yield s = execYield s := rfl
@[simp] theorem exec_bkpt (s : State) : exec .bkpt s = execBkpt s := rfl
@[simp] theorem exec_iadd (d a b : BitVec 7) (s : State) : exec (.iadd d a b) s = execIadd d a b s := rfl
@[simp] theorem exec_isub (d a b : BitVec 7) (s : State) : exec (.isub d a b) s = execIsub d a b s := rfl
@[simp] theorem exec_imul (d a b : BitVec 7) (s : State) : exec (.imul d a b) s = execImul d a b s := rfl
@[simp] theorem exec_imulhS (d a b : BitVec 7) (s : State) : exec (.imulhS d a b) s = execImulhS d a b s := rfl
@[simp] theorem exec_imulhN (d a b : BitVec 7) (s : State) : exec (.imulhN d a b) s = execImulhN d a b s := rfl
@[simp] theorem exec_imad (d a b : BitVec 7) (s : State) : exec (.imad d a b) s = execImad d a b s := rfl
@[simp] theorem exec_iminS (d a b : BitVec 7) (s : State) : exec (.iminS d a b) s = execIminS d a b s := rfl
@[simp] theorem exec_iminN (d a b : BitVec 7) (s : State) : exec (.iminN d a b) s = execIminN d a b s := rfl
@[simp] theorem exec_imaxS (d a b : BitVec 7) (s : State) : exec (.imaxS d a b) s = execImaxS d a b s := rfl
@[simp] theorem exec_imaxN (d a b : BitVec 7) (s : State) : exec (.imaxN d a b) s = execImaxN d a b s := rfl
@[simp] theorem exec_iabs (d a : BitVec 7) (s : State) : exec (.iabs d a) s = execIabs d a s := rfl
@[simp] theorem exec_and (d a b : BitVec 7) (s : State) : exec (.and d a b) s = execAnd d a b s := rfl
@[simp] theorem exec_or (d a b : BitVec 7) (s : State) : exec (.or d a b) s = execOr d a b s := rfl
@[simp] theorem exec_xor (d a b : BitVec 7) (s : State) : exec (.xor d a b) s = execXor d a b s := rfl
@[simp] theorem exec_andn (d a b : BitVec 7) (s : State) : exec (.andn d a b) s = execAndn d a b s := rfl
@[simp] theorem exec_shl (d a b : BitVec 7) (s : State) : exec (.shl d a b) s = execShl d a b s := rfl
@[simp] theorem exec_shr (d a b : BitVec 7) (s : State) : exec (.shr d a b) s = execShr d a b s := rfl
@[simp] theorem exec_sha (d a b : BitVec 7) (s : State) : exec (.sha d a b) s = execSha d a b s := rfl
@[simp] theorem exec_rotl (d a b : BitVec 7) (s : State) : exec (.rotl d a b) s = execRotl d a b s := rfl
@[simp] theorem exec_popc (d a : BitVec 7) (s : State) : exec (.popc d a) s = execPopc d a s := rfl
@[simp] theorem exec_clz (d a : BitVec 7) (s : State) : exec (.clz d a) s = execClz d a s := rfl
@[simp] theorem exec_bfx (d a b : BitVec 7) (s : State) : exec (.bfx d a b) s = execBfx d a b s := rfl
@[simp] theorem exec_bfi (d a b : BitVec 7) (s : State) : exec (.bfi d a b) s = execBfi d a b s := rfl
@[simp] theorem exec_isetEq (d a b : BitVec 7) (s : State) : exec (.isetEq d a b) s = execIsetEq d a b s := rfl
@[simp] theorem exec_isetNe (d a b : BitVec 7) (s : State) : exec (.isetNe d a b) s = execIsetNe d a b s := rfl
@[simp] theorem exec_isetLt (d a b : BitVec 7) (s : State) : exec (.isetLt d a b) s = execIsetLt d a b s := rfl
@[simp] theorem exec_isetLe (d a b : BitVec 7) (s : State) : exec (.isetLe d a b) s = execIsetLe d a b s := rfl
@[simp] theorem exec_isetGt (d a b : BitVec 7) (s : State) : exec (.isetGt d a b) s = execIsetGt d a b s := rfl
@[simp] theorem exec_isetGe (d a b : BitVec 7) (s : State) : exec (.isetGe d a b) s = execIsetGe d a b s := rfl
@[simp] theorem exec_isetLtN (d a b : BitVec 7) (s : State) : exec (.isetLtN d a b) s = execIsetLtN d a b s := rfl
@[simp] theorem exec_isetLeN (d a b : BitVec 7) (s : State) : exec (.isetLeN d a b) s = execIsetLeN d a b s := rfl
@[simp] theorem exec_isetGtN (d a b : BitVec 7) (s : State) : exec (.isetGtN d a b) s = execIsetGtN d a b s := rfl
@[simp] theorem exec_isetGeN (d a b : BitVec 7) (s : State) : exec (.isetGeN d a b) s = execIsetGeN d a b s := rfl
@[simp] theorem exec_mov (d a : BitVec 7) (s : State) : exec (.mov d a) s = execMov d a s := rfl
@[simp] theorem exec_sel (d a b : BitVec 7) (s : State) : exec (.sel d a b) s = execSel d a b s := rfl
@[simp] theorem exec_add64 (d a b : BitVec 7) (s : State) : exec (.add64 d a b) s = execAdd64 d a b s := rfl
@[simp] theorem exec_sub64 (d a b : BitVec 7) (s : State) : exec (.sub64 d a b) s = execSub64 d a b s := rfl
@[simp] theorem exec_shl64 (d a b : BitVec 7) (s : State) : exec (.shl64 d a b) s = execShl64 d a b s := rfl
@[simp] theorem exec_shr64 (d a b : BitVec 7) (s : State) : exec (.shr64 d a b) s = execShr64 d a b s := rfl
@[simp] theorem exec_mul64 (d a b : BitVec 7) (s : State) : exec (.mul64 d a b) s = execMul64 d a b s := rfl
@[simp] theorem exec_lea0 (d a b : BitVec 7) (s : State) : exec (.lea0 d a b) s = execLea0 d a b s := rfl
@[simp] theorem exec_lea1 (d a b : BitVec 7) (s : State) : exec (.lea1 d a b) s = execLea1 d a b s := rfl
@[simp] theorem exec_lea2 (d a b : BitVec 7) (s : State) : exec (.lea2 d a b) s = execLea2 d a b s := rfl
@[simp] theorem exec_lea3 (d a b : BitVec 7) (s : State) : exec (.lea3 d a b) s = execLea3 d a b s := rfl
@[simp] theorem exec_iset64Eq (d a b : BitVec 7) (s : State) : exec (.iset64Eq d a b) s = execIset64Eq d a b s := rfl
@[simp] theorem exec_iset64LtN (d a b : BitVec 7) (s : State) : exec (.iset64LtN d a b) s = execIset64LtN d a b s := rfl
@[simp] theorem exec_iaddi (d a : BitVec 7) (imm : BitVec 11) (s : State) : exec (.iaddi d a imm) s = execIaddi d a imm s := rfl
@[simp] theorem exec_andi (d a : BitVec 7) (imm : BitVec 11) (s : State) : exec (.andi d a imm) s = execAndi d a imm s := rfl
@[simp] theorem exec_ori (d a : BitVec 7) (imm : BitVec 11) (s : State) : exec (.ori d a imm) s = execOri d a imm s := rfl
@[simp] theorem exec_shli (d a : BitVec 7) (imm : BitVec 5) (s : State) : exec (.shli d a imm) s = execShli d a imm s := rfl
@[simp] theorem exec_shri (d a : BitVec 7) (imm : BitVec 5) (s : State) : exec (.shri d a imm) s = execShri d a imm s := rfl
@[simp] theorem exec_ldi (d : BitVec 7) (imm : BitVec 18) (s : State) : exec (.ldi d imm) s = execLdi d imm s := rfl
@[simp] theorem exec_ldhi (d : BitVec 7) (imm : BitVec 14) (s : State) : exec (.ldhi d imm) s = execLdhi d imm s := rfl
@[simp] theorem exec_win (imm : BitVec 18) (s : State) : exec (.win imm) s = execWin imm s := rfl
@[simp] theorem exec_part (imm : BitVec 18) (s : State) : exec (.part imm) s = execPart imm s := rfl
@[simp] theorem exec_prio (imm : BitVec 18) (s : State) : exec (.prio imm) s = execPrio imm s := rfl
@[simp] theorem exec_sleep (imm : BitVec 18) (s : State) : exec (.sleep imm) s = execSleep imm s := rfl
@[simp] theorem exec_waitf (d : BitVec 7) (imm : BitVec 18) (s : State) : exec (.waitf d imm) s = execWaitf d imm s := rfl
@[simp] theorem exec_bra (x : BitVec 18) (s : State) : exec (.bra x) s = execBra x s := rfl
@[simp] theorem exec_beqz (a : BitVec 7) (x : BitVec 18) (s : State) : exec (.beqz a x) s = execBeqz a x s := rfl
@[simp] theorem exec_bnez (a : BitVec 7) (x : BitVec 18) (s : State) : exec (.bnez a x) s = execBnez a x s := rfl
@[simp] theorem exec_bltz (a : BitVec 7) (x : BitVec 18) (s : State) : exec (.bltz a x) s = execBltz a x s := rfl
@[simp] theorem exec_bgez (a : BitVec 7) (x : BitVec 18) (s : State) : exec (.bgez a x) s = execBgez a x s := rfl
@[simp] theorem exec_call (a : BitVec 7) (x : BitVec 18) (s : State) : exec (.call a x) s = execCall a x s := rfl
@[simp] theorem exec_jmp (a : BitVec 7) (s : State) : exec (.jmp a) s = execJmp a s := rfl
@[simp] theorem exec_ret (a : BitVec 7) (s : State) : exec (.ret a) s = execRet a s := rfl
@[simp] theorem exec_callr (d a : BitVec 7) (s : State) : exec (.callr d a) s = execCallr d a s := rfl
@[simp] theorem exec_qpost (d a b : BitVec 7) (f : BitVec 4) (s : State) : exec (.qpost d a b f) s = execQpost d a b f s := rfl
@[simp] theorem exec_jdecl (j a : BitVec 7) (s : State) : exec (.jdecl j a) s = execJdecl j a s := rfl
@[simp] theorem exec_jsign (j : BitVec 7) (s : State) : exec (.jsign j) s = execJsign j s := rfl
@[simp] theorem exec_jleave (j : BitVec 7) (s : State) : exec (.jleave j) s = execJleave j s := rfl
@[simp] theorem exec_jcancel (j : BitVec 7) (s : State) : exec (.jcancel j) s = execJcancel j s := rfl
@[simp] theorem exec_jstat (d j : BitVec 7) (s : State) : exec (.jstat d j) s = execJstat d j s := rfl
@[simp] theorem exec_lanePick (d a b : BitVec 7) (s : State) : exec (.lanePick d a b) s = execLanePick d a b s := rfl
@[simp] theorem exec_laneBack (d a b : BitVec 7) (s : State) : exec (.laneBack d a b) s = execLaneBack d a b s := rfl
@[simp] theorem exec_laneFwd (d a b : BitVec 7) (s : State) : exec (.laneFwd d a b) s = execLaneFwd d a b s := rfl
@[simp] theorem exec_laneFlip (d a b : BitVec 7) (s : State) : exec (.laneFlip d a b) s = execLaneFlip d a b s := rfl
@[simp] theorem exec_laneRot (d a b : BitVec 7) (s : State) : exec (.laneRot d a b) s = execLaneRot d a b s := rfl
@[simp] theorem exec_pollEvery (d a : BitVec 7) (s : State) : exec (.pollEvery d a) s = execPollEvery d a s := rfl
@[simp] theorem exec_pollSome (d a : BitVec 7) (s : State) : exec (.pollSome d a) s = execPollSome d a s := rfl
@[simp] theorem exec_pollMask (d a : BitVec 7) (s : State) : exec (.pollMask d a) s = execPollMask d a s := rfl
@[simp] theorem exec_pollSame (d a : BitVec 7) (s : State) : exec (.pollSame d a) s = execPollSame d a s := rfl
@[simp] theorem exec_pollPres (d : BitVec 7) (s : State) : exec (.pollPres d) s = execPollPres d s := rfl
@[simp] theorem exec_pollCnt (d a : BitVec 7) (s : State) : exec (.pollCnt d a) s = execPollCnt d a s := rfl
@[simp] theorem exec_matchLanes (d a : BitVec 7) (s : State) : exec (.matchLanes d a) s = execMatchLanes d a s := rfl
@[simp] theorem exec_mrank (d a : BitVec 7) (s : State) : exec (.mrank d a) s = execMrank d a s := rfl
@[simp] theorem exec_mcnt (d a : BitVec 7) (s : State) : exec (.mcnt d a) s = execMcnt d a s := rfl
@[simp] theorem exec_mlead (d a : BitVec 7) (s : State) : exec (.mlead d a) s = execMlead d a s := rfl
@[simp] theorem exec_tscanAddI (d a : BitVec 7) (s : State) : exec (.tscanAddI d a) s = execTscanAddI d a s := rfl
@[simp] theorem exec_tscanAddF (d a : BitVec 7) (s : State) : exec (.tscanAddF d a) s = execTscanAddF d a s := rfl
@[simp] theorem exec_tscanMaxS (d a : BitVec 7) (s : State) : exec (.tscanMaxS d a) s = execTscanMaxS d a s := rfl
@[simp] theorem exec_tscanMinS (d a : BitVec 7) (s : State) : exec (.tscanMinS d a) s = execTscanMinS d a s := rfl
@[simp] theorem exec_tscanExAddI (d a : BitVec 7) (s : State) : exec (.tscanExAddI d a) s = execTscanExAddI d a s := rfl
@[simp] theorem exec_tscanExAddF (d a : BitVec 7) (s : State) : exec (.tscanExAddF d a) s = execTscanExAddF d a s := rfl
@[simp] theorem exec_tscanSegAddI (d a b : BitVec 7) (s : State) : exec (.tscanSegAddI d a b) s = execTscanSegAddI d a b s := rfl
@[simp] theorem exec_tscanSegAddF (d a b : BitVec 7) (s : State) : exec (.tscanSegAddF d a b) s = execTscanSegAddF d a b s := rfl
@[simp] theorem exec_tredAddI (d a : BitVec 7) (s : State) : exec (.tredAddI d a) s = execTredAddI d a s := rfl
@[simp] theorem exec_tredAddF (d a : BitVec 7) (s : State) : exec (.tredAddF d a) s = execTredAddF d a s := rfl
@[simp] theorem exec_tredMaxS (d a : BitVec 7) (s : State) : exec (.tredMaxS d a) s = execTredMaxS d a s := rfl
@[simp] theorem exec_tredMinS (d a : BitVec 7) (s : State) : exec (.tredMinS d a) s = execTredMinS d a s := rfl
@[simp] theorem exec_tredMaxF (d a : BitVec 7) (s : State) : exec (.tredMaxF d a) s = execTredMaxF d a s := rfl
@[simp] theorem exec_tredMinF (d a : BitVec 7) (s : State) : exec (.tredMinF d a) s = execTredMinF d a s := rfl
@[simp] theorem exec_tredAnd (d a : BitVec 7) (s : State) : exec (.tredAnd d a) s = execTredAnd d a s := rfl
@[simp] theorem exec_tredOr (d a : BitVec 7) (s : State) : exec (.tredOr d a) s = execTredOr d a s := rfl
@[simp] theorem exec_ldlB (d a o : BitVec 7) (f : BitVec 4) (s : State) : exec (.ldlB d a o f) s = execLdlB d a o f s := rfl
@[simp] theorem exec_ldlH (d a o : BitVec 7) (f : BitVec 4) (s : State) : exec (.ldlH d a o f) s = execLdlH d a o f s := rfl
@[simp] theorem exec_ldlW (d a o : BitVec 7) (f : BitVec 4) (s : State) : exec (.ldlW d a o f) s = execLdlW d a o f s := rfl
@[simp] theorem exec_ldlD (d a o : BitVec 7) (f : BitVec 4) (s : State) : exec (.ldlD d a o f) s = execLdlD d a o f s := rfl
@[simp] theorem exec_ldlQ (d a o : BitVec 7) (f : BitVec 4) (s : State) : exec (.ldlQ d a o f) s = execLdlQ d a o f s := rfl
@[simp] theorem exec_stlB (d a o : BitVec 7) (f : BitVec 4) (s : State) : exec (.stlB d a o f) s = execStlB d a o f s := rfl
@[simp] theorem exec_stlH (d a o : BitVec 7) (f : BitVec 4) (s : State) : exec (.stlH d a o f) s = execStlH d a o f s := rfl
@[simp] theorem exec_stlW (d a o : BitVec 7) (f : BitVec 4) (s : State) : exec (.stlW d a o f) s = execStlW d a o f s := rfl
@[simp] theorem exec_stlD (d a o : BitVec 7) (f : BitVec 4) (s : State) : exec (.stlD d a o f) s = execStlD d a o f s := rfl
@[simp] theorem exec_stlQ (d a o : BitVec 7) (f : BitVec 4) (s : State) : exec (.stlQ d a o f) s = execStlQ d a o f s := rfl
@[simp] theorem exec_atl (d a c : BitVec 7) (f : BitVec 4) (s : State) : exec (.atl d a c f) s = execAtl d a c f s := rfl
@[simp] theorem exec_tap (a b : BitVec 7) (f : BitVec 4) (s : State) : exec (.tap a b f) s = execTap a b f s := rfl
@[simp] theorem exec_tapNorm (a b : BitVec 7) (f : BitVec 4) (s : State) : exec (.tapNorm a b f) s = execTapNorm a b f s := rfl
@[simp] theorem exec_tapq (a b : BitVec 7) (s : State) : exec (.tapq a b) s = execTapq a b s := rfl
@[simp] theorem exec_spoke (a b : BitVec 7) (f : BitVec 4) (s : State) : exec (.spoke a b f) s = execSpoke a b f s := rfl
@[simp] theorem exec_barInit (a b : BitVec 7) (s : State) : exec (.barInit a b) s = execBarInit a b s := rfl
@[simp] theorem exec_barArrive (a : BitVec 7) (s : State) : exec (.barArrive a) s = execBarArrive a s := rfl
@[simp] theorem exec_barWait (a b : BitVec 7) (s : State) : exec (.barWait a b) s = execBarWait a b s := rfl
@[simp] theorem exec_barSync (a : BitVec 7) (s : State) : exec (.barSync a) s = execBarSync a s := rfl
@[simp] theorem exec_barExpect (a b : BitVec 7) (s : State) : exec (.barExpect a b) s = execBarExpect a b s := rfl
@[simp] theorem exec_barPhase (d a : BitVec 7) (s : State) : exec (.barPhase d a) s = execBarPhase d a s := rfl
@[simp] theorem exec_barInval (a : BitVec 7) (s : State) : exec (.barInval a) s = execBarInval a s := rfl
@[simp] theorem exec_fadd (d a b : BitVec 7) (s : State) : exec (.fadd d a b) s = execFadd d a b s := rfl
@[simp] theorem exec_fsub (d a b : BitVec 7) (s : State) : exec (.fsub d a b) s = execFsub d a b s := rfl
@[simp] theorem exec_fmul (d a b : BitVec 7) (s : State) : exec (.fmul d a b) s = execFmul d a b s := rfl
@[simp] theorem exec_ffma (d a b : BitVec 7) (s : State) : exec (.ffma d a b) s = execFfma d a b s := rfl
@[simp] theorem exec_fmin (d a b : BitVec 7) (s : State) : exec (.fmin d a b) s = execFmin d a b s := rfl
@[simp] theorem exec_fmax (d a b : BitVec 7) (s : State) : exec (.fmax d a b) s = execFmax d a b s := rfl
@[simp] theorem exec_fneg (d a : BitVec 7) (s : State) : exec (.fneg d a) s = execFneg d a s := rfl
@[simp] theorem exec_fabs (d a : BitVec 7) (s : State) : exec (.fabs d a) s = execFabs d a s := rfl
@[simp] theorem exec_fsetEq (d a b : BitVec 7) (s : State) : exec (.fsetEq d a b) s = execFsetEq d a b s := rfl
@[simp] theorem exec_fsetNe (d a b : BitVec 7) (s : State) : exec (.fsetNe d a b) s = execFsetNe d a b s := rfl
@[simp] theorem exec_fsetLt (d a b : BitVec 7) (s : State) : exec (.fsetLt d a b) s = execFsetLt d a b s := rfl
@[simp] theorem exec_fsetLe (d a b : BitVec 7) (s : State) : exec (.fsetLe d a b) s = execFsetLe d a b s := rfl
@[simp] theorem exec_fsetGt (d a b : BitVec 7) (s : State) : exec (.fsetGt d a b) s = execFsetGt d a b s := rfl
@[simp] theorem exec_fsetGe (d a b : BitVec 7) (s : State) : exec (.fsetGe d a b) s = execFsetGe d a b s := rfl
@[simp] theorem exec_fsetUn (d a b : BitVec 7) (s : State) : exec (.fsetUn d a b) s = execFsetUn d a b s := rfl
@[simp] theorem exec_fclass (d a : BitVec 7) (s : State) : exec (.fclass d a) s = execFclass d a s := rfl
@[simp] theorem exec_frcp (d a : BitVec 7) (s : State) : exec (.frcp d a) s = execFrcp d a s := rfl
@[simp] theorem exec_frsq (d a : BitVec 7) (s : State) : exec (.frsq d a) s = execFrsq d a s := rfl
@[simp] theorem exec_fsqrt (d a : BitVec 7) (s : State) : exec (.fsqrt d a) s = execFsqrt d a s := rfl
@[simp] theorem exec_fex2 (d a : BitVec 7) (s : State) : exec (.fex2 d a) s = execFex2 d a s := rfl
@[simp] theorem exec_flg2 (d a : BitVec 7) (s : State) : exec (.flg2 d a) s = execFlg2 d a s := rfl
@[simp] theorem exec_fexp (d a : BitVec 7) (s : State) : exec (.fexp d a) s = execFexp d a s := rfl
@[simp] theorem exec_fln (d a : BitVec 7) (s : State) : exec (.fln d a) s = execFln d a s := rfl
@[simp] theorem exec_fsinp (d a : BitVec 7) (s : State) : exec (.fsinp d a) s = execFsinp d a s := rfl
@[simp] theorem exec_fcosp (d a : BitVec 7) (s : State) : exec (.fcosp d a) s = execFcosp d a s := rfl
@[simp] theorem exec_ftanh (d a : BitVec 7) (s : State) : exec (.ftanh d a) s = execFtanh d a s := rfl
@[simp] theorem exec_fsig (d a : BitVec 7) (s : State) : exec (.fsig d a) s = execFsig d a s := rfl
@[simp] theorem exec_h2add (d a b : BitVec 7) (s : State) : exec (.h2add d a b) s = execH2add d a b s := rfl
@[simp] theorem exec_h2mul (d a b : BitVec 7) (s : State) : exec (.h2mul d a b) s = execH2mul d a b s := rfl
@[simp] theorem exec_h2fma (d a b : BitVec 7) (s : State) : exec (.h2fma d a b) s = execH2fma d a b s := rfl
@[simp] theorem exec_b2add (d a b : BitVec 7) (s : State) : exec (.b2add d a b) s = execB2add d a b s := rfl
@[simp] theorem exec_b2mul (d a b : BitVec 7) (s : State) : exec (.b2mul d a b) s = execB2mul d a b s := rfl
@[simp] theorem exec_b2fma (d a b : BitVec 7) (s : State) : exec (.b2fma d a b) s = execB2fma d a b s := rfl
@[simp] theorem exec_xadd (d a b : BitVec 7) (s : State) : exec (.xadd d a b) s = execXadd d a b s := rfl
@[simp] theorem exec_xmul (d a b : BitVec 7) (s : State) : exec (.xmul d a b) s = execXmul d a b s := rfl
@[simp] theorem exec_xexp (d a : BitVec 7) (s : State) : exec (.xexp d a) s = execXexp d a s := rfl
@[simp] theorem exec_xcvt (d a : BitVec 7) (s : State) : exec (.xcvt d a) s = execXcvt d a s := rfl
@[simp] theorem exec_xfrom (d a : BitVec 7) (s : State) : exec (.xfrom d a) s = execXfrom d a s := rfl
@[simp] theorem exec_xratio (d a b : BitVec 7) (s : State) : exec (.xratio d a b) s = execXratio d a b s := rfl
@[simp] theorem exec_cvt (d a c : BitVec 7) (t : BitVec 1) (r : BitVec 3) (s : State) : exec (.cvt d a c t r) s = execCvt d a c t r s := rfl
@[simp] theorem exec_bytp (d a b : BitVec 7) (s : State) : exec (.bytp d a b) s = execBytp d a b s := rfl
@[simp] theorem exec_hpk (d a b : BitVec 7) (s : State) : exec (.hpk d a b) s = execHpk d a b s := rfl
@[simp] theorem exec_reqI8 (d a b : BitVec 7) (s : State) : exec (.reqI8 d a b) s = execReqI8 d a b s := rfl
@[simp] theorem exec_reqI4 (d a b : BitVec 7) (s : State) : exec (.reqI4 d a b) s = execReqI4 d a b s := rfl
@[simp] theorem exec_reqN8 (d a b : BitVec 7) (s : State) : exec (.reqN8 d a b) s = execReqN8 d a b s := rfl
@[simp] theorem exec_reqN4 (d a b : BitVec 7) (s : State) : exec (.reqN4 d a b) s = execReqN4 d a b s := rfl
@[simp] theorem exec_rng (d a b : BitVec 7) (s : State) : exec (.rng d a b) s = execRng d a b s := rfl
@[simp] theorem exec_gumb (d a : BitVec 7) (s : State) : exec (.gumb d a) s = execGumb d a s := rfl
@[simp] theorem exec_unif (d a : BitVec 7) (s : State) : exec (.unif d a) s = execUnif d a s := rfl
@[simp] theorem exec_softmax (d a b : BitVec 7) (s : State) : exec (.softmax d a b) s = execSoftmax d a b s := rfl
@[simp] theorem exec_rmsnE12 (d a b : BitVec 7) (s : State) : exec (.rmsnE12 d a b) s = execRmsnE12 d a b s := rfl
@[simp] theorem exec_rmsnE14 (d a b : BitVec 7) (s : State) : exec (.rmsnE14 d a b) s = execRmsnE14 d a b s := rfl
@[simp] theorem exec_rmsnE16 (d a b : BitVec 7) (s : State) : exec (.rmsnE16 d a b) s = execRmsnE16 d a b s := rfl
@[simp] theorem exec_rmsnE18 (d a b : BitVec 7) (s : State) : exec (.rmsnE18 d a b) s = execRmsnE18 d a b s := rfl
@[simp] theorem exec_rmsnE20 (d a b : BitVec 7) (s : State) : exec (.rmsnE20 d a b) s = execRmsnE20 d a b s := rfl
@[simp] theorem exec_kvtag (d a : BitVec 7) (f : BitVec 4) (s : State) : exec (.kvtag d a f) s = execKvtag d a f s := rfl
@[simp] theorem exec_bnds (d a : BitVec 7) (f : BitVec 4) (s : State) : exec (.bnds d a f) s = execBnds d a f s := rfl
@[simp] theorem exec_kvmove (d a : BitVec 7) (f : BitVec 4) (s : State) : exec (.kvmove d a f) s = execKvmove d a f s := rfl
@[simp] theorem exec_topk (d a : BitVec 7) (f : BitVec 4) (s : State) : exec (.topk d a f) s = execTopk d a f s := rfl
@[simp] theorem exec_ldgB (d a o : BitVec 7) (f : BitVec 4) (s : State) : exec (.ldgB d a o f) s = execLdgB d a o f s := rfl
@[simp] theorem exec_ldgH (d a o : BitVec 7) (f : BitVec 4) (s : State) : exec (.ldgH d a o f) s = execLdgH d a o f s := rfl
@[simp] theorem exec_ldgW (d a o : BitVec 7) (f : BitVec 4) (s : State) : exec (.ldgW d a o f) s = execLdgW d a o f s := rfl
@[simp] theorem exec_ldgD (d a o : BitVec 7) (f : BitVec 4) (s : State) : exec (.ldgD d a o f) s = execLdgD d a o f s := rfl
@[simp] theorem exec_ldgQ (d a o : BitVec 7) (f : BitVec 4) (s : State) : exec (.ldgQ d a o f) s = execLdgQ d a o f s := rfl
@[simp] theorem exec_stgB (d a o : BitVec 7) (f : BitVec 4) (s : State) : exec (.stgB d a o f) s = execStgB d a o f s := rfl
@[simp] theorem exec_stgH (d a o : BitVec 7) (f : BitVec 4) (s : State) : exec (.stgH d a o f) s = execStgH d a o f s := rfl
@[simp] theorem exec_stgW (d a o : BitVec 7) (f : BitVec 4) (s : State) : exec (.stgW d a o f) s = execStgW d a o f s := rfl
@[simp] theorem exec_stgD (d a o : BitVec 7) (f : BitVec 4) (s : State) : exec (.stgD d a o f) s = execStgD d a o f s := rfl
@[simp] theorem exec_stgQ (d a o : BitVec 7) (f : BitVec 4) (s : State) : exec (.stgQ d a o f) s = execStgQ d a o f s := rfl
@[simp] theorem exec_ldf (d a o : BitVec 7) (f : BitVec 4) (s : State) : exec (.ldf d a o f) s = execLdf d a o f s := rfl
@[simp] theorem exec_stf (d a o : BitVec 7) (f : BitVec 4) (s : State) : exec (.stf d a o f) s = execStf d a o f s := rfl
@[simp] theorem exec_stfRs (d a o : BitVec 7) (f : BitVec 4) (s : State) : exec (.stfRs d a o f) s = execStfRs d a o f s := rfl
@[simp] theorem exec_pref (a o : BitVec 7) (s : State) : exec (.pref a o) s = execPref a o s := rfl
@[simp] theorem exec_cfill (a b : BitVec 7) (f : BitVec 4) (s : State) : exec (.cfill a b f) s = execCfill a b f s := rfl
@[simp] theorem exec_gathW (d a b : BitVec 7) (f : BitVec 4) (s : State) : exec (.gathW d a b f) s = execGathW d a b f s := rfl
@[simp] theorem exec_gathD (d a b : BitVec 7) (f : BitVec 4) (s : State) : exec (.gathD d a b f) s = execGathD d a b f s := rfl
@[simp] theorem exec_gathF (d a b : BitVec 7) (f : BitVec 4) (s : State) : exec (.gathF d a b f) s = execGathF d a b f s := rfl
@[simp] theorem exec_scatW (d a b : BitVec 7) (f : BitVec 4) (s : State) : exec (.scatW d a b f) s = execScatW d a b f s := rfl
@[simp] theorem exec_scatD (d a b : BitVec 7) (f : BitVec 4) (s : State) : exec (.scatD d a b f) s = execScatD d a b f s := rfl
@[simp] theorem exec_kvrot (d a b : BitVec 7) (f : BitVec 4) (s : State) : exec (.kvrot d a b f) s = execKvrot d a b f s := rfl
@[simp] theorem exec_copy (a b : BitVec 7) (f : BitVec 4) (s : State) : exec (.copy a b f) s = execCopy a b f s := rfl
@[simp] theorem exec_bcopy (d a b : BitVec 7) (f : BitVec 4) (s : State) : exec (.bcopy d a b f) s = execBcopy d a b f s := rfl
@[simp] theorem exec_copyx (a b : BitVec 7) (f : BitVec 4) (s : State) : exec (.copyx a b f) s = execCopyx a b f s := rfl
@[simp] theorem exec_mma (j a b : BitVec 7) (f : BitVec 4) (s : State) : exec (.mma j a b f) s = execMma j a b f s := rfl
@[simp] theorem exec_mmas (a b : BitVec 7) (f : BitVec 4) (s : State) : exec (.mmas a b f) s = execMmas a b f s := rfl
@[simp] theorem exec_accz (a b : BitVec 7) (f : BitVec 4) (s : State) : exec (.accz a b f) s = execAccz a b f s := rfl
@[simp] theorem exec_attn (d a b : BitVec 7) (f : BitVec 4) (s : State) : exec (.attn d a b f) s = execAttn d a b f s := rfl
@[simp] theorem exec_attnr (d a b : BitVec 7) (f : BitVec 4) (s : State) : exec (.attnr d a b f) s = execAttnr d a b f s := rfl
@[simp] theorem exec_kvap (d a b : BitVec 7) (f : BitVec 4) (s : State) : exec (.kvap d a b f) s = execKvap d a b f s := rfl
@[simp] theorem exec_kvrq (d a b : BitVec 7) (f : BitVec 4) (s : State) : exec (.kvrq d a b f) s = execKvrq d a b f s := rfl
@[simp] theorem exec_ldvsW (d a o : BitVec 7) (f : BitVec 4) (s : State) : exec (.ldvsW d a o f) s = execLdvsW d a o f s := rfl
@[simp] theorem exec_ldvsD (d a o : BitVec 7) (f : BitVec 4) (s : State) : exec (.ldvsD d a o f) s = execLdvsD d a o f s := rfl
@[simp] theorem exec_ldvsQ (d a o : BitVec 7) (f : BitVec 4) (s : State) : exec (.ldvsQ d a o f) s = execLdvsQ d a o f s := rfl
@[simp] theorem exec_valid (d k : BitVec 7) (f : BitVec 4) (s : State) : exec (.valid d k f) s = execValid d k f s := rfl
@[simp] theorem exec_verr (d a : BitVec 7) (f : BitVec 4) (s : State) : exec (.verr d a f) s = execVerr d a f s := rfl
@[simp] theorem exec_casv (d a b : BitVec 7) (f : BitVec 4) (s : State) : exec (.casv d a b f) s = execCasv d a b f s := rfl
@[simp] theorem exec_atom (d a c : BitVec 7) (f : BitVec 4) (s : State) : exec (.atom d a c f) s = execAtom d a c f s := rfl
@[simp] theorem exec_cas (d a b : BitVec 7) (f : BitVec 4) (s : State) : exec (.cas d a b f) s = execCas d a b f s := rfl
@[simp] theorem exec_red (c a b : BitVec 7) (f : BitVec 4) (s : State) : exec (.red c a b f) s = execRed c a b f s := rfl
@[simp] theorem exec_fenceAcq (x : BitVec 7) (s : State) : exec (.fenceAcq x) s = execFenceAcq x s := rfl
@[simp] theorem exec_fenceRel (x : BitVec 7) (s : State) : exec (.fenceRel x) s = execFenceRel x s := rfl
@[simp] theorem exec_fenceAr (x : BitVec 7) (s : State) : exec (.fenceAr x) s = execFenceAr x s := rfl
@[simp] theorem exec_fenceSc (x : BitVec 7) (s : State) : exec (.fenceSc x) s = execFenceSc x s := rfl
@[simp] theorem exec_ldacqW (d a x : BitVec 7) (f : BitVec 4) (s : State) : exec (.ldacqW d a x f) s = execLdacqW d a x f s := rfl
@[simp] theorem exec_ldacqD (d a x : BitVec 7) (f : BitVec 4) (s : State) : exec (.ldacqD d a x f) s = execLdacqD d a x f s := rfl
@[simp] theorem exec_strelW (d a x : BitVec 7) (f : BitVec 4) (s : State) : exec (.strelW d a x f) s = execStrelW d a x f s := rfl
@[simp] theorem exec_strelD (d a x : BitVec 7) (f : BitVec 4) (s : State) : exec (.strelD d a x f) s = execStrelD d a x f s := rfl
@[simp] theorem exec_trap (c : BitVec 7) (s : State) : exec (.trap c) s = execTrap c s := rfl
@[simp] theorem exec_rett (s : State) : exec .rett s = execRett s := rfl
@[simp] theorem exec_gets (d n : BitVec 7) (s : State) : exec (.gets d n) s = execGets d n s := rfl
@[simp] theorem exec_sets (a n : BitVec 7) (s : State) : exec (.sets a n) s = execSets a n s := rfl
@[simp] theorem exec_snap (s : State) : exec .snap s = execSnap s := rfl
@[simp] theorem exec_tlbinv (a b : BitVec 7) (s : State) : exec (.tlbinv a b) s = execTlbinv a b s := rfl
@[simp] theorem exec_ctxsv (a b : BitVec 7) (s : State) : exec (.ctxsv a b) s = execCtxsv a b s := rfl
@[simp] theorem exec_ctxld (a b : BitVec 7) (s : State) : exec (.ctxld a b) s = execCtxld a b s := rfl
@[simp] theorem exec_halt (s : State) : exec .halt s = execHalt s := rfl
@[simp] theorem exec_tapld (a b : BitVec 7) (s : State) : exec (.tapld a b) s = execTapld a b s := rfl
@[simp] theorem exec_launch (d a : BitVec 7) (f : BitVec 4) (s : State) : exec (.launch d a f) s = execLaunch d a f s := rfl
@[simp] theorem exec_haltw (s : State) : exec .haltw s = execHaltw s := rfl
@[simp] theorem exec_ldp (d a : BitVec 4) (imm : BitVec 15) (s : State) : exec (.ldp d a imm) s = execLdp d a imm s := rfl
@[simp] theorem exec_ldx (d a : BitVec 4) (imm : BitVec 15) (s : State) : exec (.ldx d a imm) s = execLdx d a imm s := rfl
@[simp] theorem exec_ldval (d a : BitVec 4) (imm : BitVec 15) (s : State) : exec (.ldval d a imm) s = execLdval d a imm s := rfl
@[simp] theorem exec_addw (d a b : BitVec 4) (imm : BitVec 15) (s : State) : exec (.addw d a b imm) s = execAddw d a b imm s := rfl
@[simp] theorem exec_subw (d a b : BitVec 4) (imm : BitVec 15) (s : State) : exec (.subw d a b imm) s = execSubw d a b imm s := rfl
@[simp] theorem exec_cmpw (d a b : BitVec 4) (s : State) : exec (.cmpw d a b) s = execCmpw d a b s := rfl
@[simp] theorem exec_bltw (a b : BitVec 4) (imm : BitVec 15) (s : State) : exec (.bltw a b imm) s = execBltw a b imm s := rfl
@[simp] theorem exec_bnew (a b : BitVec 4) (imm : BitVec 15) (s : State) : exec (.bnew a b imm) s = execBnew a b imm s := rfl
@[simp] theorem exec_loop (d : BitVec 4) (imm : BitVec 15) (s : State) : exec (.loop d imm) s = execLoop d imm s := rfl
@[simp] theorem exec_skip (a b : BitVec 4) (s : State) : exec (.skip a b) s = execSkip a b s := rfl
@[simp] theorem exec_sett (a b : BitVec 4) (s : State) : exec (.sett a b) s = execSett a b s := rfl
@[simp] theorem exec_emit (d a b : BitVec 4) (s : State) : exec (.emit d a b) s = execEmit d a b s := rfl
@[simp] theorem exec_flush (a : BitVec 4) (s : State) : exec (.flush a) s = execFlush a s := rfl
@[simp] theorem exec_bundleEntry (team group : Nat) (s : State) : exec (.bundleEntry team group) s = execBundleEntry team group s := rfl
@[simp] theorem exec_flagWaitRelease (team group : Nat) (s : State) : exec (.flagWaitRelease team group) s = execFlagWaitRelease team group s := rfl
@[simp] theorem exec_operationComplete (op : Nat) (s : State) : exec (.operationComplete op) s = execOperationComplete op s := rfl
@[simp] theorem exec_binAgeRelease (core bin : Nat) (s : State) : exec (.binAgeRelease core bin) s = execBinAgeRelease core bin s := rfl
@[simp] theorem exec_binIdleRelease (core bin : Nat) (s : State) : exec (.binIdleRelease core bin) s = execBinIdleRelease core bin s := rfl
@[simp] theorem exec_binRefill (core : Nat) (s : State) : exec (.binRefill core) s = execBinRefill core s := rfl
@[simp] theorem exec_issuePromotion (team group : Nat) (s : State) : exec (.issuePromotion team group) s = execIssuePromotion team group s := rfl
@[simp] theorem exec_sleepWake (team thr : Nat) (s : State) : exec (.sleepWake team thr) s = execSleepWake team thr s := rfl
@[simp] theorem exec_waitfTimeout (team thr : Nat) (s : State) : exec (.waitfTimeout team thr) s = execWaitfTimeout team thr s := rfl
@[simp] theorem exec_waitfWriteWake (team thr : Nat) (s : State) : exec (.waitfWriteWake team thr) s = execWaitfWriteWake team thr s := rfl
@[simp] theorem exec_waitfEarlyWake (team thr : Nat) (s : State) : exec (.waitfEarlyWake team thr) s = execWaitfEarlyWake team thr s := rfl
@[simp] theorem exec_pageWalk (core fn : Nat) (va : DWord) (s : State) : exec (.pageWalk core fn va) s = execPageWalk core fn va s := rfl
@[simp] theorem exec_storePerform (core : Nat) (s : State) : exec (.storePerform core) s = execStorePerform core s := rfl
@[simp] theorem exec_scratchpadLineArrival (op team line : Nat) (s : State) : exec (.scratchpadLineArrival op team line) s = execScratchpadLineArrival op team line s := rfl
@[simp] theorem exec_pannierSend (entry : Nat) (s : State) : exec (.pannierSend entry) s = execPannierSend entry s := rfl
@[simp] theorem exec_residencyExpire (line : Nat) (s : State) : exec (.residencyExpire line) s = execResidencyExpire line s := rfl
@[simp] theorem exec_copyComplete (op : Nat) (s : State) : exec (.copyComplete op) s = execCopyComplete op s := rfl
@[simp] theorem exec_copyFault (op : Nat) (s : State) : exec (.copyFault op) s = execCopyFault op s := rfl
@[simp] theorem exec_mmaGrant (hub : Nat) (s : State) : exec (.mmaGrant hub) s = execMmaGrant hub s := rfl
@[simp] theorem exec_reservationPromotion (hub call : Nat) (s : State) : exec (.reservationPromotion hub call) s = execReservationPromotion hub call s := rfl
@[simp] theorem exec_mmaCallEnd (hub : Nat) (s : State) : exec (.mmaCallEnd hub) s = execMmaCallEnd hub s := rfl
@[simp] theorem exec_bufferEviction (hub buf : Nat) (s : State) : exec (.bufferEviction hub buf) s = execBufferEviction hub buf s := rfl
@[simp] theorem exec_heldSumFlush (hub buf : Nat) (s : State) : exec (.heldSumFlush hub buf) s = execHeldSumFlush hub buf s := rfl
@[simp] theorem exec_attnStop (op : Nat) (s : State) : exec (.attnStop op) s = execAttnStop op s := rfl
@[simp] theorem exec_kvOpComplete (op : Nat) (s : State) : exec (.kvOpComplete op) s = execKvOpComplete op s := rfl
@[simp] theorem exec_tapComplete (op : Nat) (s : State) : exec (.tapComplete op) s = execTapComplete op s := rfl
@[simp] theorem exec_tapGenerationRetire (s : State) : exec .tapGenerationRetire s = execTapGenerationRetire s := rfl
@[simp] theorem exec_spokeComplete (ctx : Nat) (s : State) : exec (.spokeComplete ctx) s = execSpokeComplete ctx s := rfl
@[simp] theorem exec_snapshotLatch (s : State) : exec .snapshotLatch s = execSnapshotLatch s := rfl
@[simp] theorem exec_qbaseWrite (q : Nat) (v : DWord) (s : State) : exec (.qbaseWrite q v) s = execQbaseWrite q v s := rfl
@[simp] theorem exec_qlog2Write (q : Nat) (v : Word) (s : State) : exec (.qlog2Write q v) s = execQlog2Write q v s := rfl
@[simp] theorem exec_queueEnable (q : Nat) (s : State) : exec (.queueEnable q) s = execQueueEnable q s := rfl
@[simp] theorem exec_qtailWrite (q : Nat) (v : DWord) (s : State) : exec (.qtailWrite q v) s = execQtailWrite q v s := rfl
@[simp] theorem exec_errClear (q : Nat) (s : State) : exec (.errClear q) s = execErrClear q s := rfl
@[simp] theorem exec_packetRead (q : Nat) (s : State) : exec (.packetRead q) s = execPacketRead q s := rfl
@[simp] theorem exec_dependencePoll (q : Nat) (s : State) : exec (.dependencePoll q) s = execDependencePoll q s := rfl
@[simp] theorem exec_placement (q : Nat) (s : State) : exec (.placement q) s = execPlacement q s := rfl
@[simp] theorem exec_csigWrite (grid : Nat) (s : State) : exec (.csigWrite grid) s = execCsigWrite grid s := rfl
@[simp] theorem exec_remoteWriteArrival (src seq pa : Nat) (bytes : List Byte) (trapped : Bool) (s : State) : exec (.remoteWriteArrival src seq pa bytes trapped) s = execRemoteWriteArrival src seq pa bytes trapped s := rfl
@[simp] theorem exec_remoteAccessArrival (src : Sender) (pa : Nat) (acc : AgentAccess) (trapped : Bool) (s : State) : exec (.remoteAccessArrival src pa acc trapped) s = execRemoteAccessArrival src pa acc trapped s := rfl
@[simp] theorem exec_hostWriteArrival (link pa : Nat) (bytes : List Byte) (s : State) : exec (.hostWriteArrival link pa bytes) s = execHostWriteArrival link pa bytes s := rfl
@[simp] theorem exec_hostReadArrival (link pa len : Nat) (s : State) : exec (.hostReadArrival link pa len) s = execHostReadArrival link pa len s := rfl
@[simp] theorem exec_atomicopCompletion (op : Nat) (supported : Bool) (s : State) : exec (.atomicopCompletion op supported) s = execAtomicopCompletion op supported s := rfl
@[simp] theorem exec_fabricLinkFailure (port : Nat) (s : State) : exec (.fabricLinkFailure port) s = execFabricLinkFailure port s := rfl
@[simp] theorem exec_deviceLost (node : Nat) (s : State) : exec (.deviceLost node) s = execDeviceLost node s := rfl
@[simp] theorem exec_pcieLinkDown (link : Nat) (s : State) : exec (.pcieLinkDown link) s = execPcieLinkDown link s := rfl
@[simp] theorem exec_correctedError (p : ErrorPlace) (s : State) : exec (.correctedError p) s = execCorrectedError p s := rfl
@[simp] theorem exec_uncorrectableError (u : ErrorSite) (s : State) : exec (.uncorrectableError u) s = execUncorrectableError u s := rfl
@[simp] theorem exec_unitFailure (u : DeviceUnit) (s : State) : exec (.unitFailure u) s = execUnitFailure u s := rfl
@[simp] theorem exec_thermalTrip (s : State) : exec .thermalTrip s = execThermalTrip s := rfl
@[simp] theorem exec_currentLimit (s : State) : exec .currentLimit s = execCurrentLimit s := rfl
@[simp] theorem exec_hostReset (s : State) : exec .hostReset s = execHostReset s := rfl
@[simp] theorem exec_attestation (s : State) : exec .attestation s = execAttestation s := rfl
@[simp] theorem exec_health (s : State) : exec .health s = execHealth s := rfl
@[simp] theorem exec_snapread (s : State) : exec .snapread s = execSnapread s := rfl
@[simp] theorem exec_snapRearm (s : State) : exec .snapRearm s = execSnapRearm s := rfl
@[simp] theorem exec_snaptrig (s : State) : exec .snaptrig s = execSnaptrig s := rfl
@[simp] theorem exec_fwupdate (image : FwImage) (signature : List Byte) (s : State) : exec (.fwupdate image signature) s = execFwupdate image signature s := rfl
@[simp] theorem exec_reset (s : State) : exec .reset s = execReset s := rfl
@[simp] theorem exec_pcap (watts : Nat) (s : State) : exec (.pcap watts) s = execPcap watts s := rfl
@[simp] theorem exec_fence (u : DeviceUnit) (s : State) : exec (.fence u) s = execFence u s := rfl
@[simp] theorem exec_fenceClear (s : State) : exec .fenceClear s = execFenceClear s := rfl
@[simp] theorem exec_fwcommit (s : State) : exec .fwcommit s = execFwcommit s := rfl
@[simp] theorem exec_pcieLinkUp (link : Nat) (s : State) : exec (.pcieLinkUp link) s = execPcieLinkUp link s := rfl
@[simp] theorem exec_remoteWriteAcknowledged (dst seq : Nat) (s : State) : exec (.remoteWriteAcknowledged dst seq) s = execRemoteWriteAcknowledged dst seq s := rfl
@[simp] theorem exec_hostAtomicopArrival (link pa : Nat) (acc : AgentAccess) (s : State) : exec (.hostAtomicopArrival link pa acc) s = execHostAtomicopArrival link pa acc s := rfl
@[simp] theorem exec_powerLoss (s : State) : exec .powerLoss s = execPowerLoss s := rfl

end Sys2Proof.Machine
end

