-- ==== Sys2Proof/Laws/Encoding.lean ====
section
/-!
SUPPORT. The fields of an encoded word read back (R45, R271), and so do its bytes (R1).
-/

namespace Sys2Proof

/-! ## Core words -/

@[simp] theorem majorOf_coreWord (op d a b : BitVec 7) (x : BitVec 4) : majorOf (coreWord op d a b x) = op := by
  simp only [majorOf, coreWord]; ext i hi; simp; grind

@[simp] theorem fieldD_coreWord (op d a b : BitVec 7) (x : BitVec 4) : fieldD (coreWord op d a b x) = d := by
  simp only [fieldD, coreWord]; ext i hi; simp; grind

@[simp] theorem fieldA_coreWord (op d a b : BitVec 7) (x : BitVec 4) : fieldA (coreWord op d a b x) = a := by
  simp only [fieldA, coreWord]; ext i hi; simp; grind

@[simp] theorem fieldB_coreWord (op d a b : BitVec 7) (x : BitVec 4) : fieldB (coreWord op d a b x) = b := by
  simp only [fieldB, coreWord]; ext i hi; simp; grind

@[simp] theorem fieldX_coreWord (op d a b : BitVec 7) (x : BitVec 4) : fieldX (coreWord op d a b x) = x := by
  simp only [fieldX, coreWord]; ext i hi; simp; grind

theorem decodeCore_coreWord (op d a b : BitVec 7) (x : BitVec 4) :
    decodeCore (coreWord op d a b x) = readCore op d a b x := by
  simp [decodeCore]

/-- An 18-bit field is its three parts. -/
theorem join18 (i : BitVec 18) : i.extractLsb' 11 7 ++ i.extractLsb' 4 7 ++ i.extractLsb' 0 4 = i := by
  ext k hk; simp; grind

/-- An 11-bit field is its two parts. -/
theorem join11 (i : BitVec 11) : i.extractLsb' 4 7 ++ i.extractLsb' 0 4 = i := by
  ext k hk; simp; grind

/-- The high part of a shift count's field is zero, and the low parts are the count. -/
theorem high5 (i : BitVec 5) : ((0#6 ++ i).extractLsb' 4 7).extractLsb' 1 6 = 0#6 := by revert i; decide
theorem low5 (i : BitVec 5) :
    ((0#6 ++ i).extractLsb' 4 7).extractLsb' 0 1 ++ (0#6 ++ i).extractLsb' 0 4 = i := by revert i; decide

theorem high14 (i : BitVec 14) : ((0#4 ++ i).extractLsb' 11 7).extractLsb' 3 4 = 0#4 := by
  ext k hk; simp; grind
theorem low14 (i : BitVec 14) :
    ((0#4 ++ i).extractLsb' 11 7).extractLsb' 0 3 ++ (0#4 ++ i).extractLsb' 4 7 ++ (0#4 ++ i).extractLsb' 0 4 = i := by
  ext k hk; simp; grind

theorem cvtHigh (t : BitVec 1) (r : BitVec 3) : (t ++ r).extractLsb' 3 1 = t := by revert t r; decide
theorem cvtLow (t : BitVec 1) (r : BitVec 3) : (t ++ r).extractLsb' 0 3 = r := by revert t r; decide

/-! ## Walker words -/

@[simp] theorem walkOp_walkerWord (op : BitVec 5) (d a b : BitVec 4) (i : BitVec 15) :
    walkOp (walkerWord op d a b i) = op := by
  simp only [walkOp, walkerWord]; ext k hk; simp; grind

@[simp] theorem walkD_walkerWord (op : BitVec 5) (d a b : BitVec 4) (i : BitVec 15) :
    walkD (walkerWord op d a b i) = d := by
  simp only [walkD, walkerWord]; ext k hk; simp; grind

@[simp] theorem walkA_walkerWord (op : BitVec 5) (d a b : BitVec 4) (i : BitVec 15) :
    walkA (walkerWord op d a b i) = a := by
  simp only [walkA, walkerWord]; ext k hk; simp; grind

@[simp] theorem walkB_walkerWord (op : BitVec 5) (d a b : BitVec 4) (i : BitVec 15) :
    walkB (walkerWord op d a b i) = b := by
  simp only [walkB, walkerWord]; ext k hk; simp; grind

@[simp] theorem walkI_walkerWord (op : BitVec 5) (d a b : BitVec 4) (i : BitVec 15) :
    walkI (walkerWord op d a b i) = i := by
  simp only [walkI, walkerWord]; ext k hk; simp; grind

theorem decodeWalker_walkerWord (op : BitVec 5) (d a b : BitVec 4) (i : BitVec 15) :
    decodeWalker (walkerWord op d a b i) = readWalker op d a b i := by
  simp [decodeWalker]

/-! ## Bytes (R1) -/

/-- The four bytes of a word, put together again, are the word. -/
theorem word_of_leBytes (w : Word) :
    BitVec.ofNat 8 (w.toNat / 256 / 256 / 256) ++ BitVec.ofNat 8 (w.toNat / 256 / 256) ++ BitVec.ofNat 8 (w.toNat / 256) ++
      BitVec.ofNat 8 w.toNat = w := by
  have join (n : Nat) (x y : Nat) : (x * 2 ^ n) ||| (y % 2 ^ n) = x * 2 ^ n + y % 2 ^ n := by
    rw [← Nat.shiftLeft_eq, Nat.shiftLeft_add_eq_or_of_lt (Nat.mod_lt _ (Nat.two_pow_pos n))]
  apply BitVec.eq_of_toNat_eq
  simp only [BitVec.toNat_append, BitVec.toNat_ofNat, Nat.shiftLeft_eq, join]
  omega

/-- Decoding a word's bytes decodes the word, and leaves the bytes after it. -/
theorem decode_leBytes (sp : WordSpace) (w : Word) (rest : List Byte) :
    decode sp (leBytes 4 w.toNat ++ rest) =
      match decodeWord sp w with
      | .ok i => .ok (i, rest)
      | .error e => .error e := by
  cases h : decodeWord sp w <;> simp only [leBytes, List.cons_append, List.nil_append, decode, word_of_leBytes, h]

end Sys2Proof
end

