-- ==== Sys2Proof/Laws/FrameUnits.lean ====
section
/-!
SUPPORT. What the operations of the memory system, the engines, the queues and the management do to memory.
-/

namespace Sys2Proof.Machine

@[simp] theorem State.l1Drop_mem (s : State) (core sector : Nat) :
    (State.l1Drop s core sector).mem = s.mem := rfl

@[simp] theorem State.l1Trim_mem (s : State) (core : Nat) : (State.l1Trim s core).mem = s.mem := by
  unfold State.l1Trim; dsimp only; split <;> rfl

@[simp] theorem State.l1Fill_mem (s : State) (core sector : Nat) :
    (State.l1Fill s core sector).mem = s.mem := by
  unfold State.l1Fill; dsimp only; split <;> simp

@[simp] theorem State.l1Refresh_mem (s : State) (core sector : Nat) :
    (State.l1Refresh s core sector).mem = s.mem := by
  unfold State.l1Refresh; split <;> simp

@[simp] theorem State.refreshKeys_mem (s : State) (core : Nat) (keys : List Nat) : (s.refreshKeys core keys).mem = s.mem := by
  unfold State.refreshKeys; exact foldl_mem (fun _ _ => by simp) _ _

@[simp] theorem State.readKeys_mem (s : State) (core : Nat) (keys : List Nat) : (s.readKeys core keys).mem = s.mem := by
  unfold State.readKeys; exact (foldl_mem (fun _ _ => by simp) _ _).trans (by simp)

@[simp] theorem State.served_mem (s : State) (core ins key : Nat) (fill : Bool) :
    (State.served s core ins key fill).mem = s.mem := by
  unfold State.served
  repeat' first | rfl | split | simp

@[simp] theorem State.setReady_mem (s : State) (id : Nat) (ws : List Word) (t : Option Trap) :
    (State.setReady s id ws t).mem = s.mem := rfl

@[simp] theorem State.bindLoad_mem (s : State) (o : Op) (locs : List Nat) (form : LoadForm) (bypass : Bool) (va : DWord) :
    (State.bindLoad s o locs form bypass va).mem = s.mem := by
  unfold State.bindLoad
  repeat' first | rfl | split | simp

@[simp] theorem State.bindLdvs_mem (s : State) (o : Op) (loc size : Nat) (va : DWord) :
    (State.bindLdvs s o loc size va).mem = s.mem := by
  unfold State.bindLdvs
  repeat' first | rfl | split | simp

@[simp] theorem State.readLane_mem (s : State) (o : Op) (r : PannierReq) :
    (State.readLane s o r).mem = s.mem := rfl

/-! Taking a read's place reads and writes no memory. -/

theorem State.bindPlain_mem {s s' : State} {o : Op} (e : s.bindPlain o = some s') : s'.mem = s.mem := by
  unfold State.bindPlain at e
  repeat' first | (cases e; done) | (cases e; rfl) | (cases e; simp; done) | split at e

theorem State.bindPlains_mem {os : List Op} {s s' : State} (e : State.bindPlains os s = some s') : s'.mem = s.mem := by
  induction os generalizing s with
  | nil => cases e; rfl
  | cons o os ih =>
    unfold State.bindPlains at e
    repeat' first | (cases e; done) | split at e
    · next h1 => exact (ih e).trans (State.bindPlain_mem h1)
    · exact ih e
    · exact ih e

theorem State.readReqs_mem {rs : List PannierReq} {s s' : State} (e : State.readReqs rs s = some s') : s'.mem = s.mem := by
  induction rs generalizing s with
  | nil => cases e; rfl
  | cons r rs ih =>
    unfold State.readReqs at e
    repeat' first | (cases e; done) | split at e
    · exact ih e
    · next h1 => have h2 := State.bindPlains_mem h1; rw [ih e]; exact h2

theorem State.readEntry_mem {s s' : State} {x : PannierEntry} (e : s.readEntry x = some s') : s'.mem = s.mem := by
  unfold State.readEntry at e
  obtain ⟨a, h1, rfl⟩ := Option.map_eq_some_iff.mp e
  simpa using State.readReqs_mem h1

theorem State.readEntries_mem {es : List PannierEntry} {s s' : State} (e : State.readEntries es s = some s') : s'.mem = s.mem := by
  induction es generalizing s with
  | nil => cases e; rfl
  | cons x es ih =>
    obtain ⟨a, h1, h2⟩ := Option.bind_eq_some_iff.mp e
    exact (ih h2).trans (State.readEntry_mem h1)

theorem State.serveReads_mem {s s' : State} {core : Nat} {ids : List Nat} (e : s.serveReads core ids = some s') :
    s'.mem = s.mem := by
  unfold State.serveReads at e
  dsimp only at e
  split at e
  · cases e
  · exact State.readEntries_mem e

theorem State.bindOne_mem {s s' : State} {o : Op} {j : Nat} (e : s.bindOne o j = some s') : s'.mem = s.mem := by
  unfold State.bindOne at e
  split at e
  · exact State.serveReads_mem e
  · exact State.bindPlain_mem e

theorem State.bindAll_mem {j : Nat} {os : List Op} {s s' : State} (e : State.bindAll j os s = some s') : s'.mem = s.mem := by
  induction os generalizing s with
  | nil => cases e; rfl
  | cons o os ih =>
    unfold State.bindAll at e
    repeat' first | (cases e; done) | split at e
    · next h1 => exact (ih e).trans (State.bindOne_mem h1)
    · exact ih e
    · exact ih e

theorem State.bind_mem {s s' : State} {o : Op} {j : Nat} (e : s.bind o j = some s') : s'.mem = s.mem := State.bindAll_mem e

theorem State.bindReads_mem {ds : List (Nat × Nat)} {s s' : State} (e : State.bindReads ds s = some s') : s'.mem = s.mem := by
  induction ds generalizing s with
  | nil => cases e; rfl
  | cons d ds ih =>
    unfold State.bindReads at e
    repeat' split at e
    · obtain ⟨a, h1, h2⟩ := Option.bind_eq_some_iff.mp e
      exact (ih h2).trans (State.bind_mem h1)
    · exact ih e
    · exact ih e

theorem State.beforeWrite_mem {s s' : State} {core : Option Nat} {k j id : Nat} {ws : List Span}
    (e : s.beforeWrite core k j id ws = some s') : s'.mem = s.mem := State.bindReads_mem e

@[simp] theorem State.beforeWrite_getD_mem (s : State) (core : Option Nat) (k j id : Nat) (ws : List Span) :
    ((s.beforeWrite core k j id ws).getD s).mem = s.mem := by
  cases g : s.beforeWrite core k j id ws with
  | none => rfl
  | some a => exact State.beforeWrite_mem g

@[simp] theorem State.markPassed_mem (s : State) (k j id : Nat) :
    (State.markPassed s k j id).mem = s.mem := rfl

@[simp] theorem State.sendRemote_mem (s : State) (k j loc : Nat) :
    (State.sendRemote s k j loc).mem = s.mem := by
  unfold State.sendRemote; split <;> [rfl; (split <;> simp)]

@[simp] theorem State.performRmw_wf (s : State) (core k j op : Nat) (loc : Nat) (act : Rmw) (va : DWord) (h : Memory.wf s.mem = true) :
    Memory.wf (State.performRmw s core k j op loc act va).mem = true := by
  unfold State.performRmw
  dsimp only
  split
  · simp [h]
  · split <;> split <;> (try split) <;> simp [h]

@[simp] theorem State.redDone_mem (s : State) (id : Nat) :
    (State.redDone s id).mem = s.mem := by
  unfold State.redDone; split <;> [skip; split] <;> simp

@[simp] theorem State.localWrite_mem (s : State) (loc : LocalLoc) (bs : List Byte) :
    (State.localWrite s loc bs).mem = s.mem := by
  unfold State.localWrite; split <;> simp

@[simp] theorem State.scalesRead_mem (s : State) (ls : List Lane) (a o : BitVec 7) : (s.scalesRead ls a o).mem = s.mem := by
  unfold State.scalesRead; dsimp only; split <;> simp

@[simp] theorem State.fillLine_mem (s : State) (c line : Nat) :
    (State.fillLine s c line).mem = s.mem := rfl

@[simp] theorem State.acceptReq_mem (s : State) (core : Nat) (write : Bool) (r : PannierReq) :
    (State.acceptReq s core write r).mem = s.mem := by
  unfold State.acceptReq
  repeat' first | rfl | split | simp

@[simp] theorem State.popQueue_mem (s : State) (core n : Nat) :
    (State.popQueue s core n).mem = s.mem := rfl

theorem State.beforeStore_mem {s s' : State} {x : SqEntry} {loc n : Nat} (e : s.beforeStore x loc n = some s') :
    s'.mem = s.mem := by
  unfold State.beforeStore at e
  repeat' first | (cases e; done) | (cases e; rfl) | split at e
  exact State.beforeWrite_mem e

@[simp] theorem State.performStore_wf (s : State) (e : SqEntry) (loc : Nat) (bs : List Byte) (h : Memory.wf s.mem = true) :
    Memory.wf (State.performStore s e loc bs).mem = true := by
  unfold State.performStore; split <;> simp [h]

@[simp] theorem State.storeDone_mem (s : State) (e : SqEntry) (loc : Nat) :
    (State.storeDone s e loc).mem = s.mem := rfl

theorem State.bindBefore_mem {s s' : State} {x : SqEntry} (e : s.bindBefore x = some s') : s'.mem = s.mem :=
  State.bindAll_mem e

theorem State.bindBeforeAll_mem {es : List SqEntry} {s s' : State} (e : State.bindBeforeAll es s = some s') : s'.mem = s.mem := by
  induction es generalizing s with
  | nil => cases e; rfl
  | cons x es ih =>
    obtain ⟨a, h1, h2⟩ := Option.bind_eq_some_iff.mp e
    exact (ih h2).trans (State.bindBefore_mem h1)

@[simp] theorem State.performLocal_mem (s : State) (e : SqEntry) :
    (State.performLocal s e).mem = s.mem := by
  unfold State.performLocal
  repeat' first | rfl | split | simp

theorem State.storeNext_wf {s s' : State} {core : Nat} {x : SqEntry} {rest : List SqEntry} {loc : Nat} {bs : List Byte}
    (e : s.storeNext core x rest loc bs = some s') (h : Memory.wf s.mem = true) : Memory.wf s'.mem = true := by
  unfold State.storeNext at e
  split at e <;>
  · obtain ⟨a, h1, rfl⟩ := Option.map_eq_some_iff.mp e
    have := State.beforeStore_mem h1
    simp [this, h]

theorem State.atlNext_wf {s s' : State} {core : Nat} {x : SqEntry} {rest : List SqEntry}
    (e : s.atlNext core x rest = some s') (h : Memory.wf s.mem = true) : Memory.wf s'.mem = true := by
  unfold State.atlNext at e
  obtain ⟨a, h1, rfl⟩ := Option.map_eq_some_iff.mp e
  have := State.bindBeforeAll_mem h1
  exact foldl_wf (fun _ _ _ => by simp [*]) (by simp [this, h])

theorem State.rmwNext_wf {s s' : State} {core : Nat} {x : SqEntry} {loc : Nat} {act : Rmw} {va : DWord}
    (e : s.rmwNext core x loc act va = some s') (h : Memory.wf s.mem = true) : Memory.wf s'.mem = true := by
  unfold State.rmwNext at e
  obtain ⟨a, h1, h2⟩ := Option.bind_eq_some_iff.mp e
  have ha := State.bindBefore_mem h1
  split at h2
  · cases h2
  · split at h2
    · cases h2; simp [ha, h]
    · obtain ⟨b, h3, rfl⟩ := Option.map_eq_some_iff.mp h2
      have := State.beforeStore_mem h3
      simp [this, ha, h]

theorem State.writeLane_wf {s s' : State} {x : SqEntry} {w : PannierEntry} {r : PannierReq} {first : Bool}
    (e : s.writeLane x w r first = some s') (h : Memory.wf s.mem = true) : Memory.wf s'.mem = true := by
  unfold State.writeLane at e
  split at e
  · cases e
  · obtain ⟨a, h1, h2⟩ := Option.bind_eq_some_iff.mp e
    obtain ⟨b, h3, rfl⟩ := Option.map_eq_some_iff.mp h2
    have ha : a.mem = s.mem := by
      split at h1
      · exact State.serveReads_mem h1
      · cases h1; rfl
    have hb : Memory.wf b.mem = true := by rw [State.beforeStore_mem h3, ha, h]
    dsimp only
    repeat' first | exact hb | (simp [hb]; done) | split

theorem State.scatterNext_wf {s s' : State} {core w : Nat} {x : SqEntry} {first : Bool}
    (e : s.scatterNext core x w first = some s') (h : Memory.wf s.mem = true) : Memory.wf s'.mem = true := by
  unfold State.scatterNext at e
  split at e
  · obtain ⟨a, h1, rfl⟩ := Option.map_eq_some_iff.mp e
    simpa using State.writeLane_wf h1 h
  · cases e; simpa using h

theorem State.performHead_wf {s s' : State} {core : Nat} {begun : List Nat} {x : SqEntry} {rest : List SqEntry}
    (e : s.performHead core begun x rest = some s') (h : Memory.wf s.mem = true) : Memory.wf s'.mem = true := by
  unfold State.performHead at e
  extract_lets held at e
  clear_value held
  split at e
  · cases e
  · split at e
    · exact State.storeNext_wf e h
    · cases e; simp [h]
    · obtain ⟨a, h1, rfl⟩ := Option.map_eq_some_iff.mp e
      simp [State.bindBefore_mem h1, h]
    · exact State.atlNext_wf e h
    · exact State.rmwNext_wf e h
    · exact State.scatterNext_wf e h
    · cases e; simp [h]
    · cases e

theorem State.performRun_wf {core n : Nat} {begun : List Nat} {s s' : State}
    (e : State.performRun core n begun s = some s') (h : Memory.wf s.mem = true) : Memory.wf s'.mem = true := by
  induction n generalizing begun s with
  | zero => cases e
  | succ n ih =>
    unfold State.performRun at e
    split at e
    · cases e
    · obtain ⟨a, h1, h2⟩ := Option.bind_eq_some_iff.mp e
      have ha := State.performHead_wf h1 h
      dsimp only at h2
      split at h2
      · cases h2; exact ha
      · exact ih h2 ha

/-- What a step that may have to wait leaves in either case. -/
theorem getD_wf {x : Option State} {s : State} (hx : ∀ a, x = some a → Memory.wf a.mem = true)
    (h : Memory.wf s.mem = true) : Memory.wf (x.getD s).mem = true := by
  cases x with
  | none => exact h
  | some a => exact hx a rfl

@[simp] theorem State.storePerform_wf (s : State) (core : Nat) (h : Memory.wf s.mem = true) :
    Memory.wf (s.storePerform core).mem = true :=
  getD_wf (fun _ e => State.performRun_wf e h) h

@[simp] theorem State.markSent_mem (s : State) (x : PannierEntry) : (s.markSent x).mem = s.mem := rfl

theorem State.serveEntry_wf {s s' : State} {x : PannierEntry} (e : s.serveEntry x = some s') (h : Memory.wf s.mem = true) :
    Memory.wf s'.mem = true := by
  unfold State.serveEntry at e
  repeat' first | (cases e; done) | split at e
  · exact State.performRun_wf e h
  · rw [State.serveReads_mem e, h]

@[simp] theorem State.sendEntry_wf (s : State) (id : Nat) (h : Memory.wf s.mem = true) :
    Memory.wf (State.sendEntry s id).mem = true := by
  unfold State.sendEntry
  repeat' first | exact h | split
  · exact getD_wf (fun _ e => State.serveEntry_wf e h) h
  · exact getD_wf (fun _ e => State.serveEntry_wf e (by simpa using h)) (by simpa using h)

@[simp] theorem State.completeLane_mem (s : State) (o : Op) (got : List (Nat × Nat × Option (List Byte))) (m : Nat × List Nat × LoadForm × DWord) :
    (State.completeLane s o got m).mem = s.mem := by
  simp [State.completeLane]

@[simp] theorem State.acquired_mem (s : State) (o : Op) (acq : Option Nat) :
    (State.acquired s o acq).mem = s.mem := by
  unfold State.acquired
  repeat' first | rfl | split

@[simp] theorem State.finishRead_mem (s : State) (o : Op) (acq : Option Nat) : (s.finishRead o acq).mem = s.mem := by
  unfold State.finishRead
  split
  · rfl
  · next e =>
    have := State.bind_mem e
    repeat' first
      | assumption
      | (simp [*]; done)
      | split

@[simp] theorem State.operationComplete_mem (s : State) (id : Nat) : (State.operationComplete s id).mem = s.mem := by
  unfold State.operationComplete
  repeat' first
    | rfl
    | (simp; done)
    | split
    | exact (foldl_mem (fun _ _ => by simp) _ _).trans (by simp)

@[simp] theorem State.cacheWalk_mem (s : State) (path : List WalkEntry) : (s.cacheWalk path).mem = s.mem := rfl

@[simp] theorem State.tlbFill_mem (s : State) (e : TlbEntry) : (s.tlbFill e).mem = s.mem := rfl

@[simp] theorem State.pageWalk_mem (s : State) (core fn : Nat) (va : DWord) :
    (State.pageWalk s core fn va).mem = s.mem := by
  unfold State.pageWalk; split <;> simp

@[simp] theorem State.scopeDrop_mem (s : State) (core : Nat) (sc : BitVec 7) :
    (State.scopeDrop s core sc).mem = s.mem := by
  unfold State.scopeDrop; split <;> simp

@[simp] theorem State.atomicopDone_wf (s : State) (id : Nat) (supported : Bool) (h : Memory.wf s.mem = true) :
    Memory.wf (State.atomicopDone s id supported).mem = true := by
  unfold State.atomicopDone
  repeat' first | assumption | split | (simp [*]; done)

@[simp] theorem State.noteRead_mem (s : State) (id line : Nat) :
    (State.noteRead s id line).mem = s.mem := by
  unfold State.noteRead; split <;> simp

@[simp] theorem State.engineWrite_wf (s : State) (e : Eng) (l1 : Option Nat) (ws : List (Nat × List Byte)) (h : Memory.wf s.mem = true) :
    Memory.wf (State.engineWrite s e l1 ws).mem = true := by
  unfold State.engineWrite
  dsimp only
  rw [State.markPassed_mem]
  split
  · rw [State.sendRemote_mem]; exact State.writeParts_wf _ _ _ (by rw [State.beforeWrite_getD_mem]; exact h)
  · exact State.writeParts_wf _ _ _ (by rw [State.beforeWrite_getD_mem]; exact h)

@[simp] theorem State.answer_wf (s : State) (e : Eng) (r : Request) (h : Memory.wf s.mem = true) :
    Memory.wf (s.answer e r).1.mem = true := by
  cases r <;> unfold State.answer <;> dsimp only
  all_goals
    repeat' first
      | assumption
      | (simp [*]; done)
      | split
      | refine foldl_wf (fun _ _ _ => ?_) ?_

@[simp] theorem State.runScript_wf {α : Type} (e : Eng) (p : Script α) (s : State) (h : Memory.wf s.mem = true) :
    Memory.wf (State.runScript e p s).1.mem = true := by
  induction p generalizing s with
  | done a => exact h
  | stop f => exact h
  | ask r k ih => unfold State.runScript; exact ih _ _ (State.answer_wf s e r h)
theorem State.runScript_wf' {α : Type} {e : Eng} {p : Script α} {s s' : State} {x : Except EngFault α}
    (g : State.runScript e p s = (s', x)) (h : Memory.wf s.mem = true) : Memory.wf s'.mem = true := by
  have := State.runScript_wf e p s h; rwa [g] at this

@[simp] theorem State.noteKeys_mem (s : State) (core id : Nat) (keys : List Nat) : (s.noteKeys core id keys).mem = s.mem := by
  unfold State.noteKeys; exact (foldl_mem (fun _ _ => by simp) _ _).trans (by simp)

@[simp] theorem State.readScripts_mem {α : Type} (s : State) (ls : List Lane) (sc : Lane → Script α) :
    (s.readScripts ls sc).mem = s.mem := by
  unfold State.readScripts; split <;> simp

@[simp] theorem State.noteScript_mem {α : Type} (s : State) (ls : List Lane) (sc : Lane → Script α) :
    (State.noteScript s ls sc).mem = s.mem := by
  unfold State.noteScript
  repeat' first | rfl | split | (simp; done) | refine (foldl_mem (fun _ _ => ?_) _ _).trans ?_

@[simp] theorem State.raiseLines_mem (s : State) (ps : List (Nat × Nat)) :
    (State.raiseLines s ps).mem = s.mem := by
  unfold State.raiseLines; exact foldl_mem (fun _ _ => by simp) _ _

@[simp] theorem State.lowerLine_mem (s : State) (p : Nat × Nat) :
    (State.lowerLine s p).mem = s.mem := by
  unfold State.lowerLine
  repeat' first | rfl | split | simp

@[simp] theorem State.copyPlace_mem (s : State) (o : Op) (core : Nat) : (State.copyPlace s o core).mem = s.mem := rfl

@[simp] theorem State.startCopy_mem (s : State) (o : Op) (l : Lane) (keys : List Nat) : (s.startCopy o l keys).mem = s.mem := by
  unfold State.startCopy; dsimp only; split <;> simp

@[simp] theorem State.haltCopy_mem (s : State) (id : Nat) : (s.haltCopy id).mem = s.mem := by
  unfold State.haltCopy
  repeat' first | rfl | split | dsimp only

@[simp] theorem State.noteCache_mem (s : State) (id : Nat) (cache : SrcCache) :
    (State.noteCache s id cache).mem = s.mem := by
  unfold State.noteCache; exact foldl_mem (fun _ _ => by simp) _ _

theorem State.writeChunk_wf {s : State} {o : Op} {j : CopyJob} {c : CopyChunk} {p : State × CopyJob}
    (e : s.writeChunk o j c = .ok p) (h : Memory.wf s.mem = true) : Memory.wf p.1.mem = true := by
  unfold State.writeChunk at e
  dsimp only at e
  split at e
  · repeat' first | (cases e; done) | split at e
    · next leaf _ =>
      cases g : s.chunkBytes (s.engOf o j.fn j.priv) j c (some leaf) with
      | error x => rw [g] at e; cases e
      | ok x => rw [g] at e; cases e; simp [h]
  · split at e
    · cases e
    · cases g : s.chunkBytes (s.engOf o j.fn j.priv) j c none with
      | error x => rw [g] at e; cases e
      | ok x => rw [g] at e; cases e; simp [h]

@[simp] theorem State.writeChunks_wf (o : Op) (cs : List CopyChunk) (j : CopyJob) (s : State) (h : Memory.wf s.mem = true) :
    Memory.wf (State.writeChunks o cs j s).1.mem = true := by
  induction cs generalizing j s with
  | nil => exact h
  | cons c cs ih =>
    unfold State.writeChunks
    split
    · exact ih _ _ h
    · split
      · next e => exact ih _ _ (State.writeChunk_wf e h)
      · exact h
theorem State.writeChunks_wf' {o : Op} {cs : List CopyChunk} {j : CopyJob} {s : State} {s' : State} {x : CopyJob × Option (CopyChunk × Hindrance)}
    (g : State.writeChunks o cs j s = (s', x)) (h : Memory.wf s.mem = true) : Memory.wf s'.mem = true := by
  have := State.writeChunks_wf o cs j s h; rwa [g] at this

@[simp] theorem State.completeAll_mem (s : State) (o : Op) (members : List Nat) (trap : Option Trap) :
    (State.completeAll s o members trap).mem = s.mem := by
  unfold State.completeAll; exact foldl_mem (fun _ _ => by simp) _ _

@[simp] theorem State.finishCopy_mem (s : State) (o : Op) (j : CopyJob) : (s.finishCopy o j).mem = s.mem := by
  unfold State.finishCopy
  dsimp only
  split <;> simp [foldl_mem (fun s p => State.lowerLine_mem s p)]

@[simp] theorem State.faultCopy_mem (s : State) (o : Op) (j : CopyJob) (f : EngFault) (at' : Nat) :
    (State.faultCopy s o j f at').mem = s.mem := by
  unfold State.faultCopy
  repeat' first | rfl | split | (simp; done) | refine (foldl_mem (fun _ _ => ?_) _ _).trans ?_

@[simp] theorem State.copyComplete_wf (s : State) (id : Nat) (h : Memory.wf s.mem = true) : Memory.wf (s.copyComplete id).mem = true := by
  unfold State.copyComplete
  repeat' first
    | assumption
    | (simp [*]; done)
    | split
    | (next g => have := State.writeChunks_wf' g h; simp [*]; done)

@[simp] theorem State.copyFault_wf (s : State) (id : Nat) (h : Memory.wf s.mem = true) : Memory.wf (s.copyFault id).mem = true := by
  unfold State.copyFault
  repeat' first
    | assumption
    | (simp [*]; done)
    | split
    | (next g => have := State.writeChunks_wf' g h; simp [*]; done)

@[simp] theorem State.copyStep_wf (s : State) (o : Op) (j : CopyJob) (h : Memory.wf s.mem = true) : Memory.wf (s.copyStep o j).mem = true := by
  simp [State.copyStep, h]

@[simp] theorem State.lineArrival_wf (s : State) (id team line : Nat) (h : Memory.wf s.mem = true) : Memory.wf (s.lineArrival id team line).mem = true := by
  unfold State.lineArrival
  repeat' first
    | assumption
    | (simp [*]; done)
    | split
    | (next g => have := State.writeChunks_wf' g h; simp [*]; done)
    | dsimp only

@[simp] theorem State.kvStep_wf (s : State) (o : Op) (j : KvJob) (h : Memory.wf s.mem = true) : Memory.wf (s.kvStep o j).mem = true := by
  unfold State.kvStep
  repeat' first
    | assumption
    | (simp [State.answer_wf, h]; done)
    | split

@[simp] theorem State.kvEnd_wf (s : State) (id : Nat) (h : Memory.wf s.mem = true) : Memory.wf (s.kvEnd id).mem = true := by
  unfold State.kvEnd
  repeat' first
    | assumption
    | (next g => have := State.runScript_wf' g h; simp [*]; done)
    | split

@[simp] theorem State.attnStep_wf (s : State) (o : Op) (j : AttnJob) (h : Memory.wf s.mem = true) : Memory.wf (s.attnStep o j).mem = true := by
  unfold State.attnStep
  repeat' first
    | assumption
    | (simp [State.answer_wf, h]; done)
    | split

@[simp] theorem State.attnEnd_wf (s : State) (id : Nat) (h : Memory.wf s.mem = true) : Memory.wf (s.attnEnd id).mem = true := by
  unfold State.attnEnd
  repeat' first
    | assumption
    | (next g => have := State.runScript_wf' g h; simp [*]; done)
    | split

@[simp] theorem State.noteBlock_mem (s : State) (l : Lane) (id : Nat) (a : DWord) (n : Nat) :
    (State.noteBlock s l id a n).mem = s.mem := by
  simp [State.noteBlock]

@[simp] theorem State.postCall_mem (s : State) (c : MxCall) :
    (State.postCall s c).mem = s.mem := rfl

@[simp] theorem State.modEngine_mem (s : State) (hub : Nat) (f : MxEngine → MxEngine) :
    (State.modEngine s hub f).mem = s.mem := rfl

@[simp] theorem State.mmaGrant_mem (s : State) (hub : Nat) :
    (State.mmaGrant s hub).mem = s.mem := by
  unfold State.mmaGrant
  repeat' first | rfl | split | (simp; done) | refine (foldl_mem (fun _ _ => ?_) _ _).trans ?_ | simp

@[simp] theorem State.evict_mem (s : State) (hub id : Nat) :
    (State.evict s hub id).mem = s.mem := by
  unfold State.evict; split <;> simp

@[simp] theorem State.takeBuffer_mem (s : State) (hub : Nat) (r : MxRun) :
    (State.takeBuffer s hub r).mem = s.mem := by
  unfold State.takeBuffer
  repeat' first | rfl | split | simp

@[simp] theorem State.pass_mem (s : State) (hub : Nat) (r : MxRun) (buf : Nat) :
    (State.pass s hub r buf).mem = s.mem := by
  unfold State.pass
  repeat' first | rfl | split | simp

@[simp] theorem State.tileFree_mem (s : State) (c : MxCall) :
    (State.tileFree s c).mem = s.mem := rfl

@[simp] theorem State.matrixStep_mem (s : State) (hub : Nat) :
    (State.matrixStep s hub).mem = s.mem := by
  unfold State.matrixStep
  repeat' first | rfl | split | simp

@[simp] theorem State.orStatus_mem (s : State) (c : MxCall) (w : Word) :
    (State.orStatus s c w).mem = s.mem := by
  unfold State.orStatus
  repeat' first | rfl | split | simp

@[simp] theorem State.issuerDone_mem (s : State) (causes : List Trap) (i : Issuer) :
    (State.issuerDone s causes i).mem = s.mem := by
  unfold State.issuerDone; dsimp only; split <;> simp

@[simp] theorem State.walkCall_mem (s : State) (c : MxCall) (causes : List Trap) (counts : Bool) :
    (State.walkCall s c causes counts).mem = s.mem := by
  unfold State.walkCall; split <;> [skip; split] <;> simp

@[simp] theorem State.completeCall_mem (s : State) (c : MxCall) (causes : List Trap) (counts : Bool) : (s.completeCall c causes counts).mem = s.mem := by
  unfold State.completeCall
  repeat' first
    | rfl
    | (simp [foldl_mem (fun s i => State.issuerDone_mem s causes i)]; done)
    | split

@[simp] theorem State.endCall_mem (s : State) (hub : Nat) (r : MxRun) (buf : Nat) :
    (State.endCall s hub r buf).mem = s.mem := by
  unfold State.endCall
  repeat' first | rfl | split | simp

@[simp] theorem State.runPasses_wf (n : Nat) (s : State) (hub : Nat) (h : Memory.wf s.mem = true) : Memory.wf (State.runPasses n s hub).mem = true := by
  induction n generalizing s with
  | zero => exact h
  | succ n ih => exact ih _ (by simp [*])

@[simp] theorem State.mmaCallEnd_wf (s : State) (hub : Nat) (h : Memory.wf s.mem = true) :
    Memory.wf (State.mmaCallEnd s hub).mem = true := by
  unfold State.mmaCallEnd
  repeat' first
    | assumption
    | (simp [*]; done)
    | split
    | refine foldl_wf (fun _ _ _ => ?_) ?_
    | simp

@[simp] theorem State.l1Write_mem (s : State) (cores : List Nat) (k : Nat) (bs : List Byte) :
    (State.l1Write s cores k bs).mem = s.mem := rfl

@[simp] theorem State.sectorWrite_wf (s : State) (c : MxCall) (k : Nat) (bs : List Byte) (h : Memory.wf s.mem = true) :
    Memory.wf (State.sectorWrite s c k bs).mem = true := by
  unfold State.sectorWrite
  repeat' first
    | assumption
    | (simp [*]; done)
    | split
    | refine foldl_wf (fun _ _ _ => ?_) ?_
    | simp

@[simp] theorem State.settleEnds_mem (s : State) (hub : Nat) :
    (State.settleEnds s hub).mem = s.mem := by
  unfold State.settleEnds; exact foldl_mem (fun _ _ => by simp) _ _

@[simp] theorem State.flushDone_mem (s : State) (hub : Nat) (b : MxBuf) (fault : Option Trap) :
    (State.flushDone s hub b fault).mem = s.mem := by
  unfold State.flushDone
  repeat' first | rfl | split | (simp; done) | refine (foldl_mem (fun _ _ => ?_) _ _).trans ?_

@[simp] theorem State.flushStep_wf (s : State) (hub id : Nat) (h : Memory.wf s.mem = true) :
    Memory.wf (State.flushStep s hub id).mem = true := by
  unfold State.flushStep
  repeat' first
    | assumption
    | (simp [*]; done)
    | split
    | refine foldl_wf (fun _ _ _ => ?_) ?_
    | simp

@[simp] theorem State.flushAll_wf (n : Nat) (s : State) (hub id : Nat) (h : Memory.wf s.mem = true) : Memory.wf (State.flushAll n s hub id).mem = true := by
  induction n generalizing s with
  | zero => exact h
  | succ n ih => exact ih _ (by simp [*])

@[simp] theorem State.noteWalk_mem (s : State) (l : Lane) (id : Nat) (p : WalkPlan) (a : DWord) :
    (State.noteWalk s l id p a).mem = s.mem := by
  unfold State.noteWalk
  repeat' first | rfl | split | (simp; done) | refine (foldl_mem (fun _ _ => ?_) _ _).trans ?_

@[simp] theorem State.setWalker_mem (s : State) (w : Walker) :
    (State.setWalker s w).mem = s.mem := rfl

theorem State.walkOut_mem (s : State) (w : Walker) (o : WalkOut)
    (ho : ∀ w' t after, o = .go w' t after → ∀ s, (after s).mem = s.mem) : (s.walkOut w o).mem = s.mem := by
  cases o with
  | wait => rfl
  | halt => simp [State.walkOut]
  | fault c a => simp [State.walkOut]
  | go w' t after =>
    have h := ho w' t after rfl
    unfold State.walkOut
    dsimp only
    split <;> simp [h]

@[simp] theorem State.takeContext_mem (s : State) (w : Walker) : (State.takeContext s w).mem = s.mem := by
  unfold State.takeContext
  repeat' first | rfl | split

@[simp] theorem State.handContexts_mem (s : State) : (State.handContexts s).mem = s.mem := by
  unfold State.handContexts; exact foldl_mem (fun _ _ => by simp) _ _

@[simp] theorem State.spokeComplete_mem (s : State) (ctx : Nat) :
    (State.spokeComplete s ctx).mem = s.mem := by
  unfold State.spokeComplete
  repeat' first | rfl | split | simp

@[simp] theorem State.tapInstall_mem (s : State) :
    (State.tapInstall s).mem = s.mem := by
  unfold State.tapInstall; split <;> [skip; split] <;> simp

@[simp] theorem State.tapStep_wf (s : State) (o : Op) (j : TapJob) (h : Memory.wf s.mem = true) : Memory.wf (s.tapStep o j).mem = true := by
  unfold State.tapStep
  repeat' first
    | assumption
    | (simp [State.answer_wf, h]; done)
    | split

@[simp] theorem State.tapEnd_wf (s : State) (id : Nat) (h : Memory.wf s.mem = true) : Memory.wf (s.tapEnd id).mem = true := by
  unfold State.tapEnd
  repeat' first
    | assumption
    | (next g => have := State.runScript_wf' g h; simp [*]; done)
    | split

@[simp] theorem State.tapRetire_mem (s : State) :
    (State.tapRetire s).mem = s.mem := by
  unfold State.tapRetire
  repeat' first | rfl | split | simp

@[simp] theorem State.setQueue_mem (s : State) (q : Queue) :
    (State.setQueue s q).mem = s.mem := by
  unfold State.setQueue; split <;> simp

@[simp] theorem State.dropQueue_mem (s : State) (key : Nat) :
    (State.dropQueue s key).mem = s.mem := rfl

@[simp] theorem State.queueError_mem (s : State) (key : Nat) (code : BitVec 8) :
    (State.queueError s key code).mem = s.mem := by
  simp [State.queueError]

@[simp] theorem State.placeTeam_mem (p : Packet) (grid firstSet fn : Nat) (s : State) (mc : Nat × Nat) :
    (State.placeTeam p grid firstSet fn s mc).mem = s.mem := rfl

@[simp] theorem State.place_mem (s : State) (q : Queue) (p : Packet) (cores : List Nat) :
    (State.place s q p cores).mem = s.mem := by
  unfold State.place
  repeat' first | rfl | split | (simp; done) | refine (foldl_mem (fun _ _ => ?_) _ _).trans ?_ | simp

@[simp] theorem State.reserve_mem (s : State) (key : Nat) : (State.reserve s key).mem = s.mem := by
  unfold State.reserve
  repeat' first | rfl | split | simp

@[simp] theorem State.takeFreed_mem (s : State) : (State.takeFreed s).mem = s.mem := by
  unfold State.takeFreed; exact foldl_mem (fun _ _ => by simp) _ _

@[simp] theorem State.placement_mem (s : State) (key : Nat) :
    (State.placement s key).mem = s.mem := by
  unfold State.placement
  repeat' first | rfl | split | simp

@[simp] theorem State.reject_mem (s : State) (q : Queue) (p : Packet) (code : BitVec 8) :
    (State.reject s q p code).mem = s.mem := by
  unfold State.reject
  repeat' first | rfl | split | simp

@[simp] theorem State.holdPacket_mem (s : State) (q : Queue) (p : Packet) : (s.holdPacket q p).mem = s.mem := by
  unfold State.holdPacket; split <;> simp

@[simp] theorem State.examineQueue_mem (s : State) (q : Queue) (p : Packet) :
    (State.examineQueue s q p).mem = s.mem := by
  unfold State.examineQueue; dsimp only; split <;> [simp; (split <;> simp)]

@[simp] theorem State.takePacket_mem (s : State) (q : Queue) (p : Packet) :
    (State.takePacket s q p).mem = s.mem := by
  unfold State.takePacket; split <;> [skip; split] <;> simp

@[simp] theorem State.packetRead_mem (s : State) (key : Nat) :
    (State.packetRead s key).mem = s.mem := by
  unfold State.packetRead
  repeat' first | rfl | split | simp

@[simp] theorem State.launchDone_mem (s : State) (op : Nat) (w : Word) :
    (State.launchDone s op w).mem = s.mem := by
  unfold State.launchDone; split <;> simp

theorem State.writeSignal_wf {s s' : State} {g : Grid} (e : s.writeSignal g = some s') (h : Memory.wf s.mem = true) : Memory.wf s'.mem = true := by
  unfold State.writeSignal at e
  repeat' first | (cases e; done) | split at e
  cases e; simp [*]

@[simp] theorem State.csigWrite_wf (s : State) (gi : Nat) (h : Memory.wf s.mem = true) : Memory.wf (s.csigWrite gi).mem = true := by
  unfold State.csigWrite
  repeat' first
    | assumption
    | (simp [*]; done)
    | split
    | dsimp only
  all_goals
    have h1 := State.writeSignal_wf (by assumption) (by exact h)
    simp [h1]

@[simp] theorem State.evictTeams_mem (s : State) (ks : List Nat) (hub : Nat) :
    (State.evictTeams s ks hub).mem = s.mem := by
  unfold State.evictTeams; exact foldl_mem (fun _ _ => by simp) _ _

@[simp] theorem State.unpark_mem (s : State) (k j : Nat) (w : Why) : (State.unpark s k j w).mem = s.mem := by
  unfold State.unpark
  split <;> [split; skip] <;> simp

@[simp] theorem State.writeArea_wf (s : State) (p : Save) (bytes : List Byte) (h : Memory.wf s.mem = true) :
    Memory.wf (State.writeArea s p bytes).mem = true := by
  unfold State.writeArea
  exact foldl_wf (fun _ _ _ => by simp [*]) (by simp [h])

@[simp] theorem State.saveTeams_wf (s : State) (p : Save) (h : Memory.wf s.mem = true) :
    Memory.wf (State.saveTeams s p).mem = true := by
  simp [State.saveTeams, h]

@[simp] theorem State.startSave_mem (s : State) (p : Save) : (s.startSave p).mem = s.mem := by
  simp [State.startSave]

@[simp] theorem State.saveSteps_wf (s : State) (h : Memory.wf s.mem = true) : Memory.wf (State.saveSteps s).mem = true := by
  unfold State.saveSteps
  exact foldl_wf (fun _ _ _ => by unfold State.saveStep; split <;> simp [*]) h

@[simp] theorem State.seatTeam_mem (held : List Nat) (s : State) (p : Nat × Nat) :
    (State.seatTeam held s p).mem = s.mem := rfl

@[simp] theorem State.resumeCopy_mem (s : State) (o : Op) : (State.resumeCopy s o).mem = s.mem := by
  unfold State.resumeCopy
  repeat' first | rfl | split | simp

@[simp] theorem State.resumeCopies_mem (s : State) (ks : List Nat) : (State.resumeCopies s ks).mem = s.mem := by
  unfold State.resumeCopies; exact foldl_mem (fun _ _ => by simp) _ _

@[simp] theorem State.resumeThread_mem (s : State) (k j : Nat) :
    (State.resumeThread s k j).mem = s.mem := by
  unfold State.resumeThread
  repeat' first | rfl | split | simp

@[simp] theorem State.resumeTeam_mem (s : State) (k : Nat) :
    (State.resumeTeam s k).mem = s.mem := by
  unfold State.resumeTeam
  repeat' first | rfl | split | (simp; done) | refine (foldl_mem (fun _ _ => ?_) _ _).trans ?_

@[simp] theorem State.repost_mem (s : State) (ks : List Nat) (hub : Nat) :
    (State.repost s ks hub).mem = s.mem := by
  unfold State.repost; exact foldl_mem (fun _ _ => by simp) _ _

@[simp] theorem State.restore_mem (s : State) (ps : List (Nat × Nat)) (hub : Nat) (held : List Nat) :
    (State.restore s ps hub held).mem = s.mem := by
  unfold State.restore
  repeat' first | rfl | split | (simp; done) | refine (foldl_mem (fun _ _ => ?_) _ _).trans ?_

@[simp] theorem State.adopt_mem (s : State) (b : CtxBody) : (s.adopt b).1.mem = s.mem := rfl

@[simp] theorem State.bring_mem (s : State) (x : LoadSource) : (s.bring x).1.mem = s.mem := by
  cases x <;> rfl

@[simp] theorem State.resumeArea_wf (s : State) (p : LoadPlan) (ks : List Nat) (h : Memory.wf s.mem = true) :
    Memory.wf (s.resumeArea p ks).mem = true := by
  simp [State.resumeArea, h]

@[simp] theorem State.loadTeams_wf (s : State) (core : Nat) (p : LoadPlan) (h : Memory.wf s.mem = true) :
    Memory.wf (s.loadTeams core p).mem = true := by
  unfold State.loadTeams; dsimp only; split <;> simp [h]

@[simp] theorem State.dropSaves_mem (s : State) (ks : List Nat) : (s.dropSaves ks).mem = s.mem := by
  unfold State.dropSaves; exact foldl_mem (fun _ _ => by simp) _ _

@[simp] theorem State.haltWork_mem (s : State) (ks : List Nat) :
    (State.haltWork s ks).mem = s.mem := by
  unfold State.haltWork; exact (foldl_mem (fun _ _ => by simp) _ _).trans (by simp)

@[simp] theorem State.clearJoins_mem (s : State) (ks : List Nat) :
    (State.clearJoins s ks).mem = s.mem := rfl

@[simp] theorem State.reportHalt_mem (s : State) (g : Grid) :
    (State.reportHalt s g).mem = s.mem := by
  unfold State.reportHalt; split <;> simp

@[simp] theorem State.haltGrid_mem (s : State) (gi : Nat) :
    (State.haltGrid s gi).mem = s.mem := by
  unfold State.haltGrid
  repeat' first | rfl | split | (simp; done) | refine (foldl_mem (fun _ _ => ?_) _ _).trans ?_ | simp

@[simp] theorem State.sendSnap_mem (s : State) :
    (State.sendSnap s).mem = s.mem := rfl

@[simp] theorem State.snapLatch_mem (s : State) : (State.snapLatch s).mem = s.mem := by
  unfold State.snapLatch
  repeat' first | rfl | split

theorem State.inTurn_wf (s : State) (src seq : Nat) (f : State → State)
    (hf : ∀ s, Memory.wf s.mem = true → Memory.wf (f s).mem = true) (h : Memory.wf s.mem = true) :
    Memory.wf (State.inTurn s src seq f).mem = true := by
  unfold State.inTurn
  dsimp only
  repeat' first
    | exact h
    | exact hf s h
    | split

@[simp] theorem State.remoteWrite_wf (s : State) (src seq pa : Nat) (bytes : List Byte) (priv : Bool) (h : Memory.wf s.mem = true) :
    Memory.wf (State.remoteWrite s src seq pa bytes priv).mem = true := by
  unfold State.remoteWrite
  exact State.inTurn_wf _ _ _ _ (fun s h => by split <;> simp [h]) h

@[simp] theorem State.noteAgent_mem (s : State) (pa n : Nat) :
    (State.noteAgent s pa n).mem = s.mem := by
  unfold State.noteAgent; exact foldl_mem (fun _ _ => by simp) _ _

@[simp] theorem State.agentRmw_wf (s : State) (pa : Nat) (act : Rmw) (priv : Bool) (h : Memory.wf s.mem = true) :
    Memory.wf (s.agentRmw pa act priv).1.mem = true := by
  unfold State.agentRmw
  dsimp only
  split
  · exact h
  · split <;> simp [h]

@[simp] theorem State.remoteAccess_wf (s : State) (src seq pa : Nat) (acc : AgentAccess) (priv : Bool)
    (h : Memory.wf s.mem = true) : Memory.wf (State.remoteAccess s src seq pa acc priv).mem = true := by
  unfold State.remoteAccess
  split
  · simp [h]
  · refine State.inTurn_wf _ _ _ _ (fun s h => ?_) h
    split
    · simp [h]
    · simp [State.agentRmw_wf, h]

@[simp] theorem State.setLink_mem (s : State) (link : Nat) (up : Bool) :
    (State.setLink s link up).mem = s.mem := by
  unfold State.setLink; split <;> [skip; split] <;> simp

@[simp] theorem State.poisonSite_mem (s : State) (x : ErrorSite) : (s.poisonSite x).mem = s.mem := by
  cases x <;> unfold State.poisonSite <;> dsimp only <;> (try split) <;> simp

@[simp] theorem State.alertMasters_mem (s : State) : s.alertMasters.mem = s.mem := by
  unfold State.alertMasters
  rw [foldl_mem (fun _ _ => by simp)]
  simp

@[simp] theorem State.haltSet_mem (s : State) (ks : List Nat) : (State.haltSet s ks).mem = s.mem := by
  unfold State.haltSet
  repeat' first | rfl | split | simp

@[simp] theorem State.moveSet_mem (s : State) (ks : List Nat) :
    (State.moveSet s ks).mem = s.mem := by
  unfold State.moveSet
  dsimp only
  repeat' first | rfl | split | simp

@[simp] theorem State.fenceBegin_mem (s : State) (u : DeviceUnit) : (State.fenceBegin s u).mem = s.mem := by
  unfold State.fenceBegin
  dsimp only
  split
  · exact (foldl_mem (fun _ _ => by simp) _ _).trans (by simp)
  · simp

@[simp] theorem State.fenceEnd_mem (s : State) (u : DeviceUnit) : (State.fenceEnd s u).mem = s.mem := by
  unfold State.fenceEnd
  dsimp only
  split
  · exact foldl_mem (fun _ _ => by simp) _ _
  · rfl

@[simp] theorem State.fenceSteps_mem (s : State) : (State.fenceSteps s).mem = s.mem := by
  unfold State.fenceSteps
  exact foldl_mem (fun _ _ => by split <;> simp) _ _

@[simp] theorem State.fenceUnit_mem (s : State) (u : DeviceUnit) : (State.fenceUnit s u).mem = s.mem := by
  unfold State.fenceUnit; split <;> simp

@[simp] theorem State.takeInput_mem (s : State) (i : Input) : (State.takeInput s i).mem = s.mem := by
  unfold State.takeInput
  repeat' first | rfl | split

@[simp] theorem State.reboot_wf (s : State) (h : Memory.wf s.mem = true) : Memory.wf s.reboot.mem = true :=
  Tab.filter_okAbove _ h

@[simp] theorem State.bundleEntry_mem (s : State) (k g : Nat) :
    (State.bundleEntry s k g).mem = s.mem := by
  unfold State.bundleEntry
  repeat' first | rfl | split | simp

@[simp] theorem State.waitRelease_mem (s : State) (k g : Nat) :
    (State.waitRelease s k g).mem = s.mem := by
  unfold State.waitRelease
  repeat' first | rfl | split | simp

@[simp] theorem State.promote_mem (s : State) (k g : Nat) :
    (State.promote s k g).mem = s.mem := rfl

@[simp] theorem State.wakeIf_mem (s : State) (k j : Nat) (p : Why → Bool) :
    (State.wakeIf s k j p).mem = s.mem := by
  unfold State.wakeIf
  repeat' first | rfl | split

@[simp] theorem State.binsOpen_mem (s : State) (core : Nat) :
    (State.binsOpen s core).mem = s.mem := by
  simp [State.binsOpen]

@[simp] theorem State.binRelease_mem (s : State) (core bin : Nat) (p : State → Bin → Bool) :
    (State.binRelease s core bin p).mem = s.mem := by
  unfold State.binRelease
  repeat' first | rfl | split | simp

@[simp] theorem State.engineMove_wf (s : State) (id : Nat) (h : Memory.wf s.mem = true) :
    Memory.wf (State.engineMove s id).mem = true := by
  unfold State.engineMove
  repeat' first | assumption | split | (simp [*]; done)

/-- A cycle keeps the memory's form: the one thing in it that writes is a save. -/
@[simp] theorem State.cycle_wf (s : State) (h : Memory.wf s.mem = true) : Memory.wf (State.cycle s).mem = true := by
  have e (s : State) : (s.binCores.foldl State.binCycle s).mem = s.mem := foldl_mem (fun _ _ => by simp) _ _
  unfold State.cycle
  simp only [State.fenceSteps_mem]
  apply State.saveSteps_wf
  simpa [e] using h

@[simp] theorem State.cycles_wf (n : Nat) (s : State) (h : Memory.wf s.mem = true) : Memory.wf (State.cycles n s).mem = true := by
  induction n generalizing s with
  | zero => exact h
  | succ n ih => unfold State.cycles; split <;> simp [*]

end Sys2Proof.Machine
end

