-- ==== Sys2Proof/Laws/FrameExec.lean ====
section
/-!
SUPPORT. What each instruction, walker word and step of the device does to memory: it leaves memory as it was, or it keeps
its canonical form.
-/

namespace Sys2Proof.Machine

/-- A next state has the memory it began with. -/
def Untouched (s : State) (o : Host.Outcome State Fault Refusal) : Prop := ∀ t, o = .next t → t.mem = s.mem

/-- A next state has memory in canonical form if it began so. -/
def Canonical (s : State) (o : Host.Outcome State Fault Refusal) : Prop :=
  Memory.wf s.mem = true → ∀ t, o = .next t → Memory.wf t.mem = true

theorem Untouched.next {s t : State} (h : t.mem = s.mem) : Untouched s (.next t) := by
  intro t' e; cases e; exact h

theorem Canonical.next {s t : State} (h : Memory.wf s.mem = true → Memory.wf t.mem = true) : Canonical s (.next t) := by
  intro w t' e; cases e; exact h w

theorem Untouched.canonical {s : State} {o : Host.Outcome State Fault Refusal} (h : Untouched s o) : Canonical s o := by
  intro w t e; rw [h t e]; exact w

theorem untouched_runFormThen {fm : Form} {s : State} {f : Lane → LaneOut} {after : List Lane → State → State}
    (ha : ∀ ls s, (after ls s).mem = s.mem) : Untouched s (runFormThen fm s f after) := by
  intro t e
  unfold runFormThen at e
  split at e
  · cases e
  · dsimp only at e
    split at e <;> cases e
    · simp
    · simp [ha]

theorem untouched_runLanesThen {i : Instr} {s : State} {f : Lane → LaneOut} {after : List Lane → State → State}
    (ha : ∀ ls s, (after ls s).mem = s.mem) : Untouched s (runLanesThen i s f after) := untouched_runFormThen ha

theorem untouched_runLanes {i : Instr} {s : State} {f : Lane → LaneOut} : Untouched s (runLanes i s f) :=
  untouched_runLanesThen (fun _ _ => rfl)

theorem canonical_runFormThen {fm : Form} {s : State} {f : Lane → LaneOut} {after : List Lane → State → State}
    (ha : ∀ ls s, Memory.wf s.mem = true → Memory.wf (after ls s).mem = true) : Canonical s (runFormThen fm s f after) := by
  intro w t e
  unfold runFormThen at e
  split at e
  · cases e
  · dsimp only at e
    split at e <;> cases e
    · simp [w]
    · exact ha _ _ (by simp [w])

theorem untouched_runSeqAfter {before : State → Nat → State} {fm : Form} {s : State} {held : Lane → Bool}
    {f : Lane → LaneOut × (State → State)} (hb : ∀ s j, (before s j).mem = s.mem) (hf : ∀ l s, ((f l).2 s).mem = s.mem) :
    Untouched s (runSeqAfter before fm s held f) := by
  intro t e
  unfold runSeqAfter at e
  split at e
  · cases e
  · dsimp only at e
    split at e <;> cases e
    · simp
    · simp [foldl_mem (fun s j => (State.member_mem fm f hf (before s j) j).trans (hb s j))]

theorem canonical_runSeqAfter {before : State → Nat → State} {fm : Form} {s : State} {held : Lane → Bool}
    {f : Lane → LaneOut × (State → State)} (hb : ∀ s j, (before s j).mem = s.mem)
    (hf : ∀ l s, Memory.wf s.mem = true → Memory.wf ((f l).2 s).mem = true) : Canonical s (runSeqAfter before fm s held f) := by
  intro w t e
  unfold runSeqAfter at e
  split at e
  · cases e
  · dsimp only at e
    split at e <;> cases e
    · simp [w]
    · rw [State.modTeam_mem]
      exact foldl_wf (fun _ _ h => State.member_wf fm f hf _ _ (by rwa [hb])) (by simp [w])

theorem untouched_runFormSeq {fm : Form} {s : State} {held : Lane → Bool} {f : Lane → LaneOut × (State → State)}
    (hf : ∀ l s, ((f l).2 s).mem = s.mem) : Untouched s (runFormSeq fm s held f) := untouched_runSeqAfter (fun _ _ => rfl) hf

theorem canonical_runFormSeq {fm : Form} {s : State} {held : Lane → Bool} {f : Lane → LaneOut × (State → State)}
    (hf : ∀ l s, Memory.wf s.mem = true → Memory.wf ((f l).2 s).mem = true) : Canonical s (runFormSeq fm s held f) :=
  canonical_runSeqAfter (fun _ _ => rfl) hf

theorem untouched_runJoin {i : Instr} {s : State} {held : Lane → Bool} {f : Lane → LaneOut × (State → State)}
    (hf : ∀ l s, ((f l).2 s).mem = s.mem) : Untouched s (runJoin i s held f) :=
  untouched_runSeqAfter (fun _ _ => by simp) hf

theorem untouched_walkWord {s : State} {f : Walker → WalkOut}
    (hf : ∀ (w : Walker) (s' : State), (s'.walkOut w (f w)).mem = s'.mem) : Untouched s (walkWord s f) := by
  intro t e
  unfold walkWord at e
  split at e <;> cases e
  split
  · exact hf _ _
  · rfl

theorem execNop_mem (s : State) : Untouched s (execNop s) :=
  untouched_runLanes

theorem execExit_mem (s : State) : Untouched s (execExit s) := by
  apply untouched_runLanesThen; intro _ _; exact foldl_mem (fun _ _ => by simp) _ _

theorem execReform_mem (s : State) : Untouched s (execReform s) := by
  apply untouched_runLanesThen; intro _ _; rfl

theorem execReformB_mem (s : State) : Untouched s (execReformB s) := by
  apply untouched_runLanesThen; intro _ _; exact foldl_mem (fun _ _ => by simp) _ _

theorem execYield_mem (s : State) : Untouched s (execYield s) := by
  apply untouched_runLanesThen; intro _ _; simp

theorem execBkpt_mem (s : State) : Untouched s (execBkpt s) :=
  untouched_runLanes

theorem execIadd_mem (d a b : BitVec 7) (s : State) : Untouched s (execIadd d a b s) :=
  untouched_runLanes

theorem execIsub_mem (d a b : BitVec 7) (s : State) : Untouched s (execIsub d a b s) :=
  untouched_runLanes

theorem execImul_mem (d a b : BitVec 7) (s : State) : Untouched s (execImul d a b s) :=
  untouched_runLanes

theorem execImulhS_mem (d a b : BitVec 7) (s : State) : Untouched s (execImulhS d a b s) :=
  untouched_runLanes

theorem execImulhN_mem (d a b : BitVec 7) (s : State) : Untouched s (execImulhN d a b s) :=
  untouched_runLanes

theorem execImad_mem (d a b : BitVec 7) (s : State) : Untouched s (execImad d a b s) :=
  untouched_runLanes

theorem execIminS_mem (d a b : BitVec 7) (s : State) : Untouched s (execIminS d a b s) :=
  untouched_runLanes

theorem execIminN_mem (d a b : BitVec 7) (s : State) : Untouched s (execIminN d a b s) :=
  untouched_runLanes

theorem execImaxS_mem (d a b : BitVec 7) (s : State) : Untouched s (execImaxS d a b s) :=
  untouched_runLanes

theorem execImaxN_mem (d a b : BitVec 7) (s : State) : Untouched s (execImaxN d a b s) :=
  untouched_runLanes

theorem execIabs_mem (d a : BitVec 7) (s : State) : Untouched s (execIabs d a s) :=
  untouched_runLanes

theorem execAnd_mem (d a b : BitVec 7) (s : State) : Untouched s (execAnd d a b s) :=
  untouched_runLanes

theorem execOr_mem (d a b : BitVec 7) (s : State) : Untouched s (execOr d a b s) :=
  untouched_runLanes

theorem execXor_mem (d a b : BitVec 7) (s : State) : Untouched s (execXor d a b s) :=
  untouched_runLanes

theorem execAndn_mem (d a b : BitVec 7) (s : State) : Untouched s (execAndn d a b s) :=
  untouched_runLanes

theorem execShl_mem (d a b : BitVec 7) (s : State) : Untouched s (execShl d a b s) :=
  untouched_runLanes

theorem execShr_mem (d a b : BitVec 7) (s : State) : Untouched s (execShr d a b s) :=
  untouched_runLanes

theorem execSha_mem (d a b : BitVec 7) (s : State) : Untouched s (execSha d a b s) :=
  untouched_runLanes

theorem execRotl_mem (d a b : BitVec 7) (s : State) : Untouched s (execRotl d a b s) :=
  untouched_runLanes

theorem execPopc_mem (d a : BitVec 7) (s : State) : Untouched s (execPopc d a s) :=
  untouched_runLanes

theorem execClz_mem (d a : BitVec 7) (s : State) : Untouched s (execClz d a s) :=
  untouched_runLanes

theorem execBfx_mem (d a b : BitVec 7) (s : State) : Untouched s (execBfx d a b s) :=
  untouched_runLanes

theorem execBfi_mem (d a b : BitVec 7) (s : State) : Untouched s (execBfi d a b s) :=
  untouched_runLanes

theorem execIsetEq_mem (d a b : BitVec 7) (s : State) : Untouched s (execIsetEq d a b s) :=
  untouched_runLanes

theorem execIsetNe_mem (d a b : BitVec 7) (s : State) : Untouched s (execIsetNe d a b s) :=
  untouched_runLanes

theorem execIsetLt_mem (d a b : BitVec 7) (s : State) : Untouched s (execIsetLt d a b s) :=
  untouched_runLanes

theorem execIsetLe_mem (d a b : BitVec 7) (s : State) : Untouched s (execIsetLe d a b s) :=
  untouched_runLanes

theorem execIsetGt_mem (d a b : BitVec 7) (s : State) : Untouched s (execIsetGt d a b s) :=
  untouched_runLanes

theorem execIsetGe_mem (d a b : BitVec 7) (s : State) : Untouched s (execIsetGe d a b s) :=
  untouched_runLanes

theorem execIsetLtN_mem (d a b : BitVec 7) (s : State) : Untouched s (execIsetLtN d a b s) :=
  untouched_runLanes

theorem execIsetLeN_mem (d a b : BitVec 7) (s : State) : Untouched s (execIsetLeN d a b s) :=
  untouched_runLanes

theorem execIsetGtN_mem (d a b : BitVec 7) (s : State) : Untouched s (execIsetGtN d a b s) :=
  untouched_runLanes

theorem execIsetGeN_mem (d a b : BitVec 7) (s : State) : Untouched s (execIsetGeN d a b s) :=
  untouched_runLanes

theorem execMov_mem (d a : BitVec 7) (s : State) : Untouched s (execMov d a s) :=
  untouched_runLanes

theorem execSel_mem (d a b : BitVec 7) (s : State) : Untouched s (execSel d a b s) :=
  untouched_runLanes

theorem execAdd64_mem (d a b : BitVec 7) (s : State) : Untouched s (execAdd64 d a b s) :=
  untouched_runLanes

theorem execSub64_mem (d a b : BitVec 7) (s : State) : Untouched s (execSub64 d a b s) :=
  untouched_runLanes

theorem execShl64_mem (d a b : BitVec 7) (s : State) : Untouched s (execShl64 d a b s) :=
  untouched_runLanes

theorem execShr64_mem (d a b : BitVec 7) (s : State) : Untouched s (execShr64 d a b s) :=
  untouched_runLanes

theorem execMul64_mem (d a b : BitVec 7) (s : State) : Untouched s (execMul64 d a b s) :=
  untouched_runLanes

theorem execLea0_mem (d a b : BitVec 7) (s : State) : Untouched s (execLea0 d a b s) :=
  untouched_runLanes

theorem execLea1_mem (d a b : BitVec 7) (s : State) : Untouched s (execLea1 d a b s) :=
  untouched_runLanes

theorem execLea2_mem (d a b : BitVec 7) (s : State) : Untouched s (execLea2 d a b s) :=
  untouched_runLanes

theorem execLea3_mem (d a b : BitVec 7) (s : State) : Untouched s (execLea3 d a b s) :=
  untouched_runLanes

theorem execIset64Eq_mem (d a b : BitVec 7) (s : State) : Untouched s (execIset64Eq d a b s) :=
  untouched_runLanes

theorem execIset64LtN_mem (d a b : BitVec 7) (s : State) : Untouched s (execIset64LtN d a b s) :=
  untouched_runLanes

theorem execIaddi_mem (d a : BitVec 7) (i : BitVec 11) (s : State) : Untouched s (execIaddi d a i s) :=
  untouched_runLanes

theorem execAndi_mem (d a : BitVec 7) (i : BitVec 11) (s : State) : Untouched s (execAndi d a i s) :=
  untouched_runLanes

theorem execOri_mem (d a : BitVec 7) (i : BitVec 11) (s : State) : Untouched s (execOri d a i s) :=
  untouched_runLanes

theorem execShli_mem (d a : BitVec 7) (i : BitVec 5) (s : State) : Untouched s (execShli d a i s) :=
  untouched_runLanes

theorem execShri_mem (d a : BitVec 7) (i : BitVec 5) (s : State) : Untouched s (execShri d a i s) :=
  untouched_runLanes

theorem execLdi_mem (d : BitVec 7) (i : BitVec 18) (s : State) : Untouched s (execLdi d i s) :=
  untouched_runLanes

theorem execLdhi_mem (d : BitVec 7) (i : BitVec 14) (s : State) : Untouched s (execLdhi d i s) :=
  untouched_runLanes

theorem execWin_mem (i : BitVec 18) (s : State) : Untouched s (execWin i s) :=
  untouched_runLanes

theorem execPart_mem (i : BitVec 18) (s : State) : Untouched s (execPart i s) :=
  untouched_runLanes

theorem execPrio_mem (i : BitVec 18) (s : State) : Untouched s (execPrio i s) :=
  untouched_runLanes

theorem execSleep_mem (i : BitVec 18) (s : State) : Untouched s (execSleep i s) :=
  untouched_runLanes

theorem execWaitf_mem (d : BitVec 7) (i : BitVec 18) (s : State) : Untouched s (execWaitf d i s) :=
  untouched_runLanes

theorem execBra_mem (x : BitVec 18) (s : State) : Untouched s (execBra x s) :=
  untouched_runLanes

theorem execBeqz_mem (a : BitVec 7) (x : BitVec 18) (s : State) : Untouched s (execBeqz a x s) :=
  untouched_runLanes

theorem execBnez_mem (a : BitVec 7) (x : BitVec 18) (s : State) : Untouched s (execBnez a x s) :=
  untouched_runLanes

theorem execBltz_mem (a : BitVec 7) (x : BitVec 18) (s : State) : Untouched s (execBltz a x s) :=
  untouched_runLanes

theorem execBgez_mem (a : BitVec 7) (x : BitVec 18) (s : State) : Untouched s (execBgez a x s) :=
  untouched_runLanes

theorem execCall_mem (a : BitVec 7) (x : BitVec 18) (s : State) : Untouched s (execCall a x s) :=
  untouched_runLanes

theorem execJmp_mem (a : BitVec 7) (s : State) : Untouched s (execJmp a s) :=
  untouched_runLanes

theorem execRet_mem (a : BitVec 7) (s : State) : Untouched s (execRet a s) :=
  untouched_runLanes

theorem execCallr_mem (d a : BitVec 7) (s : State) : Untouched s (execCallr d a s) :=
  untouched_runLanes

@[simp] theorem Lane.postPacket_wf (l : Lane) (key k : Nat) (bs : List Byte) (s : State) (h : Memory.wf s.mem = true) :
    Memory.wf (l.postPacket key k bs s).mem = true := by
  simp [Lane.postPacket, h]

theorem execQpost_wf (d a b : BitVec 7) (f : BitVec 4) (s : State) : Canonical s (execQpost d a b f s) := by
  apply canonical_runFormSeq; intro _ _ h
  dsimp only
  repeat' first | exact h | (simp [h]; done) | split

theorem execJdecl_mem (j a : BitVec 7) (s : State) : Untouched s (execJdecl j a s) := by
  apply untouched_runJoin; intro _ _
  dsimp only
  repeat' first | rfl | split

theorem execJsign_mem (j : BitVec 7) (s : State) : Untouched s (execJsign j s) :=
  by
  apply untouched_runJoin; intro _ _
  repeat' first | rfl | split | (simp; done)

theorem execJleave_mem (j : BitVec 7) (s : State) : Untouched s (execJleave j s) := by
  apply untouched_runJoin; intro _ _; split <;> [rfl; split] <;> first | rfl | simp

theorem execJcancel_mem (j : BitVec 7) (s : State) : Untouched s (execJcancel j s) := by
  apply untouched_runJoin; intro _ _; split <;> [rfl; (split)] <;> first | rfl | simp

theorem execJstat_mem (d j : BitVec 7) (s : State) : Untouched s (execJstat d j s) :=
  untouched_runLanes

theorem execLanePick_mem (d a b : BitVec 7) (s : State) : Untouched s (execLanePick d a b s) :=
  untouched_runLanes

theorem execLaneBack_mem (d a b : BitVec 7) (s : State) : Untouched s (execLaneBack d a b s) :=
  untouched_runLanes

theorem execLaneFwd_mem (d a b : BitVec 7) (s : State) : Untouched s (execLaneFwd d a b s) :=
  untouched_runLanes

theorem execLaneFlip_mem (d a b : BitVec 7) (s : State) : Untouched s (execLaneFlip d a b s) :=
  untouched_runLanes

theorem execLaneRot_mem (d a b : BitVec 7) (s : State) : Untouched s (execLaneRot d a b s) :=
  untouched_runLanes

theorem execPollEvery_mem (d a : BitVec 7) (s : State) : Untouched s (execPollEvery d a s) :=
  untouched_runLanes

theorem execPollSome_mem (d a : BitVec 7) (s : State) : Untouched s (execPollSome d a s) :=
  untouched_runLanes

theorem execPollMask_mem (d a : BitVec 7) (s : State) : Untouched s (execPollMask d a s) :=
  untouched_runLanes

theorem execPollSame_mem (d a : BitVec 7) (s : State) : Untouched s (execPollSame d a s) :=
  untouched_runLanes

theorem execPollPres_mem (d : BitVec 7) (s : State) : Untouched s (execPollPres d s) :=
  untouched_runLanes

theorem execPollCnt_mem (d a : BitVec 7) (s : State) : Untouched s (execPollCnt d a s) :=
  untouched_runLanes

theorem execMatchLanes_mem (d a : BitVec 7) (s : State) : Untouched s (execMatchLanes d a s) :=
  untouched_runLanes

theorem execMrank_mem (d a : BitVec 7) (s : State) : Untouched s (execMrank d a s) :=
  untouched_runLanes

theorem execMcnt_mem (d a : BitVec 7) (s : State) : Untouched s (execMcnt d a s) :=
  untouched_runLanes

theorem execMlead_mem (d a : BitVec 7) (s : State) : Untouched s (execMlead d a s) :=
  untouched_runLanes

theorem execTscanAddI_mem (d a : BitVec 7) (s : State) : Untouched s (execTscanAddI d a s) :=
  untouched_runLanes

theorem execTscanAddF_mem (d a : BitVec 7) (s : State) : Untouched s (execTscanAddF d a s) :=
  untouched_runLanes

theorem execTscanMaxS_mem (d a : BitVec 7) (s : State) : Untouched s (execTscanMaxS d a s) :=
  untouched_runLanes

theorem execTscanMinS_mem (d a : BitVec 7) (s : State) : Untouched s (execTscanMinS d a s) :=
  untouched_runLanes

theorem execTscanExAddI_mem (d a : BitVec 7) (s : State) : Untouched s (execTscanExAddI d a s) :=
  untouched_runLanes

theorem execTscanExAddF_mem (d a : BitVec 7) (s : State) : Untouched s (execTscanExAddF d a s) :=
  untouched_runLanes

theorem execTscanSegAddI_mem (d a b : BitVec 7) (s : State) : Untouched s (execTscanSegAddI d a b s) :=
  untouched_runLanes

theorem execTscanSegAddF_mem (d a b : BitVec 7) (s : State) : Untouched s (execTscanSegAddF d a b s) :=
  untouched_runLanes

theorem execTredAddI_mem (d a : BitVec 7) (s : State) : Untouched s (execTredAddI d a s) :=
  untouched_runLanes

theorem execTredAddF_mem (d a : BitVec 7) (s : State) : Untouched s (execTredAddF d a s) :=
  untouched_runLanes

theorem execTredMaxS_mem (d a : BitVec 7) (s : State) : Untouched s (execTredMaxS d a s) :=
  untouched_runLanes

theorem execTredMinS_mem (d a : BitVec 7) (s : State) : Untouched s (execTredMinS d a s) :=
  untouched_runLanes

theorem execTredMaxF_mem (d a : BitVec 7) (s : State) : Untouched s (execTredMaxF d a s) :=
  untouched_runLanes

theorem execTredMinF_mem (d a : BitVec 7) (s : State) : Untouched s (execTredMinF d a s) :=
  untouched_runLanes

theorem execTredAnd_mem (d a : BitVec 7) (s : State) : Untouched s (execTredAnd d a s) :=
  untouched_runLanes

theorem execTredOr_mem (d a : BitVec 7) (s : State) : Untouched s (execTredOr d a s) :=
  untouched_runLanes

theorem execLdlB_mem (d a o : BitVec 7) (f : BitVec 4) (s : State) : Untouched s (execLdlB d a o f s) :=
  untouched_runLanes

theorem execLdlH_mem (d a o : BitVec 7) (f : BitVec 4) (s : State) : Untouched s (execLdlH d a o f s) :=
  untouched_runLanes

theorem execLdlW_mem (d a o : BitVec 7) (f : BitVec 4) (s : State) : Untouched s (execLdlW d a o f s) :=
  untouched_runLanes

theorem execLdlD_mem (d a o : BitVec 7) (f : BitVec 4) (s : State) : Untouched s (execLdlD d a o f s) :=
  untouched_runLanes

theorem execLdlQ_mem (d a o : BitVec 7) (f : BitVec 4) (s : State) : Untouched s (execLdlQ d a o f s) :=
  untouched_runLanes

theorem execStlB_mem (d a o : BitVec 7) (f : BitVec 4) (s : State) : Untouched s (execStlB d a o f s) :=
  untouched_runLanes

theorem execStlH_mem (d a o : BitVec 7) (f : BitVec 4) (s : State) : Untouched s (execStlH d a o f s) :=
  untouched_runLanes

theorem execStlW_mem (d a o : BitVec 7) (f : BitVec 4) (s : State) : Untouched s (execStlW d a o f s) :=
  untouched_runLanes

theorem execStlD_mem (d a o : BitVec 7) (f : BitVec 4) (s : State) : Untouched s (execStlD d a o f s) :=
  untouched_runLanes

theorem execStlQ_mem (d a o : BitVec 7) (f : BitVec 4) (s : State) : Untouched s (execStlQ d a o f s) :=
  untouched_runLanes

theorem execAtl_mem (d a c : BitVec 7) (f : BitVec 4) (s : State) : Untouched s (execAtl d a c f s) :=
  untouched_runLanes

theorem execTap_mem (a b : BitVec 7) (f : BitVec 4) (s : State) : Untouched s (execTap a b f s) :=
  untouched_runLanes

theorem execTapNorm_mem (a b : BitVec 7) (f : BitVec 4) (s : State) : Untouched s (execTapNorm a b f s) :=
  untouched_runLanes

theorem execTapq_mem (a b : BitVec 7) (s : State) : Untouched s (execTapq a b s) :=
  untouched_runLanesThen (fun _ _ => by simp)

theorem execSpoke_mem (a b : BitVec 7) (f : BitVec 4) (s : State) : Untouched s (execSpoke a b f s) :=
  by
  apply untouched_runFormSeq; intro _ _
  repeat' first | rfl | split | (simp; done)

theorem execBarInit_mem (a b : BitVec 7) (s : State) : Untouched s (execBarInit a b s) :=
  by
  apply untouched_runFormSeq; intro _ _
  unfold onBar; repeat' first | rfl | split

theorem execBarArrive_mem (a : BitVec 7) (s : State) : Untouched s (execBarArrive a s) := by
  apply untouched_runFormSeq; intro _ _
  unfold onBar
  repeat' first | rfl | split | (simp; done) | dsimp only

theorem execBarWait_mem (a b : BitVec 7) (s : State) : Untouched s (execBarWait a b s) := by
  apply untouched_runFormSeq; intro _ _
  unfold onBar
  repeat' first | rfl | split | (simp; done) | dsimp only

theorem execBarSync_mem (a : BitVec 7) (s : State) : Untouched s (execBarSync a s) := by
  apply untouched_runFormSeq; intro _ _
  unfold onBar
  repeat' first | rfl | split | (simp; done) | dsimp only

theorem execBarExpect_mem (a b : BitVec 7) (s : State) : Untouched s (execBarExpect a b s) :=
  by
  apply untouched_runFormSeq; intro _ _
  unfold onBar; repeat' first | rfl | split | (simp; done)

theorem execBarPhase_mem (d a : BitVec 7) (s : State) : Untouched s (execBarPhase d a s) :=
  untouched_runLanes

theorem execBarInval_mem (a : BitVec 7) (s : State) : Untouched s (execBarInval a s) := by
  apply untouched_runFormSeq; intro _ _
  unfold onBar
  repeat' first | rfl | split | (simp; done) | dsimp only

theorem execFadd_mem (d a b : BitVec 7) (s : State) : Untouched s (execFadd d a b s) :=
  untouched_runLanes

theorem execFsub_mem (d a b : BitVec 7) (s : State) : Untouched s (execFsub d a b s) :=
  untouched_runLanes

theorem execFmul_mem (d a b : BitVec 7) (s : State) : Untouched s (execFmul d a b s) :=
  untouched_runLanes

theorem execFfma_mem (d a b : BitVec 7) (s : State) : Untouched s (execFfma d a b s) :=
  untouched_runLanes

theorem execFmin_mem (d a b : BitVec 7) (s : State) : Untouched s (execFmin d a b s) :=
  untouched_runLanes

theorem execFmax_mem (d a b : BitVec 7) (s : State) : Untouched s (execFmax d a b s) :=
  untouched_runLanes

theorem execFneg_mem (d a : BitVec 7) (s : State) : Untouched s (execFneg d a s) :=
  untouched_runLanes

theorem execFabs_mem (d a : BitVec 7) (s : State) : Untouched s (execFabs d a s) :=
  untouched_runLanes

theorem execFsetEq_mem (d a b : BitVec 7) (s : State) : Untouched s (execFsetEq d a b s) :=
  untouched_runLanes

theorem execFsetNe_mem (d a b : BitVec 7) (s : State) : Untouched s (execFsetNe d a b s) :=
  untouched_runLanes

theorem execFsetLt_mem (d a b : BitVec 7) (s : State) : Untouched s (execFsetLt d a b s) :=
  untouched_runLanes

theorem execFsetLe_mem (d a b : BitVec 7) (s : State) : Untouched s (execFsetLe d a b s) :=
  untouched_runLanes

theorem execFsetGt_mem (d a b : BitVec 7) (s : State) : Untouched s (execFsetGt d a b s) :=
  untouched_runLanes

theorem execFsetGe_mem (d a b : BitVec 7) (s : State) : Untouched s (execFsetGe d a b s) :=
  untouched_runLanes

theorem execFsetUn_mem (d a b : BitVec 7) (s : State) : Untouched s (execFsetUn d a b s) :=
  untouched_runLanes

theorem execFclass_mem (d a : BitVec 7) (s : State) : Untouched s (execFclass d a s) :=
  untouched_runLanes

theorem execFrcp_mem (d a : BitVec 7) (s : State) : Untouched s (execFrcp d a s) :=
  untouched_runLanes

theorem execFrsq_mem (d a : BitVec 7) (s : State) : Untouched s (execFrsq d a s) :=
  untouched_runLanes

theorem execFsqrt_mem (d a : BitVec 7) (s : State) : Untouched s (execFsqrt d a s) :=
  untouched_runLanes

theorem execFex2_mem (d a : BitVec 7) (s : State) : Untouched s (execFex2 d a s) :=
  untouched_runLanes

theorem execFlg2_mem (d a : BitVec 7) (s : State) : Untouched s (execFlg2 d a s) :=
  untouched_runLanes

theorem execFexp_mem (d a : BitVec 7) (s : State) : Untouched s (execFexp d a s) :=
  untouched_runLanes

theorem execFln_mem (d a : BitVec 7) (s : State) : Untouched s (execFln d a s) :=
  untouched_runLanes

theorem execFsinp_mem (d a : BitVec 7) (s : State) : Untouched s (execFsinp d a s) :=
  untouched_runLanes

theorem execFcosp_mem (d a : BitVec 7) (s : State) : Untouched s (execFcosp d a s) :=
  untouched_runLanes

theorem execFtanh_mem (d a : BitVec 7) (s : State) : Untouched s (execFtanh d a s) :=
  untouched_runLanes

theorem execFsig_mem (d a : BitVec 7) (s : State) : Untouched s (execFsig d a s) :=
  untouched_runLanes

theorem execH2add_mem (d a b : BitVec 7) (s : State) : Untouched s (execH2add d a b s) :=
  untouched_runLanes

theorem execH2mul_mem (d a b : BitVec 7) (s : State) : Untouched s (execH2mul d a b s) :=
  untouched_runLanes

theorem execH2fma_mem (d a b : BitVec 7) (s : State) : Untouched s (execH2fma d a b s) :=
  untouched_runLanes

theorem execB2add_mem (d a b : BitVec 7) (s : State) : Untouched s (execB2add d a b s) :=
  untouched_runLanes

theorem execB2mul_mem (d a b : BitVec 7) (s : State) : Untouched s (execB2mul d a b s) :=
  untouched_runLanes

theorem execB2fma_mem (d a b : BitVec 7) (s : State) : Untouched s (execB2fma d a b s) :=
  untouched_runLanes

theorem execXadd_mem (d a b : BitVec 7) (s : State) : Untouched s (execXadd d a b s) :=
  untouched_runLanes

theorem execXmul_mem (d a b : BitVec 7) (s : State) : Untouched s (execXmul d a b s) :=
  untouched_runLanes

theorem execXexp_mem (d a : BitVec 7) (s : State) : Untouched s (execXexp d a s) :=
  untouched_runLanes

theorem execXcvt_mem (d a : BitVec 7) (s : State) : Untouched s (execXcvt d a s) :=
  untouched_runLanes

theorem execXfrom_mem (d a : BitVec 7) (s : State) : Untouched s (execXfrom d a s) :=
  untouched_runLanes

theorem execXratio_mem (d a b : BitVec 7) (s : State) : Untouched s (execXratio d a b s) :=
  untouched_runLanes

theorem execCvt_mem (d a c : BitVec 7) (t : BitVec 1) (r : BitVec 3) (s : State) : Untouched s (execCvt d a c t r s) := by
  apply untouched_runLanesThen; intro _ _; split <;> simp

theorem execBytp_mem (d a b : BitVec 7) (s : State) : Untouched s (execBytp d a b s) :=
  untouched_runLanes

theorem execHpk_mem (d a b : BitVec 7) (s : State) : Untouched s (execHpk d a b s) :=
  untouched_runLanes

theorem execReqI8_mem (d a b : BitVec 7) (s : State) : Untouched s (execReqI8 d a b s) :=
  untouched_runLanes

theorem execReqI4_mem (d a b : BitVec 7) (s : State) : Untouched s (execReqI4 d a b s) :=
  untouched_runLanes

theorem execReqN8_mem (d a b : BitVec 7) (s : State) : Untouched s (execReqN8 d a b s) :=
  untouched_runLanes

theorem execReqN4_mem (d a b : BitVec 7) (s : State) : Untouched s (execReqN4 d a b s) :=
  untouched_runLanes

theorem execRng_mem (d a b : BitVec 7) (s : State) : Untouched s (execRng d a b s) :=
  untouched_runLanes

theorem execGumb_mem (d a : BitVec 7) (s : State) : Untouched s (execGumb d a s) :=
  untouched_runLanes

theorem execUnif_mem (d a : BitVec 7) (s : State) : Untouched s (execUnif d a s) :=
  untouched_runLanes

theorem execSoftmax_mem (d a b : BitVec 7) (s : State) : Untouched s (execSoftmax d a b s) :=
  untouched_runLanes

theorem execRmsnE12_mem (d a b : BitVec 7) (s : State) : Untouched s (execRmsnE12 d a b s) :=
  untouched_runLanes

theorem execRmsnE14_mem (d a b : BitVec 7) (s : State) : Untouched s (execRmsnE14 d a b s) :=
  untouched_runLanes

theorem execRmsnE16_mem (d a b : BitVec 7) (s : State) : Untouched s (execRmsnE16 d a b s) :=
  untouched_runLanes

theorem execRmsnE18_mem (d a b : BitVec 7) (s : State) : Untouched s (execRmsnE18 d a b s) :=
  untouched_runLanes

theorem execRmsnE20_mem (d a b : BitVec 7) (s : State) : Untouched s (execRmsnE20 d a b s) :=
  untouched_runLanes

theorem untouched_kvLanes {i : Instr} {op : KvOp} {d a : BitVec 7} {f : BitVec 4} {b tag : Lane → Word} {n : Nat}
    {limit : Lane → Option Trap} {s : State} : Untouched s (kvLanes i op d a f b tag n limit s) := by
  unfold kvLanes
  exact untouched_runLanesThen (fun _ _ => State.noteScript_mem _ _ _)

theorem execKvtag_mem (d a : BitVec 7) (f : BitVec 4) (s : State) : Untouched s (execKvtag d a f s) := untouched_kvLanes

theorem execBnds_mem (d a : BitVec 7) (f : BitVec 4) (s : State) : Untouched s (execBnds d a f s) := untouched_kvLanes

theorem execKvmove_mem (d a : BitVec 7) (f : BitVec 4) (s : State) : Untouched s (execKvmove d a f s) := untouched_kvLanes

theorem execTopk_mem (d a : BitVec 7) (f : BitVec 4) (s : State) : Untouched s (execTopk d a f s) := untouched_kvLanes

theorem execLdgB_mem (d a o : BitVec 7) (f : BitVec 4) (s : State) : Untouched s (execLdgB d a o f s) :=
  untouched_runLanes

theorem execLdgH_mem (d a o : BitVec 7) (f : BitVec 4) (s : State) : Untouched s (execLdgH d a o f s) :=
  untouched_runLanes

theorem execLdgW_mem (d a o : BitVec 7) (f : BitVec 4) (s : State) : Untouched s (execLdgW d a o f s) :=
  untouched_runLanes

theorem execLdgD_mem (d a o : BitVec 7) (f : BitVec 4) (s : State) : Untouched s (execLdgD d a o f s) :=
  untouched_runLanes

theorem execLdgQ_mem (d a o : BitVec 7) (f : BitVec 4) (s : State) : Untouched s (execLdgQ d a o f s) :=
  untouched_runLanes

theorem execStgB_mem (d a o : BitVec 7) (f : BitVec 4) (s : State) : Untouched s (execStgB d a o f s) :=
  untouched_runLanes

theorem execStgH_mem (d a o : BitVec 7) (f : BitVec 4) (s : State) : Untouched s (execStgH d a o f s) :=
  untouched_runLanes

theorem execStgW_mem (d a o : BitVec 7) (f : BitVec 4) (s : State) : Untouched s (execStgW d a o f s) :=
  untouched_runLanes

theorem execStgD_mem (d a o : BitVec 7) (f : BitVec 4) (s : State) : Untouched s (execStgD d a o f s) :=
  untouched_runLanes

theorem execStgQ_mem (d a o : BitVec 7) (f : BitVec 4) (s : State) : Untouched s (execStgQ d a o f s) :=
  untouched_runLanes

theorem execLdf_mem (d a o : BitVec 7) (f : BitVec 4) (s : State) : Untouched s (execLdf d a o f s) :=
  untouched_runLanes

theorem execStf_mem (d a o : BitVec 7) (f : BitVec 4) (s : State) : Untouched s (execStf d a o f s) := by
  apply untouched_runLanesThen; intro _ _; simp

theorem execStfRs_mem (d a o : BitVec 7) (f : BitVec 4) (s : State) : Untouched s (execStfRs d a o f s) := by
  apply untouched_runLanesThen; intro _ _; simp

theorem execPref_mem (a o : BitVec 7) (s : State) : Untouched s (execPref a o s) := by
  apply untouched_runLanesThen; intro _ _
  refine foldl_mem (fun _ _ => ?_) _ _
  split <;> [split; skip] <;> simp

theorem execCfill_mem (a b : BitVec 7) (f : BitVec 4) (s : State) : Untouched s (execCfill a b f s) := by
  apply untouched_runLanesThen; intro _ _
  refine foldl_mem (fun _ _ => ?_) _ _
  split
  · exact foldl_mem (fun _ _ => by simp) _ _
  · rfl

theorem untouched_laneAccess {i : Instr} {f : BitVec 4} {write : Bool} {dst : Lane → List Nat}
    {req : Lane → Except Trap LaneReq} {s : State} : Untouched s (laneAccess i f write dst req s) := by
  apply untouched_runLanesThen; intro _ _
  dsimp only
  split
  · rfl
  · rw [foldl_mem (fun _ _ => foldl_mem (fun _ _ => by simp) _ _)]

theorem execGathW_mem (d a b : BitVec 7) (f : BitVec 4) (s : State) : Untouched s (execGathW d a b f s) := untouched_laneAccess

theorem execGathD_mem (d a b : BitVec 7) (f : BitVec 4) (s : State) : Untouched s (execGathD d a b f s) := untouched_laneAccess

theorem execGathF_mem (d a b : BitVec 7) (f : BitVec 4) (s : State) : Untouched s (execGathF d a b f s) := by
  unfold execGathF; exact untouched_laneAccess

theorem execScatW_mem (d a b : BitVec 7) (f : BitVec 4) (s : State) : Untouched s (execScatW d a b f s) := untouched_laneAccess

theorem execScatD_mem (d a b : BitVec 7) (f : BitVec 4) (s : State) : Untouched s (execScatD d a b f s) := untouched_laneAccess

theorem execKvrot_mem (d a b : BitVec 7) (f : BitVec 4) (s : State) : Untouched s (execKvrot d a b f s) := untouched_kvLanes

theorem execCopy_mem (a b : BitVec 7) (f : BitVec 4) (s : State) : Untouched s (execCopy a b f s) :=
  by
  apply untouched_runFormSeq; intro _ _
  repeat' first | rfl | split | (simp; done)

theorem execBcopy_mem (d a b : BitVec 7) (f : BitVec 4) (s : State) : Untouched s (execBcopy d a b f s) := by
  apply untouched_runLanesThen; intro _ _; split <;> simp

theorem execCopyx_mem (a b : BitVec 7) (f : BitVec 4) (s : State) : Untouched s (execCopyx a b f s) :=
  by
  apply untouched_runFormSeq; intro _ _
  repeat' first | rfl | split | (simp; done)

theorem execMma_mem (j a b : BitVec 7) (f : BitVec 4) (s : State) : Untouched s (execMma j a b f s) :=
  by
  apply untouched_runJoin; intro _ _
  repeat' first | rfl | split | (simp; done)

theorem execMmas_mem (a b : BitVec 7) (f : BitVec 4) (s : State) : Untouched s (execMmas a b f s) :=
  by
  apply untouched_runFormSeq; intro _ _
  repeat' first | rfl | split | (simp; done)

theorem execAccz_mem (a b : BitVec 7) (f : BitVec 4) (s : State) : Untouched s (execAccz a b f s) :=
  by
  apply untouched_runFormSeq; intro _ _
  repeat' first | rfl | split

theorem untouched_attnLanes {i : Instr} {r : Bool} {d a b : BitVec 7} {f : BitVec 4} {s : State} :
    Untouched s (attnLanes i r d a b f s) := by
  unfold attnLanes
  exact untouched_runLanesThen (fun _ _ => State.noteScript_mem _ _ _)

theorem execAttn_mem (d a b : BitVec 7) (f : BitVec 4) (s : State) : Untouched s (execAttn d a b f s) := untouched_attnLanes

theorem execAttnr_mem (d a b : BitVec 7) (f : BitVec 4) (s : State) : Untouched s (execAttnr d a b f s) := untouched_attnLanes

theorem execKvap_mem (d a b : BitVec 7) (f : BitVec 4) (s : State) : Untouched s (execKvap d a b f s) := untouched_kvLanes

theorem execKvrq_mem (d a b : BitVec 7) (f : BitVec 4) (s : State) : Untouched s (execKvrq d a b f s) := untouched_kvLanes

theorem untouched_loadVersioned {i : Instr} {n : Nat} {d a o : BitVec 7} {f : BitVec 4} {s : State} :
    Untouched s (loadVersioned i n d a o f s) := by
  unfold loadVersioned
  exact untouched_runLanesThen (fun _ _ => foldl_mem (fun _ _ => by split <;> simp) _ _)

theorem execLdvsW_mem (d a o : BitVec 7) (f : BitVec 4) (s : State) : Untouched s (execLdvsW d a o f s) := untouched_loadVersioned

theorem execLdvsD_mem (d a o : BitVec 7) (f : BitVec 4) (s : State) : Untouched s (execLdvsD d a o f s) := untouched_loadVersioned

theorem execLdvsQ_mem (d a o : BitVec 7) (f : BitVec 4) (s : State) : Untouched s (execLdvsQ d a o f s) := untouched_loadVersioned

theorem execValid_mem (d k : BitVec 7) (f : BitVec 4) (s : State) : Untouched s (execValid d k f s) :=
  untouched_runLanes

theorem execVerr_mem (d a : BitVec 7) (f : BitVec 4) (s : State) : Untouched s (execVerr d a f s) :=
  untouched_runLanes

theorem execCasv_mem (d a b : BitVec 7) (f : BitVec 4) (s : State) : Untouched s (execCasv d a b f s) :=
  untouched_runLanes

theorem execAtom_mem (d a c : BitVec 7) (f : BitVec 4) (s : State) : Untouched s (execAtom d a c f s) :=
  untouched_runLanes

theorem execCas_mem (d a b : BitVec 7) (f : BitVec 4) (s : State) : Untouched s (execCas d a b f s) :=
  untouched_runLanes

theorem execRed_mem (c a b : BitVec 7) (f : BitVec 4) (s : State) : Untouched s (execRed c a b f s) :=
  untouched_runLanes

theorem execFenceAcq_mem (x : BitVec 7) (s : State) : Untouched s (execFenceAcq x s) :=
  by
  apply untouched_runFormSeq; intro _ _
  repeat' first | rfl | split | (simp; done)

theorem execFenceRel_mem (x : BitVec 7) (s : State) : Untouched s (execFenceRel x s) :=
  by
  apply untouched_runFormSeq; intro _ _
  repeat' first | rfl | split

theorem execFenceAr_mem (x : BitVec 7) (s : State) : Untouched s (execFenceAr x s) :=
  by
  apply untouched_runFormSeq; intro _ _
  repeat' first | rfl | split | (simp; done)

theorem execFenceSc_mem (x : BitVec 7) (s : State) : Untouched s (execFenceSc x s) :=
  by
  apply untouched_runFormSeq; intro _ _
  repeat' first | rfl | split | (simp; done)

theorem execLdacqW_mem (d a x : BitVec 7) (f : BitVec 4) (s : State) : Untouched s (execLdacqW d a x f s) :=
  untouched_runLanes

theorem execLdacqD_mem (d a x : BitVec 7) (f : BitVec 4) (s : State) : Untouched s (execLdacqD d a x f s) :=
  untouched_runLanes

theorem execStrelW_mem (d a x : BitVec 7) (f : BitVec 4) (s : State) : Untouched s (execStrelW d a x f s) :=
  untouched_runLanes

theorem execStrelD_mem (d a x : BitVec 7) (f : BitVec 4) (s : State) : Untouched s (execStrelD d a x f s) :=
  untouched_runLanes

theorem execTrap_mem (c : BitVec 7) (s : State) : Untouched s (execTrap c s) :=
  untouched_runLanes

theorem execRett_mem (s : State) : Untouched s (execRett s) :=
  untouched_runLanes

theorem execGets_mem (d n : BitVec 7) (s : State) : Untouched s (execGets d n s) :=
  untouched_runLanes

theorem execSets_mem (a n : BitVec 7) (s : State) : Untouched s (execSets a n s) := by
  apply untouched_runLanesThen; intro _ _; exact foldl_mem (fun _ _ => by simp) _ _

theorem execSnap_mem (s : State) : Untouched s (execSnap s) := by
  apply untouched_runLanesThen; intro _ _; exact foldl_mem (fun _ _ => by simp) _ _

theorem execTlbinv_mem (a b : BitVec 7) (s : State) : Untouched s (execTlbinv a b s) :=
  by
  apply untouched_runFormThen; intro _ _; rfl

theorem execCtxsv_mem (a b : BitVec 7) (s : State) : Untouched s (execCtxsv a b s) := by
  apply untouched_runFormThen; intro _ _; exact foldl_mem (fun _ _ => by split <;> simp) _ _

theorem execCtxld_wf (a b : BitVec 7) (s : State) : Canonical s (execCtxld a b s) := by
  apply canonical_runFormThen; intro _ _ h; exact foldl_wf (fun _ _ h => by split <;> first | exact h | simp [h]) h

theorem execHalt_mem (s : State) : Untouched s (execHalt s) := by
  unfold execHalt
  exact untouched_runLanesThen (fun _ _ => by split <;> simp)

theorem execTapld_mem (a b : BitVec 7) (s : State) : Untouched s (execTapld a b s) := by
  apply untouched_runFormThen; intro _ _
  refine (foldl_mem (fun _ _ => ?_) _ _).trans (State.readScripts_mem ..)
  split <;> simp

theorem execLaunch_mem (d a : BitVec 7) (f : BitVec 4) (s : State) : Untouched s (execLaunch d a f s) :=
  by
  apply untouched_runFormSeq; intro _ _
  repeat' first | rfl | split | (simp; done)


/-- What follows a load word in the state asks a host for what lies there. -/
theorem State.walkLoad_after {s : State} {w w' : Walker} {d a : BitVec 4} {i : BitVec 15} {ok : Nat → Bool}
    {at' : Nat → DWord × Nat} {value : Nat → Nat → Nat} {t : Int} {after : State → State}
    (e : s.walkLoad w d a i ok at' value = .go w' t after) (u : State) : (after u).mem = u.mem := by
  unfold State.walkLoad at e; dsimp only at e
  repeat' first | (cases e; done) | split at e
  cases e; simp

theorem execHaltw_mem (s : State) : Untouched s (execHaltw s) :=
  untouched_walkWord (fun _ _ => State.walkOut_mem _ _ _ (fun _ _ _ e => by cases e))

theorem execLdp_mem (d a : BitVec 4) (i : BitVec 15) (s : State) : Untouched s (execLdp d a i s) :=
  by
  apply untouched_walkWord; intro _ _; apply State.walkOut_mem; intro _ _ _ e
  exact State.walkLoad_after e

theorem execLdx_mem (d a : BitVec 4) (i : BitVec 15) (s : State) : Untouched s (execLdx d a i s) :=
  by
  apply untouched_walkWord; intro _ _; apply State.walkOut_mem; intro _ _ _ e
  exact State.walkLoad_after e

theorem execLdval_mem (d a : BitVec 4) (i : BitVec 15) (s : State) : Untouched s (execLdval d a i s) :=
  by
  apply untouched_walkWord; intro _ _; apply State.walkOut_mem; intro _ _ _ e
  exact State.walkLoad_after e

theorem execAddw_mem (d a b : BitVec 4) (i : BitVec 15) (s : State) : Untouched s (execAddw d a b i s) :=
  by
  apply untouched_walkWord; intro _ _; apply State.walkOut_mem; intro _ _ _ e; cases e; intro _; rfl

theorem execSubw_mem (d a b : BitVec 4) (i : BitVec 15) (s : State) : Untouched s (execSubw d a b i s) :=
  by
  apply untouched_walkWord; intro _ _; apply State.walkOut_mem; intro _ _ _ e; cases e; intro _; rfl

theorem execCmpw_mem (d a b : BitVec 4) (s : State) : Untouched s (execCmpw d a b s) :=
  by
  apply untouched_walkWord; intro _ _; apply State.walkOut_mem; intro _ _ _ e; cases e; intro _; rfl

theorem execBltw_mem (a b : BitVec 4) (i : BitVec 15) (s : State) : Untouched s (execBltw a b i s) :=
  by
  apply untouched_walkWord; intro _ _; apply State.walkOut_mem; intro _ _ _ e; cases e; intro _; rfl

theorem execBnew_mem (a b : BitVec 4) (i : BitVec 15) (s : State) : Untouched s (execBnew a b i s) :=
  by
  apply untouched_walkWord; intro _ _; apply State.walkOut_mem; intro _ _ _ e; cases e; intro _; rfl

theorem execLoop_mem (d : BitVec 4) (i : BitVec 15) (s : State) : Untouched s (execLoop d i s) :=
  by
  apply untouched_walkWord; intro _ _; apply State.walkOut_mem; intro _ _ _ e
  repeat' first | (cases e; done) | (cases e; intro _; rfl) | split at e

theorem execSkip_mem (a b : BitVec 4) (s : State) : Untouched s (execSkip a b s) :=
  by
  apply untouched_walkWord; intro _ _; apply State.walkOut_mem; intro _ _ _ e; cases e; intro _; rfl

theorem execSett_mem (a b : BitVec 4) (s : State) : Untouched s (execSett a b s) :=
  by
  apply untouched_walkWord; intro _ _; apply State.walkOut_mem; intro _ _ _ e; cases e; intro _; rfl

theorem execEmit_mem (d a b : BitVec 4) (s : State) : Untouched s (execEmit d a b s) :=
  by
  apply untouched_walkWord; intro _ _; apply State.walkOut_mem; intro _ _ _ e
  dsimp only at e
  split at e <;> (cases e; intro _; rfl)

theorem execFlush_mem (a : BitVec 4) (s : State) : Untouched s (execFlush a s) :=
  by
  apply untouched_walkWord; intro _ _; apply State.walkOut_mem; intro _ _ _ e
  dsimp only at e
  repeat' first | (cases e; done) | split at e
  cases e; intro _; simp

theorem execBundleEntry_mem (team group : Nat) (s : State) : Untouched s (execBundleEntry team group s) :=
  by
  apply Untouched.next; simp

theorem execFlagWaitRelease_mem (team group : Nat) (s : State) : Untouched s (execFlagWaitRelease team group s) :=
  by
  apply Untouched.next; simp

theorem execOperationComplete_wf (op : Nat) (s : State) : Canonical s (execOperationComplete op s) :=
  by
  apply Canonical.next; intro h
  repeat' first | assumption | split | (simp [*]; done)

theorem execBinAgeRelease_mem (core bin : Nat) (s : State) : Untouched s (execBinAgeRelease core bin s) :=
  by
  apply Untouched.next; simp

theorem execBinIdleRelease_mem (core bin : Nat) (s : State) : Untouched s (execBinIdleRelease core bin s) :=
  by
  apply Untouched.next; simp

theorem execBinRefill_mem (core : Nat) (s : State) : Untouched s (execBinRefill core s) :=
  by
  apply Untouched.next
  repeat' first | rfl | split | (simp; done) | refine (foldl_mem (fun _ _ => ?_) _ _).trans ?_ | dsimp only

theorem execIssuePromotion_mem (team group : Nat) (s : State) : Untouched s (execIssuePromotion team group s) :=
  Untouched.next rfl

theorem execSleepWake_mem (team thr : Nat) (s : State) : Untouched s (execSleepWake team thr s) :=
  by
  apply Untouched.next; simp

theorem execWaitfTimeout_mem (team thr : Nat) (s : State) : Untouched s (execWaitfTimeout team thr s) :=
  by
  apply Untouched.next; simp

theorem execWaitfWriteWake_mem (team thr : Nat) (s : State) : Untouched s (execWaitfWriteWake team thr s) :=
  by
  apply Untouched.next; simp

theorem execWaitfEarlyWake_mem (team thr : Nat) (s : State) : Untouched s (execWaitfEarlyWake team thr s) :=
  by
  apply Untouched.next; simp

theorem execPageWalk_mem (core fn : Nat) (va : DWord) (s : State) : Untouched s (execPageWalk core fn va s) :=
  by
  apply Untouched.next; simp

theorem execStorePerform_wf (core : Nat) (s : State) : Canonical s (execStorePerform core s) :=
  by
  apply Canonical.next; intro h; simp [h]

theorem execScratchpadLineArrival_wf (op team line : Nat) (s : State) : Canonical s (execScratchpadLineArrival op team line s) :=
  by
  apply Canonical.next; intro h; simp [h]

theorem execPannierSend_wf (entry : Nat) (s : State) : Canonical s (execPannierSend entry s) :=
  by
  apply Canonical.next; intro h; simp [h]

theorem execResidencyExpire_mem (line : Nat) (s : State) : Untouched s (execResidencyExpire line s) :=
  Untouched.next rfl

theorem execCopyComplete_wf (op : Nat) (s : State) : Canonical s (execCopyComplete op s) :=
  by
  apply Canonical.next; intro h
  repeat' first | assumption | split | (simp [*]; done)

theorem execCopyFault_wf (op : Nat) (s : State) : Canonical s (execCopyFault op s) :=
  by
  apply Canonical.next; intro h
  repeat' first | assumption | split | (simp [*]; done)

theorem execMmaGrant_mem (hub : Nat) (s : State) : Untouched s (execMmaGrant hub s) :=
  by
  apply Untouched.next; simp

theorem execReservationPromotion_mem (hub call : Nat) (s : State) : Untouched s (execReservationPromotion hub call s) :=
  Untouched.next rfl

theorem execMmaCallEnd_wf (hub : Nat) (s : State) : Canonical s (execMmaCallEnd hub s) :=
  by
  apply Canonical.next; intro h; simp [h]

theorem execBufferEviction_mem (hub buf : Nat) (s : State) : Untouched s (execBufferEviction hub buf s) :=
  by
  apply Untouched.next; simp

theorem execHeldSumFlush_wf (hub buf : Nat) (s : State) : Canonical s (execHeldSumFlush hub buf s) :=
  by
  apply Canonical.next; intro h; simp [h]

theorem execAttnStop_wf (op : Nat) (s : State) : Canonical s (execAttnStop op s) :=
  by
  apply Canonical.next; intro h; simp [h]

theorem execKvOpComplete_wf (op : Nat) (s : State) : Canonical s (execKvOpComplete op s) :=
  by
  apply Canonical.next; intro h; simp [h]

theorem execTapComplete_wf (op : Nat) (s : State) : Canonical s (execTapComplete op s) :=
  by
  apply Canonical.next; intro h; simp [h]

theorem execTapGenerationRetire_mem (s : State) : Untouched s (execTapGenerationRetire s) :=
  by
  apply Untouched.next; simp

theorem execSpokeComplete_mem (ctx : Nat) (s : State) : Untouched s (execSpokeComplete ctx s) :=
  by
  apply Untouched.next; simp

theorem execSnapshotLatch_mem (s : State) : Untouched s (execSnapshotLatch s) :=
  by
  apply Untouched.next; simp

theorem execQbaseWrite_mem (q : Nat) (v : DWord) (s : State) : Untouched s (execQbaseWrite q v s) :=
  by
  apply Untouched.next
  repeat' first | rfl | split | (simp; done)

theorem execQlog2Write_mem (q : Nat) (v : Word) (s : State) : Untouched s (execQlog2Write q v s) :=
  by
  apply Untouched.next
  repeat' first | rfl | split | (simp; done)

theorem execQueueEnable_mem (q : Nat) (s : State) : Untouched s (execQueueEnable q s) :=
  by
  apply Untouched.next
  repeat' first | rfl | split | (simp; done) | refine (foldl_mem (fun _ _ => ?_) _ _).trans ?_ | dsimp only

theorem execQtailWrite_mem (q : Nat) (v : DWord) (s : State) : Untouched s (execQtailWrite q v s) :=
  by
  apply Untouched.next
  repeat' first | rfl | split | (simp; done) | refine (foldl_mem (fun _ _ => ?_) _ _).trans ?_ | dsimp only

theorem execErrClear_mem (q : Nat) (s : State) : Untouched s (execErrClear q s) :=
  by
  apply Untouched.next
  repeat' first | rfl | split | (simp; done)

theorem execPacketRead_mem (q : Nat) (s : State) : Untouched s (execPacketRead q s) :=
  by
  apply Untouched.next; simp

theorem execDependencePoll_mem (q : Nat) (s : State) : Untouched s (execDependencePoll q s) :=
  by
  apply Untouched.next
  repeat' first | rfl | split | (simp; done)

theorem execPlacement_mem (q : Nat) (s : State) : Untouched s (execPlacement q s) :=
  by
  apply Untouched.next; simp

theorem execCsigWrite_wf (grid : Nat) (s : State) : Canonical s (execCsigWrite grid s) :=
  by
  apply Canonical.next; intro h; simp [h]

theorem execRemoteWriteArrival_wf (src seq pa : Nat) (bytes : List Byte) (trapped : Bool) (s : State) : Canonical s (execRemoteWriteArrival src seq pa bytes trapped s) :=
  by
  apply Canonical.next; intro h; simp [h]

theorem execRemoteAccessArrival_wf (src : Sender) (pa : Nat) (acc : AgentAccess) (trapped : Bool) (s : State) :
    Canonical s (execRemoteAccessArrival src pa acc trapped s) := by
  apply Canonical.next; intro h; simp [h]

theorem execHostWriteArrival_wf (link pa : Nat) (bytes : List Byte) (s : State) : Canonical s (execHostWriteArrival link pa bytes s) :=
  by
  apply Canonical.next; intro h
  repeat' first | assumption | split | (simp [*]; done)

theorem execHostReadArrival_mem (link pa len : Nat) (s : State) : Untouched s (execHostReadArrival link pa len s) :=
  by
  apply Untouched.next
  repeat' first | rfl | split | (simp; done)

theorem execAtomicopCompletion_wf (op : Nat) (supported : Bool) (s : State) : Canonical s (execAtomicopCompletion op supported s) :=
  by
  apply Canonical.next; intro h; simp [h]

theorem execFabricLinkFailure_mem (port : Nat) (s : State) : Untouched s (execFabricLinkFailure port s) :=
  by
  apply Untouched.next
  repeat' first | rfl | split

theorem execDeviceLost_mem (node : Nat) (s : State) : Untouched s (execDeviceLost node s) :=
  by
  apply Untouched.next
  repeat' first | rfl | split

theorem execPcieLinkDown_mem (link : Nat) (s : State) : Untouched s (execPcieLinkDown link s) :=
  by
  apply Untouched.next; simp

theorem execCorrectedError_mem (p : ErrorPlace) (s : State) : Untouched s (execCorrectedError p s) :=
  Untouched.next rfl

theorem execUncorrectableError_mem (u : ErrorSite) (s : State) : Untouched s (execUncorrectableError u s) :=
  by
  apply Untouched.next; simp

theorem execUnitFailure_mem (u : DeviceUnit) (s : State) : Untouched s (execUnitFailure u s) := by
  apply Untouched.next; simp

theorem execThermalTrip_mem (s : State) : Untouched s (execThermalTrip s) :=
  Untouched.next rfl

theorem execCurrentLimit_mem (s : State) : Untouched s (execCurrentLimit s) :=
  Untouched.next (foldl_mem (fun s c => State.closeCore_mem s c) _ _)

theorem execHostReset_wf (s : State) : Canonical s (execHostReset s) :=
  by
  apply Canonical.next; intro h; simp [h]

theorem execAttestation_mem (s : State) : Untouched s (execAttestation s) :=
  by
  apply Untouched.next
  repeat' first | rfl | split

theorem execHealth_mem (s : State) : Untouched s (execHealth s) :=
  Untouched.next rfl

theorem execSnapread_mem (s : State) : Untouched s (execSnapread s) :=
  Untouched.next rfl

theorem execSnapRearm_mem (s : State) : Untouched s (execSnapRearm s) :=
  Untouched.next rfl

theorem execSnaptrig_mem (s : State) : Untouched s (execSnaptrig s) :=
  by
  apply Untouched.next; simp

theorem execFwupdate_mem (image : FwImage) (signature : List Byte) (s : State) : Untouched s (execFwupdate image signature s) :=
  by
  apply Untouched.next
  repeat' first | rfl | split

theorem execReset_wf (s : State) : Canonical s (execReset s) :=
  by
  apply Canonical.next; intro h; simp [h]

theorem execPcap_mem (watts : Nat) (s : State) : Untouched s (execPcap watts s) :=
  by
  apply Untouched.next
  repeat' first | rfl | split

theorem execFence_mem (u : DeviceUnit) (s : State) : Untouched s (execFence u s) := by
  apply Untouched.next
  split <;> simp

theorem execFenceClear_mem (s : State) : Untouched s (execFenceClear s) :=
  Untouched.next rfl

theorem execFwcommit_mem (s : State) : Untouched s (execFwcommit s) :=
  Untouched.next rfl

theorem execPcieLinkUp_mem (link : Nat) (s : State) : Untouched s (execPcieLinkUp link s) :=
  by
  apply Untouched.next; simp

theorem execRemoteWriteAcknowledged_mem (dst seq : Nat) (s : State) : Untouched s (execRemoteWriteAcknowledged dst seq s) :=
  Untouched.next rfl

theorem execHostAtomicopArrival_wf (link pa : Nat) (acc : AgentAccess) (s : State) : Canonical s (execHostAtomicopArrival link pa acc s) :=
  by
  apply Canonical.next; intro h
  repeat' first | assumption | split | (simp [*]; done)

theorem execPowerLoss_wf (s : State) : Canonical s (execPowerLoss s) :=
  Canonical.next (State.reboot_wf s)

/-- No instruction, word or step takes memory out of its canonical form. -/
theorem exec_canonical (i : Instr) (s : State) : Canonical s (exec i s) := by
  cases i with
  | nop => exact (execNop_mem _).canonical
  | exit => exact (execExit_mem _).canonical
  | reform => exact (execReform_mem _).canonical
  | reformB => exact (execReformB_mem _).canonical
  | yield => exact (execYield_mem _).canonical
  | bkpt => exact (execBkpt_mem _).canonical
  | iadd => exact (execIadd_mem _ _ _ _).canonical
  | isub => exact (execIsub_mem _ _ _ _).canonical
  | imul => exact (execImul_mem _ _ _ _).canonical
  | imulhS => exact (execImulhS_mem _ _ _ _).canonical
  | imulhN => exact (execImulhN_mem _ _ _ _).canonical
  | imad => exact (execImad_mem _ _ _ _).canonical
  | iminS => exact (execIminS_mem _ _ _ _).canonical
  | iminN => exact (execIminN_mem _ _ _ _).canonical
  | imaxS => exact (execImaxS_mem _ _ _ _).canonical
  | imaxN => exact (execImaxN_mem _ _ _ _).canonical
  | iabs => exact (execIabs_mem _ _ _).canonical
  | and => exact (execAnd_mem _ _ _ _).canonical
  | or => exact (execOr_mem _ _ _ _).canonical
  | xor => exact (execXor_mem _ _ _ _).canonical
  | andn => exact (execAndn_mem _ _ _ _).canonical
  | shl => exact (execShl_mem _ _ _ _).canonical
  | shr => exact (execShr_mem _ _ _ _).canonical
  | sha => exact (execSha_mem _ _ _ _).canonical
  | rotl => exact (execRotl_mem _ _ _ _).canonical
  | popc => exact (execPopc_mem _ _ _).canonical
  | clz => exact (execClz_mem _ _ _).canonical
  | bfx => exact (execBfx_mem _ _ _ _).canonical
  | bfi => exact (execBfi_mem _ _ _ _).canonical
  | isetEq => exact (execIsetEq_mem _ _ _ _).canonical
  | isetNe => exact (execIsetNe_mem _ _ _ _).canonical
  | isetLt => exact (execIsetLt_mem _ _ _ _).canonical
  | isetLe => exact (execIsetLe_mem _ _ _ _).canonical
  | isetGt => exact (execIsetGt_mem _ _ _ _).canonical
  | isetGe => exact (execIsetGe_mem _ _ _ _).canonical
  | isetLtN => exact (execIsetLtN_mem _ _ _ _).canonical
  | isetLeN => exact (execIsetLeN_mem _ _ _ _).canonical
  | isetGtN => exact (execIsetGtN_mem _ _ _ _).canonical
  | isetGeN => exact (execIsetGeN_mem _ _ _ _).canonical
  | mov => exact (execMov_mem _ _ _).canonical
  | sel => exact (execSel_mem _ _ _ _).canonical
  | add64 => exact (execAdd64_mem _ _ _ _).canonical
  | sub64 => exact (execSub64_mem _ _ _ _).canonical
  | shl64 => exact (execShl64_mem _ _ _ _).canonical
  | shr64 => exact (execShr64_mem _ _ _ _).canonical
  | mul64 => exact (execMul64_mem _ _ _ _).canonical
  | lea0 => exact (execLea0_mem _ _ _ _).canonical
  | lea1 => exact (execLea1_mem _ _ _ _).canonical
  | lea2 => exact (execLea2_mem _ _ _ _).canonical
  | lea3 => exact (execLea3_mem _ _ _ _).canonical
  | iset64Eq => exact (execIset64Eq_mem _ _ _ _).canonical
  | iset64LtN => exact (execIset64LtN_mem _ _ _ _).canonical
  | iaddi => exact (execIaddi_mem _ _ _ _).canonical
  | andi => exact (execAndi_mem _ _ _ _).canonical
  | ori => exact (execOri_mem _ _ _ _).canonical
  | shli => exact (execShli_mem _ _ _ _).canonical
  | shri => exact (execShri_mem _ _ _ _).canonical
  | ldi => exact (execLdi_mem _ _ _).canonical
  | ldhi => exact (execLdhi_mem _ _ _).canonical
  | win => exact (execWin_mem _ _).canonical
  | part => exact (execPart_mem _ _).canonical
  | prio => exact (execPrio_mem _ _).canonical
  | sleep => exact (execSleep_mem _ _).canonical
  | waitf => exact (execWaitf_mem _ _ _).canonical
  | bra => exact (execBra_mem _ _).canonical
  | beqz => exact (execBeqz_mem _ _ _).canonical
  | bnez => exact (execBnez_mem _ _ _).canonical
  | bltz => exact (execBltz_mem _ _ _).canonical
  | bgez => exact (execBgez_mem _ _ _).canonical
  | call => exact (execCall_mem _ _ _).canonical
  | jmp => exact (execJmp_mem _ _).canonical
  | ret => exact (execRet_mem _ _).canonical
  | callr => exact (execCallr_mem _ _ _).canonical
  | qpost => exact execQpost_wf _ _ _ _ _
  | jdecl => exact (execJdecl_mem _ _ _).canonical
  | jsign => exact (execJsign_mem _ _).canonical
  | jleave => exact (execJleave_mem _ _).canonical
  | jcancel => exact (execJcancel_mem _ _).canonical
  | jstat => exact (execJstat_mem _ _ _).canonical
  | lanePick => exact (execLanePick_mem _ _ _ _).canonical
  | laneBack => exact (execLaneBack_mem _ _ _ _).canonical
  | laneFwd => exact (execLaneFwd_mem _ _ _ _).canonical
  | laneFlip => exact (execLaneFlip_mem _ _ _ _).canonical
  | laneRot => exact (execLaneRot_mem _ _ _ _).canonical
  | pollEvery => exact (execPollEvery_mem _ _ _).canonical
  | pollSome => exact (execPollSome_mem _ _ _).canonical
  | pollMask => exact (execPollMask_mem _ _ _).canonical
  | pollSame => exact (execPollSame_mem _ _ _).canonical
  | pollPres => exact (execPollPres_mem _ _).canonical
  | pollCnt => exact (execPollCnt_mem _ _ _).canonical
  | matchLanes => exact (execMatchLanes_mem _ _ _).canonical
  | mrank => exact (execMrank_mem _ _ _).canonical
  | mcnt => exact (execMcnt_mem _ _ _).canonical
  | mlead => exact (execMlead_mem _ _ _).canonical
  | tscanAddI => exact (execTscanAddI_mem _ _ _).canonical
  | tscanAddF => exact (execTscanAddF_mem _ _ _).canonical
  | tscanMaxS => exact (execTscanMaxS_mem _ _ _).canonical
  | tscanMinS => exact (execTscanMinS_mem _ _ _).canonical
  | tscanExAddI => exact (execTscanExAddI_mem _ _ _).canonical
  | tscanExAddF => exact (execTscanExAddF_mem _ _ _).canonical
  | tscanSegAddI => exact (execTscanSegAddI_mem _ _ _ _).canonical
  | tscanSegAddF => exact (execTscanSegAddF_mem _ _ _ _).canonical
  | tredAddI => exact (execTredAddI_mem _ _ _).canonical
  | tredAddF => exact (execTredAddF_mem _ _ _).canonical
  | tredMaxS => exact (execTredMaxS_mem _ _ _).canonical
  | tredMinS => exact (execTredMinS_mem _ _ _).canonical
  | tredMaxF => exact (execTredMaxF_mem _ _ _).canonical
  | tredMinF => exact (execTredMinF_mem _ _ _).canonical
  | tredAnd => exact (execTredAnd_mem _ _ _).canonical
  | tredOr => exact (execTredOr_mem _ _ _).canonical
  | ldlB => exact (execLdlB_mem _ _ _ _ _).canonical
  | ldlH => exact (execLdlH_mem _ _ _ _ _).canonical
  | ldlW => exact (execLdlW_mem _ _ _ _ _).canonical
  | ldlD => exact (execLdlD_mem _ _ _ _ _).canonical
  | ldlQ => exact (execLdlQ_mem _ _ _ _ _).canonical
  | stlB => exact (execStlB_mem _ _ _ _ _).canonical
  | stlH => exact (execStlH_mem _ _ _ _ _).canonical
  | stlW => exact (execStlW_mem _ _ _ _ _).canonical
  | stlD => exact (execStlD_mem _ _ _ _ _).canonical
  | stlQ => exact (execStlQ_mem _ _ _ _ _).canonical
  | atl => exact (execAtl_mem _ _ _ _ _).canonical
  | tap => exact (execTap_mem _ _ _ _).canonical
  | tapNorm => exact (execTapNorm_mem _ _ _ _).canonical
  | tapq => exact (execTapq_mem _ _ _).canonical
  | spoke => exact (execSpoke_mem _ _ _ _).canonical
  | barInit => exact (execBarInit_mem _ _ _).canonical
  | barArrive => exact (execBarArrive_mem _ _).canonical
  | barWait => exact (execBarWait_mem _ _ _).canonical
  | barSync => exact (execBarSync_mem _ _).canonical
  | barExpect => exact (execBarExpect_mem _ _ _).canonical
  | barPhase => exact (execBarPhase_mem _ _ _).canonical
  | barInval => exact (execBarInval_mem _ _).canonical
  | fadd => exact (execFadd_mem _ _ _ _).canonical
  | fsub => exact (execFsub_mem _ _ _ _).canonical
  | fmul => exact (execFmul_mem _ _ _ _).canonical
  | ffma => exact (execFfma_mem _ _ _ _).canonical
  | fmin => exact (execFmin_mem _ _ _ _).canonical
  | fmax => exact (execFmax_mem _ _ _ _).canonical
  | fneg => exact (execFneg_mem _ _ _).canonical
  | fabs => exact (execFabs_mem _ _ _).canonical
  | fsetEq => exact (execFsetEq_mem _ _ _ _).canonical
  | fsetNe => exact (execFsetNe_mem _ _ _ _).canonical
  | fsetLt => exact (execFsetLt_mem _ _ _ _).canonical
  | fsetLe => exact (execFsetLe_mem _ _ _ _).canonical
  | fsetGt => exact (execFsetGt_mem _ _ _ _).canonical
  | fsetGe => exact (execFsetGe_mem _ _ _ _).canonical
  | fsetUn => exact (execFsetUn_mem _ _ _ _).canonical
  | fclass => exact (execFclass_mem _ _ _).canonical
  | frcp => exact (execFrcp_mem _ _ _).canonical
  | frsq => exact (execFrsq_mem _ _ _).canonical
  | fsqrt => exact (execFsqrt_mem _ _ _).canonical
  | fex2 => exact (execFex2_mem _ _ _).canonical
  | flg2 => exact (execFlg2_mem _ _ _).canonical
  | fexp => exact (execFexp_mem _ _ _).canonical
  | fln => exact (execFln_mem _ _ _).canonical
  | fsinp => exact (execFsinp_mem _ _ _).canonical
  | fcosp => exact (execFcosp_mem _ _ _).canonical
  | ftanh => exact (execFtanh_mem _ _ _).canonical
  | fsig => exact (execFsig_mem _ _ _).canonical
  | h2add => exact (execH2add_mem _ _ _ _).canonical
  | h2mul => exact (execH2mul_mem _ _ _ _).canonical
  | h2fma => exact (execH2fma_mem _ _ _ _).canonical
  | b2add => exact (execB2add_mem _ _ _ _).canonical
  | b2mul => exact (execB2mul_mem _ _ _ _).canonical
  | b2fma => exact (execB2fma_mem _ _ _ _).canonical
  | xadd => exact (execXadd_mem _ _ _ _).canonical
  | xmul => exact (execXmul_mem _ _ _ _).canonical
  | xexp => exact (execXexp_mem _ _ _).canonical
  | xcvt => exact (execXcvt_mem _ _ _).canonical
  | xfrom => exact (execXfrom_mem _ _ _).canonical
  | xratio => exact (execXratio_mem _ _ _ _).canonical
  | cvt => exact (execCvt_mem _ _ _ _ _ _).canonical
  | bytp => exact (execBytp_mem _ _ _ _).canonical
  | hpk => exact (execHpk_mem _ _ _ _).canonical
  | reqI8 => exact (execReqI8_mem _ _ _ _).canonical
  | reqI4 => exact (execReqI4_mem _ _ _ _).canonical
  | reqN8 => exact (execReqN8_mem _ _ _ _).canonical
  | reqN4 => exact (execReqN4_mem _ _ _ _).canonical
  | rng => exact (execRng_mem _ _ _ _).canonical
  | gumb => exact (execGumb_mem _ _ _).canonical
  | unif => exact (execUnif_mem _ _ _).canonical
  | softmax => exact (execSoftmax_mem _ _ _ _).canonical
  | rmsnE12 => exact (execRmsnE12_mem _ _ _ _).canonical
  | rmsnE14 => exact (execRmsnE14_mem _ _ _ _).canonical
  | rmsnE16 => exact (execRmsnE16_mem _ _ _ _).canonical
  | rmsnE18 => exact (execRmsnE18_mem _ _ _ _).canonical
  | rmsnE20 => exact (execRmsnE20_mem _ _ _ _).canonical
  | kvtag => exact (execKvtag_mem _ _ _ _).canonical
  | bnds => exact (execBnds_mem _ _ _ _).canonical
  | kvmove => exact (execKvmove_mem _ _ _ _).canonical
  | topk => exact (execTopk_mem _ _ _ _).canonical
  | ldgB => exact (execLdgB_mem _ _ _ _ _).canonical
  | ldgH => exact (execLdgH_mem _ _ _ _ _).canonical
  | ldgW => exact (execLdgW_mem _ _ _ _ _).canonical
  | ldgD => exact (execLdgD_mem _ _ _ _ _).canonical
  | ldgQ => exact (execLdgQ_mem _ _ _ _ _).canonical
  | stgB => exact (execStgB_mem _ _ _ _ _).canonical
  | stgH => exact (execStgH_mem _ _ _ _ _).canonical
  | stgW => exact (execStgW_mem _ _ _ _ _).canonical
  | stgD => exact (execStgD_mem _ _ _ _ _).canonical
  | stgQ => exact (execStgQ_mem _ _ _ _ _).canonical
  | ldf => exact (execLdf_mem _ _ _ _ _).canonical
  | stf => exact (execStf_mem _ _ _ _ _).canonical
  | stfRs => exact (execStfRs_mem _ _ _ _ _).canonical
  | pref => exact (execPref_mem _ _ _).canonical
  | cfill => exact (execCfill_mem _ _ _ _).canonical
  | gathW => exact (execGathW_mem _ _ _ _ _).canonical
  | gathD => exact (execGathD_mem _ _ _ _ _).canonical
  | gathF => exact (execGathF_mem _ _ _ _ _).canonical
  | scatW => exact (execScatW_mem _ _ _ _ _).canonical
  | scatD => exact (execScatD_mem _ _ _ _ _).canonical
  | kvrot => exact (execKvrot_mem _ _ _ _ _).canonical
  | copy => exact (execCopy_mem _ _ _ _).canonical
  | bcopy => exact (execBcopy_mem _ _ _ _ _).canonical
  | copyx => exact (execCopyx_mem _ _ _ _).canonical
  | mma => exact (execMma_mem _ _ _ _ _).canonical
  | mmas => exact (execMmas_mem _ _ _ _).canonical
  | accz => exact (execAccz_mem _ _ _ _).canonical
  | attn => exact (execAttn_mem _ _ _ _ _).canonical
  | attnr => exact (execAttnr_mem _ _ _ _ _).canonical
  | kvap => exact (execKvap_mem _ _ _ _ _).canonical
  | kvrq => exact (execKvrq_mem _ _ _ _ _).canonical
  | ldvsW => exact (execLdvsW_mem _ _ _ _ _).canonical
  | ldvsD => exact (execLdvsD_mem _ _ _ _ _).canonical
  | ldvsQ => exact (execLdvsQ_mem _ _ _ _ _).canonical
  | valid => exact (execValid_mem _ _ _ _).canonical
  | verr => exact (execVerr_mem _ _ _ _).canonical
  | casv => exact (execCasv_mem _ _ _ _ _).canonical
  | atom => exact (execAtom_mem _ _ _ _ _).canonical
  | cas => exact (execCas_mem _ _ _ _ _).canonical
  | red => exact (execRed_mem _ _ _ _ _).canonical
  | fenceAcq => exact (execFenceAcq_mem _ _).canonical
  | fenceRel => exact (execFenceRel_mem _ _).canonical
  | fenceAr => exact (execFenceAr_mem _ _).canonical
  | fenceSc => exact (execFenceSc_mem _ _).canonical
  | ldacqW => exact (execLdacqW_mem _ _ _ _ _).canonical
  | ldacqD => exact (execLdacqD_mem _ _ _ _ _).canonical
  | strelW => exact (execStrelW_mem _ _ _ _ _).canonical
  | strelD => exact (execStrelD_mem _ _ _ _ _).canonical
  | trap => exact (execTrap_mem _ _).canonical
  | rett => exact (execRett_mem _).canonical
  | gets => exact (execGets_mem _ _ _).canonical
  | sets => exact (execSets_mem _ _ _).canonical
  | snap => exact (execSnap_mem _).canonical
  | tlbinv => exact (execTlbinv_mem _ _ _).canonical
  | ctxsv => exact (execCtxsv_mem _ _ _).canonical
  | ctxld => exact execCtxld_wf _ _ _
  | halt => exact (execHalt_mem _).canonical
  | tapld => exact (execTapld_mem _ _ _).canonical
  | launch => exact (execLaunch_mem _ _ _ _).canonical
  | haltw => exact (execHaltw_mem _).canonical
  | ldp => exact (execLdp_mem _ _ _ _).canonical
  | ldx => exact (execLdx_mem _ _ _ _).canonical
  | ldval => exact (execLdval_mem _ _ _ _).canonical
  | addw => exact (execAddw_mem _ _ _ _ _).canonical
  | subw => exact (execSubw_mem _ _ _ _ _).canonical
  | cmpw => exact (execCmpw_mem _ _ _ _).canonical
  | bltw => exact (execBltw_mem _ _ _ _).canonical
  | bnew => exact (execBnew_mem _ _ _ _).canonical
  | loop => exact (execLoop_mem _ _ _).canonical
  | skip => exact (execSkip_mem _ _ _).canonical
  | sett => exact (execSett_mem _ _ _).canonical
  | emit => exact (execEmit_mem _ _ _ _).canonical
  | flush => exact (execFlush_mem _ _).canonical
  | bundleEntry => exact (execBundleEntry_mem _ _ _).canonical
  | flagWaitRelease => exact (execFlagWaitRelease_mem _ _ _).canonical
  | operationComplete => exact execOperationComplete_wf _ _
  | binAgeRelease => exact (execBinAgeRelease_mem _ _ _).canonical
  | binIdleRelease => exact (execBinIdleRelease_mem _ _ _).canonical
  | binRefill => exact (execBinRefill_mem _ _).canonical
  | issuePromotion => exact (execIssuePromotion_mem _ _ _).canonical
  | sleepWake => exact (execSleepWake_mem _ _ _).canonical
  | waitfTimeout => exact (execWaitfTimeout_mem _ _ _).canonical
  | waitfWriteWake => exact (execWaitfWriteWake_mem _ _ _).canonical
  | waitfEarlyWake => exact (execWaitfEarlyWake_mem _ _ _).canonical
  | pageWalk => exact (execPageWalk_mem _ _ _ _).canonical
  | storePerform => exact execStorePerform_wf _ _
  | scratchpadLineArrival => exact execScratchpadLineArrival_wf _ _ _ _
  | pannierSend => exact execPannierSend_wf _ _
  | residencyExpire => exact (execResidencyExpire_mem _ _).canonical
  | copyComplete => exact execCopyComplete_wf _ _
  | copyFault => exact execCopyFault_wf _ _
  | mmaGrant => exact (execMmaGrant_mem _ _).canonical
  | reservationPromotion => exact (execReservationPromotion_mem _ _ _).canonical
  | mmaCallEnd => exact execMmaCallEnd_wf _ _
  | bufferEviction => exact (execBufferEviction_mem _ _ _).canonical
  | heldSumFlush => exact execHeldSumFlush_wf _ _ _
  | attnStop => exact execAttnStop_wf _ _
  | kvOpComplete => exact execKvOpComplete_wf _ _
  | tapComplete => exact execTapComplete_wf _ _
  | tapGenerationRetire => exact (execTapGenerationRetire_mem _).canonical
  | spokeComplete => exact (execSpokeComplete_mem _ _).canonical
  | snapshotLatch => exact (execSnapshotLatch_mem _).canonical
  | qbaseWrite => exact (execQbaseWrite_mem _ _ _).canonical
  | qlog2Write => exact (execQlog2Write_mem _ _ _).canonical
  | queueEnable => exact (execQueueEnable_mem _ _).canonical
  | qtailWrite => exact (execQtailWrite_mem _ _ _).canonical
  | errClear => exact (execErrClear_mem _ _).canonical
  | packetRead => exact (execPacketRead_mem _ _).canonical
  | dependencePoll => exact (execDependencePoll_mem _ _).canonical
  | placement => exact (execPlacement_mem _ _).canonical
  | csigWrite => exact execCsigWrite_wf _ _
  | remoteWriteArrival => exact execRemoteWriteArrival_wf _ _ _ _ _ _
  | remoteAccessArrival => exact execRemoteAccessArrival_wf _ _ _ _ _
  | hostWriteArrival => exact execHostWriteArrival_wf _ _ _ _
  | hostReadArrival => exact (execHostReadArrival_mem _ _ _ _).canonical
  | atomicopCompletion => exact execAtomicopCompletion_wf _ _ _
  | fabricLinkFailure => exact (execFabricLinkFailure_mem _ _).canonical
  | deviceLost => exact (execDeviceLost_mem _ _).canonical
  | pcieLinkDown => exact (execPcieLinkDown_mem _ _).canonical
  | correctedError u => exact (execCorrectedError_mem u _).canonical
  | uncorrectableError => exact (execUncorrectableError_mem _ _).canonical
  | unitFailure => exact (execUnitFailure_mem _ _).canonical
  | thermalTrip => exact (execThermalTrip_mem _).canonical
  | currentLimit => exact (execCurrentLimit_mem _).canonical
  | hostReset => exact execHostReset_wf _
  | attestation => exact (execAttestation_mem _).canonical
  | health => exact (execHealth_mem _).canonical
  | snapread => exact (execSnapread_mem _).canonical
  | snapRearm => exact (execSnapRearm_mem _).canonical
  | snaptrig => exact (execSnaptrig_mem _).canonical
  | fwupdate => exact (execFwupdate_mem _ _ _).canonical
  | reset => exact execReset_wf _
  | pcap => exact (execPcap_mem _ _).canonical
  | fence => exact (execFence_mem _ _).canonical
  | fenceClear => exact (execFenceClear_mem _).canonical
  | fwcommit => exact (execFwcommit_mem _).canonical
  | pcieLinkUp => exact (execPcieLinkUp_mem _ _).canonical
  | remoteWriteAcknowledged => exact (execRemoteWriteAcknowledged_mem _ _ _).canonical
  | hostAtomicopArrival => exact execHostAtomicopArrival_wf _ _ _ _
  | powerLoss => exact execPowerLoss_wf _

/-- What a move leads to: an instruction to execute with memory as it was, or a state with memory in canonical form if it
began so. -/
def Stage.Keeps (s : State) : Stage → Prop
  | .run _ t => t.mem = s.mem
  | .done t => Memory.wf s.mem = true → Memory.wf t.mem = true

theorem State.issueGroup_keeps (s : State) (k : Nat) (t : Team) (g : Group) : (s.issueGroup k t g).Keeps s := by
  unfold State.issueGroup
  repeat' first | rfl | split | (exact fun h => h) | (simp [Stage.Keeps]; done)

theorem State.takeTurn_keeps (s : State) (hub : Nat) : (s.takeTurn hub).Keeps s := by
  unfold State.takeTurn
  split
  · exact fun h => h
  · dsimp only
    repeat' first | exact rfl | exact fun h => h | split

theorem State.issue_keeps (s : State) (core slot : Nat) : (s.issue core slot).Keeps s := by
  unfold State.issue
  split
  · exact fun h => h
  · split
    · split
      · exact fun h => h
      · exact s.takeTurn_keeps _
    · split
      · exact fun h => h
      · split
        · exact fun h => h
        · next k t g _ =>
          dsimp only
          generalize (if s.aloneInHub core slot = true then [] else (s.hubSlots core).filterMap (fun x => s.orderedPick x.1 x.2)) = rivals
          split
          · have h := State.issueGroup_keeps
              { s.passOver core slot k g.members with issued := (core, slot) :: (s.passOver core slot k g.members).issued } k t g
            revert h
            cases State.issueGroup _ k t g <;> simp [Stage.Keeps]
          · show Memory.wf s.mem = true → Memory.wf (List.foldl State.startTurn s _).mem = true
            intro h; rw [foldl_mem (fun s p => State.startTurn_mem s p)]; exact h

theorem State.walkerMove_keeps (s : State) (ctx : Nat) : (s.walkerMove ctx).Keeps s := by
  unfold State.walkerMove
  repeat' first | rfl | split | (exact fun h => h) | (simp [Stage.Keeps]; done)

theorem State.move_keeps (s : State) (m : Move) : (s.move m).Keeps s := by
  cases m with
  | issue core slot => exact s.issue_keeps core slot
  | walker ctx => exact s.walkerMove_keeps ctx
  | engine op => exact State.engineMove_wf s op
  | matrix hub => intro h; simp [h]
  | flush hub buf => intro h; simp [h]
  | event i =>
    show Stage.Keeps s (if isDeviceStep i then .run i s else .done s)
    split
    · rfl
    · exact fun h => h
  | input i =>
    show Stage.Keeps s (match i.row with | some r => .run r s | none => .done (s.takeInput i))
    cases i.row with
    | some _ => exact rfl
    | none => intro h; simp [h]
  | tick n => exact State.cycles_wf n s

/-- What the next step leads to. -/
theorem stage_keeps (s : State) : (stage s).Keeps s := by
  unfold stage State.takeMove
  dsimp only
  split
  · next m ms _ => exact State.move_keeps { s with agenda := ms, fresh := s.fresh + 1, cur := { s.cur with promo := 0 } } m
  · exact State.move_keeps { s with fresh := s.fresh + 1, cur := { s.cur with promo := 0 } } s.defaultMove

end Sys2Proof.Machine
end

