-- ==== Sys2Proof/Laws/Integer.lean ====
section
/-!
SUPPORT. The results of the integer instructions as the manual's tables compute them, in integers and numbers, equal those of
their meanings.
-/

namespace Sys2Proof.Machine

theorem mulHighS_eq (a b : Word) : mulHighS a b = BitVec.ofInt 32 (a.toInt * b.toInt / 2 ^ 32) := by
  have ha := BitVec.toInt_lt (x := a); have ha' := BitVec.le_toInt (x := a)
  have hb := BitVec.toInt_lt (x := b); have hb' := BitVec.le_toInt (x := b)
  have e : (a.signExtend 64 * b.signExtend 64) = BitVec.ofInt 64 (a.toInt * b.toInt) := by
    apply BitVec.eq_of_toInt_eq
    rw [BitVec.toInt_mul, BitVec.toInt_ofInt, BitVec.toInt_signExtend_of_le (by omega), BitVec.toInt_signExtend_of_le (by omega)]
  unfold mulHighS
  rw [e]
  apply BitVec.eq_of_toNat_eq
  generalize a.toInt * b.toInt = z
  simp only [BitVec.truncate_eq_setWidth, BitVec.toNat_setWidth, BitVec.toNat_ushiftRight, BitVec.toNat_ofInt, Nat.shiftRight_eq_div_pow]
  norm_num
  omega
theorem absWord_eq (a : Word) : absWord a = if a.toInt < 0 then BitVec.ofInt 32 (-a.toInt) else a := by
  unfold absWord
  rw [BitVec.msb_eq_toInt]
  by_cases h : a.toInt < 0
  · simp only [h, decide_true, if_true]; apply BitVec.eq_of_toInt_eq; rw [BitVec.toInt_sub, BitVec.toInt_ofInt]; simp
  · simp [h]
theorem sha_eq (a b : Word) : a.sshiftRight b.toNat = if 32 ≤ b.toNat then (if a.toInt < 0 then 0xFFFFFFFF#32 else 0) else BitVec.ofInt 32 (a.toInt / 2 ^ b.toNat) := by
  have ha := BitVec.toInt_lt (x := a); have ha' := BitVec.le_toInt (x := a)
  have e : a.sshiftRight b.toNat = BitVec.ofInt 32 (a.toInt / 2 ^ b.toNat) := by
    unfold BitVec.sshiftRight; rw [Int.shiftRight_eq_div_pow]
    simp
  split
  · next h =>
    rw [e]
    have hp : (2:Int) ^ 32 ≤ 2 ^ b.toNat := pow_le_pow_right₀ (by norm_num) h
    split
    · next hn =>
      have : a.toInt / 2 ^ b.toNat = -1 := by
        rw [Int.ediv_eq_iff_of_pos (by positivity)]; constructor <;> omega
      rw [this]; rfl
    · next hn =>
      have : a.toInt / 2 ^ b.toNat = 0 := Int.ediv_eq_zero_of_lt (by omega) (by omega)
      rw [this]; rfl
  · exact e
theorem countBits_eq (a : Word) (n : Nat) : countBits a n = ((List.range n).filter (fun k => a.getLsbD k)).length := by
  induction n with
  | zero => rfl
  | succ n ih => 
    rw [List.range_succ, List.filter_append, List.length_append, ← ih]
    show countBits a n + (if a.getLsbD n then 1 else 0) = _
    cases h : a.getLsbD n <;> simp [h]
theorem leadZeros_eq (a : Word) (n : Nat) (h : a.toNat < 2 ^ n) : leadZeros a n = if a.toNat = 0 then n else n - 1 - Nat.log2 a.toNat := by
  induction n with
  | zero => simp at h; simp [leadZeros, h]
  | succ n ih =>
    unfold leadZeros
    by_cases hb : a.getLsbD n = true
    · have hn : 2 ^ n ≤ a.toNat := by
        rw [BitVec.getLsbD] at hb; exact Nat.ge_two_pow_of_testBit hb
      have h0 : a.toNat ≠ 0 := by have := Nat.two_pow_pos n; omega
      have : Nat.log2 a.toNat = n := by rw [Nat.log2_eq_iff h0]; exact ⟨hn, h⟩
      simp [hb, h0, this]
    · have hn : a.toNat < 2 ^ n := by
        rw [BitVec.getLsbD] at hb
        by_contra hc
        have h1 : a.toNat / 2 ^ n = 1 := by
          rw [Nat.div_eq_iff (Nat.two_pow_pos n)]; rw [pow_succ] at h; omega
        apply hb
        rw [Nat.testBit_eq_decide_div_mod_eq, h1]; rfl
      rw [if_neg hb, ih hn]
      split
      · rfl
      · next h0 => have := (Nat.log2_lt h0).2 hn; omega

theorem rotl_eq (a : Word) (k : Nat) (h : k < 32) : a.rotateLeft k = BitVec.ofNat 32 (a.toNat * 2 ^ k ||| a.toNat / 2 ^ (32 - k)) := by
  have ha := a.isLt
  apply BitVec.eq_of_toNat_eq
  rw [BitVec.toNat_rotateLeft, BitVec.toNat_ofNat, Nat.or_mod_two_pow, Nat.shiftLeft_eq, Nat.shiftRight_eq_div_pow, Nat.mod_eq_of_lt h]
  congr 1
  rw [Nat.mod_eq_of_lt]
  exact lt_of_le_of_lt (Nat.div_le_self _ _) ha
theorem lowMask_toNat (w : Nat) (h : w ≤ 32) : (lowMask w).toNat = 2 ^ w - 1 := by
  unfold lowMask
  rw [BitVec.toNat_ofNat, Nat.mod_eq_of_lt]
  have := Nat.pow_le_pow_right (n := 2) (by norm_num) h
  have := Nat.two_pow_pos w
  omega
theorem fieldOf_eq (b : Word) : fieldOf b = if 32 ≤ fieldOf' b 0 8 ∨ fieldOf' b 8 8 = 0 then (0, 0)
    else (fieldOf' b 0 8, min (fieldOf' b 0 8 + fieldOf' b 8 8) 32 - fieldOf' b 0 8) := rfl
theorem fieldExtract_eq (a b : Word) : fieldExtract a b =
    if 32 ≤ fieldOf' b 0 8 ∨ fieldOf' b 8 8 = 0 then 0
    else BitVec.ofNat 32 (fieldOf' a (fieldOf' b 0 8) (min (fieldOf' b 0 8 + fieldOf' b 8 8) 32 - fieldOf' b 0 8)) := by
  unfold fieldExtract
  rw [fieldOf_eq]
  split
  · simp [lowMask]
  · next h =>
    apply BitVec.eq_of_toNat_eq
    rw [BitVec.toNat_and, lowMask_toNat _ (by omega), Nat.and_two_pow_sub_one_eq_mod, BitVec.toNat_ushiftRight, Nat.shiftRight_eq_div_pow,
      BitVec.toNat_ofNat]
    unfold fieldOf'
    have := a.isLt
    rw [Nat.mod_eq_of_lt (b := 2 ^ 32)]
    exact lt_of_le_of_lt (Nat.mod_le _ _) (lt_of_le_of_lt (Nat.div_le_self _ _) this)
theorem fieldInsert_eq (d a b : Word) : fieldInsert d a b =
    if 32 ≤ fieldOf' b 0 8 ∨ fieldOf' b 8 8 = 0 then d
    else BitVec.ofNat 32 (2 ^ fieldOf' b 0 8 * (2 ^ (min (fieldOf' b 0 8 + fieldOf' b 8 8) 32 - fieldOf' b 0 8) *
      (d.toNat / 2 ^ min (fieldOf' b 0 8 + fieldOf' b 8 8) 32) +
      fieldOf' a 0 (min (fieldOf' b 0 8 + fieldOf' b 8 8) 32 - fieldOf' b 0 8)) + fieldOf' d 0 (fieldOf' b 0 8)) := by
  unfold fieldInsert
  rw [fieldOf_eq]
  split
  · simp [lowMask]
    exact BitVec.and_allOnes
  · next h =>
    generalize fieldOf' b 0 8 = p at *
    generalize fieldOf' b 8 8 = n at *
    obtain ⟨w, hw⟩ : ∃ w, min (p + n) 32 = p + w := ⟨min (p + n) 32 - p, by omega⟩
    rw [hw]
    have hw' : p + w ≤ 32 := by omega
    simp only [Nat.add_sub_cancel_left]
    apply BitVec.eq_of_getLsbD_eq
    intro i hi
    have hm (j : Nat) : (lowMask w).getLsbD j = decide (j < w) := by
      rw [BitVec.getLsbD, lowMask_toNat w (by omega), Nat.testBit_two_pow_sub_one]
    simp only [BitVec.getLsbD_or, BitVec.getLsbD_and, BitVec.getLsbD_not, BitVec.getLsbD_shiftLeft, hm, hi, decide_true, Bool.true_and]
    rw [BitVec.getLsbD, BitVec.getLsbD, BitVec.getLsbD, BitVec.toNat_ofNat, Nat.testBit_mod_two_pow]
    unfold fieldOf'
    rw [Nat.testBit_two_pow_mul_add _ (Nat.mod_lt _ (Nat.two_pow_pos p))]
    simp only [pow_zero, Nat.div_one, hi, decide_true, Bool.true_and]
    by_cases h1 : i < p
    · simp [h1, Nat.testBit_mod_two_pow]
    · rw [if_neg h1, Nat.testBit_two_pow_mul_add _ (Nat.mod_lt _ (Nat.two_pow_pos w))]
      by_cases h2 : i - p < w
      · simp [h1, h2, Nat.testBit_mod_two_pow]
      · rw [if_neg h2, Nat.testBit_div_two_pow]
        simp [h1, h2, show i - p - w + (p + w) = i by omega]

theorem onesIf_eq (c : Prop) [Decidable c] (b : Bool) (h : b = decide c) : onesIf c = Word.ofBool b := by
  subst h
  unfold onesIf Word.ofBool
  by_cases c <;> simp [*]

theorem ofNat_add (a b : Word) : BitVec.ofNat 32 (a.toNat + b.toNat) = a + b := by
  apply BitVec.eq_of_toNat_eq; simp

theorem ofInt_sub (a b : Word) : BitVec.ofInt 32 (a.toInt - b.toInt) = a - b := by
  apply BitVec.eq_of_toInt_eq; rw [BitVec.toInt_ofInt, BitVec.toInt_sub]

theorem ofNat_mul (a b : Word) : BitVec.ofNat 32 (a.toNat * b.toNat) = a * b := by
  apply BitVec.eq_of_toNat_eq; simp

theorem ofNat_mad (a b d : Word) : BitVec.ofNat 32 (a.toNat * b.toNat + d.toNat) = a * b + d := by
  apply BitVec.eq_of_toNat_eq; simp

theorem mulHighN_eq (a b : Word) : mulHighN a b = BitVec.ofNat 32 (a.toNat * b.toNat / 2 ^ 32) := by
  have h : a.toNat * b.toNat < 2 ^ 64 := by
    have := Nat.mul_lt_mul'' a.isLt b.isLt
    simpa using this
  unfold mulHighN
  apply BitVec.eq_of_toNat_eq
  simp [Nat.shiftRight_eq_div_pow]
  omega

theorem minS_eq (a b : Word) : minS a b = if a.toInt ≤ b.toInt then a else b := by
  unfold minS; rw [BitVec.slt_eq_decide]; split <;> split <;> first | rfl | (simp at *; omega)
theorem minN_eq (a b : Word) : minN a b = if a.toNat ≤ b.toNat then a else b := by
  unfold minN; rw [BitVec.ult_eq_decide]; split <;> split <;> first | rfl | (simp at *; omega)
theorem maxS_eq (a b : Word) : maxS a b = if a.toInt ≤ b.toInt then b else a := by
  unfold maxS; rw [BitVec.slt_eq_decide]
  split <;> split <;> first | rfl | (simp at *; omega) | exact BitVec.eq_of_toInt_eq (by simp at *; omega)
theorem maxN_eq (a b : Word) : maxN a b = if a.toNat ≤ b.toNat then b else a := by
  unfold maxN; rw [BitVec.ult_eq_decide]
  split <;> split <;> first | rfl | (simp at *; omega) | exact BitVec.eq_of_toNat_eq (by simp at *; omega)

theorem shl_eq (w n : Nat) (a : BitVec w) : a <<< n = if w ≤ n then 0 else BitVec.ofNat w (a.toNat * 2 ^ n) := by
  apply BitVec.eq_of_toNat_eq
  split
  · next h =>
    simp [Nat.shiftLeft_eq]
    exact Nat.mod_eq_zero_of_dvd (Dvd.dvd.mul_left (pow_dvd_pow 2 h) _)
  · simp [Nat.shiftLeft_eq]

theorem shr_eq (w n : Nat) (a : BitVec w) : a >>> n = if w ≤ n then 0 else BitVec.ofNat w (a.toNat / 2 ^ n) := by
  have ha := a.isLt
  apply BitVec.eq_of_toNat_eq
  split
  · next h =>
    simp [Nat.shiftRight_eq_div_pow]
    exact lt_of_lt_of_le ha (Nat.pow_le_pow_right (by norm_num) h)
  · simp [Nat.shiftRight_eq_div_pow]
    rw [Nat.mod_eq_of_lt (lt_of_le_of_lt (Nat.div_le_self _ _) ha)]

theorem clz_eq (a : Word) : BitVec.ofNat 32 (leadZeros a 32) = if a = 0 then 32 else BitVec.ofNat 32 (31 - Nat.log2 a.toNat) := by
  rw [leadZeros_eq a 32 a.isLt]
  by_cases h : a = 0
  · subst h; rfl
  · have : a.toNat ≠ 0 := fun e => h (BitVec.eq_of_toNat_eq e)
    rw [if_neg this, if_neg h]

theorem selWord_eq (d a b : Word) : selWord d a b = if d ≠ 0 then a else b := by
  unfold selWord; by_cases d = 0 <;> simp [*]

theorem ofInt_imm (n : Nat) (x : BitVec n) : BitVec.ofInt 32 x.toInt = x.signExtend 32 := rfl

theorem ofInt_addImm (n : Nat) (hn : n ≤ 32) (a : Word) (x : BitVec n) : BitVec.ofInt 32 (a.toInt + x.toInt) = a + x.signExtend 32 := by
  apply BitVec.eq_of_toInt_eq
  rw [BitVec.toInt_ofInt, BitVec.toInt_add, BitVec.toInt_signExtend_of_le hn]

theorem loadHigh_eq (d : Word) (i : BitVec 14) : loadHigh d i = BitVec.ofNat 32 (fieldOf' d 0 18 + i.toNat * 2 ^ 18) := by
  unfold loadHigh fieldOf'
  apply BitVec.eq_of_toNat_eq
  have hi := i.isLt
  have h1 : (d &&& 0x3FFFF#32).toNat = d.toNat % 2 ^ 18 := by
    rw [BitVec.toNat_and]; exact Nat.and_two_pow_sub_one_eq_mod d.toNat 18
  have h2 : (i.zeroExtend 32 <<< 18).toNat = 2 ^ 18 * i.toNat := by
    simp [Nat.shiftLeft_eq]; omega
  rw [BitVec.toNat_or, h1, h2, Nat.or_comm, ← Nat.two_pow_add_eq_or_of_lt (Nat.mod_lt _ (by norm_num)), BitVec.toNat_ofNat]
  simp
  omega

theorem ofNat_add64 (a b : DWord) : BitVec.ofNat 64 (a.toNat + b.toNat) = a + b := by
  apply BitVec.eq_of_toNat_eq; simp
theorem ofInt_sub64 (a b : DWord) : BitVec.ofInt 64 (a.toInt - b.toInt) = a - b := by
  apply BitVec.eq_of_toInt_eq; rw [BitVec.toInt_ofInt, BitVec.toInt_sub]
theorem ofNat_mul64 (a b : DWord) : BitVec.ofNat 64 (a.toNat * b.toNat) = a * b := by
  apply BitVec.eq_of_toNat_eq; simp

theorem leaWord_eq (k : Nat) (a : DWord) (b : Word) : leaWord k a b = BitVec.ofInt 64 (a.toInt + b.toInt * 2 ^ k) := by
  have h : b.signExtend 64 <<< k = BitVec.ofInt 64 (b.toInt * 2 ^ k) := by
    apply BitVec.eq_of_toInt_eq
    rw [BitVec.toInt_shiftLeft, BitVec.toInt_ofInt, Nat.shiftLeft_eq]
    have e : ((b.signExtend 64).toNat : Int).bmod (2 ^ 64) = b.toInt := by
      rw [← BitVec.toInt_eq_toNat_bmod, BitVec.toInt_signExtend_of_le (by omega)]
    rw [Nat.cast_mul, ← Int.bmod_mul_bmod, e]
    simp
  unfold leaWord
  rw [h]
  apply BitVec.eq_of_toInt_eq
  rw [BitVec.toInt_add, BitVec.toInt_ofInt, BitVec.toInt_ofInt]
  simp

end Sys2Proof.Machine
end

