-- ==== Sys2Proof/Laws/Memory.lean ====
section
/-!
SUPPORT. Addresses of accesses as integers, the sizes and pages of the atomics, and what an access of one lane can do (R89,
R166, R212, R214).
-/

namespace Sys2Proof.Machine

theorem Lane.gva_eq (l : Lane) (a o : BitVec 7) (size : Nat) : l.gva a o size = l.offsetAddr a o size := by
  unfold Lane.gva Lane.offsetAddr
  have e : o.signExtend 64 = BitVec.ofInt 64 o.toInt := rfl
  rw [e, ← BitVec.ofInt_natCast, BitVec.ofInt_add, BitVec.ofInt_mul, BitVec.ofInt_toInt]

theorem Lane.localAddr_eq (l : Lane) (a o : BitVec 7) (size : Nat) : l.localAddr a o size = l.offsetLocal a o size := by
  unfold Lane.localAddr Lane.offsetLocal
  have e : o.signExtend 32 = BitVec.ofInt 32 o.toInt := rfl
  rw [e, ← BitVec.ofInt_natCast, BitVec.ofInt_add, BitVec.ofInt_mul, BitVec.ofInt_toInt]

theorem atomSize_eq (c : BitVec 7) : atomSize c = atomicBytes c := by revert c; decide

theorem atomHost_eq (c : BitVec 7) : atomHost c = [0, 11, 16, 19].contains c.toNat := by revert c; decide

/-- A lane that reaches its page goes on to its access. -/
theorem Lane.withPage_ok {l : Lane} {kind : Access} {va : DWord} {align len key : Nat} {leaf : Leaf} {k : Nat → Leaf → LaneOut}
    (ha : va.toNat % align = 0) (ht : l.s.translate l.who kind va len = .ok (key, leaf)) (hq : l.acquiring = false) :
    l.withPage (l.reach kind va align len) k = k key leaf := by
  unfold Lane.withPage Lane.reach
  rw [if_neg (by omega), ht]
  dsimp only
  unfold Lane.access
  rw [hq]
  rfl

/-- A misaligned address traps. -/
theorem Lane.withPage_align {l : Lane} {kind : Access} {va : DWord} {align len : Nat} {k : Nat → Leaf → LaneOut}
    (ha : va.toNat % align ≠ 0) : l.withPage (l.reach kind va align len) k = .trap (.atAddr .align va) := by
  unfold Lane.withPage Lane.reach
  rw [if_pos ha]

/-- A cause that translation meets traps. -/
theorem Lane.withPage_error {l : Lane} {kind : Access} {va : DWord} {align len : Nat} {c : Cause} {k : Nat → Leaf → LaneOut}
    (ha : va.toNat % align = 0) (ht : l.s.translate l.who kind va len = .error c) :
    l.withPage (l.reach kind va align len) k = .trap (.atAddr c va) := by
  unfold Lane.withPage Lane.reach
  rw [if_neg (by omega), ht]

/-! ## The causes that translation meets (R116) -/

/-- The result is a value, or one of `PAGE`, `PROT` and `MCHK`. -/
def Walked.Plain {α : Type} (x : Walked α) : Prop := ∀ c, x = .error c → c = .page ∨ c = .prot ∨ c = .mchk

theorem Walked.plain_ok {α : Type} (a : α) : Walked.Plain (.ok a) := fun _ h => by cases h

theorem Walked.plain_page {α : Type} : Walked.Plain (.error .page : Walked α) := fun _ h => by cases h; exact .inl rfl

theorem Walked.plain_prot {α : Type} : Walked.Plain (.error .prot : Walked α) := fun _ h => by cases h; exact .inr (.inl rfl)

theorem Walked.plain_mchk {α : Type} : Walked.Plain (.error .mchk : Walked α) := fun _ h => by cases h; exact .inr (.inr rfl)

theorem Walked.plain_bind {α β : Type} {x : Walked α} {f : α → Walked β} (hx : Walked.Plain x) (hf : ∀ a, Walked.Plain (f a)) :
    Walked.Plain (x >>= f) := by
  intro c h
  cases x with
  | error e => exact hx c (by cases h; rfl)
  | ok a => exact hf a c h

theorem State.readPte_plain (s : State) (pa : Nat) : Walked.Plain (s.readPte pa) := by
  unfold State.readPte
  split
  · exact Walked.plain_mchk
  · exact Walked.plain_ok _

theorem State.nonLeaf_plain (s : State) (fn level index pick : Nat) {x : Walked (BitVec 128)} (hx : Walked.Plain x) :
    Walked.Plain (s.nonLeaf fn level index pick x) := by
  unfold State.nonLeaf
  split
  · split
    · exact Walked.plain_ok _
    · exact hx
  · exact hx

theorem State.walk_plain (s : State) (fn : Nat) (va : DWord) (pick : Nat) : Walked.Plain (s.walk fn va pick) := by
  unfold State.walk
  dsimp only
  split
  · exact Walked.plain_page
  · refine Walked.plain_bind (s.nonLeaf_plain _ _ _ _ (s.readPte_plain _)) (fun e0 => ?_)
    split
    · exact Walked.plain_page
    · refine Walked.plain_bind (s.nonLeaf_plain _ _ _ _ (s.readPte_plain _)) (fun e2 => ?_)
      split
      · split
        · exact Walked.plain_ok _
        · exact Walked.plain_page
      · split
        · exact Walked.plain_page
        · refine Walked.plain_bind (s.readPte_plain _) (fun e1 => ?_)
          split
          · exact Walked.plain_ok _
          · exact Walked.plain_page

theorem State.leafFor_plain (s : State) (who : Accessor) (va : DWord) : Walked.Plain (s.leafFor who va) := by
  have hw : Walked.Plain (do
      let (pte, level) ← s.walk who.fn va (s.draw who.lane 0)
      match leafOf pte level with
      | some l => .ok l
      | none => .error .page : Walked Leaf) := by
    refine Walked.plain_bind (s.walk_plain _ _ _) (fun p => ?_)
    obtain ⟨pte, level⟩ := p
    dsimp only
    split
    · exact Walked.plain_ok _
    · exact Walked.plain_page
  have hl (place : TlbPlace) (page : Nat) {x : Walked Leaf} (hx : Walked.Plain x) :
      Walked.Plain ((s.tlbLeaf place who.fn page).getD x) := by
    unfold State.tlbLeaf
    cases s.tlb.find? _ with
    | none => exact hx
    | some e =>
      show Walked.Plain (match leafOf e.pte e.level with | some l => .ok l | none => .error .page)
      split
      · exact Walked.plain_ok _
      · exact Walked.plain_page
  unfold State.leafFor
  split
  · exact Walked.plain_page
  · dsimp only
    have hn := hl (.core who.core) (va.toNat % 2 ^ 52 / 65536) hw
    have hf := hl (.hub (who.core / 4)) (va.toNat % 2 ^ 52 / 65536) hw
    generalize s.tlbLeaf (.core who.core) who.fn (va.toNat % 2 ^ 52 / 65536) = near at hn ⊢
    generalize s.tlbLeaf (.hub (who.core / 4)) who.fn (va.toNat % 2 ^ 52 / 65536) = far at hf ⊢
    rcases near with _ | a <;> rcases far with _ | b
    · exact hw
    all_goals
      dsimp only
      split
      · exact hn
      · split
        · exact hf
        · exact hw

theorem State.pageOf_plain (s : State) (who : Accessor) (kind : Access) (va : DWord) : Walked.Plain (s.pageOf who kind va) := by
  unfold State.pageOf
  refine Walked.plain_bind (s.leafFor_plain _ _) (fun l => ?_)
  dsimp only
  split
  · exact Walked.plain_prot
  · exact Walked.plain_ok _

theorem State.translateFor_plain (s : State) (who : Accessor) (kind : Access) (va : DWord) (len : Nat) (fused : Bool) :
    Walked.Plain (s.translateFor who kind va len fused) := by
  unfold State.translateFor
  refine Walked.plain_bind (s.pageOf_plain _ _ _) (fun l => ?_)
  dsimp only
  split
  · exact Walked.plain_prot
  · split
    · exact Walked.plain_mchk
    · exact Walked.plain_ok _

end Sys2Proof.Machine
end

