-- ==== Sys2Proof/Laws/PerInstr.lean ====
section
/-!
SUPPORT. Per instruction: the word that encodes it is read back as it, with every operand (R45, R51, R271, R272); a
step of the device has no word.
-/

namespace Sys2Proof.Laws

/-- The word of an instruction, in its format, decodes to the instruction. -/
def Encoding.Statement (i : Instr) : Prop := ∀ sp w, encode i = some (sp, w) → decodeWord sp w = .ok i

/-- An instruction whose one encoding is a core word that reads back. -/
theorem Encoding.of_core {i : Instr} {w : Word} (he : encodeCore i = some w) (hd : decodeCore w = .ok i) :
    Encoding.Statement i := by
  intro sp x h
  simp only [encode, he, Option.some.injEq, Prod.mk.injEq] at h
  obtain ⟨rfl, rfl⟩ := h
  exact hd

/-- The same for a walker word. -/
theorem Encoding.of_walker {i : Instr} {w : Word} (hc : encodeCore i = none) (he : encodeWalker i = some w)
    (hd : decodeWalker w = .ok i) : Encoding.Statement i := by
  intro sp x h
  simp only [encode, hc, he, Option.some.injEq, Prod.mk.injEq] at h
  obtain ⟨rfl, rfl⟩ := h
  exact hd

/-- A row without a word. -/
theorem Encoding.of_none {i : Instr} (h : encode i = none) : Encoding.Statement i := by
  intro sp w he
  rw [h] at he
  cases he

theorem Encoding.nop : Encoding.Statement (.nop) :=
  Encoding.of_core rfl ((decodeCore_coreWord ..).trans rfl)

theorem Encoding.exit : Encoding.Statement (.exit) :=
  Encoding.of_core rfl ((decodeCore_coreWord ..).trans rfl)

theorem Encoding.reform : Encoding.Statement (.reform) :=
  Encoding.of_core rfl ((decodeCore_coreWord ..).trans rfl)

theorem Encoding.reformB : Encoding.Statement (.reformB) :=
  Encoding.of_core rfl ((decodeCore_coreWord ..).trans rfl)

theorem Encoding.yield : Encoding.Statement (.yield) :=
  Encoding.of_core rfl ((decodeCore_coreWord ..).trans rfl)

theorem Encoding.bkpt : Encoding.Statement (.bkpt) :=
  Encoding.of_core rfl ((decodeCore_coreWord ..).trans rfl)

theorem Encoding.iadd (d a b : BitVec 7) : Encoding.Statement (.iadd d a b) :=
  Encoding.of_core rfl ((decodeCore_coreWord ..).trans rfl)

theorem Encoding.isub (d a b : BitVec 7) : Encoding.Statement (.isub d a b) :=
  Encoding.of_core rfl ((decodeCore_coreWord ..).trans rfl)

theorem Encoding.imul (d a b : BitVec 7) : Encoding.Statement (.imul d a b) :=
  Encoding.of_core rfl ((decodeCore_coreWord ..).trans rfl)

theorem Encoding.imulhS (d a b : BitVec 7) : Encoding.Statement (.imulhS d a b) :=
  Encoding.of_core rfl ((decodeCore_coreWord ..).trans rfl)

theorem Encoding.imulhN (d a b : BitVec 7) : Encoding.Statement (.imulhN d a b) :=
  Encoding.of_core rfl ((decodeCore_coreWord ..).trans rfl)

theorem Encoding.imad (d a b : BitVec 7) : Encoding.Statement (.imad d a b) :=
  Encoding.of_core rfl ((decodeCore_coreWord ..).trans rfl)

theorem Encoding.iminS (d a b : BitVec 7) : Encoding.Statement (.iminS d a b) :=
  Encoding.of_core rfl ((decodeCore_coreWord ..).trans rfl)

theorem Encoding.iminN (d a b : BitVec 7) : Encoding.Statement (.iminN d a b) :=
  Encoding.of_core rfl ((decodeCore_coreWord ..).trans rfl)

theorem Encoding.imaxS (d a b : BitVec 7) : Encoding.Statement (.imaxS d a b) :=
  Encoding.of_core rfl ((decodeCore_coreWord ..).trans rfl)

theorem Encoding.imaxN (d a b : BitVec 7) : Encoding.Statement (.imaxN d a b) :=
  Encoding.of_core rfl ((decodeCore_coreWord ..).trans rfl)

theorem Encoding.iabs (d a : BitVec 7) : Encoding.Statement (.iabs d a) :=
  Encoding.of_core rfl ((decodeCore_coreWord ..).trans rfl)

theorem Encoding.and (d a b : BitVec 7) : Encoding.Statement (.and d a b) :=
  Encoding.of_core rfl ((decodeCore_coreWord ..).trans rfl)

theorem Encoding.or (d a b : BitVec 7) : Encoding.Statement (.or d a b) :=
  Encoding.of_core rfl ((decodeCore_coreWord ..).trans rfl)

theorem Encoding.xor (d a b : BitVec 7) : Encoding.Statement (.xor d a b) :=
  Encoding.of_core rfl ((decodeCore_coreWord ..).trans rfl)

theorem Encoding.andn (d a b : BitVec 7) : Encoding.Statement (.andn d a b) :=
  Encoding.of_core rfl ((decodeCore_coreWord ..).trans rfl)

theorem Encoding.shl (d a b : BitVec 7) : Encoding.Statement (.shl d a b) :=
  Encoding.of_core rfl ((decodeCore_coreWord ..).trans rfl)

theorem Encoding.shr (d a b : BitVec 7) : Encoding.Statement (.shr d a b) :=
  Encoding.of_core rfl ((decodeCore_coreWord ..).trans rfl)

theorem Encoding.sha (d a b : BitVec 7) : Encoding.Statement (.sha d a b) :=
  Encoding.of_core rfl ((decodeCore_coreWord ..).trans rfl)

theorem Encoding.rotl (d a b : BitVec 7) : Encoding.Statement (.rotl d a b) :=
  Encoding.of_core rfl ((decodeCore_coreWord ..).trans rfl)

theorem Encoding.popc (d a : BitVec 7) : Encoding.Statement (.popc d a) :=
  Encoding.of_core rfl ((decodeCore_coreWord ..).trans rfl)

theorem Encoding.clz (d a : BitVec 7) : Encoding.Statement (.clz d a) :=
  Encoding.of_core rfl ((decodeCore_coreWord ..).trans rfl)

theorem Encoding.bfx (d a b : BitVec 7) : Encoding.Statement (.bfx d a b) :=
  Encoding.of_core rfl ((decodeCore_coreWord ..).trans rfl)

theorem Encoding.bfi (d a b : BitVec 7) : Encoding.Statement (.bfi d a b) :=
  Encoding.of_core rfl ((decodeCore_coreWord ..).trans rfl)

theorem Encoding.isetEq (d a b : BitVec 7) : Encoding.Statement (.isetEq d a b) :=
  Encoding.of_core rfl ((decodeCore_coreWord ..).trans rfl)

theorem Encoding.isetNe (d a b : BitVec 7) : Encoding.Statement (.isetNe d a b) :=
  Encoding.of_core rfl ((decodeCore_coreWord ..).trans rfl)

theorem Encoding.isetLt (d a b : BitVec 7) : Encoding.Statement (.isetLt d a b) :=
  Encoding.of_core rfl ((decodeCore_coreWord ..).trans rfl)

theorem Encoding.isetLe (d a b : BitVec 7) : Encoding.Statement (.isetLe d a b) :=
  Encoding.of_core rfl ((decodeCore_coreWord ..).trans rfl)

theorem Encoding.isetGt (d a b : BitVec 7) : Encoding.Statement (.isetGt d a b) :=
  Encoding.of_core rfl ((decodeCore_coreWord ..).trans rfl)

theorem Encoding.isetGe (d a b : BitVec 7) : Encoding.Statement (.isetGe d a b) :=
  Encoding.of_core rfl ((decodeCore_coreWord ..).trans rfl)

theorem Encoding.isetLtN (d a b : BitVec 7) : Encoding.Statement (.isetLtN d a b) :=
  Encoding.of_core rfl ((decodeCore_coreWord ..).trans rfl)

theorem Encoding.isetLeN (d a b : BitVec 7) : Encoding.Statement (.isetLeN d a b) :=
  Encoding.of_core rfl ((decodeCore_coreWord ..).trans rfl)

theorem Encoding.isetGtN (d a b : BitVec 7) : Encoding.Statement (.isetGtN d a b) :=
  Encoding.of_core rfl ((decodeCore_coreWord ..).trans rfl)

theorem Encoding.isetGeN (d a b : BitVec 7) : Encoding.Statement (.isetGeN d a b) :=
  Encoding.of_core rfl ((decodeCore_coreWord ..).trans rfl)

theorem Encoding.mov (d a : BitVec 7) : Encoding.Statement (.mov d a) :=
  Encoding.of_core rfl ((decodeCore_coreWord ..).trans rfl)

theorem Encoding.sel (d a b : BitVec 7) : Encoding.Statement (.sel d a b) :=
  Encoding.of_core rfl ((decodeCore_coreWord ..).trans rfl)

theorem Encoding.add64 (d a b : BitVec 7) : Encoding.Statement (.add64 d a b) :=
  Encoding.of_core rfl ((decodeCore_coreWord ..).trans rfl)

theorem Encoding.sub64 (d a b : BitVec 7) : Encoding.Statement (.sub64 d a b) :=
  Encoding.of_core rfl ((decodeCore_coreWord ..).trans rfl)

theorem Encoding.shl64 (d a b : BitVec 7) : Encoding.Statement (.shl64 d a b) :=
  Encoding.of_core rfl ((decodeCore_coreWord ..).trans rfl)

theorem Encoding.shr64 (d a b : BitVec 7) : Encoding.Statement (.shr64 d a b) :=
  Encoding.of_core rfl ((decodeCore_coreWord ..).trans rfl)

theorem Encoding.mul64 (d a b : BitVec 7) : Encoding.Statement (.mul64 d a b) :=
  Encoding.of_core rfl ((decodeCore_coreWord ..).trans rfl)

theorem Encoding.lea0 (d a b : BitVec 7) : Encoding.Statement (.lea0 d a b) :=
  Encoding.of_core rfl ((decodeCore_coreWord ..).trans rfl)

theorem Encoding.lea1 (d a b : BitVec 7) : Encoding.Statement (.lea1 d a b) :=
  Encoding.of_core rfl ((decodeCore_coreWord ..).trans rfl)

theorem Encoding.lea2 (d a b : BitVec 7) : Encoding.Statement (.lea2 d a b) :=
  Encoding.of_core rfl ((decodeCore_coreWord ..).trans rfl)

theorem Encoding.lea3 (d a b : BitVec 7) : Encoding.Statement (.lea3 d a b) :=
  Encoding.of_core rfl ((decodeCore_coreWord ..).trans rfl)

theorem Encoding.iset64Eq (d a b : BitVec 7) : Encoding.Statement (.iset64Eq d a b) :=
  Encoding.of_core rfl ((decodeCore_coreWord ..).trans rfl)

theorem Encoding.iset64LtN (d a b : BitVec 7) : Encoding.Statement (.iset64LtN d a b) :=
  Encoding.of_core rfl ((decodeCore_coreWord ..).trans rfl)

theorem Encoding.iaddi (d a : BitVec 7) (i : BitVec 11) : Encoding.Statement (.iaddi d a i) :=
  Encoding.of_core rfl ((decodeCore_coreWord ..).trans (by
    show Except.ok (Instr.iaddi d a _) = _
    rw [join11]))

theorem Encoding.andi (d a : BitVec 7) (i : BitVec 11) : Encoding.Statement (.andi d a i) :=
  Encoding.of_core rfl ((decodeCore_coreWord ..).trans (by
    show Except.ok (Instr.andi d a _) = _
    rw [join11]))

theorem Encoding.ori (d a : BitVec 7) (i : BitVec 11) : Encoding.Statement (.ori d a i) :=
  Encoding.of_core rfl ((decodeCore_coreWord ..).trans (by
    show Except.ok (Instr.ori d a _) = _
    rw [join11]))

theorem Encoding.shli (d a : BitVec 7) (i : BitVec 5) : Encoding.Statement (.shli d a i) :=
  Encoding.of_core rfl ((decodeCore_coreWord ..).trans (by
    show ifZero _ (Instr.shli d a _) = _
    rw [high5, low5]
    rfl))

theorem Encoding.shri (d a : BitVec 7) (i : BitVec 5) : Encoding.Statement (.shri d a i) :=
  Encoding.of_core rfl ((decodeCore_coreWord ..).trans (by
    show ifZero _ (Instr.shri d a _) = _
    rw [high5, low5]
    rfl))

theorem Encoding.ldi (d : BitVec 7) (i : BitVec 18) : Encoding.Statement (.ldi d i) :=
  Encoding.of_core rfl ((decodeCore_coreWord ..).trans (by
    show Except.ok (Instr.ldi d _) = _
    rw [join18]))

theorem Encoding.ldhi (d : BitVec 7) (i : BitVec 14) : Encoding.Statement (.ldhi d i) :=
  Encoding.of_core rfl ((decodeCore_coreWord ..).trans (by
    show ifZero _ (Instr.ldhi d _) = _
    rw [high14, low14]
    rfl))

theorem Encoding.win (i : BitVec 18) : Encoding.Statement (.win i) :=
  Encoding.of_core rfl ((decodeCore_coreWord ..).trans (by
    show Except.ok (Instr.win _) = _
    rw [join18]))

theorem Encoding.part (i : BitVec 18) : Encoding.Statement (.part i) :=
  Encoding.of_core rfl ((decodeCore_coreWord ..).trans (by
    show Except.ok (Instr.part _) = _
    rw [join18]))

theorem Encoding.prio (i : BitVec 18) : Encoding.Statement (.prio i) :=
  Encoding.of_core rfl ((decodeCore_coreWord ..).trans (by
    show Except.ok (Instr.prio _) = _
    rw [join18]))

theorem Encoding.sleep (i : BitVec 18) : Encoding.Statement (.sleep i) :=
  Encoding.of_core rfl ((decodeCore_coreWord ..).trans (by
    show Except.ok (Instr.sleep _) = _
    rw [join18]))

theorem Encoding.waitf (d : BitVec 7) (i : BitVec 18) : Encoding.Statement (.waitf d i) :=
  Encoding.of_core rfl ((decodeCore_coreWord ..).trans (by
    show Except.ok (Instr.waitf d _) = _
    rw [join18]))

theorem Encoding.bra (s : BitVec 18) : Encoding.Statement (.bra s) :=
  Encoding.of_core rfl ((decodeCore_coreWord ..).trans (by
    show Except.ok (Instr.bra _) = _
    rw [join18]))

theorem Encoding.beqz (a : BitVec 7) (s : BitVec 18) : Encoding.Statement (.beqz a s) :=
  Encoding.of_core rfl ((decodeCore_coreWord ..).trans (by
    show Except.ok (Instr.beqz a _) = _
    rw [join18]))

theorem Encoding.bnez (a : BitVec 7) (s : BitVec 18) : Encoding.Statement (.bnez a s) :=
  Encoding.of_core rfl ((decodeCore_coreWord ..).trans (by
    show Except.ok (Instr.bnez a _) = _
    rw [join18]))

theorem Encoding.bltz (a : BitVec 7) (s : BitVec 18) : Encoding.Statement (.bltz a s) :=
  Encoding.of_core rfl ((decodeCore_coreWord ..).trans (by
    show Except.ok (Instr.bltz a _) = _
    rw [join18]))

theorem Encoding.bgez (a : BitVec 7) (s : BitVec 18) : Encoding.Statement (.bgez a s) :=
  Encoding.of_core rfl ((decodeCore_coreWord ..).trans (by
    show Except.ok (Instr.bgez a _) = _
    rw [join18]))

theorem Encoding.call (a : BitVec 7) (s : BitVec 18) : Encoding.Statement (.call a s) :=
  Encoding.of_core rfl ((decodeCore_coreWord ..).trans (by
    show Except.ok (Instr.call a _) = _
    rw [join18]))

theorem Encoding.jmp (a : BitVec 7) : Encoding.Statement (.jmp a) :=
  Encoding.of_core rfl ((decodeCore_coreWord ..).trans rfl)

theorem Encoding.ret (a : BitVec 7) : Encoding.Statement (.ret a) :=
  Encoding.of_core rfl ((decodeCore_coreWord ..).trans rfl)

theorem Encoding.callr (d a : BitVec 7) : Encoding.Statement (.callr d a) :=
  Encoding.of_core rfl ((decodeCore_coreWord ..).trans rfl)

theorem Encoding.qpost (d a b : BitVec 7) (f : BitVec 4) : Encoding.Statement (.qpost d a b f) :=
  Encoding.of_core rfl ((decodeCore_coreWord ..).trans rfl)

theorem Encoding.jdecl (j a : BitVec 7) : Encoding.Statement (.jdecl j a) :=
  Encoding.of_core rfl ((decodeCore_coreWord ..).trans rfl)

theorem Encoding.jsign (j : BitVec 7) : Encoding.Statement (.jsign j) :=
  Encoding.of_core rfl ((decodeCore_coreWord ..).trans rfl)

theorem Encoding.jleave (j : BitVec 7) : Encoding.Statement (.jleave j) :=
  Encoding.of_core rfl ((decodeCore_coreWord ..).trans rfl)

theorem Encoding.jcancel (j : BitVec 7) : Encoding.Statement (.jcancel j) :=
  Encoding.of_core rfl ((decodeCore_coreWord ..).trans rfl)

theorem Encoding.jstat (d j : BitVec 7) : Encoding.Statement (.jstat d j) :=
  Encoding.of_core rfl ((decodeCore_coreWord ..).trans rfl)

theorem Encoding.lanePick (d a b : BitVec 7) : Encoding.Statement (.lanePick d a b) :=
  Encoding.of_core rfl ((decodeCore_coreWord ..).trans rfl)

theorem Encoding.laneBack (d a b : BitVec 7) : Encoding.Statement (.laneBack d a b) :=
  Encoding.of_core rfl ((decodeCore_coreWord ..).trans rfl)

theorem Encoding.laneFwd (d a b : BitVec 7) : Encoding.Statement (.laneFwd d a b) :=
  Encoding.of_core rfl ((decodeCore_coreWord ..).trans rfl)

theorem Encoding.laneFlip (d a b : BitVec 7) : Encoding.Statement (.laneFlip d a b) :=
  Encoding.of_core rfl ((decodeCore_coreWord ..).trans rfl)

theorem Encoding.laneRot (d a b : BitVec 7) : Encoding.Statement (.laneRot d a b) :=
  Encoding.of_core rfl ((decodeCore_coreWord ..).trans rfl)

theorem Encoding.pollEvery (d a : BitVec 7) : Encoding.Statement (.pollEvery d a) :=
  Encoding.of_core rfl ((decodeCore_coreWord ..).trans rfl)

theorem Encoding.pollSome (d a : BitVec 7) : Encoding.Statement (.pollSome d a) :=
  Encoding.of_core rfl ((decodeCore_coreWord ..).trans rfl)

theorem Encoding.pollMask (d a : BitVec 7) : Encoding.Statement (.pollMask d a) :=
  Encoding.of_core rfl ((decodeCore_coreWord ..).trans rfl)

theorem Encoding.pollSame (d a : BitVec 7) : Encoding.Statement (.pollSame d a) :=
  Encoding.of_core rfl ((decodeCore_coreWord ..).trans rfl)

theorem Encoding.pollPres (d : BitVec 7) : Encoding.Statement (.pollPres d) :=
  Encoding.of_core rfl ((decodeCore_coreWord ..).trans rfl)

theorem Encoding.pollCnt (d a : BitVec 7) : Encoding.Statement (.pollCnt d a) :=
  Encoding.of_core rfl ((decodeCore_coreWord ..).trans rfl)

theorem Encoding.matchLanes (d a : BitVec 7) : Encoding.Statement (.matchLanes d a) :=
  Encoding.of_core rfl ((decodeCore_coreWord ..).trans rfl)

theorem Encoding.mrank (d a : BitVec 7) : Encoding.Statement (.mrank d a) :=
  Encoding.of_core rfl ((decodeCore_coreWord ..).trans rfl)

theorem Encoding.mcnt (d a : BitVec 7) : Encoding.Statement (.mcnt d a) :=
  Encoding.of_core rfl ((decodeCore_coreWord ..).trans rfl)

theorem Encoding.mlead (d a : BitVec 7) : Encoding.Statement (.mlead d a) :=
  Encoding.of_core rfl ((decodeCore_coreWord ..).trans rfl)

theorem Encoding.tscanAddI (d a : BitVec 7) : Encoding.Statement (.tscanAddI d a) :=
  Encoding.of_core rfl ((decodeCore_coreWord ..).trans rfl)

theorem Encoding.tscanAddF (d a : BitVec 7) : Encoding.Statement (.tscanAddF d a) :=
  Encoding.of_core rfl ((decodeCore_coreWord ..).trans rfl)

theorem Encoding.tscanMaxS (d a : BitVec 7) : Encoding.Statement (.tscanMaxS d a) :=
  Encoding.of_core rfl ((decodeCore_coreWord ..).trans rfl)

theorem Encoding.tscanMinS (d a : BitVec 7) : Encoding.Statement (.tscanMinS d a) :=
  Encoding.of_core rfl ((decodeCore_coreWord ..).trans rfl)

theorem Encoding.tscanExAddI (d a : BitVec 7) : Encoding.Statement (.tscanExAddI d a) :=
  Encoding.of_core rfl ((decodeCore_coreWord ..).trans rfl)

theorem Encoding.tscanExAddF (d a : BitVec 7) : Encoding.Statement (.tscanExAddF d a) :=
  Encoding.of_core rfl ((decodeCore_coreWord ..).trans rfl)

theorem Encoding.tscanSegAddI (d a b : BitVec 7) : Encoding.Statement (.tscanSegAddI d a b) :=
  Encoding.of_core rfl ((decodeCore_coreWord ..).trans rfl)

theorem Encoding.tscanSegAddF (d a b : BitVec 7) : Encoding.Statement (.tscanSegAddF d a b) :=
  Encoding.of_core rfl ((decodeCore_coreWord ..).trans rfl)

theorem Encoding.tredAddI (d a : BitVec 7) : Encoding.Statement (.tredAddI d a) :=
  Encoding.of_core rfl ((decodeCore_coreWord ..).trans rfl)

theorem Encoding.tredAddF (d a : BitVec 7) : Encoding.Statement (.tredAddF d a) :=
  Encoding.of_core rfl ((decodeCore_coreWord ..).trans rfl)

theorem Encoding.tredMaxS (d a : BitVec 7) : Encoding.Statement (.tredMaxS d a) :=
  Encoding.of_core rfl ((decodeCore_coreWord ..).trans rfl)

theorem Encoding.tredMinS (d a : BitVec 7) : Encoding.Statement (.tredMinS d a) :=
  Encoding.of_core rfl ((decodeCore_coreWord ..).trans rfl)

theorem Encoding.tredMaxF (d a : BitVec 7) : Encoding.Statement (.tredMaxF d a) :=
  Encoding.of_core rfl ((decodeCore_coreWord ..).trans rfl)

theorem Encoding.tredMinF (d a : BitVec 7) : Encoding.Statement (.tredMinF d a) :=
  Encoding.of_core rfl ((decodeCore_coreWord ..).trans rfl)

theorem Encoding.tredAnd (d a : BitVec 7) : Encoding.Statement (.tredAnd d a) :=
  Encoding.of_core rfl ((decodeCore_coreWord ..).trans rfl)

theorem Encoding.tredOr (d a : BitVec 7) : Encoding.Statement (.tredOr d a) :=
  Encoding.of_core rfl ((decodeCore_coreWord ..).trans rfl)

theorem Encoding.ldlB (d a o : BitVec 7) (f : BitVec 4) : Encoding.Statement (.ldlB d a o f) :=
  Encoding.of_core rfl ((decodeCore_coreWord ..).trans rfl)

theorem Encoding.ldlH (d a o : BitVec 7) (f : BitVec 4) : Encoding.Statement (.ldlH d a o f) :=
  Encoding.of_core rfl ((decodeCore_coreWord ..).trans rfl)

theorem Encoding.ldlW (d a o : BitVec 7) (f : BitVec 4) : Encoding.Statement (.ldlW d a o f) :=
  Encoding.of_core rfl ((decodeCore_coreWord ..).trans rfl)

theorem Encoding.ldlD (d a o : BitVec 7) (f : BitVec 4) : Encoding.Statement (.ldlD d a o f) :=
  Encoding.of_core rfl ((decodeCore_coreWord ..).trans rfl)

theorem Encoding.ldlQ (d a o : BitVec 7) (f : BitVec 4) : Encoding.Statement (.ldlQ d a o f) :=
  Encoding.of_core rfl ((decodeCore_coreWord ..).trans rfl)

theorem Encoding.stlB (d a o : BitVec 7) (f : BitVec 4) : Encoding.Statement (.stlB d a o f) :=
  Encoding.of_core rfl ((decodeCore_coreWord ..).trans rfl)

theorem Encoding.stlH (d a o : BitVec 7) (f : BitVec 4) : Encoding.Statement (.stlH d a o f) :=
  Encoding.of_core rfl ((decodeCore_coreWord ..).trans rfl)

theorem Encoding.stlW (d a o : BitVec 7) (f : BitVec 4) : Encoding.Statement (.stlW d a o f) :=
  Encoding.of_core rfl ((decodeCore_coreWord ..).trans rfl)

theorem Encoding.stlD (d a o : BitVec 7) (f : BitVec 4) : Encoding.Statement (.stlD d a o f) :=
  Encoding.of_core rfl ((decodeCore_coreWord ..).trans rfl)

theorem Encoding.stlQ (d a o : BitVec 7) (f : BitVec 4) : Encoding.Statement (.stlQ d a o f) :=
  Encoding.of_core rfl ((decodeCore_coreWord ..).trans rfl)

theorem Encoding.atl (d a c : BitVec 7) (f : BitVec 4) : Encoding.Statement (.atl d a c f) :=
  Encoding.of_core rfl ((decodeCore_coreWord ..).trans rfl)

theorem Encoding.tap (a b : BitVec 7) (f : BitVec 4) : Encoding.Statement (.tap a b f) :=
  Encoding.of_core rfl ((decodeCore_coreWord ..).trans rfl)

theorem Encoding.tapNorm (a b : BitVec 7) (f : BitVec 4) : Encoding.Statement (.tapNorm a b f) :=
  Encoding.of_core rfl ((decodeCore_coreWord ..).trans rfl)

theorem Encoding.tapq (a b : BitVec 7) : Encoding.Statement (.tapq a b) :=
  Encoding.of_core rfl ((decodeCore_coreWord ..).trans rfl)

theorem Encoding.spoke (a b : BitVec 7) (f : BitVec 4) : Encoding.Statement (.spoke a b f) :=
  Encoding.of_core rfl ((decodeCore_coreWord ..).trans rfl)

theorem Encoding.barInit (a b : BitVec 7) : Encoding.Statement (.barInit a b) :=
  Encoding.of_core rfl ((decodeCore_coreWord ..).trans rfl)

theorem Encoding.barArrive (a : BitVec 7) : Encoding.Statement (.barArrive a) :=
  Encoding.of_core rfl ((decodeCore_coreWord ..).trans rfl)

theorem Encoding.barWait (a b : BitVec 7) : Encoding.Statement (.barWait a b) :=
  Encoding.of_core rfl ((decodeCore_coreWord ..).trans rfl)

theorem Encoding.barSync (a : BitVec 7) : Encoding.Statement (.barSync a) :=
  Encoding.of_core rfl ((decodeCore_coreWord ..).trans rfl)

theorem Encoding.barExpect (a b : BitVec 7) : Encoding.Statement (.barExpect a b) :=
  Encoding.of_core rfl ((decodeCore_coreWord ..).trans rfl)

theorem Encoding.barPhase (d a : BitVec 7) : Encoding.Statement (.barPhase d a) :=
  Encoding.of_core rfl ((decodeCore_coreWord ..).trans rfl)

theorem Encoding.barInval (a : BitVec 7) : Encoding.Statement (.barInval a) :=
  Encoding.of_core rfl ((decodeCore_coreWord ..).trans rfl)

theorem Encoding.fadd (d a b : BitVec 7) : Encoding.Statement (.fadd d a b) :=
  Encoding.of_core rfl ((decodeCore_coreWord ..).trans rfl)

theorem Encoding.fsub (d a b : BitVec 7) : Encoding.Statement (.fsub d a b) :=
  Encoding.of_core rfl ((decodeCore_coreWord ..).trans rfl)

theorem Encoding.fmul (d a b : BitVec 7) : Encoding.Statement (.fmul d a b) :=
  Encoding.of_core rfl ((decodeCore_coreWord ..).trans rfl)

theorem Encoding.ffma (d a b : BitVec 7) : Encoding.Statement (.ffma d a b) :=
  Encoding.of_core rfl ((decodeCore_coreWord ..).trans rfl)

theorem Encoding.fmin (d a b : BitVec 7) : Encoding.Statement (.fmin d a b) :=
  Encoding.of_core rfl ((decodeCore_coreWord ..).trans rfl)

theorem Encoding.fmax (d a b : BitVec 7) : Encoding.Statement (.fmax d a b) :=
  Encoding.of_core rfl ((decodeCore_coreWord ..).trans rfl)

theorem Encoding.fneg (d a : BitVec 7) : Encoding.Statement (.fneg d a) :=
  Encoding.of_core rfl ((decodeCore_coreWord ..).trans rfl)

theorem Encoding.fabs (d a : BitVec 7) : Encoding.Statement (.fabs d a) :=
  Encoding.of_core rfl ((decodeCore_coreWord ..).trans rfl)

theorem Encoding.fsetEq (d a b : BitVec 7) : Encoding.Statement (.fsetEq d a b) :=
  Encoding.of_core rfl ((decodeCore_coreWord ..).trans rfl)

theorem Encoding.fsetNe (d a b : BitVec 7) : Encoding.Statement (.fsetNe d a b) :=
  Encoding.of_core rfl ((decodeCore_coreWord ..).trans rfl)

theorem Encoding.fsetLt (d a b : BitVec 7) : Encoding.Statement (.fsetLt d a b) :=
  Encoding.of_core rfl ((decodeCore_coreWord ..).trans rfl)

theorem Encoding.fsetLe (d a b : BitVec 7) : Encoding.Statement (.fsetLe d a b) :=
  Encoding.of_core rfl ((decodeCore_coreWord ..).trans rfl)

theorem Encoding.fsetGt (d a b : BitVec 7) : Encoding.Statement (.fsetGt d a b) :=
  Encoding.of_core rfl ((decodeCore_coreWord ..).trans rfl)

theorem Encoding.fsetGe (d a b : BitVec 7) : Encoding.Statement (.fsetGe d a b) :=
  Encoding.of_core rfl ((decodeCore_coreWord ..).trans rfl)

theorem Encoding.fsetUn (d a b : BitVec 7) : Encoding.Statement (.fsetUn d a b) :=
  Encoding.of_core rfl ((decodeCore_coreWord ..).trans rfl)

theorem Encoding.fclass (d a : BitVec 7) : Encoding.Statement (.fclass d a) :=
  Encoding.of_core rfl ((decodeCore_coreWord ..).trans rfl)

theorem Encoding.frcp (d a : BitVec 7) : Encoding.Statement (.frcp d a) :=
  Encoding.of_core rfl ((decodeCore_coreWord ..).trans rfl)

theorem Encoding.frsq (d a : BitVec 7) : Encoding.Statement (.frsq d a) :=
  Encoding.of_core rfl ((decodeCore_coreWord ..).trans rfl)

theorem Encoding.fsqrt (d a : BitVec 7) : Encoding.Statement (.fsqrt d a) :=
  Encoding.of_core rfl ((decodeCore_coreWord ..).trans rfl)

theorem Encoding.fex2 (d a : BitVec 7) : Encoding.Statement (.fex2 d a) :=
  Encoding.of_core rfl ((decodeCore_coreWord ..).trans rfl)

theorem Encoding.flg2 (d a : BitVec 7) : Encoding.Statement (.flg2 d a) :=
  Encoding.of_core rfl ((decodeCore_coreWord ..).trans rfl)

theorem Encoding.fexp (d a : BitVec 7) : Encoding.Statement (.fexp d a) :=
  Encoding.of_core rfl ((decodeCore_coreWord ..).trans rfl)

theorem Encoding.fln (d a : BitVec 7) : Encoding.Statement (.fln d a) :=
  Encoding.of_core rfl ((decodeCore_coreWord ..).trans rfl)

theorem Encoding.fsinp (d a : BitVec 7) : Encoding.Statement (.fsinp d a) :=
  Encoding.of_core rfl ((decodeCore_coreWord ..).trans rfl)

theorem Encoding.fcosp (d a : BitVec 7) : Encoding.Statement (.fcosp d a) :=
  Encoding.of_core rfl ((decodeCore_coreWord ..).trans rfl)

theorem Encoding.ftanh (d a : BitVec 7) : Encoding.Statement (.ftanh d a) :=
  Encoding.of_core rfl ((decodeCore_coreWord ..).trans rfl)

theorem Encoding.fsig (d a : BitVec 7) : Encoding.Statement (.fsig d a) :=
  Encoding.of_core rfl ((decodeCore_coreWord ..).trans rfl)

theorem Encoding.h2add (d a b : BitVec 7) : Encoding.Statement (.h2add d a b) :=
  Encoding.of_core rfl ((decodeCore_coreWord ..).trans rfl)

theorem Encoding.h2mul (d a b : BitVec 7) : Encoding.Statement (.h2mul d a b) :=
  Encoding.of_core rfl ((decodeCore_coreWord ..).trans rfl)

theorem Encoding.h2fma (d a b : BitVec 7) : Encoding.Statement (.h2fma d a b) :=
  Encoding.of_core rfl ((decodeCore_coreWord ..).trans rfl)

theorem Encoding.b2add (d a b : BitVec 7) : Encoding.Statement (.b2add d a b) :=
  Encoding.of_core rfl ((decodeCore_coreWord ..).trans rfl)

theorem Encoding.b2mul (d a b : BitVec 7) : Encoding.Statement (.b2mul d a b) :=
  Encoding.of_core rfl ((decodeCore_coreWord ..).trans rfl)

theorem Encoding.b2fma (d a b : BitVec 7) : Encoding.Statement (.b2fma d a b) :=
  Encoding.of_core rfl ((decodeCore_coreWord ..).trans rfl)

theorem Encoding.xadd (d a b : BitVec 7) : Encoding.Statement (.xadd d a b) :=
  Encoding.of_core rfl ((decodeCore_coreWord ..).trans rfl)

theorem Encoding.xmul (d a b : BitVec 7) : Encoding.Statement (.xmul d a b) :=
  Encoding.of_core rfl ((decodeCore_coreWord ..).trans rfl)

theorem Encoding.xexp (d a : BitVec 7) : Encoding.Statement (.xexp d a) :=
  Encoding.of_core rfl ((decodeCore_coreWord ..).trans rfl)

theorem Encoding.xcvt (d a : BitVec 7) : Encoding.Statement (.xcvt d a) :=
  Encoding.of_core rfl ((decodeCore_coreWord ..).trans rfl)

theorem Encoding.xfrom (d a : BitVec 7) : Encoding.Statement (.xfrom d a) :=
  Encoding.of_core rfl ((decodeCore_coreWord ..).trans rfl)

theorem Encoding.xratio (d a b : BitVec 7) : Encoding.Statement (.xratio d a b) :=
  Encoding.of_core rfl ((decodeCore_coreWord ..).trans rfl)

theorem Encoding.cvt (d a c : BitVec 7) (t : BitVec 1) (r : BitVec 3) : Encoding.Statement (.cvt d a c t r) :=
  Encoding.of_core rfl ((decodeCore_coreWord ..).trans (by
    show Except.ok (Instr.cvt d a c _ _) = _
    rw [cvtHigh, cvtLow]))

theorem Encoding.bytp (d a b : BitVec 7) : Encoding.Statement (.bytp d a b) :=
  Encoding.of_core rfl ((decodeCore_coreWord ..).trans rfl)

theorem Encoding.hpk (d a b : BitVec 7) : Encoding.Statement (.hpk d a b) :=
  Encoding.of_core rfl ((decodeCore_coreWord ..).trans rfl)

theorem Encoding.reqI8 (d a b : BitVec 7) : Encoding.Statement (.reqI8 d a b) :=
  Encoding.of_core rfl ((decodeCore_coreWord ..).trans rfl)

theorem Encoding.reqI4 (d a b : BitVec 7) : Encoding.Statement (.reqI4 d a b) :=
  Encoding.of_core rfl ((decodeCore_coreWord ..).trans rfl)

theorem Encoding.reqN8 (d a b : BitVec 7) : Encoding.Statement (.reqN8 d a b) :=
  Encoding.of_core rfl ((decodeCore_coreWord ..).trans rfl)

theorem Encoding.reqN4 (d a b : BitVec 7) : Encoding.Statement (.reqN4 d a b) :=
  Encoding.of_core rfl ((decodeCore_coreWord ..).trans rfl)

theorem Encoding.rng (d a b : BitVec 7) : Encoding.Statement (.rng d a b) :=
  Encoding.of_core rfl ((decodeCore_coreWord ..).trans rfl)

theorem Encoding.gumb (d a : BitVec 7) : Encoding.Statement (.gumb d a) :=
  Encoding.of_core rfl ((decodeCore_coreWord ..).trans rfl)

theorem Encoding.unif (d a : BitVec 7) : Encoding.Statement (.unif d a) :=
  Encoding.of_core rfl ((decodeCore_coreWord ..).trans rfl)

theorem Encoding.softmax (d a b : BitVec 7) : Encoding.Statement (.softmax d a b) :=
  Encoding.of_core rfl ((decodeCore_coreWord ..).trans rfl)

theorem Encoding.rmsnE12 (d a b : BitVec 7) : Encoding.Statement (.rmsnE12 d a b) :=
  Encoding.of_core rfl ((decodeCore_coreWord ..).trans rfl)

theorem Encoding.rmsnE14 (d a b : BitVec 7) : Encoding.Statement (.rmsnE14 d a b) :=
  Encoding.of_core rfl ((decodeCore_coreWord ..).trans rfl)

theorem Encoding.rmsnE16 (d a b : BitVec 7) : Encoding.Statement (.rmsnE16 d a b) :=
  Encoding.of_core rfl ((decodeCore_coreWord ..).trans rfl)

theorem Encoding.rmsnE18 (d a b : BitVec 7) : Encoding.Statement (.rmsnE18 d a b) :=
  Encoding.of_core rfl ((decodeCore_coreWord ..).trans rfl)

theorem Encoding.rmsnE20 (d a b : BitVec 7) : Encoding.Statement (.rmsnE20 d a b) :=
  Encoding.of_core rfl ((decodeCore_coreWord ..).trans rfl)

theorem Encoding.kvtag (d a : BitVec 7) (f : BitVec 4) : Encoding.Statement (.kvtag d a f) :=
  Encoding.of_core rfl ((decodeCore_coreWord ..).trans rfl)

theorem Encoding.bnds (d a : BitVec 7) (f : BitVec 4) : Encoding.Statement (.bnds d a f) :=
  Encoding.of_core rfl ((decodeCore_coreWord ..).trans rfl)

theorem Encoding.kvmove (d a : BitVec 7) (f : BitVec 4) : Encoding.Statement (.kvmove d a f) :=
  Encoding.of_core rfl ((decodeCore_coreWord ..).trans rfl)

theorem Encoding.topk (d a : BitVec 7) (f : BitVec 4) : Encoding.Statement (.topk d a f) :=
  Encoding.of_core rfl ((decodeCore_coreWord ..).trans rfl)

theorem Encoding.ldgB (d a o : BitVec 7) (f : BitVec 4) : Encoding.Statement (.ldgB d a o f) :=
  Encoding.of_core rfl ((decodeCore_coreWord ..).trans rfl)

theorem Encoding.ldgH (d a o : BitVec 7) (f : BitVec 4) : Encoding.Statement (.ldgH d a o f) :=
  Encoding.of_core rfl ((decodeCore_coreWord ..).trans rfl)

theorem Encoding.ldgW (d a o : BitVec 7) (f : BitVec 4) : Encoding.Statement (.ldgW d a o f) :=
  Encoding.of_core rfl ((decodeCore_coreWord ..).trans rfl)

theorem Encoding.ldgD (d a o : BitVec 7) (f : BitVec 4) : Encoding.Statement (.ldgD d a o f) :=
  Encoding.of_core rfl ((decodeCore_coreWord ..).trans rfl)

theorem Encoding.ldgQ (d a o : BitVec 7) (f : BitVec 4) : Encoding.Statement (.ldgQ d a o f) :=
  Encoding.of_core rfl ((decodeCore_coreWord ..).trans rfl)

theorem Encoding.stgB (d a o : BitVec 7) (f : BitVec 4) : Encoding.Statement (.stgB d a o f) :=
  Encoding.of_core rfl ((decodeCore_coreWord ..).trans rfl)

theorem Encoding.stgH (d a o : BitVec 7) (f : BitVec 4) : Encoding.Statement (.stgH d a o f) :=
  Encoding.of_core rfl ((decodeCore_coreWord ..).trans rfl)

theorem Encoding.stgW (d a o : BitVec 7) (f : BitVec 4) : Encoding.Statement (.stgW d a o f) :=
  Encoding.of_core rfl ((decodeCore_coreWord ..).trans rfl)

theorem Encoding.stgD (d a o : BitVec 7) (f : BitVec 4) : Encoding.Statement (.stgD d a o f) :=
  Encoding.of_core rfl ((decodeCore_coreWord ..).trans rfl)

theorem Encoding.stgQ (d a o : BitVec 7) (f : BitVec 4) : Encoding.Statement (.stgQ d a o f) :=
  Encoding.of_core rfl ((decodeCore_coreWord ..).trans rfl)

theorem Encoding.ldf (d a o : BitVec 7) (f : BitVec 4) : Encoding.Statement (.ldf d a o f) :=
  Encoding.of_core rfl ((decodeCore_coreWord ..).trans rfl)

theorem Encoding.stf (d a o : BitVec 7) (f : BitVec 4) : Encoding.Statement (.stf d a o f) :=
  Encoding.of_core rfl ((decodeCore_coreWord ..).trans rfl)

theorem Encoding.stfRs (d a o : BitVec 7) (f : BitVec 4) : Encoding.Statement (.stfRs d a o f) :=
  Encoding.of_core rfl ((decodeCore_coreWord ..).trans rfl)

theorem Encoding.pref (a o : BitVec 7) : Encoding.Statement (.pref a o) :=
  Encoding.of_core rfl ((decodeCore_coreWord ..).trans rfl)

theorem Encoding.cfill (a b : BitVec 7) (f : BitVec 4) : Encoding.Statement (.cfill a b f) :=
  Encoding.of_core rfl ((decodeCore_coreWord ..).trans rfl)

theorem Encoding.gathW (d a b : BitVec 7) (f : BitVec 4) : Encoding.Statement (.gathW d a b f) :=
  Encoding.of_core rfl ((decodeCore_coreWord ..).trans rfl)

theorem Encoding.gathD (d a b : BitVec 7) (f : BitVec 4) : Encoding.Statement (.gathD d a b f) :=
  Encoding.of_core rfl ((decodeCore_coreWord ..).trans rfl)

theorem Encoding.gathF (d a b : BitVec 7) (f : BitVec 4) : Encoding.Statement (.gathF d a b f) :=
  Encoding.of_core rfl ((decodeCore_coreWord ..).trans rfl)

theorem Encoding.scatW (d a b : BitVec 7) (f : BitVec 4) : Encoding.Statement (.scatW d a b f) :=
  Encoding.of_core rfl ((decodeCore_coreWord ..).trans rfl)

theorem Encoding.scatD (d a b : BitVec 7) (f : BitVec 4) : Encoding.Statement (.scatD d a b f) :=
  Encoding.of_core rfl ((decodeCore_coreWord ..).trans rfl)

theorem Encoding.kvrot (d a b : BitVec 7) (f : BitVec 4) : Encoding.Statement (.kvrot d a b f) :=
  Encoding.of_core rfl ((decodeCore_coreWord ..).trans rfl)

theorem Encoding.copy (a b : BitVec 7) (f : BitVec 4) : Encoding.Statement (.copy a b f) :=
  Encoding.of_core rfl ((decodeCore_coreWord ..).trans rfl)

theorem Encoding.bcopy (d a b : BitVec 7) (f : BitVec 4) : Encoding.Statement (.bcopy d a b f) :=
  Encoding.of_core rfl ((decodeCore_coreWord ..).trans rfl)

theorem Encoding.copyx (a b : BitVec 7) (f : BitVec 4) : Encoding.Statement (.copyx a b f) :=
  Encoding.of_core rfl ((decodeCore_coreWord ..).trans rfl)

theorem Encoding.mma (j a b : BitVec 7) (f : BitVec 4) : Encoding.Statement (.mma j a b f) :=
  Encoding.of_core rfl ((decodeCore_coreWord ..).trans rfl)

theorem Encoding.mmas (a b : BitVec 7) (f : BitVec 4) : Encoding.Statement (.mmas a b f) :=
  Encoding.of_core rfl ((decodeCore_coreWord ..).trans rfl)

theorem Encoding.accz (a b : BitVec 7) (f : BitVec 4) : Encoding.Statement (.accz a b f) :=
  Encoding.of_core rfl ((decodeCore_coreWord ..).trans rfl)

theorem Encoding.attn (d a b : BitVec 7) (f : BitVec 4) : Encoding.Statement (.attn d a b f) :=
  Encoding.of_core rfl ((decodeCore_coreWord ..).trans rfl)

theorem Encoding.attnr (d a b : BitVec 7) (f : BitVec 4) : Encoding.Statement (.attnr d a b f) :=
  Encoding.of_core rfl ((decodeCore_coreWord ..).trans rfl)

theorem Encoding.kvap (d a b : BitVec 7) (f : BitVec 4) : Encoding.Statement (.kvap d a b f) :=
  Encoding.of_core rfl ((decodeCore_coreWord ..).trans rfl)

theorem Encoding.kvrq (d a b : BitVec 7) (f : BitVec 4) : Encoding.Statement (.kvrq d a b f) :=
  Encoding.of_core rfl ((decodeCore_coreWord ..).trans rfl)

theorem Encoding.ldvsW (d a o : BitVec 7) (f : BitVec 4) : Encoding.Statement (.ldvsW d a o f) :=
  Encoding.of_core rfl ((decodeCore_coreWord ..).trans rfl)

theorem Encoding.ldvsD (d a o : BitVec 7) (f : BitVec 4) : Encoding.Statement (.ldvsD d a o f) :=
  Encoding.of_core rfl ((decodeCore_coreWord ..).trans rfl)

theorem Encoding.ldvsQ (d a o : BitVec 7) (f : BitVec 4) : Encoding.Statement (.ldvsQ d a o f) :=
  Encoding.of_core rfl ((decodeCore_coreWord ..).trans rfl)

theorem Encoding.valid (d k : BitVec 7) (f : BitVec 4) : Encoding.Statement (.valid d k f) :=
  Encoding.of_core rfl ((decodeCore_coreWord ..).trans rfl)

theorem Encoding.verr (d a : BitVec 7) (f : BitVec 4) : Encoding.Statement (.verr d a f) :=
  Encoding.of_core rfl ((decodeCore_coreWord ..).trans rfl)

theorem Encoding.casv (d a b : BitVec 7) (f : BitVec 4) : Encoding.Statement (.casv d a b f) :=
  Encoding.of_core rfl ((decodeCore_coreWord ..).trans rfl)

theorem Encoding.atom (d a c : BitVec 7) (f : BitVec 4) : Encoding.Statement (.atom d a c f) :=
  Encoding.of_core rfl ((decodeCore_coreWord ..).trans rfl)

theorem Encoding.cas (d a b : BitVec 7) (f : BitVec 4) : Encoding.Statement (.cas d a b f) :=
  Encoding.of_core rfl ((decodeCore_coreWord ..).trans rfl)

theorem Encoding.red (c a b : BitVec 7) (f : BitVec 4) : Encoding.Statement (.red c a b f) :=
  Encoding.of_core rfl ((decodeCore_coreWord ..).trans rfl)

theorem Encoding.fenceAcq (s : BitVec 7) : Encoding.Statement (.fenceAcq s) :=
  Encoding.of_core rfl ((decodeCore_coreWord ..).trans rfl)

theorem Encoding.fenceRel (s : BitVec 7) : Encoding.Statement (.fenceRel s) :=
  Encoding.of_core rfl ((decodeCore_coreWord ..).trans rfl)

theorem Encoding.fenceAr (s : BitVec 7) : Encoding.Statement (.fenceAr s) :=
  Encoding.of_core rfl ((decodeCore_coreWord ..).trans rfl)

theorem Encoding.fenceSc (s : BitVec 7) : Encoding.Statement (.fenceSc s) :=
  Encoding.of_core rfl ((decodeCore_coreWord ..).trans rfl)

theorem Encoding.ldacqW (d a s : BitVec 7) (f : BitVec 4) : Encoding.Statement (.ldacqW d a s f) :=
  Encoding.of_core rfl ((decodeCore_coreWord ..).trans rfl)

theorem Encoding.ldacqD (d a s : BitVec 7) (f : BitVec 4) : Encoding.Statement (.ldacqD d a s f) :=
  Encoding.of_core rfl ((decodeCore_coreWord ..).trans rfl)

theorem Encoding.strelW (d a s : BitVec 7) (f : BitVec 4) : Encoding.Statement (.strelW d a s f) :=
  Encoding.of_core rfl ((decodeCore_coreWord ..).trans rfl)

theorem Encoding.strelD (d a s : BitVec 7) (f : BitVec 4) : Encoding.Statement (.strelD d a s f) :=
  Encoding.of_core rfl ((decodeCore_coreWord ..).trans rfl)

theorem Encoding.trap (c : BitVec 7) : Encoding.Statement (.trap c) :=
  Encoding.of_core rfl ((decodeCore_coreWord ..).trans rfl)

theorem Encoding.rett : Encoding.Statement (.rett) :=
  Encoding.of_core rfl ((decodeCore_coreWord ..).trans rfl)

theorem Encoding.gets (d n : BitVec 7) : Encoding.Statement (.gets d n) :=
  Encoding.of_core rfl ((decodeCore_coreWord ..).trans rfl)

theorem Encoding.sets (a n : BitVec 7) : Encoding.Statement (.sets a n) :=
  Encoding.of_core rfl ((decodeCore_coreWord ..).trans rfl)

theorem Encoding.snap : Encoding.Statement (.snap) :=
  Encoding.of_core rfl ((decodeCore_coreWord ..).trans rfl)

theorem Encoding.tlbinv (a b : BitVec 7) : Encoding.Statement (.tlbinv a b) :=
  Encoding.of_core rfl ((decodeCore_coreWord ..).trans rfl)

theorem Encoding.ctxsv (a b : BitVec 7) : Encoding.Statement (.ctxsv a b) :=
  Encoding.of_core rfl ((decodeCore_coreWord ..).trans rfl)

theorem Encoding.ctxld (a b : BitVec 7) : Encoding.Statement (.ctxld a b) :=
  Encoding.of_core rfl ((decodeCore_coreWord ..).trans rfl)

theorem Encoding.halt : Encoding.Statement (.halt) :=
  Encoding.of_core rfl ((decodeCore_coreWord ..).trans rfl)

theorem Encoding.tapld (a b : BitVec 7) : Encoding.Statement (.tapld a b) :=
  Encoding.of_core rfl ((decodeCore_coreWord ..).trans rfl)

theorem Encoding.launch (d a : BitVec 7) (f : BitVec 4) : Encoding.Statement (.launch d a f) :=
  Encoding.of_core rfl ((decodeCore_coreWord ..).trans rfl)

theorem Encoding.haltw : Encoding.Statement (.haltw) :=
  Encoding.of_walker rfl rfl ((decodeWalker_walkerWord ..).trans rfl)

theorem Encoding.ldp (d a : BitVec 4) (i : BitVec 15) : Encoding.Statement (.ldp d a i) :=
  Encoding.of_walker rfl rfl ((decodeWalker_walkerWord ..).trans rfl)

theorem Encoding.ldx (d a : BitVec 4) (i : BitVec 15) : Encoding.Statement (.ldx d a i) :=
  Encoding.of_walker rfl rfl ((decodeWalker_walkerWord ..).trans rfl)

theorem Encoding.ldval (d a : BitVec 4) (i : BitVec 15) : Encoding.Statement (.ldval d a i) :=
  Encoding.of_walker rfl rfl ((decodeWalker_walkerWord ..).trans rfl)

theorem Encoding.addw (d a b : BitVec 4) (i : BitVec 15) : Encoding.Statement (.addw d a b i) :=
  Encoding.of_walker rfl rfl ((decodeWalker_walkerWord ..).trans rfl)

theorem Encoding.subw (d a b : BitVec 4) (i : BitVec 15) : Encoding.Statement (.subw d a b i) :=
  Encoding.of_walker rfl rfl ((decodeWalker_walkerWord ..).trans rfl)

theorem Encoding.cmpw (d a b : BitVec 4) : Encoding.Statement (.cmpw d a b) :=
  Encoding.of_walker rfl rfl ((decodeWalker_walkerWord ..).trans rfl)

theorem Encoding.bltw (a b : BitVec 4) (i : BitVec 15) : Encoding.Statement (.bltw a b i) :=
  Encoding.of_walker rfl rfl ((decodeWalker_walkerWord ..).trans rfl)

theorem Encoding.bnew (a b : BitVec 4) (i : BitVec 15) : Encoding.Statement (.bnew a b i) :=
  Encoding.of_walker rfl rfl ((decodeWalker_walkerWord ..).trans rfl)

theorem Encoding.loop (d : BitVec 4) (i : BitVec 15) : Encoding.Statement (.loop d i) :=
  Encoding.of_walker rfl rfl ((decodeWalker_walkerWord ..).trans rfl)

theorem Encoding.skip (a b : BitVec 4) : Encoding.Statement (.skip a b) :=
  Encoding.of_walker rfl rfl ((decodeWalker_walkerWord ..).trans rfl)

theorem Encoding.sett (a b : BitVec 4) : Encoding.Statement (.sett a b) :=
  Encoding.of_walker rfl rfl ((decodeWalker_walkerWord ..).trans rfl)

theorem Encoding.emit (d a b : BitVec 4) : Encoding.Statement (.emit d a b) :=
  Encoding.of_walker rfl rfl ((decodeWalker_walkerWord ..).trans rfl)

theorem Encoding.flush (a : BitVec 4) : Encoding.Statement (.flush a) :=
  Encoding.of_walker rfl rfl ((decodeWalker_walkerWord ..).trans rfl)

theorem Encoding.bundleEntry (team group : Nat) : Encoding.Statement (.bundleEntry team group) :=
  Encoding.of_none rfl

theorem Encoding.flagWaitRelease (team group : Nat) : Encoding.Statement (.flagWaitRelease team group) :=
  Encoding.of_none rfl

theorem Encoding.operationComplete (op : Nat) : Encoding.Statement (.operationComplete op) :=
  Encoding.of_none rfl

theorem Encoding.binAgeRelease (core bin : Nat) : Encoding.Statement (.binAgeRelease core bin) :=
  Encoding.of_none rfl

theorem Encoding.binIdleRelease (core bin : Nat) : Encoding.Statement (.binIdleRelease core bin) :=
  Encoding.of_none rfl

theorem Encoding.binRefill (core : Nat) : Encoding.Statement (.binRefill core) :=
  Encoding.of_none rfl

theorem Encoding.issuePromotion (team group : Nat) : Encoding.Statement (.issuePromotion team group) :=
  Encoding.of_none rfl

theorem Encoding.sleepWake (team thr : Nat) : Encoding.Statement (.sleepWake team thr) :=
  Encoding.of_none rfl

theorem Encoding.waitfTimeout (team thr : Nat) : Encoding.Statement (.waitfTimeout team thr) :=
  Encoding.of_none rfl

theorem Encoding.waitfWriteWake (team thr : Nat) : Encoding.Statement (.waitfWriteWake team thr) :=
  Encoding.of_none rfl

theorem Encoding.waitfEarlyWake (team thr : Nat) : Encoding.Statement (.waitfEarlyWake team thr) :=
  Encoding.of_none rfl

theorem Encoding.pageWalk (core fn : Nat) (va : DWord) : Encoding.Statement (.pageWalk core fn va) :=
  Encoding.of_none rfl

theorem Encoding.storePerform (core : Nat) : Encoding.Statement (.storePerform core) :=
  Encoding.of_none rfl

theorem Encoding.scratchpadLineArrival (op team line : Nat) : Encoding.Statement (.scratchpadLineArrival op team line) :=
  Encoding.of_none rfl

theorem Encoding.pannierSend (entry : Nat) : Encoding.Statement (.pannierSend entry) :=
  Encoding.of_none rfl

theorem Encoding.residencyExpire (line : Nat) : Encoding.Statement (.residencyExpire line) :=
  Encoding.of_none rfl

theorem Encoding.copyComplete (op : Nat) : Encoding.Statement (.copyComplete op) :=
  Encoding.of_none rfl

theorem Encoding.copyFault (op : Nat) : Encoding.Statement (.copyFault op) :=
  Encoding.of_none rfl

theorem Encoding.mmaGrant (hub : Nat) : Encoding.Statement (.mmaGrant hub) :=
  Encoding.of_none rfl

theorem Encoding.reservationPromotion (hub call : Nat) : Encoding.Statement (.reservationPromotion hub call) :=
  Encoding.of_none rfl

theorem Encoding.mmaCallEnd (hub : Nat) : Encoding.Statement (.mmaCallEnd hub) :=
  Encoding.of_none rfl

theorem Encoding.bufferEviction (hub buf : Nat) : Encoding.Statement (.bufferEviction hub buf) :=
  Encoding.of_none rfl

theorem Encoding.heldSumFlush (hub buf : Nat) : Encoding.Statement (.heldSumFlush hub buf) :=
  Encoding.of_none rfl

theorem Encoding.attnStop (op : Nat) : Encoding.Statement (.attnStop op) :=
  Encoding.of_none rfl

theorem Encoding.kvOpComplete (op : Nat) : Encoding.Statement (.kvOpComplete op) :=
  Encoding.of_none rfl

theorem Encoding.tapComplete (op : Nat) : Encoding.Statement (.tapComplete op) :=
  Encoding.of_none rfl

theorem Encoding.tapGenerationRetire : Encoding.Statement (.tapGenerationRetire) :=
  Encoding.of_none rfl

theorem Encoding.spokeComplete (ctx : Nat) : Encoding.Statement (.spokeComplete ctx) :=
  Encoding.of_none rfl

theorem Encoding.snapshotLatch : Encoding.Statement (.snapshotLatch) :=
  Encoding.of_none rfl

theorem Encoding.qbaseWrite (q : Nat) (v : DWord) : Encoding.Statement (.qbaseWrite q v) :=
  Encoding.of_none rfl

theorem Encoding.qlog2Write (q : Nat) (v : Word) : Encoding.Statement (.qlog2Write q v) :=
  Encoding.of_none rfl

theorem Encoding.queueEnable (q : Nat) : Encoding.Statement (.queueEnable q) :=
  Encoding.of_none rfl

theorem Encoding.qtailWrite (q : Nat) (v : DWord) : Encoding.Statement (.qtailWrite q v) :=
  Encoding.of_none rfl

theorem Encoding.errClear (q : Nat) : Encoding.Statement (.errClear q) :=
  Encoding.of_none rfl

theorem Encoding.packetRead (q : Nat) : Encoding.Statement (.packetRead q) :=
  Encoding.of_none rfl

theorem Encoding.dependencePoll (q : Nat) : Encoding.Statement (.dependencePoll q) :=
  Encoding.of_none rfl

theorem Encoding.placement (q : Nat) : Encoding.Statement (.placement q) :=
  Encoding.of_none rfl

theorem Encoding.csigWrite (grid : Nat) : Encoding.Statement (.csigWrite grid) :=
  Encoding.of_none rfl

theorem Encoding.remoteWriteArrival (src seq pa : Nat) (bytes : List Byte) (trapped : Bool) : Encoding.Statement (.remoteWriteArrival src seq pa bytes trapped) :=
  Encoding.of_none rfl

theorem Encoding.remoteAccessArrival (src : Sender) (pa : Nat) (acc : AgentAccess) (trapped : Bool) : Encoding.Statement (.remoteAccessArrival src pa acc trapped) :=
  Encoding.of_none rfl

theorem Encoding.hostWriteArrival (link pa : Nat) (bytes : List Byte) : Encoding.Statement (.hostWriteArrival link pa bytes) :=
  Encoding.of_none rfl

theorem Encoding.hostReadArrival (link pa len : Nat) : Encoding.Statement (.hostReadArrival link pa len) :=
  Encoding.of_none rfl

theorem Encoding.atomicopCompletion (op : Nat) (supported : Bool) : Encoding.Statement (.atomicopCompletion op supported) :=
  Encoding.of_none rfl

theorem Encoding.fabricLinkFailure (port : Nat) : Encoding.Statement (.fabricLinkFailure port) :=
  Encoding.of_none rfl

theorem Encoding.deviceLost (node : Nat) : Encoding.Statement (.deviceLost node) :=
  Encoding.of_none rfl

theorem Encoding.pcieLinkDown (link : Nat) : Encoding.Statement (.pcieLinkDown link) :=
  Encoding.of_none rfl

theorem Encoding.correctedError (p : ErrorPlace) : Encoding.Statement (.correctedError p) :=
  Encoding.of_none rfl

theorem Encoding.uncorrectableError (u : ErrorSite) : Encoding.Statement (.uncorrectableError u) :=
  Encoding.of_none rfl

theorem Encoding.unitFailure (u : DeviceUnit) : Encoding.Statement (.unitFailure u) :=
  Encoding.of_none rfl

theorem Encoding.thermalTrip : Encoding.Statement (.thermalTrip) :=
  Encoding.of_none rfl

theorem Encoding.currentLimit : Encoding.Statement (.currentLimit) :=
  Encoding.of_none rfl

theorem Encoding.hostReset : Encoding.Statement (.hostReset) :=
  Encoding.of_none rfl

theorem Encoding.attestation : Encoding.Statement (.attestation) :=
  Encoding.of_none rfl

theorem Encoding.health : Encoding.Statement (.health) :=
  Encoding.of_none rfl

theorem Encoding.snapread : Encoding.Statement (.snapread) :=
  Encoding.of_none rfl

theorem Encoding.snapRearm : Encoding.Statement (.snapRearm) :=
  Encoding.of_none rfl

theorem Encoding.snaptrig : Encoding.Statement (.snaptrig) :=
  Encoding.of_none rfl

theorem Encoding.fwupdate (image : FwImage) (signature : List Byte) : Encoding.Statement (.fwupdate image signature) :=
  Encoding.of_none rfl

theorem Encoding.reset : Encoding.Statement (.reset) :=
  Encoding.of_none rfl

theorem Encoding.pcap (watts : Nat) : Encoding.Statement (.pcap watts) :=
  Encoding.of_none rfl

theorem Encoding.fence (u : DeviceUnit) : Encoding.Statement (.fence u) :=
  Encoding.of_none rfl

theorem Encoding.fenceClear : Encoding.Statement (.fenceClear) :=
  Encoding.of_none rfl

theorem Encoding.fwcommit : Encoding.Statement (.fwcommit) :=
  Encoding.of_none rfl

theorem Encoding.pcieLinkUp (link : Nat) : Encoding.Statement (.pcieLinkUp link) :=
  Encoding.of_none rfl

theorem Encoding.remoteWriteAcknowledged (dst seq : Nat) : Encoding.Statement (.remoteWriteAcknowledged dst seq) :=
  Encoding.of_none rfl

theorem Encoding.hostAtomicopArrival (link pa : Nat) (acc : AgentAccess) : Encoding.Statement (.hostAtomicopArrival link pa acc) :=
  Encoding.of_none rfl

theorem Encoding.powerLoss : Encoding.Statement (.powerLoss) :=
  Encoding.of_none rfl

end Sys2Proof.Laws
end

