-- ==== Sys2Proof/Laws/Reads.lean ====
section
/-!
SUPPORT. What a read at issue gives inside one page, in a machine with nothing queued, poisoned, fenced or lost: one translation,
and the bytes from its key up. With it, the reads of a script need one page walk each.
-/

namespace Sys2Proof.Machine

/-- The leaf that translates an address depends on the address's 64 KiB page alone. -/
theorem State.leafFor_page (s : State) (who : Accessor) {a b : DWord} (h : a.toNat / 65536 = b.toNat / 65536) :
    s.leafFor who a = s.leafFor who b := by
  have hb (hi lo : Nat) (hl : 16 ≤ lo) : bits a.toNat hi lo = bits b.toNat hi lo := by
    have e (x : Nat) : x / 2 ^ lo = x / 65536 / 2 ^ (lo - 16) := by
      rw [Nat.div_div_eq_div_mul, show (65536 : Nat) = 2 ^ 16 from rfl, ← Nat.pow_add, Nat.add_sub_cancel' hl]
    simp only [bits, e, h]
  have hc : canonical a = canonical b := by
    have e (x : Nat) : x / 2 ^ 51 = x / 65536 / 2 ^ 35 := by omega
    simp only [canonical, e, h]
  have hp (x : Nat) : x % 2 ^ 52 / 65536 = x / 65536 % 2 ^ 36 := by omega
  unfold State.leafFor State.walk State.rootPte State.midPte
  simp only [hc, hp, h, hb 51 40 (by decide), hb 51 28 (by decide), hb 39 28 (by decide), hb 27 16 (by decide)]

/-- Nothing is queued, poisoned, fenced or lost. -/
def State.Calm (s : State) : Prop :=
  s.sq = [] ∧ s.pannier = [] ∧ s.poison = [] ∧ s.mgmt.hbmStacks = [] ∧ s.mgmt.lost = []

theorem State.Calm.reachable {s : State} (h : s.Calm) (k : Nat) : s.unreachable k = false := by
  obtain ⟨-, -, -, h1, h2⟩ := h
  unfold State.unreachable State.fencedMem
  rw [h1, h2]
  cases stackOf k <;> simp

/-- A byte read at issue is the byte of memory. -/
theorem State.Calm.readBytes {s : State} (h : s.Calm) (c k j id key : Nat) :
    (s.readBytes c k j id key 1 true).1 = some [s.byte key] := by
  have e : s.ownStores k j id = [] := by simp [State.ownStores, h.1, h.2.1]
  simp [State.readBytes, e, h.reachable, h.2.2.1, forward, State.bytesAt, memBytes, State.byte]

/-- The key of an address further on in the page. -/
theorem State.keyIn_add (s : State) {l : Leaf} {va : DWord} {i : Nat} (hd : 65536 ∣ l.size) (hi : va.toNat % 65536 + i < 65536)
    (hv : va.toNat + i < 2 ^ 64) : s.keyIn l (va + BitVec.ofNat 64 i) = s.keyIn l va + i := by
  obtain ⟨c, hc⟩ := hd
  have e : (va + BitVec.ofNat 64 i).toNat = va.toNat + i := by
    rw [BitVec.toNat_add, BitVec.toNat_ofNat, Nat.add_mod_mod, Nat.mod_eq_of_lt hv]
  have m (x : Nat) : x % (65536 * c) = 65536 * (x / 65536 % c) + x % 65536 := by
    rw [Nat.mod_mul]; omega
  have q : (va.toNat + i) / 65536 = va.toNat / 65536 := by omega
  have r : (va.toNat + i) % 65536 = va.toNat % 65536 + i := by omega
  unfold State.keyIn keyOf
  rw [e, hc, m, m, q, r]
  split <;> [omega; (split <;> omega)]

/-- Every byte of a range inside one page translates as the first does. -/
theorem State.Calm.keysOf {s : State} (h : s.Calm) {who : Accessor} {kind : Access} {va : DWord} {l : Leaf}
    (hp : s.pageOf who kind va = .ok l) (hd : 65536 ∣ l.size) (hs : kind = .load ∨ (s.space who.fn).sqlen = 0) :
    ∀ n, va.toNat % 65536 + n ≤ 65536 →
      Machine.keysOf (fun a => s.translate who kind a 1) va n =
        .ok ((List.range n).map (s.keyIn l va + ·), if n = 0 then none else some l) := by
  intro n
  induction n with
  | zero => intro _; rfl
  | succ n ih =>
    intro hn
    have hv : va.toNat + n < 2 ^ 64 := by have := va.isLt; omega
    have e : (va + BitVec.ofNat 64 n).toNat = va.toNat + n := by
      rw [BitVec.toNat_add, BitVec.toNat_ofNat, Nat.add_mod_mod, Nat.mod_eq_of_lt hv]
    have hl : s.pageOf who kind (va + BitVec.ofNat 64 n) = .ok l := by
      unfold State.pageOf at hp ⊢
      rw [s.leafFor_page who (b := va) (by rw [e]; omega)]
      exact hp
    have ht : s.translate who kind (va + BitVec.ofNat 64 n) 1 = .ok (s.keyIn l va + n, l) := by
      have hw : ((decide (kind = .store) || decide (kind = .atomic)) && s.seqProtected who.fn (va + BitVec.ofNat 64 n) 1) = false := by
        rcases hs with rfl | hs
        · rfl
        · simp [State.seqProtected, hs]
      have hw : ((decide (kind = .store) || decide (kind = .atomic)) && !who.priv && !false &&
          s.seqProtected who.fn (va + BitVec.ofNat 64 n) 1) = false := by
        revert hw; cases who.priv <;> simp
      unfold State.translate State.translateFor
      simp only [hw]
      simp [hl, s.keyIn_add hd (i := n) (va := va) (by omega) hv, Bind.bind, Except.bind, h.reachable]
    have ih := ih (by omega)
    unfold Machine.keysOf at ih ⊢
    rw [List.range_succ, List.foldlM_append, ih]
    simp only [Bind.bind, Except.bind, List.foldlM_cons, List.foldlM_nil, ht, Pure.pure, Except.pure]
    by_cases hz : n = 0 <;> simp [hz]

theorem memBytes_map (m : Tab Byte) (k : Nat) : ∀ n, memBytes m k n = (List.range n).map (fun i => memByte m (k + i))
  | 0 => rfl
  | n + 1 => by
    rw [List.range_succ_eq_map, memBytes, memBytes_map m (k + 1) n]
    simp [Function.comp_def, Nat.add_assoc, Nat.add_comm 1]

/-- A read at issue inside one page. -/
theorem Lane.answer_read {l : Lane} (h : l.s.Calm) {va : DWord} {leaf : Leaf} {n : Nat} (p : Bool)
    (hp : l.s.pageOf l.who .load va = .ok leaf) (hd : 65536 ∣ leaf.size) (h0 : n ≠ 0) (hn : va.toNat % 65536 + n ≤ 65536) :
    l.answer (.read va n p) = .ofPage (some leaf) (lineOf (l.s.keyIn leaf va)) (l.s.version (lineOf (l.s.keyIn leaf va)))
      (memBytes l.s.mem (l.s.keyIn leaf va) n) := by
  simp only [Lane.answer, h.keysOf hp hd (.inl rfl) n hn]
  obtain ⟨m, rfl⟩ : ∃ m, n = m + 1 := ⟨n - 1, by omega⟩
  have e (f : Nat → Byte) (ks : List Nat) : ks.flatMap (fun k => [f k]) = ks.map f := by induction ks <;> simp_all
  simp [h.readBytes, List.range_succ_eq_map, memBytes_map, List.flatMap_map, State.byte, e, Function.comp_def]

/-- Bytes of memory from a key up, with each key a numeral. -/
def bytesFrom (m : Tab Byte) : Nat → Nat → List Byte
  | 0, _ => []
  | n + 1, 0 => memByte m 0 :: bytesFrom m n 1
  | n + 1, k + 1 => memByte m (k + 1) :: bytesFrom m n (k + 2)

theorem bytesFrom_eq (m : Tab Byte) (n k : Nat) : bytesFrom m n k = memBytes m k n := by
  induction n generalizing k with
  | zero => rfl
  | succ n ih => cases k <;> simp [bytesFrom, memBytes, ih]

/-- A script run with a page whose leaf is known: reads there need no walk. -/
def Lane.runBrief {α : Type} (l : Lane) (page : Nat) (leaf : Leaf) : Script α → Except Trap α
  | .done a => .ok a
  | .stop f => .error (.atAddr f.1 f.2)
  | .ask (.read va n p) k =>
    if va.toNat / 65536 = page ∧ n ≠ 0 ∧ va.toNat % 65536 + n ≤ 65536 then
      l.runBrief page leaf (k (.ofPage (some leaf) (lineOf (l.s.keyIn leaf va)) (l.s.version (lineOf (l.s.keyIn leaf va)))
        (bytesFrom l.s.mem n (l.s.keyIn leaf va))))
    else l.runBrief page leaf (k (l.answer (.read va n p)))
  | .ask r k => l.runBrief page leaf (k (l.answer r))

theorem Lane.runBrief_eq {α : Type} {l : Lane} (h : l.s.Calm) {base : DWord} {leaf : Leaf}
    (hp : l.s.pageOf l.who .load base = .ok leaf) (hd : 65536 ∣ leaf.size) (x : Script α) :
    l.runBrief (base.toNat / 65536) leaf x = l.runScript x := by
  induction x with
  | done a => rfl
  | stop f => rfl
  | ask q k ih =>
    rw [Lane.runScript]
    cases q with
    | read va n p =>
      rw [Lane.runBrief, ih, ih]
      split
      · next hc =>
        have hv : l.s.pageOf l.who .load va = .ok leaf := by
          unfold State.pageOf at hp ⊢
          rw [l.s.leafFor_page l.who hc.1]
          exact hp
        rw [Lane.answer_read h p hv hd hc.2.1 hc.2.2, bytesFrom_eq]
      · rfl
    | _ => simp only [Lane.runBrief, ih]

/-! ## Ranges -/

theorem Lane.runScript_bind {α β : Type} (l : Lane) (x : Script α) (f : α → Script β) :
    l.runScript (x.bind f) = (match l.runScript x with | .ok a => l.runScript (f a) | .error t => .error t) := by
  induction x with
  | done a => rfl
  | stop e => rfl
  | ask r k ih => simp only [Script.bind, Lane.runScript, ih]

/-- A read of part of a page gives the bytes of memory. -/
theorem Lane.runScript_read {l : Lane} (h : l.s.Calm) {va : DWord} {leaf : Leaf} (hp : l.s.pageOf l.who .load va = .ok leaf)
    (hd : 65536 ∣ leaf.size) {n : Nat} (h0 : n ≠ 0) (hn : va.toNat % 65536 + n ≤ 65536) :
    l.runScript (Script.read va n) = .ok (memBytes l.s.mem (l.s.keyIn leaf va) n) := by
  rw [Script.read, Script.get, Script.bind, Lane.runScript, Lane.answer_read h false hp hd h0 hn]
  rfl

theorem memBytes_append (m : Tab Byte) (k i j : Nat) : memBytes m k (i + j) = memBytes m k i ++ memBytes m (k + i) j := by
  simp only [memBytes_map, List.range_add, List.map_append, List.map_map, Function.comp_def, Nat.add_assoc]

/-- Words read one after another inside a page are the bytes of memory. -/
theorem Lane.runScript_words {l : Lane} (h : l.s.Calm) {va : DWord} {leaf : Leaf} (hp : l.s.pageOf l.who .load va = .ok leaf)
    (hd : 65536 ∣ leaf.size) {n : Nat} (hn : va.toNat % 65536 + 4 * n ≤ 65536) :
    l.runScript (Script.readBytes va (4 * n)) = .ok (memBytes l.s.mem (l.s.keyIn leaf va) (4 * n)) := by
  have step (m : Nat) : ∀ (i : Nat) (acc : List Byte), i + m = n →
      l.runScript (Script.each (List.range' i m) acc (fun acc i =>
        (Script.read (va + BitVec.ofNat 64 (4 * i)) (min 4 (4 * n - 4 * i))).bind (fun b => .done (acc ++ b)))) =
        .ok (acc ++ memBytes l.s.mem (l.s.keyIn leaf va + 4 * i) (4 * m)) := by
    induction m with
    | zero => intro i acc _; simp [Script.each, Lane.runScript, memBytes]
    | succ m ih =>
      intro i acc hi
      have hv : va.toNat + 4 * i < 2 ^ 64 := by have := va.isLt; omega
      have e : (va + BitVec.ofNat 64 (4 * i)).toNat = va.toNat + 4 * i := by
        rw [BitVec.toNat_add, BitVec.toNat_ofNat, Nat.add_mod_mod, Nat.mod_eq_of_lt hv]
      have hq : l.s.pageOf l.who .load (va + BitVec.ofNat 64 (4 * i)) = .ok leaf := by
        unfold State.pageOf at hp ⊢
        rw [l.s.leafFor_page l.who (b := va) (by rw [e]; omega)]
        exact hp
      rw [List.range'_succ, Script.each, Lane.runScript_bind, Lane.runScript_bind, show min 4 (4 * n - 4 * i) = 4 by omega,
        Lane.runScript_read h hq hd (by decide) (by rw [e]; omega), l.s.keyIn_add hd (by omega) hv]
      simp only [Lane.runScript]
      rw [ih (i + 1) _ (by omega), show 4 * (m + 1) = 4 + 4 * m by omega, memBytes_append, List.append_assoc,
        show l.s.keyIn leaf va + 4 * (i + 1) = l.s.keyIn leaf va + 4 * i + 4 by omega]
  have := step n 0 [] (by omega)
  rw [Script.readBytes, show (4 * n + 3) / 4 = n by omega, List.range_eq_range', this]
  simp

/-- Cells below a key do not matter to it. -/
theorem Tab.get_append {α : Type} {a t : Tab α} {k : Nat} {d : α} (h : ∀ c ∈ a, c.1 < k) : Tab.get (a ++ t) k d = Tab.get t k d := by
  induction a with
  | nil => rfl
  | cons c a ih =>
    have := h c (by simp)
    rw [List.cons_append, Tab.get, if_neg (by omega), if_neg (by omega), ih (fun x hx => h x (by simp [hx]))]

end Sys2Proof.Machine
end

