-- ==== Sys2Proof/Laws/Seq.lean ====
section
/-!
SUPPORT. Instructions whose members act one after another, on a group of one thread: the thread completes, with what follows
it in the state, or traps (R61). A thread that has an outstanding cause takes it (R324).
-/

namespace Sys2Proof.Machine

/-- A thread alone as the issuing group sees it before it is dissolved. -/
theorem State.Alone.issuer {fm : Form} {s : State} {l : Lane} (h : s.Alone fm l) :
    ∃ tm, l.tm = { tm with groups := l.tm.groups } ∧ s.issuer = some (tm, [({ s := s, tm := tm, th := l.th } : Lane)]) := by
  have ht := h.team
  have hl := h.lane
  unfold State.dissolve State.modTeam at ht
  dsimp only at ht
  rw [List.getElem?_modify] at ht
  simp only [if_true, Option.map_eq_map] at ht
  rw [Option.map_eq_some_iff] at ht
  obtain ⟨tm, ht, e⟩ := ht
  refine ⟨tm, by rw [← e], ?_⟩
  unfold State.laneFor at hl
  rw [← e] at hl
  dsimp only at hl
  rw [Option.map_eq_some_iff] at hl
  obtain ⟨th, hth, el⟩ := hl
  have eth : th.settle s.now = l.th := by rw [← el]; rfl
  unfold State.issuer
  rw [ht]
  dsimp only
  rw [h.member]
  simp only [List.filterMap_cons, List.filterMap_nil, State.laneFor, hth, Option.map_some, eth, List.isEmpty_cons,
    Bool.false_eq_true, if_false]

theorem State.Alone.lane_s {fm : Form} {s : State} {l : Lane} (h : s.Alone fm l) : l.s = s.dissolve := by
  have hl := h.lane
  unfold State.laneFor at hl
  rw [Option.map_eq_some_iff] at hl
  obtain ⟨th, _, el⟩ := hl
  rw [← el]

theorem sortBy_one (n : Nat) : sortBy id [n] = [n] := rfl

theorem State.Alone.memberFull {fm : Form} {s : State} {l : Lane} (f : Lane → LaneOut × (State → State)) (h : s.Alone fm l) :
    State.memberFull fm f s.dissolve l.th.idx = (match (f l).1 with | .done d => l.full d | _ => false) := by
  unfold State.memberFull
  rw [show s.dissolve.cur.team = s.cur.team from rfl, h.team]
  dsimp only
  rw [h.lane]
  dsimp only
  rw [h.runs, h.passes]
  rfl

/-- A thread alone is not held, and its flag has room. -/
structure State.Goes (s : State) (l : Lane) (held : Lane → Bool) (f : Lane → LaneOut × (State → State)) : Prop where
  free (tm : Team) (h : l.tm = { tm with groups := l.tm.groups }) : held { s := s, tm := tm, th := l.th } = false
  room : (match (f l).1 with | .done d => l.full d | _ => false) = false

/-- The one member acts, on the state that what comes before it leaves. -/
theorem State.Alone.run {before : State → Nat → State} {fm : Form} {s : State} {l : Lane} {held : Lane → Bool}
    {f : Lane → LaneOut × (State → State)} (h : s.Alone fm l) (hg : State.Goes s l held f) :
    runSeqAfter before fm s held f = .next ((State.member fm f (before s.dissolve l.th.idx) l.th.idx).modTeam s.cur.team
      (Team.gather s.now s.cur.members)) := by
  obtain ⟨tm, e, hi⟩ := h.issuer
  unfold runSeqAfter
  rw [hi]
  simp only [List.map_cons, List.map_nil, sortBy_one, List.foldl_cons, List.foldl_nil, List.any_cons, List.any_nil,
    Bool.or_false, hg.free tm e, Bool.and_false, h.memberFull, hg.room, Bool.false_eq_true, if_false]

/-- What a member that runs and passes the checks at issue does. -/
theorem State.member_eq {fm : Form} {s : State} {m : Lane} {j : Nat} (f : Lane → LaneOut × (State → State))
    (ht : s.teams[s.cur.team]? = some m.tm) (hl : s.laneFor m.tm j = some m) (hr : m.th.runnable = true)
    (hc : m.check fm = none) :
    State.member fm f s j =
      match f m with
      | (.trap t, _) => s.trapIssued s.cur.team j t
      | (.deliver c, _) => s.deliverIn s.now s.cur.team j c
      | (.done d, after) => if m.full d then s else after (s.finishMember m d)
      | (.hold, _) => s := by
  unfold State.member
  rw [ht]; dsimp only
  rw [hl]; dsimp only
  rw [hr, hc]
  rfl

/-- There is room on the flag an instruction names (R43). -/
theorem Lane.not_full {l : Lane} {d : Done} (h : d.flag = 0 ∨ l.th.flag d.flag < 15) : l.full d = false := by
  unfold Lane.full
  rw [Bool.and_eq_false_iff, decide_eq_false_iff_not, decide_eq_false_iff_not]
  omega

/-- The one member completes. -/
theorem State.Alone.done {fm : Form} {s : State} {l : Lane} {held : Lane → Bool} {f : Lane → LaneOut × (State → State)}
    {d : Done} {after : State → State} (h : s.Alone fm l)
    (hh : ∀ tm, l.tm = { tm with groups := l.tm.groups } → held { s := s, tm := tm, th := l.th } = false)
    (hf : f l = (.done d, after)) (hr : d.flag = 0 ∨ l.th.flag d.flag < 15) :
    runFormSeq fm s held f = .next (s.acted l d after) := by
  have hn := Lane.not_full hr
  unfold runFormSeq
  rw [h.run ⟨hh, by rw [hf]; exact hn⟩, State.member_eq f h.team h.lane h.runs h.passes, hf]
  dsimp only
  rw [hn]
  unfold State.acted
  rw [h.lane_s]
  rfl

/-- The one member traps. -/
theorem State.Alone.trap {fm : Form} {s : State} {l : Lane} {held : Lane → Bool} {f : Lane → LaneOut × (State → State)}
    {t : Trap} {after : State → State} (h : s.Alone fm l)
    (hh : ∀ tm, l.tm = { tm with groups := l.tm.groups } → held { s := s, tm := tm, th := l.th } = false)
    (hf : f l = (.trap t, after)) : runFormSeq fm s held f = .next (s.actedTrap l t) := by
  unfold runFormSeq State.actedTrap
  rw [h.run ⟨hh, by rw [hf]⟩, State.member_eq f h.team h.lane h.runs h.passes, hf, h.lane_s]

theorem State.InTurn.alone {fm : Form} {s : State} {l m : Lane} (h : s.InTurn fm l m) : s.Alone fm l :=
  { h.toPlaced.toSingle with passes := h.passes }

/-- Where no thread has still to leave, a thread's place is the one at issue. -/
theorem State.Alone.inTurn {fm : Form} {s : State} {l : Lane} (h : s.Alone fm l) (hn : s.leaving = []) : s.InTurn fm l l := by
  have hs := h.lane_s
  have e : l.s.leaveBefore s.cur.team l.th.idx = l.s := by
    rw [hs]
    show s.dissolve.leaveWhere _ = s.dissolve
    unfold State.leaveWhere
    rw [show s.dissolve.leaving = s.leaving from rfl, hn]
    exact congrArg (fun x => ({ s.dissolve with leaving := x } : State)) hn.symm
  exact { h with same := rfl, left := e.symm, seat := hs ▸ h.team, lane' := by rw [hs]; exact h.lane
                 runs' := h.runs, passes' := h.passes }

/-- The member whose turn it is completes, on the state that the threads before it have left (R24). -/
theorem State.InTurn.done {i : Instr} {s : State} {l m : Lane} {held : Lane → Bool} {f : Lane → LaneOut × (State → State)}
    {d : Done} {after : State → State} (h : s.InTurn (instrForm i) l m) (hg : State.Goes s l held f)
    (hf : f m = (.done d, after)) (hr : d.flag = 0 ∨ m.th.flag d.flag < 15) :
    runJoin i s held f = .next (s.acted m d after) := by
  have hn := Lane.not_full hr
  have hb : s.dissolve.leaveBefore s.dissolve.cur.team l.th.idx = m.s := by rw [h.left, h.alone.lane_s]; rfl
  unfold runJoin
  rw [h.alone.run hg, hb, State.member_eq f h.seat h.lane' h.runs' h.passes', hf]
  dsimp only
  rw [hn]
  rfl

/-- The member whose turn it is traps. -/
theorem State.InTurn.trap {i : Instr} {s : State} {l m : Lane} {held : Lane → Bool} {f : Lane → LaneOut × (State → State)}
    {t : Trap} {after : State → State} (h : s.InTurn (instrForm i) l m) (hg : State.Goes s l held f)
    (hf : f m = (.trap t, after)) : runJoin i s held f = .next (s.actedTrap m t) := by
  have hb : s.dissolve.leaveBefore s.dissolve.cur.team l.th.idx = m.s := by rw [h.left, h.alone.lane_s]; rfl
  unfold runJoin State.actedTrap
  rw [h.alone.run hg, hb, State.member_eq f h.seat h.lane' h.runs' h.passes', hf, h.same]

/-- A full flag counter holds the one member (R43). -/
theorem State.Alone.full {fm : Form} {s : State} {l : Lane} {held : Lane → Bool} {f : Lane → LaneOut × (State → State)}
    {d : Done} {after : State → State} (h : s.Alone fm l) (hf : f l = (.done d, after)) (hn : d.flag ≠ 0)
    (hr : 15 ≤ l.th.flag d.flag) {before : State → Nat → State} : runSeqAfter before fm s held f = .next s.holdGroup := by
  obtain ⟨tm, _, hi⟩ := h.issuer
  have hb : l.full d = true := by
    unfold Lane.full
    rw [decide_eq_true hn, decide_eq_true hr]
    rfl
  unfold runSeqAfter
  rw [hi]
  simp only [List.map_cons, List.map_nil, sortBy_one, List.any_cons, List.any_nil, Bool.or_false, h.memberFull, hf, hb,
    Bool.or_true, if_true]

/-- What holds a thread does not depend on its own group. -/
theorem State.Alone.same {fm : Form} {s : State} {l : Lane} (h : s.Alone fm l) {tm : Team}
    (ht : l.tm = { tm with groups := l.tm.groups }) (a : BitVec 7) :
    Lane.signHeld { s := s, tm := tm, th := l.th } a = l.signHeld a ∧
      Lane.quiet { s := s, tm := tm, th := l.th } = l.quiet ∧ Lane.waitsToRead { s := s, tm := tm, th := l.th } = l.waitsToRead ∧
      Lane.acquiring { s := s, tm := tm, th := l.th } = l.acquiring ∧ Lane.unacked { s := s, tm := tm, th := l.th } = l.unacked ∧
      Lane.readsOut { s := s, tm := tm, th := l.th } = l.readsOut ∧ Lane.hostOut { s := s, tm := tm, th := l.th } = l.hostOut := by
  have e := h.lane_s
  cases l
  dsimp only at e ht
  subst e
  rw [ht]
  exact ⟨rfl, rfl, rfl, rfl, rfl, rfl, rfl⟩

end Sys2Proof.Machine
end

