-- ==== Sys2Proof/Tests/Slice0.lean ====
section
/-!
SUPPORT. Tests of the model. Words written out from the manual's encodings decode to the instructions they stand for; results that
the manual works out; one refused term for each check of well-formedness; and for every statement about the machine, states and
operands that meet its hypotheses.
-/

set_option Elab.async false

namespace Sys2Proof.Tests

open Sys2Proof Sys2Proof.Machine

/-! ## Words of the manual's examples -/

theorem test_decode_arithmetic :
    decodeCore 0x021C1845#32 = .ok (.imad 7 3 4) ∧ decodeCore 0x041817FA#32 = .ok (.bfx 6 2 127) ∧
    decodeCore 0x06241846#32 = .ok (.isetLtN 9 3 4) ∧ decodeCore 0x08281031#32 = .ok (.sel 10 2 3) ∧
    decodeCore 0x0A501127#32 = .ok (.lea2 20 2 18) := ⟨rfl, rfl, rfl, rfl, rfl⟩
theorem test_decode_immediate :
    decodeCore 0x10448820#32 = .ok (.iaddi 17 17 32) ∧ decodeCore 0x125CB8FF#32 = .ok (.andi 23 23 255) ∧
    decodeCore 0x1677D004#32 = .ok (.shli 29 122 4) ∧ decodeCore 0x200C5678#32 = .ok (.ldi 3 0x5678) ∧
    decodeCore 0x220C048D#32 = .ok (.ldhi 3 0x48D) := ⟨rfl, rfl, rfl, rfl, rfl⟩
theorem test_decode_thread :
    decodeCore 0x24000002#32 = .ok (.win 2) ∧ decodeCore 0x26000008#32 = .ok (.part 8) ∧ decodeCore 0x28000002#32 = .ok (.prio 2) ∧
    decodeCore 0x2A000064#32 = .ok (.sleep 100) ∧ decodeCore 0x2C201000#32 = .ok (.waitf 8 4096) := ⟨rfl, rfl, rfl, rfl, rfl⟩
theorem test_decode_control :
    decodeCore 0x347FFFFB#32 = .ok (.bnez 31 (BitVec.ofInt 18 (-5))) ∧ decodeCore 0x3AA0000C#32 = .ok (.call 40 12) ∧
    decodeCore 0x3C014001#32 = .ok (.ret 40) ∧ decodeCore 0x3CA06002#32 = .ok (.callr 40 12) := ⟨rfl, rfl, rfl, rfl⟩
theorem test_decode_join :
    decodeCore 0x4024F000#32 = .ok (.jdecl 9 30) ∧ decodeCore 0x40240001#32 = .ok (.jsign 9) ∧
    decodeCore 0x407C4804#32 = .ok (.jstat 31 9) := ⟨rfl, rfl, rfl⟩
theorem test_decode_cross :
    decodeCore 0x4E284098#32 = .ok (.tscanSegAddI 10 8 9) ∧ decodeCore 0x502C4000#32 = .ok (.tredAddI 11 8) ∧
    decodeCore 0x48304092#32 = .ok (.laneFwd 12 8 9) ∧ decodeCore 0x4C60B801#32 = .ok (.mrank 24 23) := ⟨rfl, rfl, rfl, rfl⟩
theorem test_decode_barrier :
    decodeCore 0x7C03C003#32 = .ok (.barSync 120) ∧ decodeCore 0x7C002054#32 = .ok (.barExpect 4 5) ∧
    decodeCore 0x7C182005#32 = .ok (.barPhase 6 4) := ⟨rfl, rfl, rfl⟩
theorem test_decode_float :
    decodeCore 0x80141833#32 = .ok (.ffma 5 3 3) ∧ decodeCore 0x800C0820#32 = .ok (.fadd 3 1 2) ∧
    decodeCore 0x82242052#32 = .ok (.fsetLt 9 4 5) ∧ decodeCore 0x82242007#32 = .ok (.fclass 9 4) ∧
    decodeCore 0x90242060#32 = .ok (.reqI8 9 4 6) := ⟨rfl, rfl, rfl, rfl, rfl⟩
theorem test_decode_system :
    decodeCore 0xFC000050#32 = .ok (.trap 5) ∧ decodeCore 0xFC000001#32 = .ok .rett ∧ decodeCore 0xFC000004#32 = .ok .snap ∧
    decodeCore 0xA458A001#32 = .ok (.ldgW 22 20 0 1) := ⟨rfl, rfl, rfl, rfl⟩

theorem test_decode_codes :
    decodeCore 0xEC281113#32 = .ok (.atom 10 2 17 3) ∧ decodeCore 0xF0541080#32 = .ok (.red 21 2 8 0) ∧
    decodeCore 0xF6181011#32 = .ok (.ldacqD 6 2 1 1) ∧ decodeCore 0xFA101050#32 = .ok (.strelD 4 2 5 0) ∧
    decodeCore 0x8C141840#32 = .ok (.cvt 5 3 4 0 0) ∧ decodeCore 0xFC200082#32 = .ok (.gets 8 8) ∧
    decodeCore 0x76042092#32 = .ok (.tapNorm 4 9 2) ∧ decodeCore 0xD2142102#32 = .ok (.mma 5 4 16 2) ∧
    decodeCore 0xB230E7F0#32 = .ok (.stgQ 12 28 127 0) := ⟨rfl, rfl, rfl, rfl, rfl, rfl, rfl, rfl, rfl⟩

/-! ## One word of each row of the opcode table, written from its fields -/

theorem test_decode_rows_1 :
    decodeCore 0x00000000#32 = .ok .nop ∧ decodeCore 0x00000001#32 = .ok .exit ∧ decodeCore 0x00000002#32 = .ok .reform ∧
    decodeCore 0x00000003#32 = .ok .reformB ∧ decodeCore 0x00000004#32 = .ok .yield ∧ decodeCore 0x00000005#32 = .ok .bkpt ∧
    decodeCore 0x02975C70#32 = .ok (.iadd 37 107 71) ∧ decodeCore 0x02975C71#32 = .ok (.isub 37 107 71) ∧
    decodeCore 0x02975C72#32 = .ok (.imul 37 107 71) ∧ decodeCore 0x02975C73#32 = .ok (.imulhS 37 107 71) ∧
    decodeCore 0x02975C74#32 = .ok (.imulhN 37 107 71) ∧ decodeCore 0x02975C75#32 = .ok (.imad 37 107 71) ∧
    decodeCore 0x02975C76#32 = .ok (.iminS 37 107 71) ∧ decodeCore 0x02975C77#32 = .ok (.iminN 37 107 71) ∧
    decodeCore 0x02975C78#32 = .ok (.imaxS 37 107 71) ∧ decodeCore 0x02975C79#32 = .ok (.imaxN 37 107 71) ∧
    decodeCore 0x0297580A#32 = .ok (.iabs 37 107) ∧ decodeCore 0x04975C70#32 = .ok (.and 37 107 71) ∧
    decodeCore 0x04975C71#32 = .ok (.or 37 107 71) ∧ decodeCore 0x04975C72#32 = .ok (.xor 37 107 71) ∧
    decodeCore 0x04975C73#32 = .ok (.andn 37 107 71) ∧ decodeCore 0x04975C74#32 = .ok (.shl 37 107 71) ∧
    decodeCore 0x04975C75#32 = .ok (.shr 37 107 71) ∧ decodeCore 0x04975C76#32 = .ok (.sha 37 107 71) ∧
    decodeCore 0x04975C77#32 = .ok (.rotl 37 107 71) :=
  ⟨rfl, rfl, rfl, rfl, rfl, rfl, rfl, rfl, rfl, rfl, rfl, rfl, rfl, rfl, rfl, rfl, rfl, rfl, rfl, rfl, rfl, rfl, rfl, rfl, rfl⟩
theorem test_decode_rows_2 :
    decodeCore 0x04975808#32 = .ok (.popc 37 107) ∧ decodeCore 0x04975809#32 = .ok (.clz 37 107) ∧
    decodeCore 0x04975C7A#32 = .ok (.bfx 37 107 71) ∧ decodeCore 0x04975C7B#32 = .ok (.bfi 37 107 71) ∧
    decodeCore 0x06975C70#32 = .ok (.isetEq 37 107 71) ∧ decodeCore 0x06975C71#32 = .ok (.isetNe 37 107 71) ∧
    decodeCore 0x06975C72#32 = .ok (.isetLt 37 107 71) ∧ decodeCore 0x06975C73#32 = .ok (.isetLe 37 107 71) ∧
    decodeCore 0x06975C74#32 = .ok (.isetGt 37 107 71) ∧ decodeCore 0x06975C75#32 = .ok (.isetGe 37 107 71) ∧
    decodeCore 0x06975C76#32 = .ok (.isetLtN 37 107 71) ∧ decodeCore 0x06975C77#32 = .ok (.isetLeN 37 107 71) ∧
    decodeCore 0x06975C78#32 = .ok (.isetGtN 37 107 71) ∧ decodeCore 0x06975C79#32 = .ok (.isetGeN 37 107 71) ∧
    decodeCore 0x08975800#32 = .ok (.mov 37 107) ∧ decodeCore 0x08975C71#32 = .ok (.sel 37 107 71) ∧
    decodeCore 0x0A975C70#32 = .ok (.add64 37 107 71) ∧ decodeCore 0x0A975C71#32 = .ok (.sub64 37 107 71) ∧
    decodeCore 0x0A975C72#32 = .ok (.shl64 37 107 71) ∧ decodeCore 0x0A975C73#32 = .ok (.shr64 37 107 71) ∧
    decodeCore 0x0A975C74#32 = .ok (.mul64 37 107 71) ∧ decodeCore 0x0A975C75#32 = .ok (.lea0 37 107 71) ∧
    decodeCore 0x0A975C76#32 = .ok (.lea1 37 107 71) ∧ decodeCore 0x0A975C77#32 = .ok (.lea2 37 107 71) ∧
    decodeCore 0x0A975C78#32 = .ok (.lea3 37 107 71) :=
  ⟨rfl, rfl, rfl, rfl, rfl, rfl, rfl, rfl, rfl, rfl, rfl, rfl, rfl, rfl, rfl, rfl, rfl, rfl, rfl, rfl, rfl, rfl, rfl, rfl, rfl⟩
theorem test_decode_rows_3 :
    decodeCore 0x0A975C79#32 = .ok (.iset64Eq 37 107 71) ∧ decodeCore 0x0A975C7A#32 = .ok (.iset64LtN 37 107 71) ∧
    decodeCore 0x10975BC7#32 = .ok (.iaddi 37 107 967) ∧ decodeCore 0x12975BC7#32 = .ok (.andi 37 107 967) ∧
    decodeCore 0x14975BC7#32 = .ok (.ori 37 107 967) ∧ decodeCore 0x16975807#32 = .ok (.shli 37 107 7) ∧
    decodeCore 0x18975807#32 = .ok (.shri 37 107 7) ∧ decodeCore 0x20955A6B#32 = .ok (.ldi 37 88683) ∧
    decodeCore 0x22941A6B#32 = .ok (.ldhi 37 6763) ∧ decodeCore 0x2402D5A5#32 = .ok (.win 185765) ∧
    decodeCore 0x2602D5A5#32 = .ok (.part 185765) ∧ decodeCore 0x2802D5A5#32 = .ok (.prio 185765) ∧
    decodeCore 0x2A02D5A5#32 = .ok (.sleep 185765) ∧ decodeCore 0x2C955A6B#32 = .ok (.waitf 37 88683) ∧
    decodeCore 0x3002D5A5#32 = .ok (.bra 185765) ∧ decodeCore 0x32955A6B#32 = .ok (.beqz 37 88683) ∧
    decodeCore 0x34955A6B#32 = .ok (.bnez 37 88683) ∧ decodeCore 0x36955A6B#32 = .ok (.bltz 37 88683) ∧
    decodeCore 0x38955A6B#32 = .ok (.bgez 37 88683) ∧ decodeCore 0x3A955A6B#32 = .ok (.call 37 88683) ∧
    decodeCore 0x3C012800#32 = .ok (.jmp 37) ∧ decodeCore 0x3C012801#32 = .ok (.ret 37) ∧
    decodeCore 0x3C975802#32 = .ok (.callr 37 107) ∧ decodeCore 0x3E975C7D#32 = .ok (.qpost 37 107 71 13) ∧
    decodeCore 0x40975800#32 = .ok (.jdecl 37 107) :=
  ⟨rfl, rfl, rfl, rfl, rfl, rfl, rfl, rfl, rfl, rfl, rfl, rfl, rfl, rfl, rfl, rfl, rfl, rfl, rfl, rfl, rfl, rfl, rfl, rfl, rfl⟩
theorem test_decode_rows_4 :
    decodeCore 0x40940001#32 = .ok (.jsign 37) ∧ decodeCore 0x40940002#32 = .ok (.jleave 37) ∧
    decodeCore 0x40940003#32 = .ok (.jcancel 37) ∧ decodeCore 0x40975804#32 = .ok (.jstat 37 107) ∧
    decodeCore 0x48975C70#32 = .ok (.lanePick 37 107 71) ∧ decodeCore 0x48975C71#32 = .ok (.laneBack 37 107 71) ∧
    decodeCore 0x48975C72#32 = .ok (.laneFwd 37 107 71) ∧ decodeCore 0x48975C73#32 = .ok (.laneFlip 37 107 71) ∧
    decodeCore 0x48975C74#32 = .ok (.laneRot 37 107 71) ∧ decodeCore 0x4A975800#32 = .ok (.pollEvery 37 107) ∧
    decodeCore 0x4A975801#32 = .ok (.pollSome 37 107) ∧ decodeCore 0x4A975802#32 = .ok (.pollMask 37 107) ∧
    decodeCore 0x4A975803#32 = .ok (.pollSame 37 107) ∧ decodeCore 0x4A940004#32 = .ok (.pollPres 37) ∧
    decodeCore 0x4A975805#32 = .ok (.pollCnt 37 107) ∧ decodeCore 0x4C975800#32 = .ok (.matchLanes 37 107) ∧
    decodeCore 0x4C975801#32 = .ok (.mrank 37 107) ∧ decodeCore 0x4C975802#32 = .ok (.mcnt 37 107) ∧
    decodeCore 0x4C975803#32 = .ok (.mlead 37 107) ∧ decodeCore 0x4E975800#32 = .ok (.tscanAddI 37 107) ∧
    decodeCore 0x4E975801#32 = .ok (.tscanAddF 37 107) ∧ decodeCore 0x4E975802#32 = .ok (.tscanMaxS 37 107) ∧
    decodeCore 0x4E975803#32 = .ok (.tscanMinS 37 107) ∧ decodeCore 0x4E975804#32 = .ok (.tscanExAddI 37 107) ∧
    decodeCore 0x4E975805#32 = .ok (.tscanExAddF 37 107) :=
  ⟨rfl, rfl, rfl, rfl, rfl, rfl, rfl, rfl, rfl, rfl, rfl, rfl, rfl, rfl, rfl, rfl, rfl, rfl, rfl, rfl, rfl, rfl, rfl, rfl, rfl⟩
theorem test_decode_rows_5 :
    decodeCore 0x4E975C78#32 = .ok (.tscanSegAddI 37 107 71) ∧ decodeCore 0x4E975C79#32 = .ok (.tscanSegAddF 37 107 71) ∧
    decodeCore 0x50975800#32 = .ok (.tredAddI 37 107) ∧ decodeCore 0x50975801#32 = .ok (.tredAddF 37 107) ∧
    decodeCore 0x50975802#32 = .ok (.tredMaxS 37 107) ∧ decodeCore 0x50975803#32 = .ok (.tredMinS 37 107) ∧
    decodeCore 0x50975804#32 = .ok (.tredMaxF 37 107) ∧ decodeCore 0x50975805#32 = .ok (.tredMinF 37 107) ∧
    decodeCore 0x50975806#32 = .ok (.tredAnd 37 107) ∧ decodeCore 0x50975807#32 = .ok (.tredOr 37 107) ∧
    decodeCore 0x60975C7D#32 = .ok (.ldlB 37 107 71 13) ∧ decodeCore 0x62975C7D#32 = .ok (.ldlH 37 107 71 13) ∧
    decodeCore 0x64975C7D#32 = .ok (.ldlW 37 107 71 13) ∧ decodeCore 0x66975C7D#32 = .ok (.ldlD 37 107 71 13) ∧
    decodeCore 0x68975C7D#32 = .ok (.ldlQ 37 107 71 13) ∧ decodeCore 0x6A975C7D#32 = .ok (.stlB 37 107 71 13) ∧
    decodeCore 0x6C975C7D#32 = .ok (.stlH 37 107 71 13) ∧ decodeCore 0x6E975C7D#32 = .ok (.stlW 37 107 71 13) ∧
    decodeCore 0x70975C7D#32 = .ok (.stlD 37 107 71 13) ∧ decodeCore 0x72975C7D#32 = .ok (.stlQ 37 107 71 13) ∧
    decodeCore 0x74975C7D#32 = .ok (.atl 37 107 71 13) ∧ decodeCore 0x76012EB7#32 = .ok (.tap 37 107 7) ∧
    decodeCore 0x76052EB7#32 = .ok (.tapNorm 37 107 7) ∧ decodeCore 0x78012EB0#32 = .ok (.tapq 37 107) ∧
    decodeCore 0x7A012EB7#32 = .ok (.spoke 37 107 7) :=
  ⟨rfl, rfl, rfl, rfl, rfl, rfl, rfl, rfl, rfl, rfl, rfl, rfl, rfl, rfl, rfl, rfl, rfl, rfl, rfl, rfl, rfl, rfl, rfl, rfl, rfl⟩
theorem test_decode_rows_6 :
    decodeCore 0x7C012EB0#32 = .ok (.barInit 37 107) ∧ decodeCore 0x7C012801#32 = .ok (.barArrive 37) ∧
    decodeCore 0x7C012EB2#32 = .ok (.barWait 37 107) ∧ decodeCore 0x7C012803#32 = .ok (.barSync 37) ∧
    decodeCore 0x7C012EB4#32 = .ok (.barExpect 37 107) ∧ decodeCore 0x7C975805#32 = .ok (.barPhase 37 107) ∧
    decodeCore 0x7C012806#32 = .ok (.barInval 37) ∧ decodeCore 0x80975C70#32 = .ok (.fadd 37 107 71) ∧
    decodeCore 0x80975C71#32 = .ok (.fsub 37 107 71) ∧ decodeCore 0x80975C72#32 = .ok (.fmul 37 107 71) ∧
    decodeCore 0x80975C73#32 = .ok (.ffma 37 107 71) ∧ decodeCore 0x80975C74#32 = .ok (.fmin 37 107 71) ∧
    decodeCore 0x80975C75#32 = .ok (.fmax 37 107 71) ∧ decodeCore 0x80975806#32 = .ok (.fneg 37 107) ∧
    decodeCore 0x80975807#32 = .ok (.fabs 37 107) ∧ decodeCore 0x82975C70#32 = .ok (.fsetEq 37 107 71) ∧
    decodeCore 0x82975C71#32 = .ok (.fsetNe 37 107 71) ∧ decodeCore 0x82975C72#32 = .ok (.fsetLt 37 107 71) ∧
    decodeCore 0x82975C73#32 = .ok (.fsetLe 37 107 71) ∧ decodeCore 0x82975C74#32 = .ok (.fsetGt 37 107 71) ∧
    decodeCore 0x82975C75#32 = .ok (.fsetGe 37 107 71) ∧ decodeCore 0x82975C76#32 = .ok (.fsetUn 37 107 71) ∧
    decodeCore 0x82975807#32 = .ok (.fclass 37 107) ∧ decodeCore 0x86975800#32 = .ok (.frcp 37 107) ∧
    decodeCore 0x86975801#32 = .ok (.frsq 37 107) :=
  ⟨rfl, rfl, rfl, rfl, rfl, rfl, rfl, rfl, rfl, rfl, rfl, rfl, rfl, rfl, rfl, rfl, rfl, rfl, rfl, rfl, rfl, rfl, rfl, rfl, rfl⟩
theorem test_decode_rows_7 :
    decodeCore 0x86975802#32 = .ok (.fsqrt 37 107) ∧ decodeCore 0x86975803#32 = .ok (.fex2 37 107) ∧
    decodeCore 0x86975804#32 = .ok (.flg2 37 107) ∧ decodeCore 0x86975805#32 = .ok (.fexp 37 107) ∧
    decodeCore 0x86975806#32 = .ok (.fln 37 107) ∧ decodeCore 0x86975807#32 = .ok (.fsinp 37 107) ∧
    decodeCore 0x86975808#32 = .ok (.fcosp 37 107) ∧ decodeCore 0x86975809#32 = .ok (.ftanh 37 107) ∧
    decodeCore 0x8697580A#32 = .ok (.fsig 37 107) ∧ decodeCore 0x88975C70#32 = .ok (.h2add 37 107 71) ∧
    decodeCore 0x88975C71#32 = .ok (.h2mul 37 107 71) ∧ decodeCore 0x88975C72#32 = .ok (.h2fma 37 107 71) ∧
    decodeCore 0x88975C74#32 = .ok (.b2add 37 107 71) ∧ decodeCore 0x88975C75#32 = .ok (.b2mul 37 107 71) ∧
    decodeCore 0x88975C76#32 = .ok (.b2fma 37 107 71) ∧ decodeCore 0x8A975C70#32 = .ok (.xadd 37 107 71) ∧
    decodeCore 0x8A975C71#32 = .ok (.xmul 37 107 71) ∧ decodeCore 0x8A975802#32 = .ok (.xexp 37 107) ∧
    decodeCore 0x8A975803#32 = .ok (.xcvt 37 107) ∧ decodeCore 0x8A975804#32 = .ok (.xfrom 37 107) ∧
    decodeCore 0x8A975C75#32 = .ok (.xratio 37 107 71) ∧ decodeCore 0x8C975C7E#32 = .ok (.cvt 37 107 71 1 6) ∧
    decodeCore 0x8E975C70#32 = .ok (.bytp 37 107 71) ∧ decodeCore 0x8E975C71#32 = .ok (.hpk 37 107 71) ∧
    decodeCore 0x90975C70#32 = .ok (.reqI8 37 107 71) :=
  ⟨rfl, rfl, rfl, rfl, rfl, rfl, rfl, rfl, rfl, rfl, rfl, rfl, rfl, rfl, rfl, rfl, rfl, rfl, rfl, rfl, rfl, rfl, rfl, rfl, rfl⟩
theorem test_decode_rows_8 :
    decodeCore 0x90975C71#32 = .ok (.reqI4 37 107 71) ∧ decodeCore 0x90975C72#32 = .ok (.reqN8 37 107 71) ∧
    decodeCore 0x90975C73#32 = .ok (.reqN4 37 107 71) ∧ decodeCore 0x92975C70#32 = .ok (.rng 37 107 71) ∧
    decodeCore 0x92975801#32 = .ok (.gumb 37 107) ∧ decodeCore 0x92975802#32 = .ok (.unif 37 107) ∧
    decodeCore 0x94975C70#32 = .ok (.softmax 37 107 71) ∧ decodeCore 0x94975C71#32 = .ok (.rmsnE12 37 107 71) ∧
    decodeCore 0x94975C72#32 = .ok (.rmsnE14 37 107 71) ∧ decodeCore 0x94975C73#32 = .ok (.rmsnE16 37 107 71) ∧
    decodeCore 0x94975C74#32 = .ok (.rmsnE18 37 107 71) ∧ decodeCore 0x94975C75#32 = .ok (.rmsnE20 37 107 71) ∧
    decodeCore 0x98975807#32 = .ok (.kvtag 37 107 7) ∧ decodeCore 0x9A975807#32 = .ok (.bnds 37 107 7) ∧
    decodeCore 0x9C975807#32 = .ok (.kvmove 37 107 7) ∧ decodeCore 0x9E975807#32 = .ok (.topk 37 107 7) ∧
    decodeCore 0xA0975C7D#32 = .ok (.ldgB 37 107 71 13) ∧ decodeCore 0xA2975C7D#32 = .ok (.ldgH 37 107 71 13) ∧
    decodeCore 0xA4975C7D#32 = .ok (.ldgW 37 107 71 13) ∧ decodeCore 0xA6975C7D#32 = .ok (.ldgD 37 107 71 13) ∧
    decodeCore 0xA8975C7D#32 = .ok (.ldgQ 37 107 71 13) ∧ decodeCore 0xAA975C7D#32 = .ok (.stgB 37 107 71 13) ∧
    decodeCore 0xAC975C7D#32 = .ok (.stgH 37 107 71 13) ∧ decodeCore 0xAE975C7D#32 = .ok (.stgW 37 107 71 13) ∧
    decodeCore 0xB0975C7D#32 = .ok (.stgD 37 107 71 13) :=
  ⟨rfl, rfl, rfl, rfl, rfl, rfl, rfl, rfl, rfl, rfl, rfl, rfl, rfl, rfl, rfl, rfl, rfl, rfl, rfl, rfl, rfl, rfl, rfl, rfl, rfl⟩
theorem test_decode_rows_9 :
    decodeCore 0xB2975C7D#32 = .ok (.stgQ 37 107 71 13) ∧ decodeCore 0xB4975C7D#32 = .ok (.ldf 37 107 71 13) ∧
    decodeCore 0xB6975C7D#32 = .ok (.stf 37 107 71 13) ∧ decodeCore 0xB8975C7D#32 = .ok (.stfRs 37 107 71 13) ∧
    decodeCore 0xBA012EB0#32 = .ok (.pref 37 107) ∧ decodeCore 0xBC012EB7#32 = .ok (.cfill 37 107 7) ∧
    decodeCore 0xC0975C7D#32 = .ok (.gathW 37 107 71 13) ∧ decodeCore 0xC2975C7D#32 = .ok (.gathD 37 107 71 13) ∧
    decodeCore 0xC4975C7D#32 = .ok (.gathF 37 107 71 13) ∧ decodeCore 0xC6975C7D#32 = .ok (.scatW 37 107 71 13) ∧
    decodeCore 0xC8975C7D#32 = .ok (.scatD 37 107 71 13) ∧ decodeCore 0xCA975C7D#32 = .ok (.kvrot 37 107 71 13) ∧
    decodeCore 0xCC012EB7#32 = .ok (.copy 37 107 7) ∧ decodeCore 0xCE975C7D#32 = .ok (.bcopy 37 107 71 13) ∧
    decodeCore 0xD0012EB7#32 = .ok (.copyx 37 107 7) ∧ decodeCore 0xD2975C7D#32 = .ok (.mma 37 107 71 13) ∧
    decodeCore 0xD4012EB7#32 = .ok (.mmas 37 107 7) ∧ decodeCore 0xD6012EB7#32 = .ok (.accz 37 107 7) ∧
    decodeCore 0xD8975C7D#32 = .ok (.attn 37 107 71 13) ∧ decodeCore 0xDA975C7D#32 = .ok (.attnr 37 107 71 13) ∧
    decodeCore 0xDC975C7D#32 = .ok (.kvap 37 107 71 13) ∧ decodeCore 0xDE975C7D#32 = .ok (.kvrq 37 107 71 13) ∧
    decodeCore 0xE0975C7D#32 = .ok (.ldvsW 37 107 71 13) ∧ decodeCore 0xE2975C7D#32 = .ok (.ldvsD 37 107 71 13) ∧
    decodeCore 0xE4975C7D#32 = .ok (.ldvsQ 37 107 71 13) :=
  ⟨rfl, rfl, rfl, rfl, rfl, rfl, rfl, rfl, rfl, rfl, rfl, rfl, rfl, rfl, rfl, rfl, rfl, rfl, rfl, rfl, rfl, rfl, rfl, rfl, rfl⟩
theorem test_decode_rows_10 :
    decodeCore 0xE69406B7#32 = .ok (.valid 37 107 7) ∧ decodeCore 0xE8975807#32 = .ok (.verr 37 107 7) ∧
    decodeCore 0xEA975C7D#32 = .ok (.casv 37 107 71 13) ∧ decodeCore 0xEC975C7D#32 = .ok (.atom 37 107 71 13) ∧
    decodeCore 0xEE975C7D#32 = .ok (.cas 37 107 71 13) ∧ decodeCore 0xF0975C7D#32 = .ok (.red 37 107 71 13) ∧
    decodeCore 0xF2940000#32 = .ok (.fenceAcq 37) ∧ decodeCore 0xF2940001#32 = .ok (.fenceRel 37) ∧
    decodeCore 0xF2940002#32 = .ok (.fenceAr 37) ∧ decodeCore 0xF2940003#32 = .ok (.fenceSc 37) ∧
    decodeCore 0xF4975C7D#32 = .ok (.ldacqW 37 107 71 13) ∧ decodeCore 0xF6975C7D#32 = .ok (.ldacqD 37 107 71 13) ∧
    decodeCore 0xF8975C7D#32 = .ok (.strelW 37 107 71 13) ∧ decodeCore 0xFA975C7D#32 = .ok (.strelD 37 107 71 13) ∧
    decodeCore 0xFC000250#32 = .ok (.trap 37) ∧ decodeCore 0xFC000001#32 = .ok .rett ∧
    decodeCore 0xFC9406B2#32 = .ok (.gets 37 107) ∧ decodeCore 0xFC012EB3#32 = .ok (.sets 37 107) ∧
    decodeCore 0xFC000004#32 = .ok .snap ∧ decodeCore 0xFC012EB5#32 = .ok (.tlbinv 37 107) ∧
    decodeCore 0xFC012EB6#32 = .ok (.ctxsv 37 107) ∧ decodeCore 0xFC012EB7#32 = .ok (.ctxld 37 107) ∧
    decodeCore 0xFC000008#32 = .ok .halt ∧ decodeCore 0xFC012EB9#32 = .ok (.tapld 37 107) ∧
    decodeCore 0xFE975807#32 = .ok (.launch 37 107 7) :=
  ⟨rfl, rfl, rfl, rfl, rfl, rfl, rfl, rfl, rfl, rfl, rfl, rfl, rfl, rfl, rfl, rfl, rfl, rfl, rfl, rfl, rfl, rfl, rfl, rfl, rfl⟩
theorem test_decode_walker :
    decodeWalker 0x00000000#32 = .ok .haltw ∧ decodeWalker 0x0AD833C7#32 = .ok (.ldp 5 11 13255) ∧
    decodeWalker 0x12D833C7#32 = .ok (.ldx 5 11 13255) ∧ decodeWalker 0x1AD833C7#32 = .ok (.ldval 5 11 13255) ∧
    decodeWalker 0x22DB801D#32 = .ok (.addw 5 11 7 29) ∧ decodeWalker 0x2ADB801D#32 = .ok (.subw 5 11 7 29) ∧
    decodeWalker 0x32DB8000#32 = .ok (.cmpw 5 11 7) ∧ decodeWalker 0x382DB3C7#32 = .ok (.bltw 5 11 13255) ∧
    decodeWalker 0x402DB3C7#32 = .ok (.bnew 5 11 13255) ∧ decodeWalker 0x4A805A6B#32 = .ok (.loop 5 23147) ∧
    decodeWalker 0x502D8000#32 = .ok (.skip 5 11) ∧ decodeWalker 0x582D8000#32 = .ok (.sett 5 11) ∧
    decodeWalker 0x62DB8000#32 = .ok (.emit 5 11 7) ∧ decodeWalker 0x68280000#32 = .ok (.flush 5) :=
  ⟨rfl, rfl, rfl, rfl, rfl, rfl, rfl, rfl, rfl, rfl, rfl, rfl, rfl, rfl⟩

/-! ## Well-formedness: one refused term for each check (R42, R46 to R49, R51 to R53) -/

theorem test_wf_accepts : (Instr.iadd 2 0 1).wf = true ∧ (Instr.lea2 20 2 18).wf = true ∧ (Instr.ldgW 22 20 0 12).wf = true := by decide
/-- A special name is no destination, an odd or special name no pair, and a quad starts at a multiple of four. -/
theorem test_wf_registers : (Instr.iadd 121 0 1).wf = false ∧ (Instr.add64 3 0 2).wf = false ∧ (Instr.add64 2 121 4).wf = false ∧
    (Instr.ldgQ 2 4 0 1).wf = false := by decide
/-- No flag above 12, and an instruction that must name a flag names one. -/
theorem test_wf_flags : (Instr.ldgW 22 20 0 13).wf = false ∧ (Instr.ldgW 22 20 0 0).wf = false := by decide
/-- Immediates outside their lists: a partition setting, a class, an atomic's code, a scope, a special register, a join register. -/
theorem test_wf_immediates : (Instr.part 3).wf = false ∧ (Instr.prio 4).wf = false ∧ (Instr.atom 4 2 22 1).wf = false ∧
    (Instr.fenceAcq 6).wf = false ∧ (Instr.gets 4 19).wf = false ∧ (Instr.jsign 64).wf = false := by decide

/-! ## A small machine: one thread of one team, some pages, some registers -/

/-- A root table at 0 with one table at 0x10000. Its 256 MiB pages: 0 the device's own memory, 1 of the host, 2 without
permissions, 4 own memory of format `ACC64`, 6 of format `B8P4` with scales, 7 of format `B8P4` without; page 3 is not mapped. -/
def mem0 : Tab Byte := [(0, 1), (2, 1), (0x10000, 0x2F), (0x10010, 0x2F), (0x10011, 0xFF), (0x10020, 0x21), (0x10040, 0x2F), (0x10043, 0x10),
  (0x10048, 25), (0x10060, 0x2F), (0x10063, 0x30), (0x10068, 0x84), (0x10070, 0x2F), (0x10073, 0x40), (0x10078, 0xC4)]

/-- Registers: pairs that hold an own address, a misaligned one, an unmapped one, one of the host, one in page 4 and one
without permissions; then words; then pairs in pages 6 and 7. -/
def regs0 : List Word := [0x21000, 0, 0x21001, 0, 0x30000000, 0, 0x10000000, 0, 0x40000000, 0, 0x20000000, 0, 1, 64, 0xFFFFFFFF, 1024,
  0x60000000, 0, 0x70000000, 0] ++ List.replicate 12 0

def thread0 (st : TState) (regs : List Word) : Thread where
  idx := 0
  role := 0
  st := st
  left := .active
  why := .none
  whySaved := .none
  stSaved := .active
  pc := 0x104
  regs := regs
  poisonRegs := []
  pend := []
  win := 0
  part := 32
  flags := List.replicate 12 0
  cls := 1
  lclass := 1
  seq := 0xFFFFFFFF
  vset := []
  stale := false
  joinMask := 0
  mine := []
  fpstat := 0
  trapPc := 0
  trapCause := 0
  trapAddr := 0
  trapInfo := 0
  sword := some 0
  waited := true
  lastIssue := none
  held := []
  freeAt := 0
  nanAt := none

def team0 (th : Thread) : Team where
  grid := 0
  gridIdx := 0
  hubset := 0
  fn := 0
  core := 0
  slot := 0
  status := .resident
  roles := [{ count := 1, regs := 32 }]
  threads := [th]
  groups := [mkGroup 0 [0]]
  spadBytes := 4096
  spad := []
  spadPoison := []
  absent := []
  bars := [newBarrier]
  age := 32
  pwin := 32
  seed := 1
  rs := seedStates 1
  queue := []

/-- The machine with that thread about to issue, and a literal word. -/
def machine (th : Thread) (w : Word) : State :=
  { State.reset with
    teams := [team0 th], mem := mem0
    cur := { team := 0, members := [0], lit := .word w, walker := 0 }
    hubsets := [{ hub := 0, teams := [0], joins := [Join.idle] }]
    grids := [{ fn := 0, queue := 0, pktNo := 0, parent := 0, priv := false, csig := 0, cval := 0, teams := [0], ended := false }]
    spaces := List.replicate 17 { ASpace.reset with ptroot := 0, ssb := 0x1000000 } }

/-- A user thread and one in `TRAPPED`, with a literal word. -/
def user (w : Word) : State := machine (thread0 .active regs0) w
def handler (w : Word) : State := machine (thread0 .trapped regs0) w

/-- The first lane of a state. -/
def lane0 (s : State) : Lane :=
  let tm := s.teams.headD (team0 (thread0 .active regs0))
  { s := s, tm := tm, th := tm.threads.headD (thread0 .active regs0) }

/-- Something that holds of one lane holds of the list of it. -/
theorem of_one {l : Lane} {p : Lane → Prop} (h : p l) : ∀ m ∈ [l], p m := by simpa using h

/-- One thread that can issue. -/
theorem ready_one {fm : Form} {s : State} {tm : Team} {l : Lane} (h : s.issuer = some (tm, [l])) (hc : l.check fm = none) :
    s.Ready fm [l] := ⟨⟨tm, h⟩, of_one hc⟩

/-- What the first thread has outstanding after an instruction. -/
def landed (i : Instr) (s : State) : List Landing :=
  match exec i s with
  | .next t => (lane0 t).th.pend.flatMap (fun p => p.writes)
  | _ => []

/-- A user thread with some registers set. -/
def withRegs (rs : List (Nat × Word)) : State := machine (thread0 .active (rs.foldl (fun l p => l.set p.1 p.2) regs0)) 0

/-- A thread alone in its group, acting in the state in which the group is dissolved. -/
theorem alone_one {fm : Form} {s : State} {l : Lane} (h1 : s.cur.members = [l.th.idx]) (h2 : s.dissolve.teams[s.cur.team]? = some l.tm)
    (h3 : s.dissolve.laneFor l.tm l.th.idx = some l) (h4 : l.th.runnable = true) (h5 : l.check fm = none) : s.Alone fm l :=
  ⟨⟨h1, h2, h3, h4⟩, h5⟩
/-- The same of a thread in its place, with no thread to leave its join registers before it. -/
theorem turn_one {fm : Form} {s : State} {l : Lane} (h1 : s.cur.members = [l.th.idx]) (h2 : s.dissolve.teams[s.cur.team]? = some l.tm)
    (h3 : s.dissolve.laneFor l.tm l.th.idx = some l) (h4 : l.th.runnable = true) (h5 : l.check fm = none)
    (h6 : s.leaving = [] := by rfl) : s.InTurn fm l l := (alone_one h1 h2 h3 h4 h5).inTurn h6

/-- Nothing waits for a link while one is up. -/
theorem away {α : Type} {l : Lane} {x : Script α} (h : l.s.hostLink.isNone = false := by rfl) : l.scriptAway x = false := by
  simp [Lane.scriptAway, h]
theorem off_host {s : State} {k : Nat} (h : s.hostLink.isNone = false := by rfl) : s.hostAway k = false := by
  simp [State.hostAway, h]
theorem places {s : State} {who : Accessor} {kind : Access} {va : DWord} {n : Nat} (h : s.hostLink.isNone = false := by rfl) :
    s.placesAway who kind va n = false := by simp [State.placesAway, h]

/-- A machine with both links to its hosts down. -/
def linksDown (s : State) : State := { s with mgmt := { s.mgmt with link0Up := false, link1Up := false } }

/-- The lane of that thread. -/
def alone0 (s : State) : Lane := lane0 s.dissolve

/-- The machine with other flags, say, for its thread. -/
def userWith (f : Thread → Thread) (w : Word) : State := machine (f (thread0 .active regs0)) w

/-- The lanes of the issuing group. -/
def lanesOf (s : State) : List Lane := (s.issuer.map Prod.snd).getD []

theorem ready_of {fm : Form} {s : State} {tm : Team} (h : s.issuer = some (tm, lanesOf s))
    (hc : (lanesOf s).all (fun l => (l.check fm).isNone) = true) : s.Ready fm (lanesOf s) :=
  ⟨⟨tm, h⟩, fun l hl => by simpa using List.all_eq_true.1 hc l hl⟩

/-- A descriptor of a matrix call, all fields 0. -/
def desc0 : MxDesc := MxDesc.ofBytes (List.replicate 64 0)

/-- A signature of thread 0. -/
def sign0 : Sign := { team := 0, thr := 0, col := 0, op := 0, flag := 0, base := 0, nanTrap := false, priv := false }

/-- The machine with its join register in some state. -/
def joined (jn : Join) (w : Word) : State := { user w with hubsets := [{ hub := 0, teams := [0], joins := [jn] }] }
/-- An open register of N threads in which some are enrolled and some unsigned. -/
def openJoin (n : Nat) (e u : List (Nat × Nat)) : Join := { Join.idle with st := .opened, n := n, enrolled := e, unsigned := u }

/-! ## Results that the manual works out -/

/-- R68. -/
theorem test_imad : landed (.imad 7 3 4) (withRegs [(3, 0x10000), (4, 0x10001), (7, 5)]) = [.reg 7 0x10005#32] := by decide
theorem test_iabs_least : landed (.iabs 7 3) (withRegs [(3, 0x80000000)]) = [.reg 7 0x80000000#32] := by decide
/-- R70: a literal of position 4 and length 8. -/
theorem test_bfx : landed (.bfx 6 2 127) (machine (thread0 .active (regs0.set 2 0x12345678)) 0x804) = [.reg 6 0x67#32] := by decide
/-- R71. -/
theorem test_iset : landed (.isetLtN 9 3 4) (withRegs [(3, 0xFFFFFFFF), (4, 1)]) = [.reg 9 0#32] ∧
    landed (.isetLt 9 3 4) (withRegs [(3, 0xFFFFFFFF), (4, 1)]) = [.reg 9 0xFFFFFFFF#32] := by decide
/-- R69: counts of the full width. -/
theorem test_shifts : landed (.shl 9 3 4) (withRegs [(3, 0xFFFFFFFF), (4, 32)]) = [.reg 9 0#32] ∧
    landed (.sha 9 3 4) (withRegs [(3, 0x80000000), (4, 32)]) = [.reg 9 0xFFFFFFFF#32] := by decide
/-- R73. -/
theorem test_lea2 : landed (.lea2 20 2 18) (withRegs [(2, 0x10000), (3, 0x10), (18, 0xFFFFFFFF)]) =
    [.reg 20 0xFFFC#32, .reg 21 0x10#32] := by decide
/-- R75: 0x12345678 from its parts. -/
theorem test_ldhi : landed (.ldhi 3 0x48D) (withRegs [(3, 0x5678)]) = [.reg 3 0x12345678#32] := by decide
/-- R146. -/
theorem test_ffma : landed (.ffma 5 3 3) (withRegs [(3, 0x3F800800), (5, 0xBF800000)]) = [.reg 5 0x3A000400#32] := by decide
/-- R149. -/
theorem test_fclass : landed (.fclass 9 4) (withRegs [(4, 0x80000001)]) = [.reg 9 4#32] := by decide
/-- R148: −0 equals +0, and a NaN equals nothing. -/
theorem test_fset : landed (.fsetEq 9 4 5) (withRegs [(4, 0x80000000), (5, 0)]) = [.reg 9 0xFFFFFFFF#32] ∧
    landed (.fsetEq 9 4 4) (withRegs [(4, 0x7FC00000)]) = [.reg 9 0#32] := by decide
/-- R152. -/
theorem test_h2fma : landed (.h2fma 8 6 7) (withRegs [(6, 0x40003C00), (7, 0x42004200), (8, 0x3C00BC00)]) =
    [.reg 8 0x47004000#32] := by decide
/-- R157. -/
theorem test_bytp : landed (.bytp 3 4 6) (withRegs [(4, 0x44332211), (5, 0x88776655), (6, 0x7531)]) = [.reg 3 0x88664422#32] := by decide
/-- R137: the two cases worked out, the first clamped. -/
theorem test_req : landed (.reqI8 9 4 6) (withRegs [(4, 1000), (6, 0x40000000), (7, 0x302)]) = [.reg 9 0x7F#32, .stat 0x1#32] ∧
    landed (.reqI8 9 4 6) (withRegs [(4, 0xFFFFFFFB), (6, 0x40000000), (7, 0)]) = [.reg 9 0xFD#32] := by decide

/-- The group of the worked example of R87: lanes 0 to 4 and 6 to 13 with a = L + 1 in v8, b = 1 in lanes 2 and 10 in v9. -/
def tiles : State :=
  let th (j : Nat) : Thread := { thread0 .active ((regs0.set 8 (BitVec.ofNat 32 (j + 1))).set 9 (if j = 2 ∨ j = 10 then 1 else 0)) with
    idx := j, part := 8 }
  let s := machine (th 0) 0
  let ms := [0, 1, 2, 3, 4, 6, 7, 8, 9, 10, 11, 12, 13]
  { s with teams := [{ team0 (th 0) with threads := (List.range 14).map th, groups := [mkGroup 0 ms] }], cur := { s.cur with members := ms } }

/-- The words that the members of a group have outstanding. -/
def landedAll (i : Instr) (s : State) : List Nat :=
  match exec i s with
  | .next t => ((lane0 t).tm.threads.flatMap (fun th => th.pend.flatMap (fun p => p.writes))).filterMap (fun x => match x with
    | .reg _ v => some v.toNat | _ => none)
  | _ => []

theorem test_tscan : landedAll (.tscanSegAddI 10 8 9) tiles = [1, 3, 3, 7, 12, 7, 15, 9, 19, 11, 23, 36, 50] := by decide
theorem test_tred : landedAll (.tredAddI 11 8) tiles = [30, 30, 30, 30, 30, 30, 30, 69, 69, 69, 69, 69, 69] := by decide
/-- R84, with b = 1 in each lane and 0 in the old destination. -/
theorem test_lane_fwd : landedAll (.laneFwd 12 8 127) { tiles with
      cur := { tiles.cur with lit := .word 1 }
      teams := tiles.teams.map (fun t => { t with threads := t.threads.map (fun th => { th with regs := th.regs.set 12 0 }) }) } =
    [2, 3, 4, 5, 0x7FA00001, 8, 0, 10, 11, 12, 13, 14, 0x7FA00001] := by decide
theorem test_fex2 : landed (.fex2 5 3) (withRegs [(3, 0x3F000000)]) = [.reg 5 0x3FB504F3#32] := by decide +kernel
theorem test_fsig : landed (.fsig 5 3) (withRegs [(3, 0x3F800000)]) = [.reg 5 0x3F3B26A8#32] := by decide +kernel

/-! ## States and operands that meet the hypotheses of each statement -/

theorem test_IntegerResults_meets :
    ((integerResult (.ldhi 31 0x3FFF)).isSome = true ∧ (user 0).Ready (instrForm (.ldhi 31 0x3FFF)) [lane0 (user 0)]) ∧
    ((wideResult (.lea3 30 0 127)).isSome = true ∧ (user 1).Ready (instrForm (.lea3 30 0 127)) [lane0 (user 1)]) :=
  ⟨⟨rfl, ready_one rfl rfl⟩, ⟨rfl, ready_one rfl rfl⟩⟩
theorem test_FloatResults_meets :
    ((floatResult (.fsetUn 31 0 1)).isSome = true ∧ (user 0).Ready (instrForm (.fsetUn 31 0 1)) [lane0 (user 0)]) ∧
    ((specialResult (.unif 31 0)).isSome = true ∧ (user 0).Ready (instrForm (.unif 31 0)) [lane0 (user 0)]) :=
  ⟨⟨rfl, ready_one rfl rfl⟩, ⟨rfl, ready_one rfl rfl⟩⟩
theorem test_ExtendedResults_meets :
    ((extendedResult (.xfrom 30 0)).isSome = true ∧ (user 0).Ready (instrForm (.xfrom 30 0)) [lane0 (user 0)]) ∧
    ((packResult (.hpk 31 0 1)).isSome = true ∧ (user 0).Ready (instrForm (.hpk 31 0 1)) [lane0 (user 0)]) :=
  ⟨⟨rfl, ready_one rfl rfl⟩, ⟨rfl, ready_one rfl rfl⟩⟩
theorem test_ConversionResults_meets :
    ((requantResult (.reqN4 31 0 2)).isSome = true ∧ (user 0).Ready (instrForm (.reqN4 31 0 2)) [lane0 (user 0)]) ∧
    (user 0).Ready (instrForm (.cvt 31 0 4 0 4)) [lane0 (user 0)] ∧ (user 0).Ready (instrForm (.cvt 31 0 4 0 0)) [lane0 (user 0)] :=
  ⟨⟨rfl, ready_one rfl rfl⟩, ready_one rfl rfl, ready_one rfl rfl⟩

/-- Two threads of one group with the partition settings p and q. -/
def pairOf (p q : Nat) : State :=
  let s := user 0
  let th (j x : Nat) : Thread := { thread0 .active regs0 with idx := j, part := x }
  { s with teams := [{ team0 (th 0 p) with threads := [th 0 p, th 1 q], groups := [mkGroup 0 [0, 1]] }], cur := { s.cur with members := [0, 1] } }

theorem test_cross_lanes_meet :
    ((crossResult (lanesOf (pairOf 2 2)) (.rmsnE20 31 0 1)).isSome = true ∧
      (pairOf 2 2).Ready (instrForm (.rmsnE20 31 0 1)) (lanesOf (pairOf 2 2)) ∧ OnePart (lanesOf (pairOf 2 2)) ∧
      (pairOf 2 2).Ready (instrForm (.softmax 31 0 1)) (lanesOf (pairOf 2 2))) ∧
    (crossesLanes (.softmax 31 0 1) = true ∧ crossesLanes (.pollPres 31) = true ∧
      (pairOf 2 4).Ready (instrForm (.softmax 31 0 1)) (lanesOf (pairOf 2 4)) ∧ ¬OnePart (lanesOf (pairOf 2 4))) :=
  ⟨⟨rfl, ready_of rfl rfl, by unfold OnePart; decide, ready_of rfl rfl⟩,
   ⟨rfl, rfl, ready_of rfl rfl, by unfold OnePart; decide⟩⟩

theorem test_branches_meet :
    (branchOf (.bgez 12 0x20000)).isSome = true ∧ (user 0).Ready (instrForm (.bgez 12 0x20000)) [lane0 (user 0)] ∧
    (branchOf (.bra 0x1FFFF)).isSome = true ∧ (user 0).Ready (instrForm (.bra 0x1FFFF)) [lane0 (user 0)] :=
  ⟨rfl, ready_one rfl rfl, rfl, ready_one rfl rfl⟩

theorem test_jumps_meet :
    (jumpOf (.callr 30 0) = some (0, some 30) ∧ (user 0).Ready (instrForm (.callr 30 0)) [lane0 (user 0)] ∧
      (∀ l ∈ [lane0 (user 0)], (l.pair 0).toNat % 4 = 0)) ∧
    (jumpOf (.ret 2) = some (2, none) ∧ (user 0).Ready (instrForm (.ret 2)) [lane0 (user 0)] ∧
      (∀ l ∈ [lane0 (user 0)], (l.pair 2).toNat % 4 ≠ 0)) ∧
    (user 0).Ready (instrForm (.call 30 0x20000)) [lane0 (user 0)] :=
  ⟨⟨rfl, ready_one rfl rfl, of_one (by decide)⟩, ⟨rfl, ready_one rfl rfl, of_one (by decide)⟩, ready_one rfl rfl⟩

theorem test_MiscEffects_meets :
    ∀ i ∈ [Instr.nop, .yield, .exit, .reform, .reformB], (user 0).Ready (instrForm i) [lane0 (user 0)] ∧
      (handler 0).Ready (instrForm i) [lane0 (handler 0)] := by
  intro i hi
  simp only [List.mem_cons, List.not_mem_nil, or_false] at hi
  rcases hi with rfl | rfl | rfl | rfl | rfl <;> exact ⟨ready_one rfl rfl, ready_one rfl rfl⟩

/-- A handler that returns to an address. -/
def returning (pc : DWord) : State := machine { thread0 .trapped regs0 with trapPc := pc } 0

theorem test_TrapInstructions_meets :
    (user 0).Ready (instrForm .bkpt) [lane0 (user 0)] ∧ (user 0).Ready (instrForm (.trap 127)) [lane0 (user 0)] ∧
    ((returning 4).Ready (instrForm .rett) [lane0 (returning 4)] ∧ Priv [lane0 (returning 4)] ∧
      (∀ l ∈ [lane0 (returning 4)], l.s.sregPending l.s.cur.team l.th.idx = false ∧ l.th.trapPc.toNat % 4 = 0)) ∧
    ((returning 3).Ready (instrForm .rett) [lane0 (returning 3)] ∧ Priv [lane0 (returning 3)] ∧
      (∀ l ∈ [lane0 (returning 3)], l.s.sregPending l.s.cur.team l.th.idx = false ∧ l.th.trapPc.toNat % 4 ≠ 0)) :=
  ⟨ready_one rfl rfl, ready_one rfl rfl, ⟨ready_one rfl rfl, of_one rfl, of_one (by decide)⟩,
    ⟨ready_one rfl rfl, of_one rfl, of_one (by decide)⟩⟩

set_option maxRecDepth 8192 in
theorem test_ThreadSettings_meets :
    (user 0).Ready (instrForm (.win 31)) [lane0 (user 0)] ∧ (user 0).Ready (instrForm (.part 2)) [lane0 (user 0)] ∧
    ((user 0).Ready (instrForm (.prio 1)) [lane0 (user 0)] ∧ (∀ l ∈ [lane0 (user 0)], (1#18).toNat ≤ l.th.lclass)) ∧
    ((user 0).Ready (instrForm (.prio 2)) [lane0 (user 0)] ∧ (∀ l ∈ [lane0 (user 0)], l.th.lclass < (2#18).toNat)) ∧
    (user 0).Ready (instrForm (.sleep 0)) [lane0 (user 0)] ∧
    ((user 0).Ready (instrForm (.waitf 0 1)) [lane0 (user 0)] ∧
      (∀ l ∈ [lane0 (user 0)], ∃ p, l.s.translate l.who .load (l.pair 0) 1 = .ok (0x21000, p))) ∧
    ((user 0).Ready (instrForm (.waitf 4 1)) [lane0 (user 0)] ∧
      (∀ l ∈ [lane0 (user 0)], l.s.translate l.who .load (l.pair 4) 1 = .error .page)) :=
  ⟨ready_one rfl rfl, ready_one rfl rfl, ⟨ready_one rfl rfl, of_one (by decide)⟩, ⟨ready_one rfl rfl, of_one (by decide)⟩,
    ready_one rfl rfl, ⟨ready_one rfl rfl, of_one ⟨_, rfl⟩⟩, ⟨ready_one rfl rfl, of_one rfl⟩⟩

/-- A lane whose register 1 is poisoned, and one with no data slot. -/
def poisoned1 : State := userWith (fun th => { th with poisonRegs := [1] }) 0
def bare : State := { user 0 with cur := { (user 0).cur with lit := .none } }

theorem test_ChecksAtIssue_meets :
    (instrForm (.part 3)).ok = false ∧ ((instrForm (.mov 2 127)).namesLit = true ∧ bare.cur.lit = .none) ∧
    (∃ u ∈ (instrForm (.mov 32 0)).uses, (lane0 (user 0)).outside u = true) ∧
    (∃ u ∈ (instrForm (.mov 31 1)).uses, (lane0 poisoned1).outside u = false ∧ (lane0 poisoned1).poisonedUse u = true) ∧
    (∀ u ∈ (instrForm (.mov 1 0)).uses, (lane0 poisoned1).outside u = false ∧ (lane0 poisoned1).poisonedUse u = false) ∧
    (actsAlone (.part 3) = true ∧ (user 0).issuer = some (team0 (thread0 .active regs0), [lane0 (user 0)]) ∧
      (∀ l ∈ [lane0 (user 0)], l.check (formOf (.part 3)) = some (.of .illop))) ∧
    (privilegedForm (.tapld 0 2) = some (tapldForm 0 2) ∧ (user 0).Ready (tapldForm 0 2) [lane0 (user 0)] ∧
      (∀ l ∈ [lane0 (user 0)], l.th.st ≠ .trapped)) ∧
    ((user 5).Ready (pairWordForm 0 127) [lane0 (user 5)] ∧
      (∀ l ∈ [lane0 (user 5)], l.th.st ≠ .trapped ∧ tlbWordOk (l.reg 127) = true)) ∧
    ((user 0).Ready (instrForm (.gets 30 8)) [lane0 (user 0)] ∧ ¬((8#7).toNat ≤ 7 ∨ (8#7).toNat = 14)) ∧
    ((user 0).Ready (instrForm (.sets 0 4)) [lane0 (user 0)] ∧ 3 < (4#7).toNat) :=
  ⟨by decide, ⟨by decide, rfl⟩, by decide, by decide, by decide,
   ⟨rfl, rfl, of_one rfl⟩, ⟨rfl, ready_one rfl rfl, of_one (by decide)⟩,
   ⟨ready_one rfl rfl, of_one (by decide)⟩, ⟨ready_one rfl rfl, by decide⟩, ⟨ready_one rfl rfl, by decide⟩⟩

theorem test_JoinDeclares_meets :
    ((user 1).InTurn (instrForm (.jdecl 1 127)) (alone0 (user 1)) (alone0 (user 1)) ∧ (user 1).join? 0 1 = none) ∧
    ((user 0).InTurn (instrForm (.jdecl 0 127)) (alone0 (user 0)) (alone0 (user 0)) ∧ ((alone0 (user 0)).reg 127).toNat < 1) ∧
    ((user 8193).InTurn (instrForm (.jdecl 0 127)) (alone0 (user 8193)) (alone0 (user 8193)) ∧ 8192 < ((alone0 (user 8193)).reg 127).toNat) ∧
    ((user 1).InTurn (instrForm (.jdecl 0 127)) (alone0 (user 1)) (alone0 (user 1)) ∧ (user 1).join? 0 0 = some Join.idle) ∧
    (let s := joined (openJoin 8192 [(0, 1)] [(0, 1)]) 8192;
      s.InTurn (instrForm (.jdecl 0 127)) (alone0 s) (alone0 s) ∧ s.join? 0 0 = some (openJoin 8192 [(0, 1)] [(0, 1)]) ∧
      ((alone0 s).reg 127).toNat = 8192 ∧ (0, 0) ∉ [(0, 1)]) ∧
    (let s := joined (openJoin 1 [(0, 1)] [(0, 1)]) 1;
      s.InTurn (instrForm (.jdecl 0 127)) (alone0 s) (alone0 s) ∧ s.join? 0 0 = some (openJoin 1 [(0, 1)] [(0, 1)]) ∧ [(0, 1)].length = 1) ∧
    (let s := joined { Join.idle with st := .busy } 1;
      s.InTurn (instrForm (.jdecl 0 127)) (alone0 s) (alone0 s) ∧ s.join? 0 0 = some { Join.idle with st := .busy }) :=
  ⟨⟨turn_one rfl rfl rfl rfl rfl, rfl⟩, ⟨turn_one rfl rfl rfl rfl rfl, by decide⟩, ⟨turn_one rfl rfl rfl rfl rfl, by decide⟩,
   ⟨turn_one rfl rfl rfl rfl rfl, rfl⟩, ⟨turn_one rfl rfl rfl rfl rfl, rfl, by decide, by decide⟩,
   ⟨turn_one rfl rfl rfl rfl rfl, rfl, rfl⟩, ⟨turn_one rfl rfl rfl rfl rfl, rfl⟩⟩

theorem test_JoinOperations_meets :
    (let s := joined (openJoin 1 [(0, 0)] [(0, 0)]) 0;
      s.InTurn (instrForm (.jsign 0)) (alone0 s) (alone0 s) ∧ s.InTurn (instrForm (.jleave 0)) (alone0 s) (alone0 s) ∧ (alone0 s).quiet = true ∧
      s.join? 0 0 = some (openJoin 1 [(0, 0)] [(0, 0)])) ∧
    (let jn : Join := { openJoin 1 [(0, 0)] [(0, 0)] with st := .drain };
      let s := joined jn 0; s.InTurn (instrForm (.jsign 0)) (alone0 s) (alone0 s) ∧ s.join? 0 0 = some jn ∧ (0, 0) ∈ jn.unsigned) ∧
    (let jn : Join := { openJoin 1 [(0, 0)] [(0, 0)] with kind := some (.mma 0 desc0) };
      let s := joined jn 0; s.InTurn (instrForm (.jsign 0)) (alone0 s) (alone0 s) ∧ s.join? 0 0 = some jn ∧ (0, 0) ∈ jn.unsigned) ∧
    ((user 0).InTurn (instrForm (.jsign 0)) (alone0 (user 0)) (alone0 (user 0)) ∧ (user 0).InTurn (instrForm (.jleave 0)) (alone0 (user 0)) (alone0 (user 0)) ∧
      ∀ jn, (user 0).join? 0 0 = some jn → (0, 0) ∉ jn.unsigned) ∧
    ((user 0).InTurn (instrForm (.jcancel 1)) (alone0 (user 0)) (alone0 (user 0)) ∧ (user 0).join? 0 1 = none) ∧
    ((user 0).InTurn (instrForm (.jcancel 0)) (alone0 (user 0)) (alone0 (user 0)) ∧ (user 0).join? 0 0 = some Join.idle) ∧
    (let s := joined (openJoin 1 [] []) 0; s.InTurn (instrForm (.jcancel 0)) (alone0 s) (alone0 s) ∧ s.join? 0 0 = some (openJoin 1 [] [])) ∧
    ((user 0).Ready (instrForm (.jstat 31 1)) [lane0 (user 0)] ∧ (∀ l ∈ [lane0 (user 0)], l.s.join? l.tm.hubset (1#7).toNat = none)) ∧
    ((user 0).Ready (instrForm (.jstat 31 0)) [lane0 (user 0)] ∧
      (∀ l ∈ [lane0 (user 0)], l.s.join? l.tm.hubset (0#7).toNat = some Join.idle)) :=
  ⟨⟨turn_one rfl rfl rfl rfl rfl, turn_one rfl rfl rfl rfl rfl, rfl, rfl⟩,
   ⟨turn_one rfl rfl rfl rfl rfl, rfl, by decide⟩, ⟨turn_one rfl rfl rfl rfl rfl, rfl, by decide⟩,
   ⟨turn_one rfl rfl rfl rfl rfl, turn_one rfl rfl rfl rfl rfl, fun jn h => by cases h; decide⟩,
   ⟨turn_one rfl rfl rfl rfl rfl, rfl⟩, ⟨turn_one rfl rfl rfl rfl rfl, rfl⟩, ⟨turn_one rfl rfl rfl rfl rfl, rfl⟩,
   ⟨ready_one rfl rfl, of_one rfl⟩, ⟨ready_one rfl rfl, of_one rfl⟩⟩

/-- Thread 0 has trapped in the cycle in which thread 1, enrolled beside it, signs: it leaves the register first. -/
def trappedBefore : State :=
  let th (j : Nat) (st : TState) : Thread := { thread0 st regs0 with idx := j }
  { joined (openJoin 2 [(0, 0), (0, 1)] [(0, 0), (0, 1)]) 0 with
    teams := [{ team0 (th 0 .trapped) with threads := [th 0 .trapped, th 1 .active], groups := [mkGroup 0 [1]] }]
    cur := { (user 0).cur with members := [1] }, leaving := [{ team := 0, thr := 0, since := 0 }] }

/-- Thread 1 at issue, and after thread 0 has left the register. -/
def issuer1 (s : State) : Lane :=
  { s := s, tm := s.teams.headD (team0 (thread0 .active regs0)), th := { thread0 .active regs0 with idx := 1 } }
def leftBefore : State := trappedBefore.dissolve.leaveBefore 0 1

theorem test_places_meet :
    actsInPlace (.jsign 0) = true ∧
    trappedBefore.InTurn (instrForm (.jsign 0)) (issuer1 trappedBefore.dissolve) (issuer1 leftBefore) ∧
    (trappedBefore.dissolve.join? 0 0).map (fun jn => (jn.wd, jn.unsigned)) = some (0, [(0, 0), (0, 1)]) ∧
    (leftBefore.join? 0 0).map (fun jn => (jn.wd, jn.unsigned)) = some (1, [(0, 1)]) :=
  ⟨rfl, ⟨⟨⟨rfl, rfl, rfl, rfl⟩, rfl, rfl, rfl, rfl, rfl⟩, rfl, rfl⟩, by decide, by decide⟩

theorem test_JoinCompletes_meets :
    ((user 0).join? 0 0 = some Join.idle ∧ ¬(Join.idle.st = .opened ∧ Join.idle.signs.length + Join.idle.wd = Join.idle.n)) ∧
    (let jn : Join := { openJoin 1 [(0, 0)] [] with signs := [sign0], kind := some .jsign };
      (joined jn 0).join? 0 0 = some jn ∧ jn.signs.length + jn.wd = jn.n ∧ ∀ dp d, jn.kind ≠ some (.mma dp d)) ∧
    (let jn : Join := { openJoin 1 [(0, 0)] [] with wd := 1, kind := some (.mma 0 desc0) };
      (joined jn 0).join? 0 0 = some jn ∧ jn.signs.length + jn.wd = jn.n ∧ jn.signs = []) ∧
    (let jn : Join := { openJoin 1 [(0, 0)] [] with signs := [sign0], kind := some (.mma 0 desc0) };
      (joined jn 0).join? 0 0 = some jn ∧ jn.signs.length + jn.wd = jn.n ∧ jn.signs ≠ []) :=
  ⟨⟨rfl, by decide⟩, ⟨rfl, rfl, fun _ _ h => by cases h⟩, ⟨rfl, rfl, rfl⟩, ⟨rfl, rfl, by decide⟩⟩

/-- The machine with its barrier object in some state. -/
def barred (b : Barrier) (w : Word) : State := { user w with teams := [{ team0 (thread0 .active regs0) with bars := [b] }] }

theorem test_barriers_meet :
    (∀ i ∈ [Instr.barInit 127 120, .barExpect 127 120, .barWait 127 120, .barArrive 127, .barSync 127, .barInval 127],
      (user 0).Alone (instrForm i) (alone0 (user 0))) ∧
    (((alone0 (user 0)).reg 127).toNat < (alone0 (user 0)).tm.bars.length ∧ (alone0 (user 1)).tm.bars.length ≤ ((alone0 (user 1)).reg 127).toNat) ∧
    (user 0).Alone (instrForm (.barInit 120 15)) (alone0 (user 0)) ∧ ((alone0 (user 0)).reg 15).toNat = 1024 ∧
    (user 1025).Alone (instrForm (.barInit 120 127)) (alone0 (user 1025)) ∧ 1024 < ((alone0 (user 1025)).reg 127).toNat ∧
    ((alone0 (user 0)).tm.bars[0]? = some newBarrier ∧ newBarrier.phase = (alone0 (user 0)).reg 120 ∧
      newBarrier.phase ≠ (alone0 (user 0)).reg 12) ∧
    (user 0).Ready (instrForm (.barPhase 31 120)) [lane0 (user 0)] ∧ (user 1).Ready (instrForm (.barPhase 31 127)) [lane0 (user 1)] ∧
    (newBarrier.arr.length < (alone0 (user 0)).tm.expected newBarrier ∧ (alone0 (user 0)).quiet = true) ∧
    (let b : Barrier := { newBarrier with count := some 1, arr := [1], p := 1 };
      (barred b 0).Alone (instrForm (.barSync 127)) (alone0 (barred b 0)) ∧ ¬b.arr.length < (alone0 (barred b 0)).tm.expected b ∧
      b.arrn.length < (alone0 (barred b 0)).tm.expected b) ∧
    (let b : Barrier := { newBarrier with count := some 1, arr := [1], arrn := [1], p := 1 };
      (barred b 0).Alone (instrForm (.barArrive 127)) (alone0 (barred b 0)) ∧ ¬b.arrn.length < (alone0 (barred b 0)).tm.expected b) ∧
    ((user 0).teams[0]? = some (team0 (thread0 .active regs0)) ∧
      ¬((team0 (thread0 .active regs0)).expected newBarrier ≠ 0 ∧
        newBarrier.arr.length = (team0 (thread0 .active regs0)).expected newBarrier ∧ newBarrier.p = 0)) ∧
    (let b : Barrier := { newBarrier with count := some 1, arr := [1] };
      ∃ t, (barred b 0).teams[0]? = some t ∧ t.bars[0]? = some b ∧ t.expected b ≠ 0 ∧ b.arr.length = t.expected b ∧ b.p = 0) := by
  refine ⟨fun i hi => ?_, by decide, alone_one rfl rfl rfl rfl rfl, by decide, alone_one rfl rfl rfl rfl rfl, by decide,
    ⟨rfl, by decide, by decide⟩, ready_one rfl rfl, ready_one rfl rfl, ⟨by decide, rfl⟩, ⟨alone_one rfl rfl rfl rfl rfl, by decide, by decide⟩,
    ⟨alone_one rfl rfl rfl rfl rfl, by decide⟩, ⟨rfl, by decide⟩, ⟨_, rfl, rfl, by decide, by decide, rfl⟩⟩
  simp only [List.mem_cons, List.not_mem_nil, or_false] at hi
  rcases hi with rfl | rfl | rfl | rfl | rfl | rfl <;> exact alone_one rfl rfl rfl rfl rfl

/-- The machine with bytes at a place of memory, or with its scratchpad line 0 counted absent. -/
def withMem (s : State) (k : Nat) (bs : List Byte) : State := { s with mem := memPut s.mem k bs }
def absent0 (s : State) : State := { s with teams := s.teams.map (fun t => { t with absent := [(0, 1)] }) }

/-- Whether flag 1 has room with a count of 14. -/
def busyFlag (w : Word) : State := userWith (fun th => { th with flags := th.flags.set 0 14 }) w

theorem test_LocalAccesses_meets :
    ((localForm (.ldlQ 28 127 0 1)).isSome = true ∧ (busyFlag 4080).Ready (instrForm (.ldlQ 28 127 0 1)) [lane0 (busyFlag 4080)] ∧
      (∃ loc, ∀ l ∈ [lane0 (busyFlag 4080)], l.localAt (l.offsetLocal 127 0 16) 16 = .ok loc ∧ l.s.absentLine loc = none) ∧
      NoAcquire [lane0 (busyFlag 4080)] ∧ Room 1 [lane0 (busyFlag 4080)]) ∧
    ((localForm (.atl 31 127 7 12)).isSome = true ∧
      (absent0 (user 124)).Ready (instrForm (.atl 31 127 7 12)) [lane0 (absent0 (user 124))] ∧
      ∃ loc, ∀ l ∈ [lane0 (absent0 (user 124))], l.localAt (l.reg 127) 4 = .ok loc ∧ l.s.absentLine loc = some (0, 0)) ∧
    ((localForm (.stlD 30 127 0 0)).isSome = true ∧ (user 4096).Ready (instrForm (.stlD 30 127 0 0)) [lane0 (user 4096)] ∧
      ∃ t, ∀ l ∈ [lane0 (user 4096)], l.localAt (l.offsetLocal 127 0 8) 8 = .error t) :=
  ⟨⟨rfl, ready_one rfl rfl, ⟨_, of_one ⟨rfl, rfl⟩⟩, of_one rfl, .inr (of_one (by decide))⟩,
   ⟨rfl, ready_one rfl rfl, _, of_one ⟨rfl, rfl⟩⟩, ⟨rfl, ready_one rfl rfl, _, of_one rfl⟩⟩

/-- The clauses of a local address at the bounds of their ranges, for accesses of four bytes. -/
theorem test_LocalPlaces_meets :
    let l := lane0 (user 0)
    (fieldOf' 0x200000#32 23 1 = 0 ∧ l.rankTeam (fieldOf' 0x200000#32 21 2) = none) ∧
    (l.rankTeam (fieldOf' 0xFFC#32 21 2) = some 0 ∧ l.s.teams[0]? = some l.tm ∧ (0xFFD#32).toNat % 4 ≠ 0) ∧
    ((0x1000#32).toNat % 4 = 0 ∧ l.tm.spadBytes < fieldOf' 0x1000#32 0 21 + 4) ∧
    ((0x1000000#32).toNat % 4 = 0 ∧ 2 ^ 24 ≤ (0x1000000#32).toNat ∧ fieldOf' 0x1000000#32 23 1 = 0) ∧
    ((0xFFC#32).toNat < 2 ^ 24 ∧ fieldOf' 0xFFC#32 0 21 + 4 ≤ l.tm.spadBytes) ∧
    (fieldOf' 0xA00000#32 23 1 = 1 ∧ fieldOf' 0xA00000#32 21 2 ≠ rankOf l.tm.core) ∧
    (fieldOf' 0x800001#32 21 2 = rankOf l.tm.core ∧ (0x800001#32).toNat % 4 ≠ 0) ∧
    (fieldOf' 0x1800000#32 23 1 = 1 ∧ 2 ^ 24 ≤ (0x1800000#32).toNat) ∧ fieldOf' 0x900000#32 20 1 = 1 ∧
    l.tm.threads.length ≤ fieldOf' 0x800400#32 10 10 ∧
    (l.tm.threads[fieldOf' 0x800080#32 10 10]? = some l.th ∧ l.th.regs.length ≤ fieldOf' 0x800080#32 2 8) ∧
    fieldOf' 0x80007C#32 2 8 < l.th.regs.length := by
  decide

set_option maxRecDepth 8192 in
theorem test_GlobalAccesses_meets :
    (globalForm (.ldgQ 28 0 0 1) = some (loadForm 16 28 0 0 1) ∧ (busyFlag 0).Ready (instrForm (.ldgQ 28 0 0 1)) [lane0 (busyFlag 0)] ∧
      NoAcquire [lane0 (busyFlag 0)] ∧ Room 1 [lane0 (busyFlag 0)] ∧
      ∃ k p, (lane0 (busyFlag 0)).Reaches (loadForm 16 28 0 0 1) k p ∧ (loadForm 16 28 0 0 1).takes k p = true) ∧
    (globalForm (.atom 30 8 20 12) = some (atomicForm 20 8 (fun l => l.words 30 2) 12 (fun l => l.dsts 30 2)) ∧
      (user 0).Ready (instrForm (.atom 30 8 20 12)) [lane0 (user 0)] ∧
      ∃ k p, (lane0 (user 0)).Reaches (atomicForm 20 8 (fun l => l.words 30 2) 12 (fun l => l.dsts 30 2)) k p ∧
        (atomicForm 20 8 (fun l => l.words 30 2) 12 (fun l => l.dsts 30 2)).takes k p = true) ∧
    (globalForm (.stgB 31 6 63 0) = some (storeForm 1 31 6 63 0) ∧ (user 0).Ready (instrForm (.stgB 31 6 63 0)) [lane0 (user 0)] ∧
      ∃ k p, (lane0 (user 0)).Reaches (storeForm 1 31 6 63 0) k p ∧ (storeForm 1 31 6 63 0).takes k p = true) :=
  ⟨⟨rfl, ready_one rfl rfl, of_one rfl, .inr (of_one (by decide)), _, _, ⟨rfl, rfl⟩, rfl⟩,
   ⟨rfl, ready_one rfl rfl, _, _, ⟨rfl, rfl⟩, rfl⟩, ⟨rfl, ready_one rfl rfl, _, _, ⟨rfl, rfl⟩, rfl⟩⟩

set_option maxRecDepth 8192 in
theorem test_AccessTraps_meets :
    ((globalForm (.ldgH 31 2 0 1)).isSome = true ∧ (user 0).Ready (instrForm (.ldgH 31 2 0 1)) [lane0 (user 0)] ∧
      (∀ l ∈ [lane0 (user 0)], (l.offsetAddr 2 0 2).toNat % 2 ≠ 0)) ∧
    ((user 0).Ready (instrForm (.ldgW 31 4 0 1)) [lane0 (user 0)] ∧
      (∀ l ∈ [lane0 (user 0)], (l.offsetAddr 4 0 4).toNat % 4 = 0 ∧ l.s.translate l.who .load (l.offsetAddr 4 0 4) 4 = .error .page)) ∧
    ((user 0).Ready (instrForm (.stgW 31 10 0 1)) [lane0 (user 0)] ∧
      (∀ l ∈ [lane0 (user 0)], l.s.translate l.who .store (l.offsetAddr 10 0 4) 4 = .error .prot)) ∧
    (globalForm (.red 1 6 31 0) = some (atomicForm 1 6 (fun l => l.words 31 1) 0 (fun _ => [])) ∧
      (user 0).Ready (instrForm (.red 1 6 31 0)) [lane0 (user 0)] ∧ NoAcquire [lane0 (user 0)] ∧
      ∃ k p, (lane0 (user 0)).Reaches (atomicForm 1 6 (fun l => l.words 31 1) 0 (fun _ => [])) k p ∧
        (atomicForm 1 6 (fun l => l.words 31 1) 0 (fun _ => [])).takes k p = false) :=
  ⟨⟨rfl, ready_one rfl rfl, of_one (by decide)⟩, ⟨ready_one rfl rfl, of_one ⟨rfl, rfl⟩⟩, ⟨ready_one rfl rfl, of_one rfl⟩,
   ⟨rfl, ready_one rfl rfl, of_one rfl, _, _, ⟨rfl, rfl⟩, rfl⟩⟩

/-- A validation set of n other lines. -/
def watching (n : Nat) : State :=
  userWith (fun th => { th with vset := (List.range n).map (fun k => { line := 1000 + k, src := 0, version := some 0 }) }) 0

set_option maxRecDepth 8192 in
theorem test_VersionedLoads_meets :
    ((versionedForm (.ldvsQ 28 0 0 1)).isSome = true ∧ (watching 15).Ready (instrForm (.ldvsQ 28 0 0 1)) [lane0 (watching 15)] ∧
      NoAcquire [lane0 (watching 15)] ∧ (lane0 (watching 15)).th.vset.length < 16 ∧ Room 1 [lane0 (watching 15)] ∧
      ∃ p, (lane0 (watching 15)).s.translate (lane0 (watching 15)).who .load ((lane0 (watching 15)).offsetAddr 0 0 16) 16 =
        .ok (0x21000, p) ∧ keyHost 0x21000 = false) ∧
    ((watching 16).Ready (instrForm (.ldvsW 31 0 0 1)) [lane0 (watching 16)] ∧ 16 ≤ (lane0 (watching 16)).th.vset.length ∧
      (∀ e ∈ (lane0 (watching 16)).th.vset, e.line ≠ 0x21000 / 128) ∧
      ∃ p, (lane0 (watching 16)).s.translate (lane0 (watching 16)).who .load ((lane0 (watching 16)).offsetAddr 0 0 4) 4 = .ok (0x21000, p)) ∧
    ((user 0).Ready (instrForm (.ldvsD 30 6 0 1)) [lane0 (user 0)] ∧
      ∃ k p, (lane0 (user 0)).s.translate (lane0 (user 0)).who .load ((lane0 (user 0)).offsetAddr 6 0 8) 8 = .ok (k, p) ∧ keyHost k = true) :=
  ⟨⟨rfl, ready_one rfl rfl, of_one rfl, by decide, .inr (of_one (by decide)), _, rfl, rfl⟩,
   ⟨ready_one rfl rfl, by decide, by decide, _, rfl⟩, ⟨ready_one rfl rfl, _, _, rfl, rfl⟩⟩

/-- A machine with one sequence record at 0x21000, and a thread whose pair 0 holds an address of it. -/
def recorded (st : TState) (a : Word) : State :=
  { machine (thread0 st (regs0.set 0 a)) 0 with
    spaces := List.replicate 17 { ASpace.reset with ptroot := 0, sqbase := 0x21000, sqlen := 512 } }

set_option maxRecDepth 8192 in
theorem test_ValidationAndVersionSwap_meets :
    (∀ k : BitVec 7, k = 0 ∨ k = 1 → (busyFlag 0).Ready (instrForm (.valid 31 k 1)) [lane0 (busyFlag 0)] ∧ Room 1 [lane0 (busyFlag 0)] ∧
      NoAcquire [lane0 (busyFlag 0)]) ∧
    ((user 0).Ready (instrForm (.casv 30 0 31 1)) [lane0 (user 0)] ∧
      ∃ k p, (lane0 (user 0)).s.translateFor (lane0 (user 0)).who .atomic ((lane0 (user 0)).pair 0) 4 false = .ok (k, p) ∧
        keyHost k = false ∧ (lane0 (user 0)).s.recordByte 0 ((lane0 (user 0)).pair 0) = none) ∧
    (let l := lane0 (recorded .active 0x21000);
      l.s.Ready (instrForm (.casv 30 0 31 1)) [l] ∧ l.s.recordByte 0 (l.pair 0) = some 0 ∧
      ∃ k p, l.s.translateFor l.who .atomic (l.pair 0) 4 true = .ok (k, p) ∧ keyHost k = false) ∧
    ((user 0).Ready (instrForm (.casv 30 2 31 1)) [lane0 (user 0)] ∧ ((lane0 (user 0)).pair 2).toNat % 4 ≠ 0) ∧
    (let l := lane0 (recorded .trapped 0x21004);
      l.s.Ready (instrForm (.casv 30 0 31 1)) [l] ∧ l.s.recordByte 0 (l.pair 0) = some 4 ∧
      ∃ p, l.s.translateFor l.who .atomic (l.pair 0) 4 false = .ok p) :=
  ⟨fun k hk => by rcases hk with rfl | rfl <;> exact ⟨ready_one rfl rfl, .inr (of_one (by decide)), of_one rfl⟩,
   ⟨ready_one rfl rfl, _, _, rfl, rfl, rfl⟩, ⟨ready_one rfl rfl, rfl, _, _, rfl, rfl⟩, ⟨ready_one rfl rfl, by decide⟩,
   ⟨ready_one rfl rfl, rfl, _, rfl⟩⟩

/-- With no sector in its L1, a scale byte is read from its home. -/
theorem scaleByte_cold {l : Lane} {k : Nat} (h : l.s.l1 = []) (hu : l.s.unreachable k = false) (hp : l.s.poison = []) :
    ∃ n, l.scaleByte k = some n := by
  unfold Lane.scaleByte Lane.scaleRead State.readBytes
  have e : ∀ c x, l.s.l1Sector c x = none := fun c x => by unfold State.l1Sector; rw [h]; rfl
  simp [e, hu, hp]

set_option maxRecDepth 8192 in
theorem test_FormatAccesses_meets :
    ((user 0).Ready (instrForm (.ldf 31 16 0 1)) [lane0 (user 0)] ∧
      ∃ e, (lane0 (user 0)).elemAt .load ((lane0 (user 0)).offsetAddr 16 0 1) none = .ok e ∧ e.scale.isSome = true) ∧
    ((user 0).Ready (instrForm (.ldf 31 0 0 1)) [lane0 (user 0)] ∧
      ∃ t, (lane0 (user 0)).elemAt .load ((lane0 (user 0)).offsetAddr 0 0 1) none = .error t) ∧
    ((formatStoreOf (.stfRs 31 16 0 1)).isSome = true ∧ (user 0).Ready (instrForm (.stfRs 31 16 0 1)) [lane0 (user 0)] ∧
      ∃ e p, (lane0 (user 0)).elemAt .store ((lane0 (user 0)).offsetAddr 16 0 1) none = .ok e ∧ e.scale = some p ∧
        (lane0 (user 0)).readsOut = false ∧ (lane0 (user 0)).s.hostAway p.1 = false ∧ ∃ k, (lane0 (user 0)).scaleByte p.1 = some k) ∧
    ((formatStoreOf (.stf 31 8 0 0)).isSome = true ∧ (user 0).Ready (instrForm (.stf 31 8 0 0)) [lane0 (user 0)] ∧
      ∃ e, (lane0 (user 0)).elemAt .store ((lane0 (user 0)).offsetAddr 8 0 1) none = .ok e ∧ e.scale = none) ∧
    ∃ t, (lane0 (user 0)).elemAt .store ((lane0 (user 0)).offsetAddr 10 0 1) none = .error t :=
  ⟨⟨ready_one rfl rfl, _, rfl, rfl⟩, ⟨ready_one rfl rfl, _, rfl⟩, ⟨rfl, ready_one rfl rfl, _, _, rfl, rfl, rfl, off_host, scaleByte_cold rfl rfl rfl⟩,
   ⟨rfl, ready_one rfl rfl, _, rfl, rfl⟩, _, rfl⟩

/-! ## Instructions that read at issue, and what holds of their reads -/

/-- A result that meets a condition; and one that traps. -/
def okWith {ε α : Type} (x : Except ε α) (p : α → Bool) : Bool := match x with | .ok a => p a | .error _ => false
theorem ok_with {ε α : Type} {x : Except ε α} {p : α → Bool} (h : okWith x p = true) : ∃ a, x = .ok a ∧ p a = true := by
  cases x with
  | ok a => exact ⟨a, rfl, h⟩
  | error t => cases h
theorem ok_some {ε α : Type} {x : Except ε α} (h : okWith x (fun _ => true) = true) : ∃ a, x = .ok a :=
  (ok_with h).imp (fun _ h => h.1)
theorem traps_some {ε α : Type} {x : Except ε α} (h : okWith x (fun _ => true) = false) : ∃ t, x = .error t := by
  cases x with
  | ok a => cases h
  | error t => exact ⟨t, rfl⟩
/-- The same of every lane of a list of one. -/
theorem ok_one {α : Type} {l : Lane} {x : Lane → Except Trap α} (h : okWith (x l) (fun _ => true) = true) :
    ∃ j : Lane → α, ∀ m ∈ [l], x m = .ok (j m) := (ok_some h).elim (fun a h => ⟨fun _ => a, of_one h⟩)
theorem traps_one {α : Type} {l : Lane} {x : Lane → Except Trap α} (h : okWith (x l) (fun _ => true) = false) :
    ∃ t : Lane → Trap, ∀ m ∈ [l], x m = .error (t m) := (traps_some h).elim (fun a h => ⟨fun _ => a, of_one h⟩)

/-- The leaf of page 0. -/
def leaf0 : Leaf :=
  { base := 0, size := 0x10000000, node := 0, rd := true, wr := true, ex := true, sup := false, fmt := 0, dom := false, geo := 0, e := 0 }
/-- A machine in which reads at issue of addresses from 0x20000 are reads of memory. -/
abbrev Plain (l : Lane) : Prop := l.s.Calm ∧ l.s.pageOf l.who .load 0x20000 = .ok leaf0

/-- A script of reads that ends with a result that meets a condition; and one that traps. -/
def briefly {α : Type} (l : Lane) (x : Script α) (p : α → Bool) : Bool := okWith (l.runBrief 2 leaf0 x) p
theorem brief_eq' {α : Type} {l : Lane} (h : Plain l) (x : Script α) : l.runBrief 2 leaf0 x = l.runScript x :=
  Lane.runBrief_eq h.1 h.2 (by decide) x
theorem brief_ok {α : Type} {l : Lane} {x : Script α} {p : α → Bool} (h : Plain l) (e : briefly l x p = true) :
    ∃ a, l.runScript x = .ok a ∧ p a = true := by
  unfold briefly at e
  rw [brief_eq' h] at e
  exact ok_with e
theorem brief_traps {α : Type} {l : Lane} {x : Script α} (h : Plain l) (e : briefly l x (fun _ => true) = false) :
    ∃ t, l.runScript x = .error t := by
  unfold briefly at e
  rw [brief_eq' h] at e
  exact traps_some e
theorem brief_one {α : Type} {l : Lane} {x : Lane → Script α} (h : Plain l) (e : briefly l (x l) (fun _ => true) = true) :
    ∃ j : Lane → α, ∀ m ∈ [l], m.runScript (x m) = .ok (j m) :=
  (brief_ok h e).elim (fun a h => ⟨fun _ => a, of_one h.1⟩)
theorem brief_traps_one {α : Type} {l : Lane} {x : Lane → Script α} (h : Plain l) (e : briefly l (x l) (fun _ => true) = false) :
    ∃ t : Lane → Trap, ∀ m ∈ [l], m.runScript (x m) = .error (t m) :=
  (brief_traps h e).elim (fun a h => ⟨fun _ => a, of_one h⟩)
theorem brief_eq {α : Type} [DecidableEq α] {l : Lane} {x : Script α} {a : α} (h : Plain l)
    (e : briefly l x (fun b => decide (b = a)) = true) : l.runScript x = .ok a := by
  obtain ⟨b, h1, h2⟩ := brief_ok h e
  rw [h1, of_decide_eq_true h2]

/-- A block whose plan meets a condition; and one whose plan traps. -/
theorem brief_plan {l : Lane} {x : Script (List Byte)} {plan : List Byte → Except Trap CopyPlan} (h : Plain l)
    (e : briefly l x (fun cb => okWith (plan cb) (fun p => l.s.linesFit (chunkLines p.chunks))) = true) :
    ∃ cb, l.runScript x = .ok cb ∧ ∃ p, plan cb = .ok p ∧ ∀ x ∈ chunkLines p.chunks, l.s.lineCount x < 3 := by
  obtain ⟨cb, h1, h2⟩ := brief_ok h e
  obtain ⟨p, h3, h4⟩ := ok_with h2
  exact ⟨cb, h1, p, h3, by simpa [State.linesFit] using h4⟩
theorem brief_no_plan {l : Lane} {x : Script (List Byte)} {plan : List Byte → Except Trap CopyPlan} (h : Plain l)
    (e : briefly l x (fun cb => !okWith (plan cb) (fun _ => true)) = true) :
    ∃ cb, l.runScript x = .ok cb ∧ ∃ t, plan cb = .error t := by
  obtain ⟨cb, h1, h2⟩ := brief_ok h e
  exact ⟨cb, h1, traps_some (by simpa using h2)⟩

/-- A user thread with flag 1 at 14, some bytes at 0x21000 and a literal word. -/
def given (bs : List Byte) (w : Word) : State := withMem (busyFlag w) 0x21000 bs

/-- A lane in that machine. -/
theorem plain {l : Lane} (h : l.s.sq = [] ∧ l.s.pannier = [] ∧ l.s.poison = [] ∧ l.s.mgmt.hbmStacks = [] ∧ l.s.mgmt.lost = [] := by
    exact ⟨rfl, rfl, rfl, rfl, rfl⟩) (hp : (match l.s.pageOf l.who .load 0x20000 with | .ok x => decide (x = leaf0) | .error _ => false) = true := by
      decide +kernel) : Plain l := by
  refine ⟨h, ?_⟩
  split at hp
  · next x hx => rw [hx, of_decide_eq_true hp]
  · cases hp

theorem test_PrefetchAndFill_meets :
    ((user 0).Ready (instrForm (.pref 4 63)) [lane0 (user 0)] ∧ NoAcquire [lane0 (user 0)]) ∧
    ((user 255).Ready (instrForm (.cfill 0 127 1)) [lane0 (user 255)] ∧ ((lane0 (user 255)).reg 127).toNat / 256 = 0) ∧
    ((user 1048832).Ready (instrForm (.cfill 0 127 1)) [lane0 (user 1048832)] ∧ 4096 < ((lane0 (user 1048832)).reg 127).toNat / 256) ∧
    ((user 1048576).Ready (instrForm (.cfill 2 127 1)) [lane0 (user 1048576)] ∧ ((lane0 (user 1048576)).reg 127).toNat / 256 = 4096 ∧
      ((lane0 (user 1048576)).pair 2).toNat % 128 ≠ 0) ∧
    ((busyFlag 256).Ready (instrForm (.cfill 0 127 1)) [lane0 (busyFlag 256)] ∧ Room 1 [lane0 (busyFlag 256)] ∧
      ((lane0 (busyFlag 256)).reg 127).toNat / 256 = 1 ∧ ((lane0 (busyFlag 256)).pair 0).toNat % 128 = 0 ∧
      ∃ x, (lane0 (busyFlag 256)).fillLines ((lane0 (busyFlag 256)).pair 0) 1 = .ok x) :=
  ⟨⟨ready_one rfl rfl, of_one rfl⟩, ⟨ready_one rfl rfl, by decide⟩, ⟨ready_one rfl rfl, by decide⟩,
   ⟨ready_one rfl rfl, by decide, by decide⟩,
   ⟨ready_one rfl rfl, .inr (of_one (by decide)), by decide, by decide, ok_some (by decide +kernel)⟩⟩

/-- With no entry in the Pannier no request is held. -/
theorem free_parts {l : Lane} {x : Except Trap LaneReq} {w : Bool} (h : l.s.pannier = []) (hx : ∃ r, x = .ok r) :
    ∃ r, x = .ok r ∧ ∀ p ∈ r.parts, (if w then l.scatterHeld p.1 p.2.1 else l.gatherHeld p.1) = false :=
  hx.imp (fun r e => ⟨e, fun p _ => by
    have j : ∀ core sector write, l.s.joins core sector write = none := fun _ _ _ => by simp [State.joins, State.unsent, h]
    cases w <;> simp [Lane.scatterHeld, Lane.gatherHeld, j]⟩)

theorem test_GathersAndScatters_meets :
    (∀ i ∈ [Instr.gathW 31 0 127 1, .scatD 12 0 127 1, .gathF 31 16 127 1],
      (busyFlag 0).Ready (instrForm i) [lane0 (busyFlag 0)] ∧
      ∃ g, gatherForm i = some g ∧ Room g.flag.toNat [lane0 (busyFlag 0)] ∧ ∃ r, g.req (busyFlag 0) (lane0 (busyFlag 0)) = .ok r ∧
        ∀ p ∈ r.parts, (if g.write then (lane0 (busyFlag 0)).scatterHeld p.1 p.2.1 else (lane0 (busyFlag 0)).gatherHeld p.1) = false) ∧
    (NoAcquire [lane0 (busyFlag 0)] ∧ (busyFlag 0).pannierGroups 0 [0] < 64) ∧
    (user 1).Ready (instrForm (.gathD 30 4 127 1)) [lane0 (user 1)] ∧
    ∃ g, gatherForm (.gathD 30 4 127 1) = some g ∧ ∃ t : Lane → Trap, ∀ l ∈ [lane0 (user 1)], g.req (user 1) l = .error (t l) := by
  refine ⟨fun i hi => ?_, ⟨of_one rfl, by decide⟩, ready_one rfl rfl, _, rfl, traps_one (by decide +kernel)⟩
  · simp only [List.mem_cons, List.not_mem_nil, or_false] at hi
    rcases hi with rfl | rfl | rfl
    · exact ⟨ready_one rfl rfl, _, rfl, .inr (of_one (by decide)), free_parts rfl (ok_some (by decide +kernel))⟩
    · exact ⟨ready_one rfl rfl, _, rfl, .inr (of_one (by decide)), free_parts rfl (ok_some (by decide +kernel))⟩
    · exact ⟨ready_one rfl rfl, _, rfl, .inr (of_one (by decide)), free_parts rfl (ok_some (by decide +kernel))⟩

/-- A thread with a cause held for its next fence. -/
def awaited : State :=
  userWith (fun th => { th with held := [{ flag := 0, order := 5, trap := .of .mchk }] }) 0

theorem test_Fences_meets :
    (∀ i ∈ [Instr.fenceAcq 1, .fenceRel 5, .fenceAr 4, .fenceSc 0], ∃ g, fenceForm i = some g ∧
      (user 0).Alone (instrForm i) (alone0 (user 0)) ∧ g.waits (alone0 (user 0)) = false) ∧
    (alone0 (user 0)).th.firstHeld [0] = none ∧
    awaited.Alone (instrForm (.fenceAr 5)) (alone0 awaited) ∧ ∃ c, (alone0 awaited).th.firstHeld [0] = some c := by
  refine ⟨fun i hi => ?_, rfl, alone_one rfl rfl rfl rfl rfl, _, rfl⟩
  simp only [List.mem_cons, List.not_mem_nil, or_false] at hi
  rcases hi with rfl | rfl | rfl | rfl <;> exact ⟨_, rfl, alone_one rfl rfl rfl rfl rfl, rfl⟩

/-- A control block of `COPY` for one row of 32 bytes from 0x22000 to scratchpad, one of `COPYX` of two sources, and a
descriptor of `BCOPY`. -/
def copyBlock : List Byte :=
  leBytes 8 0x22000 ++ leBytes 8 0 ++ leBytes 4 1 ++ leBytes 4 32 ++ leBytes 8 0 ++ leBytes 4 2 ++ List.replicate 28 0
def xorBlock : List Byte := leBytes 8 0x23000 ++ leBytes 4 32 ++ leBytes 4 2 ++ leBytes 8 0x22000 ++ leBytes 8 0x22020 ++ List.replicate 96 0
def bcopyBlock : List Byte := leBytes 8 0x25000 ++ List.replicate 56 0

/-- A KV map at 0x25000 with one entry: 128 values a row, one head, one layer, 8 rows a block, 12 blocks, its pool in page 7. -/
def kvEntry0 : List Byte :=
  leBytes 8 0x26000 ++ leBytes 8 0x70000000 ++ leBytes 8 0x27000 ++ leBytes 4 12 ++ List.replicate 32 0 ++
    leBytes 4 (128 * 2 ^ 20 + 2 ^ 12 + 2 ^ 4 + 3)
/-- A sequence record at 0x24000 that names that map. -/
def withKv (s : State) : State := withMem (withMem s 0x25000 kvEntry0) 0x24018 (leBytes 8 0x25000)

/-- Two copies have already counted scratchpad line 0 absent. -/
def lineTwice (s : State) : State := { s with teams := s.teams.map (fun t => { t with absent := [(0, 2)] }) }

/-- The machine with that `BCOPY`, and what its issue reads for a register of block indices. -/
def blocks0 : Lane := lane0 (withKv (given bcopyBlock 0))
def bcopyReads (r : BitVec 7) : Script (List Byte × KvEntry × Nat × CopyEnd) := blocks0.blockScript (blocks0.pair 0) [blocks0.reg r]
theorem bcopy_plan {r : BitVec 7} {p : CopyPlan → Bool}
    (h : briefly blocks0 (bcopyReads r) (fun x => p {
      src := .blocks [x.2.1.table (blocks0.reg r).toNat] x.2.1.pool
        (fieldAt x.1 8 2 * x.2.1.lstr + fieldAt x.1 12 4 * x.2.1.tstr + fieldAt x.1 10 2 * x.2.1.hstr) x.2.1.blkb x.2.1.rstr x.2.1.lgrows
        x.2.2.1 (x.2.1.rbytes x.2.2.1 + 4)
      chunks := copyChunks x.2.2.2 (x.2.1.rbytes x.2.2.1 + 4) (1 * x.2.1.rows) (x.2.1.rbytes x.2.2.1 + 4)
      total := 1 * x.2.1.rows * (x.2.1.rbytes x.2.2.1 + 4) }) = true) :
    ∃ obj q, bcopyPlan blocks0 0 127 [blocks0.reg r] = .ok (obj, q) ∧ p q = true := by
  obtain ⟨x, h1, h2⟩ := brief_ok plain h
  have hb : blocks0.barrierWord (blocks0.reg 127) = .ok (some 0) := rfl
  have ha : ¬(blocks0.pair 0).toNat % 64 ≠ 0 := by decide
  have hr : blocks0.runScript (blocks0.blockScript (blocks0.pair 0) [blocks0.reg r]) = .ok x := h1
  unfold bcopyPlan Lane.blockPlan
  rw [hb, if_neg ha, hr]
  exact ⟨_, _, rfl, h2⟩
theorem bcopy_traps {r : BitVec 7} (h : briefly blocks0 (bcopyReads r) (fun _ => true) = false) :
    ∃ t, bcopyPlan blocks0 0 127 [blocks0.reg r] = .error t := by
  obtain ⟨t, h1⟩ := brief_traps plain h
  have hb : blocks0.barrierWord (blocks0.reg 127) = .ok (some 0) := rfl
  have ha : ¬(blocks0.pair 0).toNat % 64 ≠ 0 := by decide
  have hr : blocks0.runScript (blocks0.blockScript (blocks0.pair 0) [blocks0.reg r]) = .error t := h1
  unfold bcopyPlan Lane.blockPlan
  rw [hb, if_neg ha, hr]
  exact ⟨t, rfl⟩

theorem test_Copies_meets :
    (copyForm (.copy 0 127 1) = some ⟨0, 127, 1, 64, .copy, Lane.copyPlan⟩ ∧
      copyForm (.copyx 0 127 1) = some ⟨0, 127, 1, 128, .copyx, Lane.xorPlan⟩) ∧
    (let s := lineTwice (given copyBlock 0); let l := alone0 s;
      s.Alone (instrForm (.copy 0 127 1)) l ∧ l.waitsToRead = false ∧ l.scriptAway (Script.read (l.pair 0) 64) = false ∧ l.barrierWord (l.reg 127) = .ok (some 0) ∧
      (l.pair 0).toNat % 64 = 0 ∧ Room 1 [l] ∧
      ∃ cb, l.runScript (Script.read (l.pair 0) 64) = .ok cb ∧
      ∃ p, l.copyPlan cb = .ok p ∧ ∀ x ∈ chunkLines p.chunks, l.s.lineCount x < 3) ∧
    (let s := given xorBlock 0x80000000; let l := alone0 s;
      s.Alone (instrForm (.copyx 0 127 1)) l ∧ l.waitsToRead = false ∧ l.scriptAway (Script.read (l.pair 0) 128) = false ∧ l.barrierWord (l.reg 127) = .ok none ∧
      ∃ cb, l.runScript (Script.read (l.pair 0) 128) = .ok cb ∧
      ∃ p, l.xorPlan cb = .ok p ∧ ∀ x ∈ chunkLines p.chunks, l.s.lineCount x < 3) ∧
    (let l := alone0 (user 1); (user 1).Alone (instrForm (.copy 0 127 1)) l ∧ ∃ t, l.barrierWord (l.reg 127) = .error t) ∧
    (let l := alone0 (user 0); (user 0).Alone (instrForm (.copy 2 127 1)) l ∧ (l.pair 2).toNat % 64 ≠ 0) ∧
    (let l := alone0 (user 0); (user 0).Alone (instrForm (.copy 4 127 1)) l ∧ (l.pair 4).toNat % 64 = 0 ∧
      ∃ t, l.runScript (Script.read (l.pair 4) 64) = .error t) ∧
    (let l := alone0 (user 0); (user 0).Alone (instrForm (.copy 0 127 1)) l ∧
      ∃ cb, l.runScript (Script.read (l.pair 0) 64) = .ok cb ∧ ∃ t, l.copyPlan cb = .error t) ∧
    (let s := withKv (given bcopyBlock 0); let l := lane0 s;
      s.Ready (instrForm (.bcopy 12 0 127 1)) [l] ∧ l.waitsToRead = false ∧ l.scriptAway (l.blockScript (l.pair 0) [l.reg 12]) = false ∧
      Room 1 [l] ∧ ∃ obj p, bcopyPlan l 0 127 [l.reg 12] = .ok (obj, p) ∧ l.s.linesFit (chunkLines p.chunks) = true) ∧
    (let s := withKv (given bcopyBlock 0); let l := lane0 s;
      s.Ready (instrForm (.bcopy 13 0 127 1)) [l] ∧ ∃ t, bcopyPlan l 0 127 [l.reg 13] = .error t) := by
  refine ⟨⟨rfl, rfl⟩,
    ⟨alone_one rfl rfl rfl rfl rfl, rfl, away, rfl, by decide, .inr (of_one (by decide)), brief_plan plain (by decide +kernel)⟩,
    ⟨alone_one rfl rfl rfl rfl rfl, rfl, away, rfl, brief_plan plain (by decide +kernel)⟩,
    ⟨alone_one rfl rfl rfl rfl rfl, traps_some (by decide +kernel)⟩, ⟨alone_one rfl rfl rfl rfl rfl, by decide⟩,
    ⟨alone_one rfl rfl rfl rfl rfl, by decide, brief_traps plain (by decide +kernel)⟩,
    ⟨alone_one rfl rfl rfl rfl rfl, brief_no_plan plain (by decide +kernel)⟩,
    ⟨ready_one rfl rfl, rfl, away, .inr (of_one (by decide)), bcopy_plan (p := fun p => blocks0.s.linesFit (chunkLines p.chunks))
      (by decide +kernel)⟩, ⟨ready_one rfl rfl, bcopy_traps (by decide +kernel)⟩⟩

/-- A descriptor of a matrix call of 32 columns of 8 bits, its sum in page 4. -/
def mxDesc0 : List Byte :=
  leBytes 4 (1 * 2 ^ 24) ++ leBytes 4 32 ++ leBytes 4 1 ++ leBytes 4 32 ++ leBytes 8 0x40000000 ++ leBytes 4 1024 ++
    List.replicate 16 0 ++ leBytes 4 0x80000000 ++ List.replicate 16 0

/-- A descriptor that its reads admit; and one they refuse. -/
theorem brief_desc {l : Lane} {a : DWord} {join : Bool} {b : BitVec 7} (h : Plain l) (ha : a.toNat % 64 = 0)
    (e : briefly l (Script.read a 64) (fun bs =>
      (firstTrap ((if join then l.columnTraps b (MxDesc.ofBytes bs) else []) ++ l.descTraps bs join false)).isNone) = true) :
    ∃ d, l.readDesc a join b = .ok d := by
  obtain ⟨bs, h1, h2⟩ := brief_ok h e
  refine ⟨MxDesc.ofBytes bs, ?_⟩
  rw [Option.isNone_iff_eq_none] at h2
  simp only [Lane.readDesc, Lane.block, ha, ne_eq, not_true_eq_false, if_false, h1, h2]
theorem brief_no_desc {l : Lane} {a : DWord} {join : Bool} {b : BitVec 7} (h : Plain l) (ha : a.toNat % 64 = 0)
    (e : briefly l (Script.read a 64) (fun bs =>
      (firstTrap ((if join then l.columnTraps b (MxDesc.ofBytes bs) else []) ++ l.descTraps bs join false)).isSome) = true) :
    ∃ t, l.readDesc a join b = .error t := by
  obtain ⟨bs, h1, h2⟩ := brief_ok h e
  obtain ⟨t, h3⟩ := Option.isSome_iff_exists.1 h2
  refine ⟨t, ?_⟩
  simp only [Lane.readDesc, Lane.block, ha, ne_eq, not_true_eq_false, if_false, h1, h3]

/-- A machine with that descriptor whose join register waits for thread 0. -/
def signing (st : JState) (k : Option JKind) : State :=
  { given mxDesc0 0 with hubsets := [{ hub := 0, teams := [0], joins := [{ openJoin 1 [(0, 0)] [(0, 0)] with st := st, kind := k }] }] }

/-- Nothing holds the signing of a thread that is quiet, with an empty store queue. -/
theorem sign_free {l : Lane} {a : BitVec 7} (h : l.quiet = true) (hq : l.s.sq = []) (hl : l.s.hostLink.isNone = false := by rfl) :
    l.signHeld a = false := by simp [Lane.signHeld, h, State.storesDone, hq, places hl]

theorem test_MatrixSigns_meets :
    ((user 0).InTurn (instrForm (.mma 1 0 20 1)) (alone0 (user 0)) (alone0 (user 0)) ∧ (alone0 (user 0)).signHeld 0 = false ∧ (user 0).join? 0 1 = none) ∧
    (let s := signing .opened none; let l := alone0 s;
      s.InTurn (instrForm (.mma 0 0 20 1)) l l ∧ l.signHeld 0 = false ∧ Room 1 [l] ∧
      ∃ jn, s.join? l.tm.hubset 0 = some jn ∧ MaySignCall s l jn (l.pair 0) ∧ ∃ d, l.readDesc (l.pair 0) true 20 = .ok d) ∧
    (let s := joined (openJoin 1 [(0, 0)] [(0, 0)]) 0; let l := alone0 s;
      s.InTurn (instrForm (.mma 0 0 20 1)) l l ∧
      ∃ jn, s.join? l.tm.hubset 0 = some jn ∧ MaySignCall s l jn (l.pair 0) ∧ ∃ t, l.readDesc (l.pair 0) true 20 = .error t) ∧
    (let s := user 0; let l := alone0 s;
      s.InTurn (instrForm (.mma 0 0 20 1)) l l ∧ ∃ jn, s.join? l.tm.hubset 0 = some jn ∧ (s.cur.team, l.th.idx) ∉ jn.unsigned) ∧
    (let s := signing .opened (some .jsign); let l := alone0 s;
      s.InTurn (instrForm (.mma 0 0 20 1)) l l ∧
      ∃ jn, s.join? l.tm.hubset 0 = some jn ∧ jn.st = .opened ∧ ¬MaySignCall s l jn (l.pair 0)) ∧
    (let s := signing .drain none; let l := alone0 s;
      s.InTurn (instrForm (.mma 0 0 20 1)) l l ∧ l.signHeld 0 = false ∧
      ∃ jn, s.join? l.tm.hubset 0 = some jn ∧ (s.cur.team, l.th.idx) ∈ jn.unsigned ∧ jn.st = .drain ∧
        ∃ d, l.readDesc (l.pair 0) true 20 = .ok d) :=
  ⟨⟨turn_one rfl rfl rfl rfl rfl, sign_free rfl rfl, rfl⟩,
   ⟨turn_one rfl rfl rfl rfl rfl, sign_free rfl rfl, .inr (of_one (by decide)), _, rfl, ⟨by decide, rfl, .inl rfl⟩, brief_desc plain (by decide) (by decide +kernel)⟩,
   ⟨turn_one rfl rfl rfl rfl rfl, _, rfl, ⟨by decide, rfl, .inl rfl⟩, brief_no_desc plain (by decide) (by decide +kernel)⟩,
   ⟨turn_one rfl rfl rfl rfl rfl, _, rfl, by decide⟩,
   ⟨turn_one rfl rfl rfl rfl rfl, _, rfl, rfl, fun h => by rcases h.2.2 with h | ⟨⟨d, h⟩, -⟩ <;> cases h⟩,
   ⟨turn_one rfl rfl rfl rfl rfl, sign_free rfl rfl, _, rfl, by decide, rfl, brief_desc plain (by decide) (by decide +kernel)⟩⟩

set_option maxRecDepth 8192 in
theorem test_MatrixCallsAndZeroing_meets :
    (let l := alone0 (user 1); (user 1).Alone (instrForm (.mmas 0 127 1)) l ∧ l.waitsToRead = false ∧
      ∃ t, l.barrierWord (l.reg 127) = .error t) ∧
    (let s := given mxDesc0 0; let l := alone0 s;
      s.Alone (instrForm (.mmas 0 127 1)) l ∧ l.waitsToRead = false ∧ l.scriptAway (Script.read (l.pair 0) 64) = false ∧
      l.barrierWord (l.reg 127) = .ok (some 0) ∧ Room 1 [l] ∧ (l.s.liveTable (l.tm.core / 4)).length < 32 ∧ ∃ d, l.readDesc (l.pair 0) false 127 = .ok d) ∧
    (let l := alone0 (user 0); (user 0).Alone (instrForm (.mmas 0 127 1)) l ∧ ∃ t, l.readDesc (l.pair 0) false 127 = .error t) ∧
    (let l := alone0 (user 992); (user 992).Alone (instrForm (.accz 8 127 1)) l ∧ l.acquiring = false ∧ (l.reg 127).toNat < 1024 ∧
      (alone0 (user 1025)).reg 127 % 32 ≠ 0) ∧
    (let l := alone0 (user 1024); (user 1024).Alone (instrForm (.accz 2 127 1)) l ∧ (l.reg 127).toNat = 1024 ∧
      (l.pair 2).toNat % 32 ≠ 0) ∧
    (let l := alone0 (user 1024); (user 1024).Alone (instrForm (.accz 0 127 1)) l ∧ (l.pair 0).toNat % 32 = 0 ∧
      ∃ p, l.s.pageOf l.who .store (l.pair 0) = .ok p ∧ p.fmt ≠ 25) ∧
    (let s := busyFlag 1024; let l := alone0 s; s.Alone (instrForm (.accz 8 127 1)) l ∧ (l.pair 8).toNat % 32 = 0 ∧ Room 1 [l] ∧
      ∃ p, l.s.pageOf l.who .store (l.pair 8) = .ok p ∧ p.fmt = 25 ∧ ¬(p.geo = 1 ∨ p.geo = 2)) ∧
    (let s := withMem (busyFlag 1024) 0x10048 [0x99]; let l := alone0 s; s.Alone (instrForm (.accz 8 127 1)) l ∧
      ∃ p, l.s.pageOf l.who .store (l.pair 8) = .ok p ∧ p.fmt = 25 ∧ (p.geo = 1 ∨ p.geo = 2)) :=
  ⟨⟨alone_one rfl rfl rfl rfl rfl, rfl, traps_some (by decide +kernel)⟩,
   ⟨alone_one rfl rfl rfl rfl rfl, rfl, away, rfl, .inr (of_one (by decide)), by decide, brief_desc plain (by decide) (by decide +kernel)⟩,
   ⟨alone_one rfl rfl rfl rfl rfl, brief_no_desc plain (by decide) (by decide +kernel)⟩, ⟨alone_one rfl rfl rfl rfl rfl, rfl, by decide, by decide⟩,
   ⟨alone_one rfl rfl rfl rfl rfl, by decide, by decide⟩, ⟨alone_one rfl rfl rfl rfl rfl, by decide, _, rfl, by decide⟩,
   ⟨alone_one rfl rfl rfl rfl rfl, by decide, .inr (of_one (by decide)), _, rfl, by decide, by decide⟩,
   ⟨alone_one rfl rfl rfl rfl rfl, _, rfl, by decide, by decide⟩⟩

/-- Descriptors of a maintenance operation on that map, of a `TOPK` of one value, and of an attention call. -/
def kvBlock : List Byte := leBytes 8 0x24000 ++ List.replicate 56 0
def topkBlock : List Byte := leBytes 8 0x22000 ++ leBytes 8 0x23000 ++ leBytes 4 1 ++ leBytes 4 1 ++ List.replicate 8 0
def attnBlock : List Byte := List.replicate 16 0 ++ leBytes 8 0x24000 ++ List.replicate 20 0 ++ leBytes 4 24 ++ List.replicate 16 0

theorem test_KvOperations_meets :
    (∀ i ∈ [Instr.bnds 31 0 1, .kvrq 31 0 120 1, .kvap 31 0 120 1], ∃ g, kvForm i = some g ∧
      (withKv (given kvBlock 0)).Ready (instrForm i) [lane0 (withKv (given kvBlock 0))] ∧
      (lane0 (withKv (given kvBlock 0))).waitsToRead = false ∧
      (lane0 (withKv (given kvBlock 0))).scriptAway (g.issue (lane0 (withKv (given kvBlock 0)))) = false ∧ g.Admits (lane0 (withKv (given kvBlock 0))) ∧
      ((lane0 (withKv (given kvBlock 0))).pair g.desc).toNat % g.align = 0 ∧ Room g.flag.toNat [lane0 (withKv (given kvBlock 0))] ∧
      ∃ j : Lane → KvJob, ∀ l ∈ [lane0 (withKv (given kvBlock 0))], l.runScript (g.issue l) = .ok (j l)) ∧
    (∃ g, kvForm (.topk 31 0 1) = some g ∧ (given topkBlock 0).Ready (instrForm (.topk 31 0 1)) [lane0 (given topkBlock 0)] ∧
      ∃ j : Lane → KvJob, ∀ l ∈ [lane0 (given topkBlock 0)], l.runScript (g.issue l) = .ok (j l)) ∧
    (∃ g, kvForm (.kvrq 31 0 127 1) = some g ∧ (user 0x7FFFFF).Ready (instrForm (.kvrq 31 0 127 1)) [lane0 (user 0x7FFFFF)] ∧
      ¬g.Admits (lane0 (user 0x7FFFFF)) ∧ ¬g.Admits (lane0 (user 0x7F800000)) ∧ g.Admits (lane0 (user 0x00800000))) ∧
    (∃ g, kvForm (.kvtag 31 2 1) = some g ∧ (user 0).Ready (instrForm (.kvtag 31 2 1)) [lane0 (user 0)] ∧ g.Admits (lane0 (user 0)) ∧
      ((lane0 (user 0)).pair g.desc).toNat % g.align ≠ 0) ∧
    (∃ g, kvForm (.kvmove 31 0 1) = some g ∧ (user 0).Ready (instrForm (.kvmove 31 0 1)) [lane0 (user 0)] ∧ g.Admits (lane0 (user 0)) ∧
      ∃ t : Lane → Trap, ∀ l ∈ [lane0 (user 0)], l.runScript (g.issue l) = .error (t l)) := by
  refine ⟨fun i hi => ?_, ⟨_, rfl, ready_one rfl rfl, brief_one plain (by decide +kernel)⟩,
    ⟨_, rfl, ready_one rfl rfl, ?_, ?_, ?_⟩, ⟨_, rfl, ready_one rfl rfl, ?_, by decide⟩,
    ⟨_, rfl, ready_one rfl rfl, ?_, brief_traps_one plain (by decide +kernel)⟩⟩
  · simp only [List.mem_cons, List.not_mem_nil, or_false] at hi
    rcases hi with rfl | rfl | rfl
    · exact ⟨_, rfl, ready_one rfl rfl, rfl, away, (fun h => by cases h), by decide, .inr (of_one (by decide)), brief_one plain (by decide +kernel)⟩
    · exact ⟨_, rfl, ready_one rfl rfl, rfl, away, (fun _ => .inl rfl), by decide, .inr (of_one (by decide)), brief_one plain (by decide +kernel)⟩
    · exact ⟨_, rfl, ready_one rfl rfl, rfl, away, (fun h => by cases h), by decide, .inr (of_one (by decide)), brief_one plain (by decide +kernel)⟩
  · exact fun h => absurd (h rfl) (by decide)
  · exact fun h => absurd (h rfl) (by decide)
  · exact fun _ => .inr (by decide)
  · exact fun h => by cases h
  · exact fun h => by cases h

theorem test_AttentionCalls_meets :
    (let s := given attnBlock 0x3F800000; let l := lane0 s;
      s.Ready (instrForm (.attn 28 0 127 1)) [l] ∧ s.Ready (instrForm (.attnr 28 0 127 1)) [l] ∧ l.waitsToRead = false ∧
      (∀ r : Bool, l.scriptAway (attnIssue l r (tolerance (l.reg 127)) (l.pair 0)) = false) ∧
      IsTolerance (l.reg 127) ∧ (l.pair 0).toNat % 64 = 0 ∧ Room 1 [l] ∧
      (∃ j : Lane → AttnJob, ∀ m ∈ [l], m.runScript (attnIssue m false (tolerance (m.reg 127)) (m.pair 0)) = .ok (j m)) ∧
      ∃ j : Lane → AttnJob, ∀ m ∈ [l], m.runScript (attnIssue m true (tolerance (m.reg 127)) (m.pair 0)) = .ok (j m)) ∧
    (let l := lane0 (user 0x3F800001); (user 0x3F800001).Ready (instrForm (.attn 28 0 127 1)) [l] ∧ ¬IsTolerance (l.reg 127)) ∧
    (let l := lane0 (user 0x80000000); (user 0x80000000).Ready (instrForm (.attn 28 2 127 1)) [l] ∧ IsTolerance (l.reg 127) ∧
      (l.pair 2).toNat % 64 ≠ 0) ∧
    (let l := lane0 (user 0); (user 0).Ready (instrForm (.attnr 28 0 127 1)) [l] ∧ IsTolerance (l.reg 127) ∧
      ∃ t : Lane → Trap, ∀ m ∈ [l], m.runScript (attnIssue m true (tolerance (m.reg 127)) (m.pair 0)) = .error (t m)) :=
  ⟨⟨ready_one rfl rfl, ready_one rfl rfl, rfl, fun _ => away, .inr (by decide), by decide, .inr (of_one (by decide)), brief_one plain (by decide +kernel),
    brief_one plain (by decide +kernel)⟩,
   ⟨ready_one rfl rfl, by unfold IsTolerance; decide⟩, ⟨ready_one rfl rfl, .inl rfl, by decide⟩,
   ⟨ready_one rfl rfl, .inr (by decide), brief_traps_one plain (by decide +kernel)⟩⟩


/-! ## The clauses where some members trap, and further clauses -/

/-- Two threads of one group, whose pairs 0 hold these addresses. -/
def twoOf (a b : Word) : State :=
  let s := busyFlag 0
  let th (j : Nat) (x : Word) : Thread := { thread0 .active (regs0.set 0 x) with idx := j }
  { s with teams := [{ team0 (th 0 a) with threads := [th 0 a, th 1 b], groups := [mkGroup 0 [0, 1]] }], cur := { s.cur with members := [0, 1] } }

theorem test_mixed_jumps_meet :
    let s := twoOf 0x21000 0x21001
    s.Ready (instrForm (.jmp 0)) (lanesOf s) ∧ jumpOf (.jmp 0) = some (0, none) ∧ (∃ l ∈ lanesOf s, (l.pair 0).toNat % 4 = 0) ∧
      ∃ l ∈ lanesOf s, (l.pair 0).toNat % 4 ≠ 0 :=
  ⟨ready_of rfl rfl, rfl, by decide, by decide⟩

set_option maxRecDepth 8192 in
theorem test_mixed_accesses_meet :
    let s := twoOf 0x21000 0x21001
    let r := twoOf 0x21000 0x30000000
    let g := loadForm 4 31 0 0 1
    globalForm (.ldgW 31 0 0 1) = some g ∧
    (s.Ready (instrForm (.ldgW 31 0 0 1)) (lanesOf s) ∧ NoAcquire (lanesOf s) ∧ Room 1 (lanesOf s) ∧
      ∃ l m, lanesOf s = [l, m] ∧ (∃ k p, l.Reaches g k p ∧ g.takes k p = true) ∧ (g.addr m).toNat % g.size ≠ 0) ∧
    (r.Ready (instrForm (.ldgW 31 0 0 1)) (lanesOf r) ∧ NoAcquire (lanesOf r) ∧ Room 1 (lanesOf r) ∧
      ∃ l m, lanesOf r = [l, m] ∧ (∃ k p, l.Reaches g k p ∧ g.takes k p = true) ∧ (g.addr m).toNat % g.size = 0 ∧
        m.s.translate m.who g.kind (g.addr m) g.size = .error .page) :=
  ⟨rfl,
   ⟨ready_of rfl rfl, by unfold NoAcquire; decide, .inr (by decide), _, _, rfl, ⟨_, _, ⟨rfl, rfl⟩, rfl⟩, by decide⟩,
   ⟨ready_of rfl rfl, by unfold NoAcquire; decide, .inr (by decide), _, _, rfl, ⟨_, _, ⟨rfl, rfl⟩, rfl⟩, by decide, rfl⟩⟩

theorem test_checks_in_turn_meet :
    (∀ p ∈ [(Instr.jsign 64, Cause.illop), (.mma 0 32 0 1, .regrange)],
      actsInPlace p.1 = true ∧ (user 0).Placed (alone0 (user 0)) (alone0 (user 0)) ∧
        (alone0 (user 0)).check (formOf p.1) = some (.of p.2)) ∧
    (∀ p ∈ [(Instr.barArrive 32, Cause.regrange), (.fenceAcq 6, .illop)],
      actsInTurn p.1 = true ∧ actsInPlace p.1 = false ∧ (user 0).Single (alone0 (user 0)) ∧
        (alone0 (user 0)).check (formOf p.1) = some (.of p.2)) ∧
    (let s := poisoned1; s.Single (alone0 s) ∧ actsInTurn (.barWait 1 120) = true ∧ actsInPlace (.barWait 1 120) = false ∧
      (alone0 s).check (formOf (.barWait 1 120)) = some (.of .mchk)) := by
  refine ⟨fun p hp => ?_, fun p hp => ?_, ⟨rfl, rfl, rfl, rfl⟩, rfl, rfl, by decide⟩
  · simp only [List.mem_cons, List.not_mem_nil, or_false] at hp
    rcases hp with rfl | rfl <;> exact ⟨rfl, ⟨⟨rfl, rfl, rfl, rfl⟩, rfl, rfl, rfl, rfl, rfl⟩, by decide⟩
  · simp only [List.mem_cons, List.not_mem_nil, or_false] at hp
    rcases hp with rfl | rfl <;> exact ⟨rfl, rfl, ⟨rfl, rfl, rfl, rfl⟩, by decide⟩

/-- What a register holds after a thread leaves it or its round is cancelled. -/
theorem test_leaving_meets :
    (let jn : Join := { openJoin 2 [(0, 0), (0, 1)] [(0, 0)] with st := .drain, signs := [sign0] };
      (joined jn 0).join? 0 0 = some jn ∧ (0, 0) ∈ jn.unsigned ∧ jn.unsigned.filter (fun e => e ≠ (0, 0)) = []) ∧
    (let jn := openJoin 2 [(0, 0), (0, 1)] [(0, 0), (0, 1)];
      (joined jn 0).join? 0 0 = some jn ∧ (0, 0) ∈ jn.unsigned ∧ jn.signs.length + jn.wd + 1 ≠ jn.n) ∧
    (let jn := openJoin 1 [(0, 0)] [(0, 0)]; (joined jn 0).join? 0 0 = some jn ∧ jn.signs.length + jn.wd + 1 = jn.n) ∧
    (let jn : Join := { openJoin 1 [(0, 0)] [] with st := .busy, signs := [sign0] };
      (joined jn 0).join? 0 0 = some jn ∧ ∀ g ∈ jn.signs, (joined jn 0).op? g.op = none) := by
  decide

theorem test_objects_beyond_meet :
    (∀ i ∈ [Instr.barArrive 127, .barSync 127, .barInval 127], (user 1).Alone (instrForm i) (alone0 (user 1))) ∧
    (alone0 (user 1)).quiet = true ∧ (alone0 (user 1)).tm.bars.length ≤ ((alone0 (user 1)).reg 127).toNat := by
  refine ⟨fun i hi => ?_, rfl, by decide⟩
  simp only [List.mem_cons, List.not_mem_nil, or_false] at hi
  rcases hi with rfl | rfl | rfl <;> exact alone_one rfl rfl rfl rfl rfl

set_option maxRecDepth 8192 in
theorem test_versioned_traps_meet :
    (∃ p, versionedForm (.ldvsD 30 2 0 1) = some p ∧ (user 0).Ready (instrForm (.ldvsD 30 2 0 1)) [lane0 (user 0)] ∧
      ((lane0 (user 0)).offsetAddr 2 0 8).toNat % 8 ≠ 0) ∧
    ((user 0).Ready (instrForm (.ldvsW 31 4 0 1)) [lane0 (user 0)] ∧ ((lane0 (user 0)).offsetAddr 4 0 4).toNat % 4 = 0 ∧
      (lane0 (user 0)).s.translate (lane0 (user 0)).who .load ((lane0 (user 0)).offsetAddr 4 0 4) 4 = .error .page) ∧
    ((user 0).Ready (instrForm (.casv 30 4 31 1)) [lane0 (user 0)] ∧ ((lane0 (user 0)).pair 4).toNat % 4 = 0 ∧
      (lane0 (user 0)).s.translateFor (lane0 (user 0)).who .atomic ((lane0 (user 0)).pair 4) 4
        (decide ((lane0 (user 0)).s.recordByte (lane0 (user 0)).tm.fn ((lane0 (user 0)).pair 4) = some 0)) = .error .page) ∧
    ((user 0).Ready (instrForm (.casv 30 6 31 1)) [lane0 (user 0)] ∧ ((lane0 (user 0)).pair 6).toNat % 4 = 0 ∧
      ∃ k p, (lane0 (user 0)).s.translateFor (lane0 (user 0)).who .atomic ((lane0 (user 0)).pair 6) 4
        (decide ((lane0 (user 0)).s.recordByte (lane0 (user 0)).tm.fn ((lane0 (user 0)).pair 6) = some 0)) = .ok (k, p) ∧
        keyHost k = true) :=
  ⟨⟨_, rfl, ready_one rfl rfl, by decide⟩, ⟨ready_one rfl rfl, by decide, rfl⟩, ⟨ready_one rfl rfl, by decide, rfl⟩,
   ⟨ready_one rfl rfl, by decide, _, _, rfl, rfl⟩⟩

/-- The machine with a poisoned scale byte of page 6. -/
def poisonedScale : State := { user 0 with poison := [67108864] }

/-- With no sector in its L1, a poisoned scale byte is not read. -/
theorem scaleByte_poisoned {l : Lane} {k : Nat} (h : l.s.l1 = []) (hs : l.s.ownStores l.s.cur.team l.th.idx l.s.nextId = [])
    (hp : l.s.poison = [k]) : l.scaleByte k = none := by
  unfold Lane.scaleByte Lane.scaleRead State.readBytes
  have e : ∀ c x, l.s.l1Sector c x = none := fun c x => by unfold State.l1Sector; rw [h]; rfl
  simp [e, hp, hs, covered]

set_option maxRecDepth 8192 in
theorem test_poisoned_scale_meets :
    let l := lane0 poisonedScale
    poisonedScale.Ready (instrForm (.stf 31 16 0 0)) [l] ∧ NoAcquire [l] ∧ Room 0 [l] ∧
      ∃ e p, l.elemAt .store (l.offsetAddr 16 0 1) none = .ok e ∧ e.scale = some p ∧ l.readsOut = false ∧ l.s.hostAway p.1 = false ∧
        l.scaleByte p.1 = none :=
  ⟨ready_one rfl rfl, of_one rfl, .inl rfl, _, _, rfl, rfl, rfl, off_host, scaleByte_poisoned rfl rfl rfl⟩

/-! ## Taps and walks -/

/-- A machine with tap tables of one entry, a thread with an aligned pair v2, and a literal word. -/
def tapping (p : List Byte) (w : Word) : State :=
  { userWith (fun th => { th with flags := th.flags.set 0 14, regs := th.regs.set 2 0x21040 }) w with
    tapGens := [{ gen := 1, probe := p, steer := [] }] }
/-- An entry of one probe after the operation. -/
def postEntry : List Byte := leBytes 4 1 ++ List.replicate 40 0 ++ leBytes 4 8

/-- The tables that a `TAPLD` of v0 and v2 reads: each entry of the least sizes. -/
def probe0 : List Byte := leBytes 4 (12 * 256) ++ leBytes 4 1 ++ List.replicate 504 0
def steer0 : List Byte := List.replicate 8 0 ++ leBytes 4 1 ++ List.replicate 4 0
theorem probe0_length : probe0.length = 512 := by decide +kernel
theorem steer0_length : steer0.length = 16 := by decide
@[irreducible] def probes : List Byte := (List.replicate 64 probe0).flatten
@[irreducible] def steers : List Byte := (List.replicate 256 steer0).flatten
theorem probes_length : probes.length = 4 * 8192 := by
  rw [probes, List.length_flatten, List.map_replicate, List.sum_replicate, probe0_length]; rfl
theorem steers_length : steers.length = 4 * 1024 := by
  rw [steers, List.length_flatten, List.map_replicate, List.sum_replicate, steer0_length]; rfl
@[irreducible] def tables : Tab Byte := memPut (memPut [] 0x22000 probes) 0x2A000 steers
def tapMachine : State :=
  { machine (thread0 .trapped ((regs0.set 0 0x22000).set 2 0x2A000)) 0 with mem := mem0 ++ tables }

theorem entry_of {α : Type} (e : List α) : ∀ m n, n < m → (((List.replicate m e).flatten.drop (e.length * n)).take e.length) = e := by
  intro m
  induction m with
  | zero => intro n h; omega
  | succ m ih =>
    intro n h
    rw [List.replicate_succ, List.flatten_cons]
    cases n with
    | zero => simp
    | succ n => rw [Nat.mul_succ, Nat.add_comm, ← List.drop_drop, List.drop_left, ih n (by omega)]

theorem table_bytes (k : Nat) (bs : List Byte) (h : 0x20000 ≤ k)
    (hb : ∀ i, i < bs.length → memByte tables (k + i) = bs.getD i 0) : memBytes tapMachine.mem k bs.length = bs := by
  rw [memBytes_map]
  refine List.ext_getElem (by simp) (fun i h1 h2 => ?_)
  have : memByte tapMachine.mem (k + i) = memByte tables (k + i) := Tab.get_append (fun c hc => by
    have := List.all_eq_true.1 (show mem0.all (fun c => decide (c.1 < 0x20000)) = true by decide) c hc
    have := of_decide_eq_true this
    omega)
  rw [List.getElem_map, List.getElem_range, this, hb i h2, List.getD_eq_getElem _ _ h2]

theorem tables_wf : Memory.wf (memPut ([] : Tab Byte) 0x22000 probes) = true := memPut_wf _ _ rfl

theorem probes_read : memBytes tapMachine.mem 0x22000 (4 * 8192) = probes := by
  rw [← probes_length]
  refine table_bytes 0x22000 probes (by decide) (fun i hi => ?_)
  rw [tables, memByte_memPut _ _ _ tables_wf, if_neg (by rw [probes_length] at hi; omega), memByte_memPut _ _ _ rfl, if_pos (by omega),
    Nat.add_sub_cancel_left]
theorem steers_read : memBytes tapMachine.mem 0x2A000 (4 * 1024) = steers := by
  rw [← steers_length]
  refine table_bytes 0x2A000 steers (by decide) (fun i hi => ?_)
  rw [tables, memByte_memPut _ _ _ tables_wf, if_pos (by omega), Nat.add_sub_cancel_left]
theorem probes_ok : probeTableOk probes = true := List.all_eq_true.2 (fun n hn => by
  have e := entry_of probe0 64 n (by simpa using hn)
  rw [probe0_length] at e
  rw [probes, e]; decide +kernel)
theorem steers_ok : steerTableOk steers = true := List.all_eq_true.2 (fun n hn => by
  have e := entry_of steer0 256 n (by simpa using hn)
  rw [steer0_length] at e
  rw [steers, e]; decide +kernel)

theorem tap_page : Plain (lane0 tapMachine) := plain

theorem run_bind {α β : Type} {l : Lane} {x : Script α} {f : α → Script β} {a : α} (h : l.runScript x = .ok a) :
    l.runScript (x.bind f) = l.runScript (f a) := by rw [Lane.runScript_bind, h]

theorem tap_tables : (lane0 tapMachine).runScript (tapTables ((lane0 tapMachine).pair 0) ((lane0 tapMachine).pair 2)) = .ok (probes, steers) := by
  have page (va : DWord) (h : va.toNat / 65536 = 2) : (lane0 tapMachine).s.pageOf (lane0 tapMachine).who .load va = .ok leaf0 := by
    have hp := tap_page.2
    unfold State.pageOf at hp ⊢
    rw [(lane0 tapMachine).s.leafFor_page _ (b := 0x20000) (by rw [h]; decide)]
    exact hp
  have r1 := Lane.runScript_words (n := 8192) tap_page.1 (page 0x22000 (by decide)) (by decide) (by decide)
  have r2 := Lane.runScript_words (n := 1024) tap_page.1 (page 0x2A000 (by decide)) (by decide) (by decide)
  have k1 : (lane0 tapMachine).s.keyIn leaf0 0x22000 = 0x22000 := by decide +kernel
  have k2 : (lane0 tapMachine).s.keyIn leaf0 0x2A000 = 0x2A000 := by decide +kernel
  have m : (lane0 tapMachine).s.mem = tapMachine.mem := rfl
  have a1 : (lane0 tapMachine).pair 0 = 0x22000 := by decide +kernel
  have a2 : (lane0 tapMachine).pair 2 = 0x2A000 := by decide +kernel
  rw [k1, m, probes_read] at r1
  rw [k2, m, steers_read] at r2
  have e1 : (lane0 tapMachine).runScript (Script.readBytes 0x22000 32768) = .ok probes := r1
  have e2 : (lane0 tapMachine).runScript (Script.readBytes 0x2A000 4096) = .ok steers := r2
  rw [a1, a2]
  refine (run_bind e1).trans ((run_bind e2).trans ?_)
  rw [probes_ok, steers_ok]
  rfl


theorem test_Taps_meets :
    ((user 0).Ready (instrForm (.tap 0 127 1)) [lane0 (user 0)] ∧ (lane0 (user 0)).s.tapGens = []) ∧
    ((tapping [] 64).Ready (instrForm (.tapNorm 0 127 1)) [lane0 (tapping [] 64)] ∧ 64 ≤ ((lane0 (tapping [] 64)).reg 127).toNat) ∧
    (let l := lane0 { tapping [] 63 with teams := (user 0).teams };
      l.s.Ready (instrForm (.tap 2 127 1)) [l] ∧ l.s.tapGens ≠ [] ∧ (l.reg 127).toNat < 64 ∧ (l.pair 2).toNat % 4 ≠ 0) ∧
    (let l := lane0 (tapping [] 63);
      l.s.Ready (instrForm (.tap 0 127 1)) [l] ∧ l.s.Ready (instrForm (.tapNorm 0 127 1)) [l] ∧ NoAcquire [l] ∧ Room 1 [l] ∧
      (l.reg 127).toNat = 63 ∧ (l.pair 0).toNat % 4 = 0 ∧ (l.pair (0 + 2)).toNat % 4 = 0 ∧
      (∃ g, l.s.tapGens = [g] ∧ (g.entry (l.reg 127).toNat).firstPost = none) ∧
      (∃ p, l.s.pageOf l.who .atomic (l.pair 0) = .ok p) ∧ ∃ p, l.s.pageOf l.who .store (l.pair (0 + 2)) = .ok p) ∧
    (let l := lane0 (tapping postEntry 0);
      l.s.Ready (instrForm (.tapNorm 0 127 1)) [l] ∧ ∃ g, l.s.tapGens = [g] ∧ (g.entry (l.reg 127).toNat).firstPost = some 0) ∧
    (let l := lane0 (handler 0); l.s.Ready (tapldForm 2 0) [l] ∧ Priv [l] ∧ l.waitsToRead = false ∧
      l.scriptAway (tapTables (l.pair 2) (l.pair 0)) = false ∧ (l.pair 2).toNat % 512 ≠ 0) ∧
    (let l := lane0 tapMachine; l.s.Ready (tapldForm 0 2) [l] ∧ Priv [l] ∧ l.waitsToRead = false ∧
      l.scriptAway (tapTables (l.pair 0) (l.pair 2)) = false ∧ (l.pair 0).toNat % 512 = 0 ∧
      (l.pair 2).toNat % 16 = 0 ∧ (∀ x ∈ l.pageTraps (l.pair 0) 32768 .load ++ l.pageTraps (l.pair 2) 4096 .load, x = none) ∧
      ∃ r, l.runScript (tapTables (l.pair 0) (l.pair 2)) = .ok r) ∧
    (let l := lane0 (handler 0); l.s.Ready (tapldForm 0 2) [l] ∧ (l.pair 0).toNat % 512 = 0 ∧ (l.pair 2).toNat % 16 ≠ 0) ∧
    (let l := lane0 { handler 0 with poison := List.range' 0x21000 32 };
      l.s.Ready (tapldForm 0 0) [l] ∧ (l.pair 0).toNat % 512 = 0 ∧ l.waitsToRead = false ∧
      (∀ x ∈ l.pageTraps (l.pair 0) 32768 .load ++ l.pageTraps (l.pair 0) 4096 .load, x = none) ∧
      ∃ t, l.runScript (tapTables (l.pair 0) (l.pair 0)) = .error t) ∧
    (let l := lane0 (user 64); l.s.Ready (instrForm (.tapq 0 127)) [l] ∧ 64 ≤ (l.reg 127).toNat) ∧
    (let l := lane0 (user 63); l.s.Ready (instrForm (.tapq 2 127)) [l] ∧ (l.reg 127).toNat < 64 ∧ (l.pair 2).toNat % 16 ≠ 0) ∧
    (let l := lane0 (user 63); l.s.Ready (instrForm (.tapq 0 127)) [l] ∧ l.waitsToRead = false ∧ l.scriptAway l.line1Script = false ∧
      (l.pair 0).toNat % 16 = 0 ∧
      (∃ p, l.s.translate l.who .store (l.pair 0) 16 = .ok p) ∧ ∃ b, l.line1 = .ok b) :=
  ⟨⟨ready_one rfl rfl, rfl⟩, ⟨ready_one rfl rfl, by decide⟩, ⟨ready_one rfl rfl, by simp [tapping, lane0], by decide, by decide⟩,
   ⟨ready_one rfl rfl, ready_one rfl rfl, of_one rfl, .inr (of_one (by decide)), by decide, by decide, by decide, ⟨_, rfl, by decide⟩,
     ok_some (by decide +kernel), ok_some (by decide +kernel)⟩,
   ⟨ready_one rfl rfl, _, rfl, by decide⟩, ⟨ready_one rfl rfl, of_one rfl, rfl, away, by decide⟩,
   ⟨ready_one rfl rfl, of_one rfl, rfl, away, by decide, by decide, by decide +kernel, _, tap_tables⟩,
   ⟨ready_one rfl rfl, by decide, by decide⟩,
   ⟨ready_one rfl rfl, by decide, rfl, by decide +kernel, traps_some (by decide +kernel)⟩,
   ⟨ready_one rfl rfl, by decide⟩, ⟨ready_one rfl rfl, by decide, by decide⟩,
   ⟨ready_one rfl rfl, rfl, away, by decide, ok_some (by decide +kernel), ok_some (by decide +kernel)⟩⟩


/-- A walker context at the first of two words, its arrays of one element each. -/
def walker0 : Walker where
  ctx := 0
  last := 0
  team := 0
  thr := 0
  op := 1
  fn := 0
  priv := false
  core := 0
  obj := none
  nanTrap := false
  regs := [0, 1, 0x21000, 0x21001] ++ List.replicate 12 0
  wpc := 0
  row0 := 0
  k0 := 0
  prog := [0, 0]
  tk := 32
  vfmt := 1
  iw := 2
  pw := 4
  nnz := 1
  np := 0
  val := 0x21000
  idx := 0x30000000
  ptr := 0x21000
  tile := []
  buf := false
  busy := []
  posted := []
  counted := 0
  causes := []
  halted := false
  stopped := none

/-- The machine with that context, and with a descriptor of its tile. -/
def walking (bs : List Byte) : State := { withMem (user 0) 0x21000 bs with walkers := [walker0] }
def tileBlock : List Byte :=
  leBytes 4 (1 * 2 ^ 24) ++ leBytes 4 0 ++ leBytes 4 1 ++ leBytes 4 32 ++ leBytes 8 0x40000000 ++ leBytes 4 1024 ++
    List.replicate 16 0 ++ leBytes 4 0x80000000 ++ List.replicate 16 0

theorem test_WalkerWords_meets :
    (walking []).Walks walker0 ∧
    (∀ i ∈ [Instr.addw 3 1 2 0x7FFF, .subw 0 1 2 0, .cmpw 1 0 0, .bltw 0 1 1, .bnew 0 0 0x7FFF, .loop 1 0x4000, .skip 1 1, .sett 2 2,
      .emit 0 1 2], (walkEffect walker0 i).isSome = true) ∧
    (∃ g, walkerLoad walker0 (.ldx 1 1 0) = some g ∧ g.limit ≤ g.index) ∧
    (∃ g, walkerLoad walker0 (.ldp 1 0 0) = some g ∧ g.index < g.limit ∧ (walking []).placesAway walker0.who .load g.addr g.size = false ∧
      ∃ x, (walking []).walkRead walker0 g.addr g.size = .ok x) ∧
    (∃ g, walkerLoad walker0 (.ldval 15 1 0x7FFF) = some g ∧ g.index < g.limit ∧ (walking []).placesAway walker0.who .load g.addr g.size = false ∧
      ∃ x, (walking []).walkRead walker0 g.addr g.size = .ok x) ∧
    (∃ g, walkerLoad { walker0 with val := 0x10000000 } (.ldval 15 1 0x7FFF) = some g ∧ g.index < g.limit ∧
      (linksDown (walking [])).placesAway walker0.who .load g.addr g.size = true) ∧
    ∃ g, walkerLoad walker0 (.ldx 0 0 0) = some g ∧ g.index < g.limit ∧ (walking []).placesAway walker0.who .load g.addr g.size = false ∧
      ∃ e, (walking []).walkRead walker0 g.addr g.size = .error e :=
  ⟨⟨rfl, rfl⟩, by decide, ⟨_, rfl, by decide⟩, ⟨_, rfl, by decide, places, ok_some (by decide +kernel)⟩,
   ⟨_, rfl, by decide, places, ok_some (by decide +kernel)⟩, ⟨_, rfl, by decide, by decide +kernel⟩, ⟨_, rfl, by decide, places, traps_some (by decide +kernel)⟩⟩

/-- A walker descriptor of one word, its header at 0x22000 and its program at 0x23000; and the header, of one row and column. -/
def spokeBlock : List Byte := leBytes 8 0x22000 ++ leBytes 8 0x23000 ++ leBytes 4 1 ++ leBytes 4 32 ++ List.replicate 40 0
def headerBlock : List Byte := leBytes 32 (2 ^ 251 + 2 ^ 184 + 2 ^ 156)
def spoking : State := withMem (given spokeBlock 0) 0x22000 headerBlock

theorem spoke_plan : ∃ p, (alone0 spoking).walkPlan ((alone0 spoking).pair 0) = .ok p := by
  have h1 : (alone0 spoking).runScript (Script.read ((alone0 spoking).pair 0) 64) = .ok spokeBlock := brief_eq plain (by decide +kernel)
  have h2 : (alone0 spoking).runScript (Script.read (addrAt spokeBlock 0) 32) = .ok headerBlock := brief_eq plain (by decide +kernel)
  have h3 : (alone0 spoking).runScript (Script.readBytes (addrAt spokeBlock 8) (4 * wordBits spokeBlock 16 8 0)) = .ok [0, 0, 0, 0] :=
    brief_eq plain (by decide +kernel)
  refine ok_some ?_
  simp only [Lane.walkPlan, Lane.block, h1, h2, h3]
  decide +kernel

theorem test_Walks_meets :
    (let l := alone0 (user 1); (user 1).Alone (instrForm (.spoke 0 127 1)) l ∧ l.waitsToRead = false ∧
      ∃ t, l.barrierWord (l.reg 127) = .error t) ∧
    (let l := alone0 (user 0); (user 0).Alone (instrForm (.spoke 2 127 1)) l ∧ l.barrierWord (l.reg 127) = .ok (some 0) ∧
      ∃ t, l.walkPlan (l.pair 2) = .error t) ∧
    (let l := alone0 spoking; spoking.Alone (instrForm (.spoke 0 127 1)) l ∧ l.waitsToRead = false ∧ l.walkAway (l.pair 0) = false ∧ l.barrierWord (l.reg 127) = .ok (some 0) ∧
      (∃ c, l.s.freeContext (l.tm.core / 4) = some c) ∧ Room 1 [l] ∧ ∃ p, l.walkPlan (l.pair 0) = .ok p) ∧
    ((∃ l, (walking tileBlock).walkLane walker0 = some l) ∧ (walking tileBlock).Walks walker0 ∧ (walker0.reg 3).toNat % 64 ≠ 0 ∧
      (walker0.reg 2).toNat % 64 = 0 ∧
      (walking tileBlock).placesAway walker0.who .load (walker0.reg 2) 64 = false ∧ (walking tileBlock).tableFull (walker0.core / 4) = false ∧ walker0.wpc + 1 < walker0.prog.length) ∧
    (∃ ks bs, (walking tileBlock).walkRead walker0 (walker0.reg 2) 64 = .ok (ks, bs) ∧
      firstTrap ((lane0 (walking tileBlock)).descTraps bs false true ++ walker0.tileTraps (MxDesc.ofBytes bs)) = none) ∧
    ∃ ks bs, (walking []).walkRead walker0 (walker0.reg 2) 64 = .ok (ks, bs) ∧
      ∃ t, firstTrap ((lane0 (walking [])).descTraps bs false true ++ walker0.tileTraps (MxDesc.ofBytes bs)) = some t := by
  refine ⟨⟨alone_one rfl rfl rfl rfl rfl, rfl, traps_some (by decide +kernel)⟩, ⟨alone_one rfl rfl rfl rfl rfl, rfl, traps_some (by decide +kernel)⟩,
    ⟨alone_one rfl rfl rfl rfl rfl, rfl, away, rfl, ⟨0, by decide +kernel⟩, .inr (of_one (by decide)), spoke_plan⟩,
    ⟨⟨_, rfl⟩, ⟨rfl, rfl⟩, by decide, by decide, places, by decide, by decide⟩, ?_, ?_⟩
  · obtain ⟨⟨ks, bs⟩, h1, h2⟩ := ok_with (x := (walking tileBlock).walkRead walker0 (walker0.reg 2) 64)
      (p := fun x => (firstTrap ((lane0 (walking tileBlock)).descTraps x.2 false true ++ walker0.tileTraps (MxDesc.ofBytes x.2))).isNone)
      (by decide +kernel)
    exact ⟨ks, bs, h1, Option.isNone_iff_eq_none.1 h2⟩
  · obtain ⟨⟨ks, bs⟩, h1, h2⟩ := ok_with (x := (walking []).walkRead walker0 (walker0.reg 2) 64)
      (p := fun x => (firstTrap ((lane0 (walking [])).descTraps x.2 false true ++ walker0.tileTraps (MxDesc.ofBytes x.2))).isSome)
      (by decide +kernel)
    exact ⟨ks, bs, h1, Option.isSome_iff_exists.1 h2⟩

/-! ## The system instructions and the cores' own steps -/

theorem test_SpecialRegisters_meets :
    ((user 0).Ready (instrForm (.gets 31 7)) [lane0 (user 0)] ∧ (user 0).Ready (instrForm (.gets 30 14)) [lane0 (user 0)] ∧
      (handler 0).Ready (instrForm (.gets 31 17)) [lane0 (handler 0)] ∧ Priv [lane0 (handler 0)]) ∧
    (∀ p ∈ (lane0 (user 0)).s.sregs, p.team = (lane0 (user 0)).s.cur.team → p.thr ≠ (lane0 (user 0)).th.idx) ∧
    (let p : SregPend := { issued := 0, lands := 8, reg := 3, team := 0, thr := 0, value := 128 };
      let l := lane0 { user 0 with sregs := [p] };
      l.s.teams[l.s.cur.team]? = some l.tm ∧ l.s.sregs = [] ++ [p] ∧ p.team = l.s.cur.team ∧ p.thr = l.th.idx) ∧
    ((handler 0).Ready (instrForm (.sets 127 9)) [lane0 (handler 0)] ∧ ReadOnly 9) ∧
    ((user 256).Ready (instrForm (.sets 127 2)) [lane0 (user 256)] ∧ ¬ReadOnly 2 ∧
      ¬RegisterTakes 2 (((lane0 (user 256)).reg 127).zeroExtend 64)) ∧
    ((user 255).Ready (instrForm (.sets 127 2)) [lane0 (user 255)] ∧ RegisterTakes 2 (((lane0 (user 255)).reg 127).zeroExtend 64)) ∧
    ((handler 0).Ready (instrForm (.sets 2 12)) [lane0 (handler 0)] ∧ ¬RegisterTakes 12 ((lane0 (handler 0)).pair 2) ∧
      (handler 0).Ready (instrForm (.sets 4 13)) [lane0 (handler 0)] ∧ RegisterTakes 13 ((lane0 (handler 0)).pair 4)) ∧
    ∀ p ∈ (user 0).sregs, (user 0).sregSame p 0 0 0 = false :=
  ⟨⟨ready_one rfl rfl, ready_one rfl rfl, ready_one rfl rfl, of_one rfl⟩, (fun p h => by cases h), ⟨rfl, rfl, rfl, rfl⟩,
   ⟨ready_one rfl rfl, by unfold ReadOnly; decide⟩,
   ⟨ready_one rfl rfl, by unfold ReadOnly; decide, by unfold RegisterTakes; decide⟩, ⟨ready_one rfl rfl, by unfold RegisterTakes; decide⟩,
   ⟨ready_one rfl rfl, by unfold RegisterTakes; decide, ready_one rfl rfl, by unfold RegisterTakes; decide⟩, fun p h => by cases h⟩

/-- A privileged thread whose pair v0 holds an address that is not canonical. -/
def farAway (w : Word) : State := machine (thread0 .trapped (regs0.set 1 0x80000)) w

theorem test_SystemInstructions_meets :
    ((handler 0).Ready (instrForm .snap) [lane0 (handler 0)] ∧ (handler 0).Ready (instrForm .halt) [lane0 (handler 0)] ∧ Priv [lane0 (handler 0)]) ∧
    (∀ w ∈ [64#32, 48#32, 8#32, 6#32], (user w).Ready (pairWordForm 0 127) [lane0 (user w)] ∧
      ¬(((lane0 (user w)).reg 127).toNat / 64 = 0 ∧ fieldOf' ((lane0 (user w)).reg 127) 4 2 ≠ 3 ∧ fieldOf' ((lane0 (user w)).reg 127) 3 1 = 0 ∧
        fieldOf' ((lane0 (user w)).reg 127) 0 3 ≤ 5)) ∧
    ((farAway 5).Ready (pairWordForm 0 127) [lane0 (farAway 5)] ∧ Priv [lane0 (farAway 5)] ∧
      canonical ((lane0 (farAway 5)).pair 0) = false ∧ fieldOf' ((lane0 (farAway 5)).reg 127) 4 2 = 0) ∧
    ((handler 37).Ready (pairWordForm 0 127) [lane0 (handler 37)] ∧ ((lane0 (handler 37)).reg 127).toNat / 64 = 0 ∧
      fieldOf' ((lane0 (handler 37)).reg 127) 4 2 = 2 ∧ fieldOf' ((lane0 (handler 37)).reg 127) 3 1 = 0 ∧
      fieldOf' ((lane0 (handler 37)).reg 127) 0 3 = 5) ∧
    (∃ g, (user 0).grids[0]? = some g ∧ g.ended = false ∧ g.parent = 0 ∧ g.teams = [0] ∧ ∃ tm, (user 0).teams[0]? = some tm) ∧
    (let s : State := { user 0 with
        teams := (user 0).teams ++ (user 0).teams
        grids := (user 0).grids ++ (user 0).grids.map (fun g => { g with teams := [1], ended := true }) };
      (∃ g, s.grids[1]? = some g ∧ g.ended = true) ∧ ∃ g, s.grids[0]? = some g ∧ g.ended = false ∧ 1 ∉ g.teams ∧
        (∀ p ∈ s.saves, p.team = 1 → ∀ x ∈ p.teams, x ∉ g.teams) ∧ ∃ tm, s.teams[1]? = some tm) := by
  refine ⟨⟨ready_one rfl rfl, ready_one rfl rfl, of_one rfl⟩, fun w hw => ?_,
    ⟨ready_one rfl rfl, of_one rfl, by decide, by decide⟩, ⟨ready_one rfl rfl, by decide, by decide, by decide, by decide⟩,
    ⟨_, rfl, rfl, rfl, rfl, _, rfl⟩, ⟨_, rfl, rfl⟩, _, rfl, rfl, by decide, (fun p h => by cases h), _, rfl⟩
  simp only [List.mem_cons, List.not_mem_nil, or_false] at hw
  rcases hw with rfl | rfl | rfl | rfl <;> exact ⟨ready_one rfl rfl, by decide⟩

/-- An area of 65536 bytes at 0x20000 of one team, of number 7; and a context's body without a team. -/
def areaMem : List (Nat × Byte) := mem0 ++ [(0x20002, 1), (0x20008, 1), (0x20010, 7)]
def body0 : CtxBody := { top := 0, teams := [], joins := [], ops := [], walkers := [], calls := [] }

/-- A privileged thread with v0 at 0x20000, and another team of one thread without registers on core 5, slot 2, its area there. -/
def contexts (st : TeamStatus) (w : Word) : State :=
  { machine (thread0 .trapped (regs0.set 0 0x20000)) w with
    teams := [team0 (thread0 .trapped (regs0.set 0 0x20000)),
      { team0 (thread0 .active []) with
        hubset := 1, core := 5, slot := 2, status := st, roles := [{ count := 1, regs := 0 }], spadBytes := 0, groups := [] }]
    hubsets := [{ hub := 0, teams := [0], joins := [Join.idle] }, { hub := 1, teams := [1], joins := [] }]
    mem := areaMem, contexts := [{ area := memBytes areaMem 0x20000 (4 * 16384), teams := [1], fate := .waiting, body := body0 }] }
def saving : State := contexts .resident 0x50002
def loading : State := contexts .saved 0x50000

theorem area_keys {l : Lane} {a : DWord} {n : Nat} {kind : Access} (h : l.s.Calm) (hp : l.s.pageOf l.who kind a = .ok leaf0)
    (hs : kind = .load ∨ (l.s.space l.who.fn).sqlen = 0) (hn : a.toNat % 65536 + n ≤ 65536) :
    l.areaKeys a n kind = .ok ((List.range n).map (l.s.keyIn leaf0 a + ·)) := by
  unfold Lane.areaKeys
  rw [h.keysOf hp (by decide) hs n hn]

/-- A page that evaluates to a leaf. -/
theorem page_eq {l : Lane} {kind : Access} {a : DWord}
    (h : (match l.s.pageOf l.who kind a with | .ok x => decide (x = leaf0) | .error _ => false) = true) :
    l.s.pageOf l.who kind a = .ok leaf0 := by
  split at h
  · next x hx => rw [hx, of_decide_eq_true h]
  · cases h

theorem save_of {l : Lane} {a : DWord} {b : Word} {ks keys : List Nat} (hv : l.privileged = true) (ht : l.saveTargets b = .ok ks)
    (ha : a.toNat % 4096 = 0) (hf : l.areaFault .store a (l.s.areaSize ks) = none) (hk : l.areaKeys a (l.s.areaSize ks) .store = .ok keys) :
    l.savePlan a b = .ok { id := 0, team := l.s.cur.team, thr := l.th.idx, keys := keys, teams := ks } := by
  unfold Lane.savePlan
  simp [hv, ht, ha, hf, hk, Bind.bind, Except.bind]

theorem load_of {l : Lane} {a : DWord} {b : Word} {core : Nat} {ks count : List Nat} {head bs : List Byte} {w : List (Nat × Nat)}
    (hv : l.privileged = true) (hb : l.s.physCore (bits b.toNat 31 16) = some core) (ha : a.toNat % 4096 = 0)
    (h1 : l.areaKeys (a + 8) 8 .store = .ok count) (h2 : l.runScript (Script.read a 24) = .ok head) (h3 : fieldAt head 8 8 ≠ 0)
    (h4 : l.areaFault .load a (fieldAt head 0 8) = none)
    (h5 : l.runScript (Script.readBytes a (fieldAt head 0 8)) = .ok bs) (h6 : l.s.sourceOf l.tm.fn bs = some (.live ks))
    (h7 : l.s.headerOk bs ks = true) (hw : l.s.pickWay (l.s.restoreWays ks (hubOf core)) = some w) :
    ∃ p, l.loadPlan a b = .ok p ∧ p.source = .live ks ∧ p.count = count := by
  unfold Lane.loadPlan
  simp only [hv, hb, Bool.not_true, Bool.false_eq_true, if_false, ha, ne_eq, not_true_eq_false, Bind.bind, Except.bind, h1, h2, h3, h4,
    h5, h6, State.bring, h7, hw]
  exact ⟨_, rfl, rfl, rfl⟩

theorem save_plan : ∃ keys, (lane0 saving).savePlan ((lane0 saving).pair 0) ((lane0 saving).reg 127) =
    .ok { id := 0, team := 0, thr := 0, keys := keys, teams := [1] } := by
  obtain ⟨keys, hk⟩ : ∃ keys, (lane0 saving).areaKeys 0x20000 65536 .store = .ok keys :=
    ⟨_, area_keys ⟨rfl, rfl, rfl, rfl, rfl⟩ (page_eq (by decide +kernel)) (.inr rfl) (by decide)⟩
  have ht : (lane0 saving).saveTargets ((lane0 saving).reg 127) = .ok [1] := by
    obtain ⟨ks, h1, h2⟩ := ok_with (x := (lane0 saving).saveTargets ((lane0 saving).reg 127)) (p := fun ks => decide (ks = [1])) (by decide +kernel)
    rw [h1, of_decide_eq_true h2]
  have ha : (lane0 saving).pair 0 = 0x20000 := by decide +kernel
  have hn : (lane0 saving).s.areaSize [1] = 65536 := by decide +kernel
  rw [← ha, ← hn] at hk
  exact ⟨keys, save_of rfl ht (by rw [ha]; decide) (by decide +kernel) hk⟩

theorem pick_way {s : State} {ws : List (List (Nat × Nat))} (h : ws ≠ []) : ∃ w, s.pickWay ws = some w := by
  unfold State.pickWay
  have : 0 < ws.length := List.length_pos_iff.2 h
  have hlt : s.draw 64 8 % max 1 ws.length < ws.length := by
    have := Nat.mod_lt (s.draw 64 8) (show 0 < max 1 ws.length by omega)
    omega
  exact ⟨ws[s.draw 64 8 % max 1 ws.length], List.getElem?_eq_getElem hlt⟩

theorem source_of {s : State} {fn : Nat} {bs : List Byte} {c : Context} (h : s.contexts = [c]) (hb : c.area = bs) (hf : c.fate = .waiting) :
    s.sourceOf fn bs = some (.live c.teams) := by simp [State.sourceOf, h, hb, hf]

/-- The header of that area: its size, one team, and its number. -/
def header0 : List Byte := leBytes 8 65536 ++ leBytes 8 1 ++ leBytes 8 7

theorem load_plan : ∃ p, (lane0 loading).loadPlan ((lane0 loading).pair 0) ((lane0 loading).reg 127) = .ok p ∧
    p.source = .live [1] ∧ ∃ x, p.count = [x] ++ p.count.drop 1 ∧ loading.byte x ≠ 0 := by
  have hc : (lane0 loading).s.Calm := ⟨rfl, rfl, rfl, rfl, rfl⟩
  have hl : (lane0 loading).s.pageOf (lane0 loading).who .load 0x20000 = .ok leaf0 := page_eq (by decide +kernel)
  have hw : (lane0 loading).s.pageOf (lane0 loading).who .store (0x20000 + 8) = .ok leaf0 := page_eq (by decide +kernel)
  have k2 : (lane0 loading).areaKeys (0x20000 + 8) 8 .store =
      .ok ((List.range 8).map ((lane0 loading).s.keyIn leaf0 (0x20000 + 8) + ·)) := area_keys hc hw (.inr rfl) (by decide)
  have h2 : (lane0 loading).runScript (Script.read 0x20000 24) = .ok header0 := brief_eq plain (by decide +kernel)
  have ha : (lane0 loading).pair 0 = 0x20000 := by decide +kernel
  have hn : (lane0 loading).s.areaSize [1] = 65536 := by decide +kernel
  have hb : (lane0 loading).s.physCore (bits ((lane0 loading).reg 127).toNat 31 16) = some 5 := by decide +kernel
  have hk : (lane0 loading).s.keyIn leaf0 0x20000 = 0x20000 := by decide +kernel
  have r := Lane.runScript_words (n := 16384) hc hl (by decide) (by decide)
  rw [hk] at r
  have h0 : fieldAt header0 0 8 = 4 * 16384 := by decide
  have h8 : fieldAt header0 8 8 = 1 := by decide
  have hf : (lane0 loading).s.contexts =
      [{ area := memBytes areaMem 0x20000 (4 * 16384), teams := [1], fate := .waiting, body := body0 }] := rfl
  have hm : (lane0 loading).s.mem = areaMem := rfl
  have hd : (lane0 loading).s.headerOk (memBytes (lane0 loading).s.mem 0x20000 (4 * 16384)) [1] = true := by decide +kernel
  obtain ⟨w, hw'⟩ := pick_way (s := (lane0 loading).s) (ws := (lane0 loading).s.restoreWays [1] (hubOf 5)) (by decide +kernel)
  rw [ha]
  obtain ⟨p, hp, hs, hk'⟩ := load_of (head := header0) rfl hb (by decide) k2 h2 (by rw [h8]; decide) (by rw [h0]; decide +kernel)
    (by rw [h0]; exact r) (source_of hf (congrArg (fun m => memBytes m 0x20000 (4 * 16384)) hm.symm) rfl) hd hw'
  refine ⟨p, hp, hs, 0x20008, ?_, by decide +kernel⟩
  have hk8 : (lane0 loading).s.keyIn leaf0 (0x20000 + 8) = 0x20008 := by decide +kernel
  rw [hk', hk8]
  rfl

/-- A save of that team whose area has its header's 24 bytes and more. -/
theorem test_Contexts_meets :
    (let l := lane0 saving; saving.Ready (pairWordForm 0 127) [l] ∧ Priv [l] ∧ ∃ p, l.savePlan (l.pair 0) (l.reg 127) = .ok p) ∧
    (let l := lane0 (handler 0x20); (handler 0x20).Ready (pairWordForm 0 127) [l] ∧ Priv [l] ∧
      l.s.physCore (fieldOf' (l.reg 127) 16 16) = some 0 ∧ l.s.teamIn 0 (fieldOf' (l.reg 127) 0 5) = some 0 ∧
      ∃ t, l.s.teams[0]? = some t ∧ t.hubset = l.tm.hubset) ∧
    (let l := lane0 (handler 0xFFFF0000); (handler 0xFFFF0000).Ready (pairWordForm 0 127) [l] ∧
      l.s.physCore (fieldOf' (l.reg 127) 16 16) = none) ∧
    (let l := lane0 (handler 0xBF0001); l.s.physCore (fieldOf' (l.reg 127) 16 16) = some 191 ∧ l.s.teamIn 191 (fieldOf' (l.reg 127) 0 5) = none) ∧
    (let l := lane0 saving; saving.Ready (pairWordForm 12 127) [l] ∧ (∃ ks, l.saveTargets (l.reg 127) = .ok ks) ∧ (l.pair 12).toNat % 4096 ≠ 0 ∧
      l.s.physCore (fieldOf' (l.reg 127) 16 16) ≠ none) ∧
    (let l := lane0 loading; loading.Ready (pairWordForm 0 127) [l] ∧ Priv [l] ∧ l.loadHeld (l.pair 0) = false ∧
      ∃ p, l.loadPlan (l.pair 0) (l.reg 127) = .ok p ∧ p.source = .live [1] ∧ l.s.blocksAway [1] = false ∧
        ∃ x ∈ p.count, loading.byte x ≠ 0) ∧
    (let p : Save := { id := 0, team := 0, thr := 0, keys := List.range' 0x20000 65536, teams := [1] };
      let s := contexts (.stopped false) 0;
      s.drained p.teams = true ∧ s.quiet p.team p.thr = true ∧ s.unacked = [] ∧ Memory.wf s.mem = true ∧ p.keys.Nodup ∧
      (∀ x ∈ p.keys, s.hostAway x = false) ∧ p.keys.length = s.areaSize p.teams ∧ 24 ≤ p.keys.length ∧ 1 ∈ p.teams ∧ (1 : Nat) ≠ p.team ∧
      ∃ tm, s.teams[1]? = some tm ∧ tm.status = .stopped false) ∧
    (team0 (thread0 .active regs0)).status = .resident ∧
    (let s := contexts .saved 0x50000;
      let p (core : Nat) : LoadPlan := { team := 0, thr := 0, source := .live [1], area := (memBytes areaMem 0x20000 (4 * 16384)).drop 16
                                         count := [0x20008], keys := [], cores := [core], hub := 1 };
      Memory.wf s.mem = true ∧ (s.bring (p 5).source).1.restoreFits ((s.bring (p 5).source).2.zip (p 5).cores) 1 = true ∧
      s.byte 0x20008 ≠ 0 ∧ (∃ c ∈ s.contexts, c.area.drop 16 = (p 5).area) ∧
      (s.bring (p 192).source).1.restoreFits ((s.bring (p 192).source).2.zip (p 192).cores) 1 = false) := by
  refine ⟨⟨ready_one rfl rfl, of_one rfl, ?_⟩, ⟨ready_one rfl rfl, of_one rfl, by decide +kernel, by decide +kernel, _, rfl, rfl⟩,
    ⟨ready_one rfl rfl, by decide +kernel⟩, ⟨by decide +kernel, by decide +kernel⟩,
    ⟨ready_one rfl rfl, ok_some (by decide +kernel), by decide, by decide +kernel⟩, ⟨ready_one rfl rfl, of_one rfl, by decide +kernel, ?_⟩,
    ⟨by decide +kernel, by decide +kernel, rfl, by decide +kernel, List.nodup_range', ?_, ?_, ?_, by decide, by decide, _, rfl, rfl⟩, rfl,
    ⟨by decide +kernel, by decide +kernel, by decide +kernel, ⟨_, List.mem_singleton.2 rfl, rfl⟩, by decide +kernel⟩⟩
  · exact save_plan.elim (fun _ h => ⟨_, h⟩)
  · obtain ⟨p, h1, h2, x, h3, h4⟩ := load_plan
    exact ⟨p, h1, h2, rfl, x, by rw [h3]; simp, h4⟩
  · intro x _
    simp only [State.hostAway, show (contexts (.stopped false) 0).hostLink.isNone = false from by decide +kernel, Bool.and_false]
  · rw [List.length_range']
    exact (by decide +kernel : 65536 = (contexts (.stopped false) 0).areaSize [1])
  · rw [List.length_range']; decide

/-- A device queue 0 at an address, of 16 slots, with some tail; and its thread. -/
def queued (base : DWord) (tail : Nat) (w : Word) : State :=
  { busyFlag w with queues := [{ Queue.idle 16 with base := base, en := true, log2 := 4, tail := BitVec.ofNat 64 tail }] }

/-- A packet that its reads admit. -/
theorem posted {l : Lane} {a : DWord} (h : Plain l) (hm : a.toNat % 64 = 0) (e : briefly l (Script.read a 64) (fun _ => true) = true) :
    ∃ bs, l.postedPacket a = .ok bs := by
  obtain ⟨bs, hb, -⟩ := brief_ok h e
  exact ⟨bs, by simp only [Lane.postedPacket, Lane.block, hm, ne_eq, not_true_eq_false, if_false, hb]⟩
theorem on_device {ε : Type} {s : State} {x : Except ε (Nat × Leaf)} (h : okWith x (fun _ => true) = true)
    (hl : s.hostLink.isNone = false := by rfl) : ∃ y, x = .ok y ∧ s.hostAway y.1 = false :=
  (ok_some h).imp (fun _ e => ⟨e, off_host hl⟩)

theorem test_QueuePosts_meets :
    (let l := alone0 (user 64); (user 64).Alone (instrForm (.qpost 31 0 127 1)) l ∧ l.quiet = true ∧ l.unacked = false ∧
      l.scriptAway (Script.read (l.pair 0) 64) = false ∧ 64 ≤ (l.reg 127).toNat) ∧
    (let l := alone0 (user 63); (user 63).Alone (instrForm (.qpost 31 2 127 1)) l ∧ (l.reg 127).toNat < 64 ∧ ∃ t, l.postedPacket (l.pair 2) = .error t) ∧
    (let l := alone0 (busyFlag 63); (busyFlag 63).Alone (instrForm (.qpost 31 0 127 1)) l ∧ Room 1 [l] ∧
      (l.s.queue (l.tm.fn * 128 + 16 + (l.reg 127).toNat)).en = false) ∧
    (let l := alone0 (queued 0x22000 16 0); l.s.queue (l.tm.fn * 128 + 16 + (l.reg 127).toNat) = l.s.queue 16 ∧ (l.s.queue 16).en = true ∧
      (l.s.queue 16).head.toNat + 2 ^ (l.s.queue 16).log2 ≤ (l.s.queue 16).tail.toNat) ∧
    (let s := queued 0x22000 15 0; let l := alone0 s; s.Alone (instrForm (.qpost 31 0 127 1)) l ∧ l.quiet = true ∧ l.unacked = false ∧
      l.scriptAway (Script.read (l.pair 0) 64) = false ∧ Room 1 [l] ∧ (l.s.queue 16).tail.toNat < (l.s.queue 16).head.toNat + 2 ^ (l.s.queue 16).log2 ∧
      (∃ bs, l.postedPacket (l.pair 0) = .ok bs) ∧
      l.s.seqProtected l.tm.fn 0x223C0 64 = false ∧ ∃ x, l.s.translate (deviceWho l.tm.fn) .store 0x223C0 64 = .ok x ∧ l.s.hostAway x.1 = false) ∧
    (let s := { queued 0x22000 0 0 with spaces := List.replicate 17 { ASpace.reset with ptroot := 0, ssb := 0x1000000, sqbase := 0x22000, sqlen := 512 } };
      let l := alone0 s; s.Alone (instrForm (.qpost 31 0 127 1)) l ∧ l.th.st ≠ .trapped ∧ l.s.seqProtected l.tm.fn 0x22000 64 = true ∧
      (l.s.queue 16).tail.toNat < (l.s.queue 16).head.toNat + 2 ^ (l.s.queue 16).log2 ∧
      (∃ bs, l.postedPacket (l.pair 0) = .ok bs) ∧ ∃ p, l.s.translate (deviceWho l.tm.fn) .store 0x22000 64 = .ok p) ∧
    (let l := alone0 (queued 0x30000000 15 0); ∃ c, l.s.translate (deviceWho l.tm.fn) .store 0x300003C0 64 = .error c) ∧
    (let l := alone0 (user 4096); (user 4096).Alone (launchForm 31 127 1) l ∧ l.quiet = true ∧ ∃ t, l.launchPacket (l.reg 127) = .error t) ∧
    (let s := busyFlag 4032; let l := alone0 s; s.Alone (launchForm 31 127 1) l ∧ l.quiet = true ∧ l.s.launchesOn l.tm.core < 16 ∧ Room 1 [l] ∧
      ∃ bs, l.launchPacket (l.reg 127) = .ok (some bs)) := by
  refine ⟨⟨alone_one rfl rfl rfl rfl rfl, rfl, rfl, away, by decide⟩, ⟨alone_one rfl rfl rfl rfl rfl, by decide, traps_some (by decide +kernel)⟩,
    ⟨alone_one rfl rfl rfl rfl rfl, .inr (of_one (by decide)), rfl⟩, ⟨rfl, rfl, by decide⟩,
    ⟨alone_one rfl rfl rfl rfl rfl, rfl, rfl, away, .inr (of_one (by decide)), by decide, posted plain (by decide) (by decide +kernel),
      by decide, on_device (by decide +kernel)⟩,
    ⟨alone_one rfl rfl rfl rfl rfl, by decide, by decide, by decide, posted plain (by decide) (by decide +kernel), ok_some (by decide +kernel)⟩,
    traps_some (by decide +kernel), ⟨alone_one rfl rfl rfl rfl rfl, rfl, traps_some (by decide +kernel)⟩,
    ⟨alone_one rfl rfl rfl rfl rfl, rfl, by decide, .inr (of_one (by decide)), ?_⟩⟩
  · obtain ⟨o, h1, h2⟩ := ok_with (x := (alone0 (busyFlag 4032)).launchPacket ((alone0 (busyFlag 4032)).reg 127)) (p := Option.isSome) (by decide +kernel)
    obtain ⟨bs, rfl⟩ := Option.isSome_iff_exists.1 h2
    exact ⟨bs, h1⟩

/-- A thread before its bundle's entry at some place, and one before a wait on flag 1 with or without a cause held there. -/
def entering (pc : DWord) (bs : List Byte) : State := withMem (userWith (fun th => { th with sword := none, pc := pc, waited := false }) 0) 0x100 bs
def waiting (held : List Deferred) : State :=
  userWith (fun th => { th with sword := some (BitVec.ofNat 32 (2 ^ 18 + 2 ^ 20)), waited := false, held := held }) 0

theorem trapped_by {α : Type} {x : Except Trap α} {p : Cause → Prop} [DecidablePred p]
    (h : (match x with | .error t => decide (p t.cause) | .ok _ => false) = true) : ∃ t, x = .error t ∧ p t.cause := by
  cases x with
  | ok a => cases h
  | error t => exact ⟨t, rfl, of_decide_eq_true h⟩

theorem test_BundleEntryAndWaits_meets :
    (∃ t gr, (entering 0x104 []).groupAt 0 0 = some (t, gr) ∧ t.needsEntry (entering 0x104 []).now gr = true) ∧
    ({ entering 0x104 [] with issued := [(3, 0)] } : State).hubIssued 0 = true ∧
    (∃ t gr, (waiting []).groupAt 0 0 = some (t, gr) ∧ t.waitReady (waiting []).now gr = true) ∧
    (let s : State := { entering 0x104 [] with poison := [0x100] };
      ∃ tm th, s.teams[0]? = some tm ∧ s.thread? 0 0 = some th ∧ th.sword = none ∧
        ∃ t, s.fetchWord tm th (bundleOf th.pc) = .error t ∧ t.cause = .mchk) ∧
    (∃ tm th, (entering 0x10C [32]).teams[0]? = some tm ∧ (entering 0x10C [32]).thread? 0 0 = some th ∧ th.sword = none ∧
      ∃ r, (entering 0x10C [32]).fetchWord tm th (bundleOf th.pc) = .ok r ∧ r.1 = 32 ∧ bundleOf (firstSlot 32 th.pc) ≠ bundleOf th.pc) ∧
    (∃ tm th, (entering 0x30000104 []).teams[0]? = some tm ∧ (entering 0x30000104 []).thread? 0 0 = some th ∧ th.sword = none ∧
      ∃ t, (entering 0x30000104 []).fetchWord tm th (bundleOf th.pc) = .error t ∧ t.cause ≠ .mchk) ∧
    (∃ tm th, (entering 0x104 [1]).teams[0]? = some tm ∧ (entering 0x104 [1]).thread? 0 0 = some th ∧ th.sword = none ∧
      ∃ r, (entering 0x104 [1]).fetchWord tm th (bundleOf th.pc) = .ok r ∧ fieldOf' r.1 0 3 = 1) ∧
    (∃ tm th, (entering 0x104 []).teams[0]? = some tm ∧ (entering 0x104 []).thread? 0 0 = some th ∧ th.sword = none ∧
      ∃ r, (entering 0x104 []).fetchWord tm th (bundleOf th.pc) = .ok r ∧ r.1 = 0 ∧ bundleOf (firstSlot 0 th.pc) = bundleOf th.pc) ∧
    (∃ th, (waiting []).thread? 0 0 = some th ∧ th.waitDue = true ∧ th.firstHeld (waitFlags (th.sword.getD 0)) = none) ∧
    (let d : Deferred := { flag := 1, order := 3, trap := .of .mchk };
      ∃ th, (waiting [d]).thread? 0 0 = some th ∧ th.waitDue = true ∧ th.firstHeld (waitFlags (th.sword.getD 0)) = some d) := by
  refine ⟨⟨_, _, rfl, by decide⟩, by decide, ⟨_, _, rfl, by decide⟩, ⟨_, _, rfl, rfl, rfl, ?_⟩,
    ⟨_, _, rfl, rfl, rfl, ?_⟩, ⟨_, _, rfl, rfl, rfl, ?_⟩, ⟨_, _, rfl, rfl, rfl, ?_⟩,
    ⟨_, _, rfl, rfl, rfl, ?_⟩, ⟨_, rfl, by decide, by decide⟩, ⟨_, rfl, by decide, by decide⟩⟩
  · exact trapped_by (p := fun c => c = .mchk) (by decide +kernel)
  · obtain ⟨r, h1, h2⟩ := ok_with (x := (entering 0x10C [32]).fetchWord (team0 (thread0 .active regs0)) (thread0 .active regs0) 0x100)
      (p := fun r => decide (r.1 = 32)) (by decide +kernel)
    exact ⟨r, h1, of_decide_eq_true h2, by decide⟩
  · exact trapped_by (p := fun c => c ≠ .mchk) (by decide +kernel)
  · obtain ⟨r, h1, h2⟩ := ok_with (x := (entering 0x104 [1]).fetchWord (team0 (thread0 .active regs0)) (thread0 .active regs0) 0x100)
      (p := fun r => decide (fieldOf' r.1 0 3 = 1)) (by decide +kernel)
    exact ⟨r, h1, of_decide_eq_true h2⟩
  · obtain ⟨r, h1, h2⟩ := ok_with (x := (entering 0x104 []).fetchWord (team0 (thread0 .active regs0)) (thread0 .active regs0) 0x100)
      (p := fun r => decide (r.1 = 0)) (by decide +kernel)
    exact ⟨r, h1, of_decide_eq_true h2, by decide⟩

/-- A sleeping thread in cycle 256; and a bin that holds it. -/
def asleep (w : Why) : State := { userWith (fun th => { th with st := .sleeping, why := w }) 0 with now := 256 }
def filed (now : Nat) (st : TState) (bs : List Nat) : State :=
  { user 0 with
    teams := [{ team0 { thread0 st regs0 with flags := List.replicate 12 0 } with groups := [] }], now := now
    bins := [{ core := 0, team := 0, key := 0x104, threads := bs, opened := 0 }] }

theorem test_CoreSteps_meets :
    (∃ th, (asleep (.sleep 0 false)).thread? 0 0 = some th ∧ th.st = .sleeping ∧ th.why = .sleep 0 false) ∧
    (∃ th, (asleep (.waitf 256 0 (some 0))).thread? 0 0 = some th ∧ th.st = .sleeping ∧ th.why = .waitf 256 0 (some 0) ∧
      256 ≤ (asleep (.waitf 256 0 (some 0))).now ∧ 0 + 256 ≤ (asleep (.waitf 256 0 (some 0))).now) ∧
    (∀ t st bs, (filed t st bs).slotsOpen 0 = false ∧ 0 ∉ (filed t st bs).binsDone) ∧
    (let u := ((filed 32 .filed []).closeCore 0).fileArrivals 0;
      ∃ b, (u.coreBins 0)[0]? = some b ∧ (∀ c ∈ (u.coreBins 0).take 0, u.binDue c = false) ∧ u.binAged b = true ∧ u.binFull b = false ∧ u.binIdle b = true) ∧
    (let u := ((filed 31 .active [0]).closeCore 0).fileArrivals 0;
      ∃ b, (u.coreBins 0)[0]? = some b ∧ u.binAged b = false ∧ u.binFull b = true) ∧
    (let u := ((filed 31 .active []).closeCore 0).fileArrivals 0; ∀ b ∈ u.coreBins 0, u.binDue b = false) :=
  ⟨⟨_, rfl, rfl, rfl⟩, ⟨_, rfl, rfl, rfl, by decide, by decide⟩, fun _ _ _ => ⟨rfl, List.not_mem_nil⟩, ⟨_, rfl, (fun c h => by cases h), by decide, by decide, by decide⟩,
   ⟨_, rfl, by decide, by decide⟩, by decide⟩

/-! ## The steps of the device -/

/-- An entry of core 0's store queue, of thread 0. -/
def entry (release : Option Nat) (act : SqAct) : SqEntry :=
  { id := 5, ins := 5, core := 0, team := 0, thr := 0, op := 0, release := release, act := act }
/-- The machine with that entry, with an operation of thread 0, or with a Pannier entry of one request. -/
def withEntry (e : SqEntry) : State := { user 0 with sq := [e] }
def opOf (k : OpKind) : Op :=
  { id := 5, ins := 5, team := 0, thr := 0, flag := 1, dst := [28], trap := none, passed := [], seen := [], ldvs := false, kind := k }
def withOp (k : OpKind) : State := { user 0 with ops := [opOf k] }
def pannierEntry (write : Bool) : PannierEntry :=
  { id := 5, core := 0, sector := 0x1080, write := write, born := 0, sent := false
    reqs := [{ team := 0, thr := 0, op := 5, loc := 0x21000, len := 4, word := 0x21000, width := 4, data := [1, 2, 3, 4], pwin := 32, part := 0 }] }
def withPannier (write : Bool) : State :=
  { withOp (.lanes [(0, [28], .raw 4, 0x21000)] [(0, 0)] []) with
    now := 32, issued := [(0, 0)], pannier := [pannierEntry write], sq := if write then [entry none (.scatter 5)] else [] }
/-- The same with the entry sent. -/
def sentPannier (write : Bool) : State :=
  { (withPannier write).closeCore 0 with pannier := [{ pannierEntry write with sent := true }] }

/-- Whether an operation has read, and its operation then. -/
def bindsReady (s : State) (o : Op) : Bool :=
  match s.bind o o.thr with
  | some u => (match u.op? o.id with | some o' => (match o'.kind with | .ready _ => true | _ => false) | none => false)
  | none => false
theorem binds_ready {s : State} {o : Op} (h : bindsReady s o = true) :
    ∃ u o' ws, s.bind o o.thr = some u ∧ u.op? o.id = some o' ∧ o'.kind = .ready ws := by
  unfold bindsReady at h
  split at h
  · next u hu =>
    split at h
    · next o' ho =>
      split at h
      · next ws hk => exact ⟨u, o', ws, hu, ho, hk⟩
      · cases h
    · cases h
  · cases h

theorem test_MemorySteps_meets :
    (∀ act ∈ [SqAct.store 0x21000 [1], .localStore (.spad 0 4092) [1], .localLoad (.reg 0 0 31 0) 4 0, .fence 5],
      (withEntry (entry (some 5) act)).queueOf 0 = [entry (some 5) act] ∧
      (withEntry (entry (some 5) act)).releaseReady (entry (some 5) act) 5 = true ∧
      (withEntry (entry (some 5) act)).mergeNext 0 (entry (some 5) act) [] = none ∧
      (∃ u, (withEntry (entry (some 5) act)).bindBefore (entry (some 5) act) = some u) ∧
      ∃ u, (withEntry (entry (some 5) act)).beforeStore (entry (some 5) act) 0x21000 1 = some u) ∧
    (let e := entry none (.store 0x21000 [1]); let e2 := { entry none (.store 0x21000 [2]) with id := 6 };
      let s : State := { user 0 with sq := [e, e2] };
      s.queueOf 0 = [e, e2] ∧ e.mergesWith e2 = true ∧ (∃ u, s.beforeStore e 0x21000 1 = some u) ∧ ∃ v, s.beforeStore e2 0x21000 1 = some v) ∧
    (let e := entry none (.rmw 0x21000 (.cas 0 1) 0x21000);
      (withEntry e).queueOf 0 = [e] ∧ keyHost 0x21000 = false ∧ ∃ u, (withEntry e).bindBefore e = some u ∧ ∃ v, u.beforeStore e 0x21000 4 = some v) ∧
    (let e := entry none (.rmw (257 * 2 ^ 52) (.cas 0 1) 0x21000);
      (withEntry e).queueOf 0 = [e] ∧ keyHost (257 * 2 ^ 52) = true ∧ ∃ u, (withEntry e).bindBefore e = some u ∧ u.hostLink ≠ none) ∧
    (let e := entry none (.localAtomic (.spad 0 0) 0 1 0);
      (withEntry e).queueOf 0 = [e] ∧ ∃ u, State.bindBeforeAll ((e :: []).takeWhile (fun x => x.ins = e.ins)) (withEntry e) = some u) ∧
    (∀ w : Bool, (withPannier w).pannier.find? (fun e => e.id = 5) = some (pannierEntry w) ∧ (withPannier w).windowOver (pannierEntry w) = true ∧
      (withPannier w).slotsOpen 0 = false ∧
      (∀ x ∈ (withPannier w).pannier, x.core = 0 → x.sent = false → x.sector = 0x1080 → 5 ≤ x.id) ∧
      ({ withPannier w with now := 31 } : State).windowOver (pannierEntry w) = false ∧
      ∃ v, (sentPannier w).serveEntry (pannierEntry w) = some v) ∧
    (({ sentPannier true with sq := [] } : State).serveEntry (pannierEntry true) = none ∧ ∃ e, (sentPannier true).pannier = [e] ∧ e.sent = true) ∧
    (∃ e r, (sentPannier true).pannier.find? (fun x => x.id = e.id) = some e ∧ e.sent = true ∧ e.reqs = [r] ∧
      (sentPannier true).queueOf 0 = [entry none (.scatter e.id)] ∧ r.op = (entry none (.scatter e.id)).id ∧
      r.thr = (entry none (.scatter e.id)).thr ∧ (∀ x ∈ (sentPannier true).pannier, x.id = e.id → x = e) ∧
      (∀ x ∈ (sentPannier true).pannier, x.core = e.core → x.sector = e.sector → x.write = false → e.id ≤ x.id) ∧
      (sentPannier true).hostAway r.loc = false ∧
      ∃ u, (sentPannier true).beforeStore (entry none (.scatter e.id)) r.loc r.len = some u ∧ u.unreachable r.loc = false) ∧
    ((withOp (.ready [7])).op? 5 = some (opOf (.ready [7]))) ∧
    (let k : OpKind := .load [0x21000] (.raw 4) (some 1) true 0x21000;
      (withOp k).op? 5 = some (opOf k) ∧
      (∀ p ∈ (withOp k).olderReads 0 0 5 ((withOp k).spansOf (opOf k) 0), p.kind.isLanes = false) ∧ ∃ u o' ws, (withOp k).bind (opOf k) (opOf k).thr = some u ∧ u.op? (opOf k).id = some o' ∧ o'.kind = .ready ws) ∧
    ((withOp (.hostAtomic (257 * 2 ^ 52) (.cas 0 1))).op? 5 = some (opOf (.hostAtomic (257 * 2 ^ 52) (.cas 0 1)))) ∧
    (∃ c, (user 0).walk 0 0x30000000 ((user 0).draw 0 0) = .error c) ∧
    ∃ p, (user 0).walk 0 0x21000 ((user 0).draw 0 0) = .ok p := by
  refine ⟨fun act h => ?_, ⟨rfl, by decide, ⟨_, rfl⟩, ⟨_, rfl⟩⟩, ⟨rfl, by decide, _, rfl, _, rfl⟩, ⟨rfl, by decide, _, rfl, by decide⟩,
    ⟨rfl, _, rfl⟩, fun w => ?_, ⟨rfl, _, rfl, rfl⟩,
    ⟨_, _, rfl, rfl, rfl, rfl, rfl, rfl, fun x hx _ => List.mem_singleton.1 hx, by decide +kernel, by decide,
      _, rfl, rfl⟩, rfl, ⟨rfl, by decide, binds_ready (by decide +kernel)⟩, rfl,
    traps_some (by decide +kernel), ok_some (by decide +kernel)⟩
  · simp only [List.mem_cons, List.not_mem_nil, or_false] at h
    rcases h with rfl | rfl | rfl | rfl <;> exact ⟨rfl, rfl, rfl, ⟨_, rfl⟩, _, rfl⟩
  · cases w <;> exact ⟨rfl, by decide, by decide, by decide, by decide, Option.isSome_iff_exists.1 (by decide +kernel)⟩

/-- A copy of 32 bytes of scratchpad whose chunks go to some end. -/
def copyJob0 (dst : CopyEnd) (lines : List (Nat × Nat)) : CopyJob :=
  { block := .copy 0x21000, fn := 0, priv := false, unit := 0, obj := none, members := [0], src := .rows (.spad 0 64) 0 32, total := 32
    all := [{ off := 0, row := 0, col := 0, dst := dst, len := 32 }], todo := [{ off := 0, row := 0, col := 0, dst := dst, len := 32 }]
    cache := [], lines := lines }
def copying (j : CopyJob) : State := withOp (.copy j)

/-- What writing some chunks of a copy ends with. -/
theorem writes_all {o : Op} {cs : List CopyChunk} {j : CopyJob} {s : State} (h : (State.writeChunks o cs j s).2.2.isNone = true) :
    ∃ u j', State.writeChunks o cs j s = (u, j', none) :=
  ⟨_, _, by rw [← Option.isNone_iff_eq_none.1 h]⟩
theorem writes_until {o : Op} {cs : List CopyChunk} {j : CopyJob} {s : State}
    (h : (match (State.writeChunks o cs j s).2.2 with | some (_, .fault _ _) => true | _ => false) = true) :
    ∃ u j' c f n, State.writeChunks o cs j s = (u, j', some (c, .fault f n)) := by
  split at h
  · next c f n hx => exact ⟨_, _, c, f, n, by rw [← hx]⟩
  · cases h

theorem test_CopySteps_meets :
    (let j := copyJob0 (.spad 0 0) [(0, 0)];
      (copying j).op? 5 = some (opOf (.copy j)) ∧ (copying j).copyReady (opOf (.copy j)) j = true ∧ j.src ≠ .zeros ∧ (0, 0) ∈ j.lines ∧
      (∃ u j', State.writeChunks (opOf (.copy j)) j.todo j (copying j) = (u, j', none)) ∧
      ∃ u j', State.writeChunks (opOf (.copy j)) (j.todo.filter (fun c => match c.dst with
        | .spad k off => decide (k = 0) && decide (off / 128 = 0) | .mem _ => false)) j (copying j) = (u, j', none)) ∧
    (let j := copyJob0 (.mem 0x30000000) [];
      (copying j).op? 5 = some (opOf (.copy j)) ∧ (copying j).copyReady (opOf (.copy j)) j = true ∧
      ∃ u j' c f n, State.writeChunks (opOf (.copy j)) j.todo j (copying j) = (u, j', some (c, .fault f n))) ∧
    (let j := { copyJob0 (.spad 0 0) [] with src := .zeros, todo := [] };
      (copying j).op? 5 = some (opOf (.copy j)) ∧ (copying j).copyReady (opOf (.copy j)) j = true) :=
  ⟨⟨rfl, rfl, (fun h => by cases h), by decide, writes_all (by decide +kernel), writes_all (by decide +kernel)⟩,
   ⟨rfl, rfl, writes_until (by decide +kernel)⟩, ⟨rfl, rfl⟩⟩

/-- A `TOPK` of no value with its vector at some address, an attention call without pages, and a tap of an empty entry. -/
def topkJob (vec : DWord) (n : Nat) : KvJob :=
  { KvJob.ofDesc .topk 0 false 0 0 0 [] with vec := vec, n := n }
def attnJob0 : AttnJob := AttnJob.ofDesc (lane0 (user 0)) false 0 (leBytes 8 0x30000000 ++ List.replicate 56 0)
def tapJob (row : DWord) : TapJob :=
  { fn := 0, priv := false, core := 0, gen := 1, point := 0, record := none, row := row, out := none, log := [] }
def tapGen0 (n : Nat) (p : List Byte) : TapGen := { gen := n, probe := p, steer := [] }
/-- An entry of rows of one value. -/
def rowEntry : List Byte := leBytes 4 (12 * 256) ++ leBytes 4 1

theorem ends_ok {α : Type} {e : Eng} {x : Script α} {s : State} (h : okWith (State.runScript e x s).2 (fun _ => true) = true) :
    ∃ u a, State.runScript e x s = (u, .ok a) := (ok_some h).elim (fun a h => ⟨_, a, by rw [← h]⟩)
theorem ends_bad {α : Type} {e : Eng} {x : Script α} {s : State} (h : okWith (State.runScript e x s).2 (fun _ => true) = false) :
    ∃ u f, State.runScript e x s = (u, .error f) := (traps_some h).elim (fun a h => ⟨_, a, by rw [← h]⟩)

theorem test_EngineSteps_meets :
    (let j := topkJob 0x21000 1; let s := withOp (.kv j); s.op? 5 = some (opOf (.kv j)) ∧ s.engineReady j.core 5 = true ∧
      State.scriptAway (s.engOf (opOf (.kv j)) j.fn j.priv) (j.script.resume j.log) s = false ∧ ∃ u st, State.runScript (s.engOf (opOf (.kv j)) j.fn j.priv) (j.script.resume j.log) s = (u, .ok st)) ∧
    (let j := topkJob 0x30000000 1; let s := withOp (.kv j); s.op? 5 = some (opOf (.kv j)) ∧ s.engineReady j.core 5 = true ∧
      State.scriptAway (s.engOf (opOf (.kv j)) j.fn j.priv) (j.script.resume j.log) s = false ∧ ∃ u f, State.runScript (s.engOf (opOf (.kv j)) j.fn j.priv) (j.script.resume j.log) s = (u, .error f)) ∧
    (let s := withOp (.attn attnJob0); s.op? 5 = some (opOf (.attn attnJob0)) ∧ s.engineReady attnJob0.core 5 = true ∧
      State.scriptAway (s.attnEng (opOf (.attn attnJob0)) attnJob0) (attnJob0.script.resume attnJob0.log) s = false ∧
      ∃ u r, State.runScript (s.attnEng (opOf (.attn attnJob0)) attnJob0) (attnJob0.script.resume attnJob0.log) s = (u, .ok r)) ∧
    (let j := tapJob 0x21000; let g := tapGen0 1 []; let s := { withOp (.tap j) with tapGens := [g] };
      s.op? 5 = some (opOf (.tap j)) ∧ s.engineReady j.core 5 = true ∧ s.genOf j = some g ∧
      State.scriptAway (s.engOf (opOf (.tap j)) j.fn j.priv) ((j.script g).resume j.log) s = false ∧
      ∃ u r, State.runScript (s.engOf (opOf (.tap j)) j.fn j.priv) ((j.script g).resume j.log) s = (u, .ok r)) ∧
    (let j := tapJob 0x30000000; let g := tapGen0 1 rowEntry; let s := { withOp (.tap j) with tapGens := [g] };
      s.op? 5 = some (opOf (.tap j)) ∧ s.genOf j = some g ∧
      State.scriptAway (s.engOf (opOf (.tap j)) j.fn j.priv) ((j.script g).resume j.log) s = false ∧
      ∃ u f, State.runScript (s.engOf (opOf (.tap j)) j.fn j.priv) ((j.script g).resume j.log) s = (u, .error f)) ∧
    (let s := { withOp (.tap (tapJob 0)) with tapGens := [tapGen0 2 [], tapGen0 1 []] }; s.tapRuns 1 = true ∧
      ({ s with ops := [] } : State).tapRuns 1 = false) ∧
    (let w := { walker0 with op := 5, halted := true }; let s := { withOp (.spoke 0) with walkers := [w] };
      s.walkers.find? (fun w => w.ctx = 0) = some w ∧ (w.halted = true ∨ w.stopped ≠ none) ∧ w.posted = [] ∧
      ({ s with walkers := s.walkers.filter (fun x => x.op ≠ w.op) } : State).op? w.op = some (opOf (.spoke 0))) :=
  ⟨⟨rfl, rfl, by decide +kernel, ends_ok (by decide +kernel)⟩, ⟨rfl, rfl, by decide +kernel, ends_bad (by decide +kernel)⟩, ⟨rfl, rfl, by decide +kernel, ends_ok (by decide +kernel)⟩,
   ⟨rfl, rfl, rfl, by decide +kernel, ends_ok (by decide +kernel)⟩, ⟨rfl, rfl, by decide +kernel, ends_bad (by decide +kernel)⟩, ⟨rfl, rfl⟩, ⟨rfl, .inl rfl, rfl, rfl⟩⟩

/-- A call of one thread without status, and a machine whose engine of hub 0 is in some state. -/
def call0 (flush : Bool) : MxCall :=
  { id := 7, hub := 0, join := none, signers := [], issuers := [{ team := 0, thr := 0, op := 5, flag := 1 }]
    desc := { MxDesc.ofBytes mxDesc0 with flush := flush }, fn := 0, priv := false, cls := 1, passed := 0, obj := none, nanTrap := false
    walk := false, tile := [], cols := [] }
def withEngine (e : MxEngine) : State := { withOp (.matrix 7) with engines := [(0, e)] }
def buf0 (ph : MxPhase) : MxBuf :=
  { id := 0, phase := ph, fn := 0, caddr := 0x40000000, e := 0, sums := [], marks := [], teams := [0], call := call0 true, ends := true
    stop := none, status := 0, order := 0, next := 4095 }
def run0 (flush : Bool) (stop : Option MxStop) : MxRun := { call := call0 flush, buf := some 0, pass := 65536, stop := stop, status := 0 }

theorem test_MatrixSteps_meets :
    (let s := withEngine { MxEngine.idle with table := [call0 true] };
      (s.engine 0).running = none ∧ nextGrant (s.liveTable 0) = some (call0 true) ∧ s.callReady (call0 true) = true) ∧
    (∀ fl : Bool, let r := run0 fl none; let s := withEngine { MxEngine.idle with running := some r, bufs := [buf0 .running] };
      (s.engine 0).running = some r ∧ ((State.runPasses (r.call.desc.passes + 1) s 0).engine 0).running = some r ∧ r.buf = some 0 ∧
      r.call.desc.passes ≤ r.pass ∧ (State.runPasses (r.call.desc.passes + 1) s 0).statusReady r.call = true ∧ r.call.desc.flush = fl) ∧
    (∃ b ∈ ((withEngine { MxEngine.idle with bufs := [buf0 .held] }).engine 0).bufs, b.id = 0 ∧ b.phase = .held) ∧
    (let s := withEngine { MxEngine.idle with bufs := [buf0 .flushing] };
      (s.engine 0).bufs.find? (fun b => b.id = 0 && decide (b.phase = .flushing)) = some (buf0 .flushing) ∧ (buf0 .flushing).next < 4096 ∧
      ∃ k, s.sectorFault (buf0 .flushing) ((buf0 .flushing).caddr + BitVec.ofNat 64
        ((buf0 .flushing).next / 32 * (buf0 .flushing).call.desc.cpitch + (buf0 .flushing).next % 32 * 32)) = .ok k) :=
  ⟨⟨rfl, rfl, rfl⟩, fun fl => by cases fl <;> exact ⟨rfl, rfl, rfl, by decide, by decide, rfl⟩, ⟨_, List.mem_singleton.2 rfl, rfl, rfl⟩,
   ⟨rfl, by decide, ok_some (by decide +kernel)⟩⟩

/-- A packet of one team of one thread, with some dependences and a map at some address. -/
def packetBytes (ndep mapAddr : Nat) : List Byte :=
  List.replicate 32 0 ++ leBytes 8 mapAddr ++ List.replicate 8 0 ++ leBytes 4 (1 + ndep * 2 ^ 13 + 2 ^ 16) ++ leBytes 4 0 ++
    leBytes 2 1 ++ List.replicate 6 0
def packet (ndep mapAddr : Nat) : Packet := .new 0 (packetBytes ndep mapAddr) none 0
/-- Device queue 0 with a packet in hand, and another queue's reservation. -/
def holding (p : Packet) (reserved : List Nat) : State :=
  { user 0 with queues := [{ Queue.idle 16 with cur := some p }, { Queue.idle 17 with reserved := reserved }] }

theorem test_QueueSteps_meets :
    (∀ key ∈ [79, 16 * 128 + 79], key < 17 * 128 ∧ key % 128 < 80) ∧
    ((63 : DWord).toNat % 64 ≠ 0 ∧ (64 : DWord).toNat % 64 = 0 ∧ fieldOf' (0#32) 0 5 < 1 ∧ 16 < fieldOf' (17#32) 0 5 ∧
      fieldOf' (33#32) 5 26 ≠ 0 ∧ fieldOf' (0x80000010#32) 0 5 = 16 ∧ fieldOf' (0x80000010#32) 5 26 = 0) ∧
    ((user 0).queue 79).log2 = 0 ∧ ((queued 0x22000 15 0).queue 16).log2 ≠ 0 ∧
    ((14 : DWord).toNat < ((queued 0x22000 15 0).queue 16).tail.toNat ∧ ((queued 0x22000 15 0).queue 16).head.toNat + 2 ^ 4 < (17 : DWord).toNat ∧
      ((queued 0x22000 15 0).queue 16).tail.toNat ≤ (16 : DWord).toNat ∧ (16 : DWord).toNat ≤ ((queued 0x22000 15 0).queue 16).head.toNat + 2 ^ 4) ∧
    (let q := (queued 0x30000000 1 0).queue 16;
      q.en = true ∧ q.cur = none ∧ queueExists 16 = true ∧ q.head.toNat < q.tail.toNat ∧ (queued 0x30000000 1 0).mgmt.state ≠ 2 ∧
      (queued 0x30000000 1 0).deviceRead q.fn (q.base + BitVec.ofNat 64 (64 * (q.head.toNat % 2 ^ q.log2))) 64 = none) ∧
    (let s := linksDown (queued 0x10000000 1 0); let q := s.queue 16;
      s.readAway (s.deviceKeys q.fn (q.base + BitVec.ofNat 64 (64 * (q.head.toNat % 2 ^ q.log2))) 64) = true) ∧
    (let s := queued 0x22000 1 0; let q := s.queue 16;
      s.readAway (s.deviceKeys q.fn (q.base + BitVec.ofNat 64 (64 * (q.head.toNat % 2 ^ q.log2))) 64) = false) ∧
    (let q := (queued 0x22000 1 0).queue 16;
      ∃ bs, (queued 0x22000 1 0).deviceRead q.fn (q.base + BitVec.ofNat 64 (64 * (q.head.toNat % 2 ^ q.log2))) 64 = some bs ∧
        ∃ c, (Packet.new q.head.toNat bs none 0).fieldError = some c) ∧
    ((packet 1 0).fieldError = none ∧ (packet 1 0).ndep ≠ 0 ∧ (packet 0 0).fieldError = none ∧ (packet 0 0).ndep = 0 ∧
      (packet 0 0).parent = 0) ∧
    (let p := { packet 0 0 with parent := 5 }; let s := { withOp (.launch (launchQueue 5)) with queues := [Queue.idle (launchQueue 5)] };
      p.parent ≠ 0 ∧ ∃ o, (s.dropQueue (launchQueue 5)).takeFreed.op? p.parent = some o) ∧
    ((holding (packet 0 0) []).queue 16).cur = some (packet 0 0) ∧ (packet 0 0).checked = false ∧
    (∃ p, (holding (packet 0 0) []).examine 0 (packet 0 0) = .ok p ∧ decide (p.checked = true ∧ p.met = none) = true) ∧
    (let q := { packet 1 0 with depsRead := true, deps := [(0x22000, 0xFFFFFFFFFFFFFFFF, false)] };
      ∃ p, (holding q []).examine 0 q = .ok p ∧ decide (p.checked = false) = true) ∧
    (∃ c, (holding (packet 0 0x30000000) []).examine 0 (packet 0 0x30000000) = .error c) ∧
    (let p := { packet 0 0 with checked := true, map := [0] };
      ((holding p []).queue 16).cur = some p ∧ (holding p []).hasRoom 16 p ((holding p []).physMap p.map) = true ∧
      (holding p []).mgmt.fencing = [] ∧ (holding p []).waitingQueues.find? (holding p []).fitsNow = some 16 ∧
      (let q := { p with met := some 7 };
        let s : State := { user 0 with queues := [{ Queue.idle 16 with cur := some q }, { Queue.idle 17 with cur := some { q with met := some 6 } }] };
        (s.queue 16).cur = some q ∧ s.hasRoom 16 q (s.physMap q.map) = true ∧ s.waitingQueues.find? s.fitsNow ≠ some 16) ∧
      (holding p [0]).hasRoom 16 p ((holding p [0]).physMap p.map) = false) ∧
    (∃ g, (user 0).grids[0]? = some g ∧ g.ended = false ∧ ({ user 0 with teams := [] } : State).gridQuiet g = true ∧ g.csig = 0) ∧
    (∃ c, (user 0).translate (deviceWho 0) .store 0x30000000 8 = .error c) ∧ (∃ p, (user 0).translate (deviceWho 0) .store 0x22000 8 = .ok p ∧ keyHost p.1 = false) ∧
    (∃ p, (user 0).translate (deviceWho 0) .store 0x10000000 8 = .ok p ∧ keyHost p.1 = true) ∧
    ((user 0).hostLink ≠ none ∧ (linksDown (user 0)).hostLink = none) ∧
    (let s : State := { user 0 with spaces := List.replicate 17 { ASpace.reset with sqbase := 0x22000, sqlen := 512 } };
      s.seqProtected 0 0x22000 8 = true ∧ (user 0).seqProtected 0 0x22000 8 = false) := by
  refine ⟨by decide, by decide, rfl, by decide, by decide, ⟨rfl, rfl, rfl, by decide, by decide, ?_⟩, by decide +kernel, by decide +kernel, ?_, ⟨by decide, by decide, by decide, by decide, rfl⟩, ⟨by decide, _, rfl⟩, rfl, rfl,
    ok_with (by decide +kernel), ok_with (by decide +kernel), traps_some (by decide +kernel), ⟨rfl, by decide +kernel, rfl, by decide +kernel, ⟨rfl, by decide +kernel, by decide +kernel⟩, by decide +kernel⟩,
    ⟨_, rfl, rfl, by decide, rfl⟩, traps_some (by decide +kernel), (ok_with (p := fun p => decide (keyHost p.1 = false)) (by decide +kernel)).imp
      (fun _ h => ⟨h.1, of_decide_eq_true h.2⟩),
    (ok_with (p := fun p => decide (keyHost p.1 = true)) (by decide +kernel)).imp (fun _ h => ⟨h.1, of_decide_eq_true h.2⟩),
    by decide, by decide⟩
  · exact Option.isNone_iff_eq_none.1 (by decide +kernel)
  · have h : (match (queued 0x22000 1 0).deviceRead 0 0x22000 64 with
      | some bs => ((Packet.new 0 bs none 0).fieldError).isSome | none => false) = true := by decide +kernel
    split at h
    · next bs hb => exact ⟨bs, hb, Option.isSome_iff_exists.1 h⟩
    · cases h

theorem test_OutsideAccesses_meets :
    (∀ src ∈ [1, 143], src ≠ (user 0).ownNode ∧ src ≤ 143) ∧
    (Tab.get (user 0).rxSeq 1 0 = 0 ∧ (user 0).writeRefused 0x21000 32 false = false ∧ (user 0).writeRefused (2 ^ 52) 32 false = true) ∧
    ((1 : Nat) ≠ Tab.get ({ user 0 with rxSeq := [(1, 2)] } : State).rxSeq 1 0 ∧ (2 + 2 ^ 48 - 1) % 2 ^ 48 < 2 ^ 47) ∧
    (rmwOf (.cas 0 1) = some (.cas 0 1) ∧ (rmwOf (.casv 0 1 true)).isSome = true ∧ atomicOpOf (.cas 0 1) = some (.cas 0 1) ∧
      atomicOpOf (.read 4) = none) ∧
    ((user 0).linkUp 1 = true ∧ (user 0).writeRefused 0x21000 1 true = false) ∧
    (0x21000 % (Rmw.cas 0 1).size = 0 ∧ (user 0).writeRefused 0x21000 (Rmw.cas 0 1).size false = false ∧
      (user 0).poisoned 0x21000 (Rmw.cas 0 1).size = false ∧
      ∃ bs, ((Rmw.cas 0 1).run ((user 0).bytesAt 0x21000 (Rmw.cas 0 1).size) ((user 0).version (0x21000 / 128))).write = some bs) :=
  ⟨by decide, ⟨rfl, by decide +kernel, by decide +kernel⟩, ⟨by decide, by decide⟩, ⟨rfl, by decide, rfl, rfl⟩, ⟨rfl, by decide +kernel⟩,
   ⟨by decide, by decide +kernel, rfl, Option.isSome_iff_exists.1 (by decide +kernel)⟩⟩

/-- FIPS 202: the first bytes of SHAKE256 of the empty message. -/
theorem test_shake256 : (shake256 []).take 4 = [0x46#8, 0xB9#8, 0xDD#8, 0x2B#8] := by decide +kernel

theorem test_DeviceHealth_meets :
    (let h : SnapHeader := { source := 1, cycle := 64, cause := 0, core := 0, thr := 0 };
      let s := { user 0 with now := 64, snap := { pending := some h, held := none, missed := 0 } };
      s.snap.pending = some h ∧ h.cycle.toNat ≤ s.now ∧ s.snap.pending ≠ none) ∧
    ((user 0).snap.pending = none ∧ (user 0).snap.held = none) ∧ inPhysical (32 * (0x008000000000 / 32 - 1)) 32 = true ∧
    ((15 : Nat) < 16 ∧ 15 ∉ (user 0).mgmt.failedPorts) ∧ ((143 : Nat) ≤ 143 ∧ 143 ≠ (user 0).ownNode ∧ 143 ∉ (user 0).mgmt.lost) ∧
    (∀ u ∈ [DeviceUnit.core 191, .slice 127, .stack 7], (user 0).mgmt.canFence u = true) ∧
    (∃ t, (user 0).teams[0]? = some t ∧ t.status = .resident ∧ t ∈ (user 0).teams ∧ t.core = 0 ∧ t.seated = true) ∧
    (let s : State := { user 0 with mgmt := { (user 0).mgmt with fencing := [.core 191] } };
      s.mgmt.fencing = [.core 191] ∧ s.setsOn 191 = []) :=
  ⟨⟨rfl, by decide, by simp⟩, ⟨rfl, rfl⟩, by decide +kernel, by decide, by decide, by decide,
   ⟨_, rfl, rfl, List.mem_singleton.2 rfl, rfl, rfl⟩, rfl, by decide⟩

theorem test_ManagementCommands_meets :
    (let i : FwImage := { (user 0).mgmt.running with version := 0 };
      (user 0).mgmt.rollback ≤ i.version ∧ i.version < ({ (user 0).mgmt with rollback := 1 } : Mgmt).rollback ∧
      ({ (user 0).mgmt with staged := some (i, []) } : Mgmt).staged = some (i, []) ∧ ([] : List Byte).length ≠ 2820 ∧
      ({ (user 0).mgmt with hot := true } : Mgmt).hot = true) ∧
    (0x7E#8 ≠ 0x7F#8) ∧ ([0xFF] : List Byte) ≠ [1] ∧
    (∀ u ∈ [DeviceUnit.core 192, .slice 128, .stack 8], (user 0).mgmt.canFence u = false) ∧ (user 0).mgmt.attest < 2 ^ 20 ∧
    2 ^ 20 ≤ ({ (user 0).mgmt with attest := 2 ^ 20 } : Mgmt).attest ∧ (user 0).mgmt.clearRecord = false ∧
    ({ (user 0).mgmt with clearRecord := true } : Mgmt).clearRecord = true :=
  ⟨⟨by decide, by decide, rfl, by decide, rfl⟩, by decide, by decide, by decide, by decide, by decide, rfl, rfl⟩

/-! ## Whole steps -/

/-- The machine in cycle 1 about to take some move, with a word at its thread's place. -/
def stepping (m : Move) (w : Nat) : State :=
  { withMem (user 0) 0x104 (leBytes 4 w) with agenda := [m], now := 1 }

/-- A fetch that gives a key. -/
theorem fetches {s : State} {who : Accessor} {va : DWord} {key : Nat}
    (h : (match s.translate who .fetch va 4 with | .ok (k, _) => decide (k = key) | .error _ => false) = true) :
    ∃ leaf, s.translate who .fetch va 4 = .ok (key, leaf) := by
  split at h
  · next k leaf hx => exact ⟨leaf, by rw [hx, of_decide_eq_true h]⟩
  · cases h

theorem test_StepRunsDecoded_meets :
    (let s := stepping (.issue 0 0) 0x021C1845; let u : State := { s with agenda := [], fresh := s.fresh + 1 };
      s.agenda = [.issue 0 0] ∧ (0, 0) ∉ s.issued ∧ s.mgmt.state ≠ 2 ∧ u.openTurns 0 = [] ∧ u.aloneInHub 0 0 = true ∧
      ∃ k t g th, u.pickGroup 0 0 = some (k, t, g) ∧ t.threads[g.lead]? = some th ∧
        let v : State := { u.passOver 0 0 k g.members with issued := (0, 0) :: (u.passOver 0 0 k g.members).issued }
        (∃ leaf, v.translate (fetchWho t th) .fetch th.pc 4 = .ok (0x104, leaf)) ∧ v.poisoned 0x104 4 = false ∧
        ∃ i, decode .core (v.bytesAt 0x104 4) = .ok (i, [])) ∧
    (let s := { stepping (.walker 0) 0 with walkers := [{ walker0 with prog := [0x18880001] }] };
      s.agenda = [.walker 0] ∧ 0 ∉ s.walked ∧ ∃ w, s.walkers.find? (fun w => w.ctx = 0) = some w ∧ s.walkRuns w = true ∧
        ∃ x, w.prog[w.wpc]? = some x ∧ decodeWalker x = .ok (.ldval 1 1 1)) ∧
    (let t : Turn := { core := 0, slot := 0, team := 0, members := [0], left := [0], ins := .barArrive 127, lit := .none };
      let s := { stepping (.issue 0 0) 0 with turns := [t] };
      (∃ x ∈ s.openTurns 0, x.core = 0 ∧ x.slot = 0) ∧ s.nextTurn 0 = some (t, 0) ∧
      ∃ tm th, s.teams[t.team]? = some tm ∧ tm.status = .resident ∧ s.thread? t.team 0 = some th ∧ th.runnable = true) ∧
    (isDeviceStep .thermalTrip = true ∧ isDeviceStep (.bundleEntry 0 0) = true) := by
  refine ⟨⟨rfl, by decide, by decide, rfl, by decide +kernel, _, _, _, _, rfl, rfl, fetches (by decide +kernel), rfl, ?_⟩,
    ⟨rfl, by decide, _, rfl, rfl, _, rfl, by decide⟩, ⟨⟨_, List.mem_singleton.2 rfl, rfl, rfl⟩, rfl, _, _, rfl, rfl, rfl, rfl⟩, by decide⟩
  exact ⟨.imad 7 3 4, by decide +kernel⟩

theorem test_StepKeepsMemory_meets : Memory.wf (stepping (.event .thermalTrip) 5).mem = true ∧ ∃ t, step (stepping (.event .thermalTrip) 5) = .next t :=
  ⟨by decide, _, rfl⟩

theorem test_CompletionFrame_meets :
    ((1 : Nat) ≠ (user 0).cur.team ∧ ∃ t th, (user 0).teams[(user 0).cur.team]? = some t ∧ t.threads[0]? = some th ∧
      (∀ l ∈ ([] : List Lane), l.th.idx ≠ th.idx) ∧ [lane0 (user 0)].find? (fun l => l.th.idx = th.idx) = some (lane0 (user 0))) ∧
    (let d : Done := { flag := 12 }; d.upd = id ∧ d.writes = [] ∧ 1 ≤ d.flag ∧ d.flag ≤ (thread0 .active regs0).flags.length) ∧
    ((thread0 .active regs0).pend = [] ∧ 31 < (thread0 .active regs0).regs.length) :=
  ⟨⟨by decide, _, _, rfl, rfl, (fun l h => by cases h), rfl⟩, ⟨rfl, rfl, by decide, by decide⟩, ⟨rfl, by decide⟩⟩

theorem test_OnlyTheseWriteMemory_meets : mayWrite (.stgW 0 0 0 0) = false ∧ ∃ t, exec (.iadd 2 0 1) (user 0) = .next t := ⟨rfl, _, rfl⟩

theorem test_MemoryReadsBack_meets :
    Memory.wf (user 0).mem = true ∧ Tab.wf 0 (user 0).vers = true ∧ 257 * 2 ^ 52 - 4 + ([1, 2, 3, 4] : List Byte).length ≤ 257 * 2 ^ 52 ∧
    (user 0).unreachable 0x21000 = false := ⟨by decide, rfl, by decide, rfl⟩

theorem test_TrapEntry_meets :
    (∃ tm th, (user 0).teams[0]? = some tm ∧ (user 0).thread? 0 0 = some th ∧ th.st ≠ .trapped) ∧
    (∃ tm th, (handler 0).teams[0]? = some tm ∧ (handler 0).thread? 0 0 = some th ∧ th.st = .trapped ∧ tm.status = .resident ∧
      0 ∈ (handler 0).widened 0 ∧ ∃ h, (handler 0).hubsets[tm.hubset]? = some h ∧ ∀ jn ∈ h.joins, jn.st = .idle) ∧
    ((user 0).enrolled 0 0 = false ∧ (joined (openJoin 1 [(0, 0)] [(0, 0)]) 0).enrolled 0 0 = true ∧ trappedBefore.leaving.length = 1) ∧
    (let s : State := { handler 0 with hubsets := [{ hub := 0, teams := [0], joins := [openJoin 1 [(0, 0)] [(0, 0)]] }] };
      ∃ h, s.hubsets[0]? = some h ∧ ∃ jn ∈ h.joins, jn.st ≠ .idle ∧ ∃ e ∈ jn.enrolled, e.1 = 0) :=
  ⟨⟨_, _, rfl, rfl, by decide⟩, ⟨_, _, rfl, rfl, rfl, rfl, by decide, _, rfl, by decide⟩,
   ⟨rfl, rfl, rfl⟩, ⟨_, rfl, _, List.mem_singleton.2 rfl, by decide, _, List.mem_singleton.2 rfl, rfl⟩⟩

theorem test_DecodeEncode_meets : ∃ p, encode (.iadd 119 120 127) = some p := ⟨_, rfl⟩

end Sys2Proof.Tests
end

section
/-!
PROOFS. Cross-lane instructions in a group of mixed partition settings (R23): each is `cross` or `SOFTMAX`, and both ask
for one partition setting before any lane's word counts.
-/

namespace Sys2Proof.Machine

/-- The dispatch: an instruction with a cross-lane result runs `cross` with that result's register and latency, the
exchanges by way of `exchange` and `RMSN` by way of `rmsForm`. -/
theorem exec_eq_cross {ls : List Lane} {i : Instr} {r : Fixed} (h : crossResult ls i = some r) :
    ∃ f, ∀ s, exec i s = cross i r.lat r.dst s f := by
  unfold crossResult at h
  split at h <;> cases h
  all_goals
    eapply Exists.intro
    intro s
    simp only [exec_lanePick, exec_laneBack, exec_laneFwd, exec_laneFlip, exec_laneRot,
      exec_pollEvery, exec_pollSome, exec_pollMask, exec_pollSame, exec_pollPres, exec_pollCnt,
      exec_matchLanes, exec_mrank, exec_mcnt, exec_mlead,
      exec_tscanAddI, exec_tscanAddF, exec_tscanMaxS, exec_tscanMinS, exec_tscanExAddI, exec_tscanExAddF,
      exec_tscanSegAddI, exec_tscanSegAddF,
      exec_tredAddI, exec_tredAddF, exec_tredMaxS, exec_tredMinS, exec_tredMaxF, exec_tredMinF, exec_tredAnd, exec_tredOr,
      exec_rmsnE12, exec_rmsnE14, exec_rmsnE16, exec_rmsnE18, exec_rmsnE20,
      execLanePick, execLaneBack, execLaneFwd, execLaneFlip, execLaneRot, exchange,
      execRmsnE12, execRmsnE14, execRmsnE16, execRmsnE18, execRmsnE20, rmsForm]
    rfl

/-- `SOFTMAX` with several partition settings in the group traps in every member (R23). -/
theorem execSoftmax_mix {d a b : BitVec 7} {s : State} {tm : Team} {ls : List Lane} (hi : s.issuer = some (tm, ls))
    (hc : ∀ l ∈ ls, l.check (instrForm (.softmax d a b)) = none) (ho : ¬OnePart ls) :
    execSoftmax d a b s = .next (s.trapped ls (fun _ => .of .partmix)) := by
  have hm : mixedParts s = true := eq_true_of_ne_false (mt (mixed_eq hi).1 ho)
  unfold execSoftmax
  rw [hm]
  exact runFormThen_trap (after := fun _ s => s) hi (fun l hl => Lane.outcome_trap (hc l hl) rfl)

/-- The cross-lane instructions are those with a cross-lane result, and `SOFTMAX`. -/
theorem crossesLanes_cases {i : Instr} (h : crossesLanes i) :
    (∃ r, crossResult [] i = some r) ∨ ∃ d a b, i = .softmax d a b := by
  unfold crossesLanes at h
  rw [Bool.or_eq_true] at h
  rcases h with h | h
  · exact .inl (Option.isSome_iff_exists.1 h)
  · split at h
    · exact .inr ⟨_, _, _, rfl⟩
    · cases h

/-- Settles O7: each cross-lane instruction is `cross` or `SOFTMAX`, and each of these traps in every member.
`test_cross_lanes_meet` has a group that meets the premises. -/
theorem partitionMix : Obligations.PartitionMix := by
  intro i s ls h ⟨⟨tm, hi⟩, hc⟩ ho
  obtain ⟨r, hr⟩ | ⟨d, a, b, rfl⟩ := crossesLanes_cases h
  · obtain ⟨f, hf⟩ := exec_eq_cross hr
    rw [hf]
    exact cross_mix hi hc ho
  · rw [exec_softmax]
    exact execSoftmax_mix hi hc ho

end Sys2Proof.Machine
end

section
/-!
PROOFS. Integer, logic, compare, move, constant and wide instructions (R68 to R75): each is `fixed` or `fixed2` with the
value that the manual's table gives, and a group that passes its checks completes with it.
-/

namespace Sys2Proof.Machine

/-! ## Values in the manual's terms -/

theorem andn_eq (a b : Word) : a &&& ~~~b = a &&& (0xFFFFFFFF#32 ^^^ b) :=
  congrArg (a &&& ·) BitVec.allOnes_xor.symm

theorem shlImm_eq (a : Word) (i : BitVec 5) : a <<< i.toNat = BitVec.ofNat 32 (a.toNat * 2 ^ i.toNat) := by
  rw [shl_eq, if_neg (Nat.not_le.2 i.isLt)]

theorem shrImm_eq (a : Word) (i : BitVec 5) : a >>> i.toNat = BitVec.ofNat 32 (a.toNat / 2 ^ i.toNat) := by
  rw [shr_eq, if_neg (Nat.not_le.2 i.isLt)]

/-- `LEA` with no shift: the table's sum has no factor. -/
theorem leaWord_zero (a : DWord) (b : Word) : leaWord 0 a b = BitVec.ofInt 64 (a.toInt + b.toInt) := by
  rw [leaWord_eq, pow_zero, mul_one]

/-! ## Dispatch -/

theorem fixed_congr {i : Instr} {lat : Nat} {d : BitVec 7} {f g : Lane → Word} {s : State} (h : ∀ l, f l = g l) :
    fixed i lat d f s = fixed i lat d g s := by
  rw [funext h]

theorem fixed2_congr {i : Instr} {lat : Nat} {d : BitVec 7} {f g : Lane → DWord} {s : State} (h : ∀ l, f l = g l) :
    fixed2 i lat d f s = fixed2 i lat d g s := by
  rw [funext h]

/-- The dispatch: an instruction with a register result of the table runs `fixed` with it. -/
theorem exec_eq_fixed {i : Instr} {r : Fixed} (h : integerResult i = some r) (s : State) :
    exec i s = fixed i r.lat r.dst r.value s := by
  cases i <;> cases h
  -- R68
  case iadd => exact fixed_congr fun _ => (ofNat_add _ _).symm
  case isub => exact fixed_congr fun _ => (ofInt_sub _ _).symm
  case imul => exact fixed_congr fun _ => (ofNat_mul _ _).symm
  case imulhS => exact fixed_congr fun _ => mulHighS_eq _ _
  case imulhN => exact fixed_congr fun _ => mulHighN_eq _ _
  case imad => exact fixed_congr fun _ => (ofNat_mad _ _ _).symm
  case iminS => exact fixed_congr fun _ => minS_eq _ _
  case iminN => exact fixed_congr fun _ => minN_eq _ _
  case imaxS => exact fixed_congr fun _ => maxS_eq _ _
  case imaxN => exact fixed_congr fun _ => maxN_eq _ _
  case iabs => exact fixed_congr fun _ => absWord_eq _
  -- R69, R70
  case and => rfl
  case or => rfl
  case xor => rfl
  case andn => exact fixed_congr fun _ => andn_eq _ _
  case shl => exact fixed_congr fun _ => shl_eq _ _ _
  case shr => exact fixed_congr fun _ => shr_eq _ _ _
  case sha => exact fixed_congr fun _ => sha_eq _ _
  case rotl => exact fixed_congr fun _ => rotl_eq _ _ (Nat.mod_lt _ (by decide))
  case popc => exact fixed_congr fun _ => congrArg (BitVec.ofNat 32) (countBits_eq _ _)
  case clz => exact fixed_congr fun _ => clz_eq _
  case bfx => exact fixed_congr fun _ => fieldExtract_eq _ _
  case bfi => exact fixed_congr fun _ => fieldInsert_eq _ _ _
  -- R71
  case isetEq => exact fixed_congr fun _ => (onesIf_eq _ _ rfl).symm
  case isetNe => exact fixed_congr fun _ => (onesIf_eq _ _ rfl).symm
  case isetLt => exact fixed_congr fun _ => (onesIf_eq _ _ BitVec.slt_eq_decide).symm
  case isetLe => exact fixed_congr fun _ => (onesIf_eq _ _ BitVec.sle_eq_decide).symm
  case isetGt => exact fixed_congr fun _ => (onesIf_eq _ _ BitVec.slt_eq_decide).symm
  case isetGe => exact fixed_congr fun _ => (onesIf_eq _ _ BitVec.sle_eq_decide).symm
  case isetLtN => exact fixed_congr fun _ => (onesIf_eq _ _ BitVec.ult_eq_decide).symm
  case isetLeN => exact fixed_congr fun _ => (onesIf_eq _ _ BitVec.ule_eq_decide).symm
  case isetGtN => exact fixed_congr fun _ => (onesIf_eq _ _ BitVec.ult_eq_decide).symm
  case isetGeN => exact fixed_congr fun _ => (onesIf_eq _ _ BitVec.ule_eq_decide).symm
  -- R72, R73
  case mov => rfl
  case sel => exact fixed_congr fun _ => selWord_eq _ _ _
  case iset64Eq => exact fixed_congr fun _ => (onesIf_eq _ _ rfl).symm
  case iset64LtN => exact fixed_congr fun _ => (onesIf_eq _ _ BitVec.ult_eq_decide).symm
  -- R74, R75
  case iaddi => exact fixed_congr fun _ => (ofInt_addImm 11 (by decide) _ _).symm
  case andi => rfl
  case ori => rfl
  case shli => exact fixed_congr fun _ => shlImm_eq _ _
  case shri => exact fixed_congr fun _ => shrImm_eq _ _
  case ldi => rfl
  case ldhi => exact fixed_congr fun _ => loadHigh_eq _ _

/-- The dispatch: an instruction with a pair result of the table runs `fixed2` with it. -/
theorem exec_eq_fixed2 {i : Instr} {r : Fixed2} (h : wideResult i = some r) (s : State) :
    exec i s = fixed2 i r.lat r.dst r.value s := by
  cases i <;> cases h
  case add64 => exact fixed2_congr fun _ => (ofNat_add64 _ _).symm
  case sub64 => exact fixed2_congr fun _ => (ofInt_sub64 _ _).symm
  case shl64 => exact fixed2_congr fun _ => shl_eq _ _ _
  case shr64 => exact fixed2_congr fun _ => shr_eq _ _ _
  case mul64 => exact fixed2_congr fun _ => (ofNat_mul64 _ _).symm
  case lea0 => exact fixed2_congr fun _ => leaWord_zero _ _
  case lea1 => exact fixed2_congr fun _ => leaWord_eq 1 _ _
  case lea2 => exact fixed2_congr fun _ => leaWord_eq 2 _ _
  case lea3 => exact fixed2_congr fun _ => leaWord_eq 3 _ _

/-- Settles O1: each row of the table is `fixed` or `fixed2` with its value, and these complete in every member.
`test_IntegerResults_meets` has groups that meet the premises. -/
theorem integerResults : Obligations.IntegerResults := by
  refine ⟨?_, ?_⟩ <;> intro i r s ls h ⟨⟨tm, hi⟩, hc⟩
  · rw [exec_eq_fixed h]
    exact fixed_done hi hc
  · rw [exec_eq_fixed2 h]
    exact fixed2_done hi hc

end Sys2Proof.Machine
end

section
/-!
PROOFS. Cross-lane instructions in a group of one partition setting (R22, R84 to R88, R164): the word that each model
rule computes from the present lanes is the word that the manual's table gives.
-/

namespace Sys2Proof.Machine

/-! ## Lane exchange (R84) -/

theorem fromLane_some (ls : List Lane) (a d : BitVec 7) (l : Lane) (L : Nat) :
    fromLane (presentOf ls) a d l (some L) = laneWord ls a L := rfl

theorem fromLane_ite {ls : List Lane} {a d : BitVec 7} {l : Lane} {L : Nat} {p q : Prop} [Decidable p] [Decidable q]
    (h : q ↔ ¬p) : fromLane (presentOf ls) a d l (if p then none else some L) = if q then laneWord ls a L else l.reg d := by
  by_cases hp : p
  · rw [if_pos hp, if_neg (fun hq => h.1 hq hp)]
    rfl
  · rw [if_neg hp, if_pos (h.2 hp)]
    rfl

theorem fromLane_back (ls : List Lane) (a d : BitVec 7) (l : Lane) (T L b : Nat) :
    fromLane (presentOf ls) a d l (backSource T L b) =
      if b < T ∧ L - L % T + b ≤ L then laneWord ls a (L - b) else l.reg d :=
  fromLane_ite (by unfold tileBase; omega)

theorem fromLane_fwd (ls : List Lane) (a d : BitVec 7) (l : Lane) (T L b : Nat) :
    fromLane (presentOf ls) a d l (fwdSource T L b) =
      if b < T ∧ L + b < L - L % T + T then laneWord ls a (L + b) else l.reg d :=
  fromLane_ite (by unfold tileBase; omega)

/-! ## Polls and matches (R85, R86) -/

theorem tileHere_presentOf (ls : List Lane) (l : Lane) : tileHere (presentOf ls) l.th.part l = tileOf ls l := rfl

/-- A filter that keeps as many elements as there are keeps all of them. -/
theorem ofBool_filter_length (p : Lane → Prop) [DecidablePred p] (ls : List Lane) :
    Word.ofBool (decide ((ls.filter (fun m => decide (p m))).length = ls.length)) = onesIf (∀ m ∈ ls, p m) :=
  (onesIf_eq _ _ (by simp only [List.length_filter_eq_length_iff, decide_eq_true_eq])).symm

theorem ofBool_filter_nonempty (p : Lane → Prop) [DecidablePred p] (ls : List Lane) :
    Word.ofBool (!(ls.filter (fun m => decide (p m))).isEmpty) = onesIf (∃ m ∈ ls, p m) :=
  (onesIf_eq _ _ (by rw [Bool.eq_iff_iff]; simp)).symm

/-! ## Scans and reductions (R87, R88) -/

theorem laneOf_of_presentOf {ls : List Lane} {x : Nat} {m : Lane} (h : presentOf ls x = some m) : laneOf m.th.idx = x :=
  of_decide_eq_true (List.find?_some h :)

/-- Choosing lanes of a tile by number is choosing the members that stand there. -/
theorem filterMap_presentOf_filter (ls : List Lane) (p : Nat → Bool) (xs : List Nat) :
    (xs.filter p).filterMap (presentOf ls) = (xs.filterMap (presentOf ls)).filter (fun m => p (laneOf m.th.idx)) := by
  rw [List.filterMap_filter, List.filter_filterMap]
  congr 1
  funext x
  cases hx : presentOf ls x with
  | none => simp
  | some m => simp [Option.filter, laneOf_of_presentOf hx]

/-- Without heads, a fold over lanes is the fold of the present members' words: an absent lane is skipped. -/
theorem foldLane_snd (op : Word → Word → Word) (e : Word) (a : BitVec 7) (at' : Present) (xs : List Nat) (acc : Word × Word) :
    (xs.foldl (foldLane op e a none at') acc).2 = foldWords op acc.2 a (xs.filterMap at') := by
  induction xs generalizing acc with
  | nil => rfl
  | cons x xs ih =>
    rw [List.foldl_cons, ih]
    cases hx : at' x <;> simp [foldLane, foldWords, hx]

/-- Without heads, a lane finds the fold of the lanes before it. -/
theorem foldLane_fst (op : Word → Word → Word) (e : Word) (a : BitVec 7) (at' : Present) (x : Nat) (acc : Word × Word) :
    (foldLane op e a none at' acc x).1 = acc.2 := by
  unfold foldLane
  cases at' x <;> rfl

theorem scanIn_none (op : Word → Word → Word) (e : Word) (a : BitVec 7) (ls : List Lane) (l : Lane) :
    scanIn op e a none (presentOf ls) l.th.part l = foldWords op e a (upTo ls l) := by
  unfold scanIn tileFold
  rw [foldLane_snd, filterMap_presentOf_filter]
  rfl

theorem laneOf_le (j : Nat) : laneOf j ≤ 31 := Nat.le_of_lt_succ (Nat.mod_lt j (by decide))

theorem reduceTile_eq (op : Word → Word → Word) (e : Word) (a : BitVec 7) (ls : List Lane) (l : Lane) :
    reduceTile op e a (presentOf ls) l.th.part l = foldWords op e a (tileOf ls l) := by
  unfold reduceTile tileFold
  rw [foldLane_snd, filterMap_presentOf_filter, List.filter_eq_self.2 (fun m _ => decide_eq_true (laneOf_le _))]
  rfl

/-- The lanes of a range up to one of them are those below it, and it. -/
theorem filter_le_range' {L s n : Nat} (h : s ≤ L ∧ L < s + n) :
    (List.range' s n).filter (fun x => decide (x ≤ L)) = (List.range' s n).filter (fun x => decide (x < L)) ++ [L] := by
  induction n with
  | zero => omega
  | succ n ih =>
    rw [List.range'_1_concat, List.filter_append, List.filter_append]
    rcases Nat.lt_or_ge L (s + n) with hn | hn
    · have hle : ¬s + n ≤ L := by omega
      have hlt : ¬s + n < L := by omega
      simp [ih ⟨h.1, hn⟩, hle, hlt]
    · obtain rfl : L = s + n := by omega
      have hx (x) (h : x ∈ List.range' s n) : decide (x ≤ s + n) = decide (x < s + n) := by
        rw [List.mem_range'_1] at h
        simp only [h.2, h.2.le]
      rw [List.filter_congr hx]
      simp

/-- A lane lies in its tile, which has at least one lane. -/
theorem mem_tile {T : Nat} (L : Nat) (h : 0 < T) : tileBase T L ≤ L ∧ L < tileBase T L + T := by
  have hlt := Nat.mod_lt L h
  have hle := Nat.mod_le L T
  unfold tileBase
  omega

theorem scanEx_eq (op : Word → Word → Word) (e : Word) (a : BitVec 7) (ls : List Lane) (l : Lane) :
    scanEx op e a (presentOf ls) l.th.part l = foldWords op e a (below ls l) := by
  unfold scanEx tileFold
  rcases Nat.eq_zero_or_pos l.th.part with h | h
  · simp [tileLanes, below, tileOf, h, foldWords]
  · unfold tileLanes
    rw [filter_le_range' (mem_tile _ h), List.foldl_append, List.foldl_cons, List.foldl_nil, foldLane_fst, foldLane_snd,
      filterMap_presentOf_filter]
    rfl

theorem maxSOp_eq : maxSOp = greater := by
  funext x y
  simp only [maxSOp, greater, BitVec.slt_iff_toInt_lt]

theorem minSOp_eq : minSOp = lesser := by
  funext x y
  simp only [minSOp, lesser, BitVec.slt_iff_toInt_lt]

/-! ## `RMSN` (R164) -/

theorem rmsWord_eq (ls : List Lane) (k : Nat) (a b : BitVec 7) (l : Lane) :
    rmsWord k a b (tileHere (presentOf ls) l.th.part l) l = crossResult.rmsWord' ls k a b l := by
  unfold rmsWord crossResult.rmsWord'
  simp only [tileHere_presentOf, List.any_map, List.any_eq_true, List.foldl_map]
  rfl

/-! ## Dispatch -/

section
variable {i : Instr} {s : State} {tm : Team} {ls : List Lane} (hi : s.issuer = some (tm, ls))
  (hc : ∀ l ∈ ls, l.check (instrForm i) = none) (ho : OnePart ls)
include hi hc ho

/-- In a group of one partition setting a cross-lane instruction is one that writes each lane's word. -/
theorem cross_eq_fixed {lat : Nat} {d : BitVec 7} {f : Present → Nat → Lane → Word} {g : Lane → Word}
    (hv : ∀ l, f (presentOf ls) l.th.part l = g l) : cross i lat d s f = fixed i lat d g s := by
  obtain rfl : (fun l => f (presentOf ls) l.th.part l) = g := funext hv
  unfold cross
  rw [(mixed_eq hi).2 ho, partners_eq hi hc]
  rfl

theorem exchange_eq_fixed {d a b : BitVec 7} {src : Nat → Nat → Nat → Option Nat} {g : Lane → Word}
    (hv : ∀ l, fromLane (presentOf ls) a d l (src l.th.part (laneOf l.th.idx) (l.reg b).toNat) = g l) :
    exchange i d a b s src = fixed i 6 d g s :=
  cross_eq_fixed hi hc ho hv

theorem rmsForm_eq_fixed {k : Nat} {d a b : BitVec 7} :
    rmsForm k i d a b s = fixed i 16 d (crossResult.rmsWord' ls k a b) s :=
  cross_eq_fixed hi hc ho fun _ => rmsWord_eq ..

/-- The dispatch: in a group of one partition setting, an instruction of the table writes the table's word. -/
theorem exec_eq_fixed_of_cross {r : Fixed} (h : crossResult ls i = some r) :
    exec i s = fixed i r.lat r.dst r.value s := by
  cases i <;> cases h
  -- R84
  case lanePick => rw [exec_lanePick]; exact exchange_eq_fixed hi hc ho fun _ => fromLane_some ..
  case laneBack => rw [exec_laneBack]; exact exchange_eq_fixed hi hc ho fun _ => fromLane_back ..
  case laneFwd => rw [exec_laneFwd]; exact exchange_eq_fixed hi hc ho fun _ => fromLane_fwd ..
  case laneFlip => rw [exec_laneFlip]; exact exchange_eq_fixed hi hc ho fun _ => fromLane_some ..
  case laneRot => rw [exec_laneRot]; exact exchange_eq_fixed hi hc ho fun _ => fromLane_some ..
  -- R85
  case pollEvery => rw [exec_pollEvery]; exact cross_eq_fixed hi hc ho fun _ => ofBool_filter_length ..
  case pollSome => rw [exec_pollSome]; exact cross_eq_fixed hi hc ho fun _ => ofBool_filter_nonempty ..
  case pollMask => rw [exec_pollMask]; exact cross_eq_fixed hi hc ho fun _ => rfl
  case pollSame => rw [exec_pollSame]; exact cross_eq_fixed hi hc ho fun _ => ofBool_filter_length ..
  case pollPres => rw [exec_pollPres]; exact cross_eq_fixed hi hc ho fun _ => rfl
  case pollCnt => rw [exec_pollCnt]; exact cross_eq_fixed hi hc ho fun _ => rfl
  -- R86
  case matchLanes => rw [exec_matchLanes]; exact cross_eq_fixed hi hc ho fun _ => rfl
  case mrank => rw [exec_mrank]; exact cross_eq_fixed hi hc ho fun _ => congrArg countOf (List.filter_comm ..)
  case mcnt => rw [exec_mcnt]; exact cross_eq_fixed hi hc ho fun _ => rfl
  case mlead => rw [exec_mlead]; exact cross_eq_fixed hi hc ho fun _ => rfl
  -- R87
  case tscanAddI => rw [exec_tscanAddI]; exact cross_eq_fixed hi hc ho fun _ => scanIn_none ..
  case tscanAddF => rw [exec_tscanAddF]; exact cross_eq_fixed hi hc ho fun _ => scanIn_none ..
  case tscanMaxS => rw [exec_tscanMaxS]; exact cross_eq_fixed hi hc ho fun _ => maxSOp_eq ▸ scanIn_none ..
  case tscanMinS => rw [exec_tscanMinS]; exact cross_eq_fixed hi hc ho fun _ => minSOp_eq ▸ scanIn_none ..
  case tscanExAddI => rw [exec_tscanExAddI]; exact cross_eq_fixed hi hc ho fun _ => scanEx_eq ..
  case tscanExAddF => rw [exec_tscanExAddF]; exact cross_eq_fixed hi hc ho fun _ => scanEx_eq ..
  case tscanSegAddI => rw [exec_tscanSegAddI]; exact cross_eq_fixed hi hc ho fun _ => rfl
  case tscanSegAddF => rw [exec_tscanSegAddF]; exact cross_eq_fixed hi hc ho fun _ => rfl
  -- R88
  case tredAddI => rw [exec_tredAddI]; exact cross_eq_fixed hi hc ho fun _ => reduceTile_eq ..
  case tredAddF => rw [exec_tredAddF]; exact cross_eq_fixed hi hc ho fun _ => reduceTile_eq ..
  case tredMaxS => rw [exec_tredMaxS]; exact cross_eq_fixed hi hc ho fun _ => maxSOp_eq ▸ reduceTile_eq ..
  case tredMinS => rw [exec_tredMinS]; exact cross_eq_fixed hi hc ho fun _ => minSOp_eq ▸ reduceTile_eq ..
  case tredMaxF => rw [exec_tredMaxF]; exact cross_eq_fixed hi hc ho fun _ => reduceTile_eq ..
  case tredMinF => rw [exec_tredMinF]; exact cross_eq_fixed hi hc ho fun _ => reduceTile_eq ..
  case tredAnd => rw [exec_tredAnd]; exact cross_eq_fixed hi hc ho fun _ => reduceTile_eq ..
  case tredOr => rw [exec_tredOr]; exact cross_eq_fixed hi hc ho fun _ => reduceTile_eq ..
  -- R164
  case rmsnE12 => rw [exec_rmsnE12]; exact rmsForm_eq_fixed hi hc ho
  case rmsnE14 => rw [exec_rmsnE14]; exact rmsForm_eq_fixed hi hc ho
  case rmsnE16 => rw [exec_rmsnE16]; exact rmsForm_eq_fixed hi hc ho
  case rmsnE18 => rw [exec_rmsnE18]; exact rmsForm_eq_fixed hi hc ho
  case rmsnE20 => rw [exec_rmsnE20]; exact rmsForm_eq_fixed hi hc ho

end

/-- Settles O5: in a group of one partition setting each cross-lane instruction writes the table's word, which completes
in every member. `test_cross_lanes_meet` has a group that meets the premises. -/
theorem crossLaneResults : Obligations.CrossLaneResults := by
  intro i r s ls h ⟨⟨tm, hi⟩, hc⟩ ho
  rw [exec_eq_fixed_of_cross hi hc ho h]
  exact fixed_done hi hc

end Sys2Proof.Machine
end

section
/-!
PROOFS. Encodings (R45, R51, R271, R272), memory along a step (R1), and the rows that leave memory alone: the laws about single
instructions taken together.
-/

namespace Sys2Proof.Machine

/-! ## Words -/

/-- The words are those of the rows that are no step of the device. -/
theorem encode_isSome (i : Instr) : (encode i).isSome = hasWord i := by
  cases i <;> rfl

/-- Every instruction's word decodes to it. -/
theorem decodeWord_encode (i : Instr) : Laws.Encoding.Statement i := by
  cases i with
  | nop => exact Laws.Encoding.nop
  | exit => exact Laws.Encoding.exit
  | reform => exact Laws.Encoding.reform
  | reformB => exact Laws.Encoding.reformB
  | yield => exact Laws.Encoding.yield
  | bkpt => exact Laws.Encoding.bkpt
  | iadd => exact Laws.Encoding.iadd _ _ _
  | isub => exact Laws.Encoding.isub _ _ _
  | imul => exact Laws.Encoding.imul _ _ _
  | imulhS => exact Laws.Encoding.imulhS _ _ _
  | imulhN => exact Laws.Encoding.imulhN _ _ _
  | imad => exact Laws.Encoding.imad _ _ _
  | iminS => exact Laws.Encoding.iminS _ _ _
  | iminN => exact Laws.Encoding.iminN _ _ _
  | imaxS => exact Laws.Encoding.imaxS _ _ _
  | imaxN => exact Laws.Encoding.imaxN _ _ _
  | iabs => exact Laws.Encoding.iabs _ _
  | and => exact Laws.Encoding.and _ _ _
  | or => exact Laws.Encoding.or _ _ _
  | xor => exact Laws.Encoding.xor _ _ _
  | andn => exact Laws.Encoding.andn _ _ _
  | shl => exact Laws.Encoding.shl _ _ _
  | shr => exact Laws.Encoding.shr _ _ _
  | sha => exact Laws.Encoding.sha _ _ _
  | rotl => exact Laws.Encoding.rotl _ _ _
  | popc => exact Laws.Encoding.popc _ _
  | clz => exact Laws.Encoding.clz _ _
  | bfx => exact Laws.Encoding.bfx _ _ _
  | bfi => exact Laws.Encoding.bfi _ _ _
  | isetEq => exact Laws.Encoding.isetEq _ _ _
  | isetNe => exact Laws.Encoding.isetNe _ _ _
  | isetLt => exact Laws.Encoding.isetLt _ _ _
  | isetLe => exact Laws.Encoding.isetLe _ _ _
  | isetGt => exact Laws.Encoding.isetGt _ _ _
  | isetGe => exact Laws.Encoding.isetGe _ _ _
  | isetLtN => exact Laws.Encoding.isetLtN _ _ _
  | isetLeN => exact Laws.Encoding.isetLeN _ _ _
  | isetGtN => exact Laws.Encoding.isetGtN _ _ _
  | isetGeN => exact Laws.Encoding.isetGeN _ _ _
  | mov => exact Laws.Encoding.mov _ _
  | sel => exact Laws.Encoding.sel _ _ _
  | add64 => exact Laws.Encoding.add64 _ _ _
  | sub64 => exact Laws.Encoding.sub64 _ _ _
  | shl64 => exact Laws.Encoding.shl64 _ _ _
  | shr64 => exact Laws.Encoding.shr64 _ _ _
  | mul64 => exact Laws.Encoding.mul64 _ _ _
  | lea0 => exact Laws.Encoding.lea0 _ _ _
  | lea1 => exact Laws.Encoding.lea1 _ _ _
  | lea2 => exact Laws.Encoding.lea2 _ _ _
  | lea3 => exact Laws.Encoding.lea3 _ _ _
  | iset64Eq => exact Laws.Encoding.iset64Eq _ _ _
  | iset64LtN => exact Laws.Encoding.iset64LtN _ _ _
  | iaddi => exact Laws.Encoding.iaddi _ _ _
  | andi => exact Laws.Encoding.andi _ _ _
  | ori => exact Laws.Encoding.ori _ _ _
  | shli => exact Laws.Encoding.shli _ _ _
  | shri => exact Laws.Encoding.shri _ _ _
  | ldi => exact Laws.Encoding.ldi _ _
  | ldhi => exact Laws.Encoding.ldhi _ _
  | win => exact Laws.Encoding.win _
  | part => exact Laws.Encoding.part _
  | prio => exact Laws.Encoding.prio _
  | sleep => exact Laws.Encoding.sleep _
  | waitf => exact Laws.Encoding.waitf _ _
  | bra => exact Laws.Encoding.bra _
  | beqz => exact Laws.Encoding.beqz _ _
  | bnez => exact Laws.Encoding.bnez _ _
  | bltz => exact Laws.Encoding.bltz _ _
  | bgez => exact Laws.Encoding.bgez _ _
  | call => exact Laws.Encoding.call _ _
  | jmp => exact Laws.Encoding.jmp _
  | ret => exact Laws.Encoding.ret _
  | callr => exact Laws.Encoding.callr _ _
  | qpost => exact Laws.Encoding.qpost _ _ _ _
  | jdecl => exact Laws.Encoding.jdecl _ _
  | jsign => exact Laws.Encoding.jsign _
  | jleave => exact Laws.Encoding.jleave _
  | jcancel => exact Laws.Encoding.jcancel _
  | jstat => exact Laws.Encoding.jstat _ _
  | lanePick => exact Laws.Encoding.lanePick _ _ _
  | laneBack => exact Laws.Encoding.laneBack _ _ _
  | laneFwd => exact Laws.Encoding.laneFwd _ _ _
  | laneFlip => exact Laws.Encoding.laneFlip _ _ _
  | laneRot => exact Laws.Encoding.laneRot _ _ _
  | pollEvery => exact Laws.Encoding.pollEvery _ _
  | pollSome => exact Laws.Encoding.pollSome _ _
  | pollMask => exact Laws.Encoding.pollMask _ _
  | pollSame => exact Laws.Encoding.pollSame _ _
  | pollPres => exact Laws.Encoding.pollPres _
  | pollCnt => exact Laws.Encoding.pollCnt _ _
  | matchLanes => exact Laws.Encoding.matchLanes _ _
  | mrank => exact Laws.Encoding.mrank _ _
  | mcnt => exact Laws.Encoding.mcnt _ _
  | mlead => exact Laws.Encoding.mlead _ _
  | tscanAddI => exact Laws.Encoding.tscanAddI _ _
  | tscanAddF => exact Laws.Encoding.tscanAddF _ _
  | tscanMaxS => exact Laws.Encoding.tscanMaxS _ _
  | tscanMinS => exact Laws.Encoding.tscanMinS _ _
  | tscanExAddI => exact Laws.Encoding.tscanExAddI _ _
  | tscanExAddF => exact Laws.Encoding.tscanExAddF _ _
  | tscanSegAddI => exact Laws.Encoding.tscanSegAddI _ _ _
  | tscanSegAddF => exact Laws.Encoding.tscanSegAddF _ _ _
  | tredAddI => exact Laws.Encoding.tredAddI _ _
  | tredAddF => exact Laws.Encoding.tredAddF _ _
  | tredMaxS => exact Laws.Encoding.tredMaxS _ _
  | tredMinS => exact Laws.Encoding.tredMinS _ _
  | tredMaxF => exact Laws.Encoding.tredMaxF _ _
  | tredMinF => exact Laws.Encoding.tredMinF _ _
  | tredAnd => exact Laws.Encoding.tredAnd _ _
  | tredOr => exact Laws.Encoding.tredOr _ _
  | ldlB => exact Laws.Encoding.ldlB _ _ _ _
  | ldlH => exact Laws.Encoding.ldlH _ _ _ _
  | ldlW => exact Laws.Encoding.ldlW _ _ _ _
  | ldlD => exact Laws.Encoding.ldlD _ _ _ _
  | ldlQ => exact Laws.Encoding.ldlQ _ _ _ _
  | stlB => exact Laws.Encoding.stlB _ _ _ _
  | stlH => exact Laws.Encoding.stlH _ _ _ _
  | stlW => exact Laws.Encoding.stlW _ _ _ _
  | stlD => exact Laws.Encoding.stlD _ _ _ _
  | stlQ => exact Laws.Encoding.stlQ _ _ _ _
  | atl => exact Laws.Encoding.atl _ _ _ _
  | tap => exact Laws.Encoding.tap _ _ _
  | tapNorm => exact Laws.Encoding.tapNorm _ _ _
  | tapq => exact Laws.Encoding.tapq _ _
  | spoke => exact Laws.Encoding.spoke _ _ _
  | barInit => exact Laws.Encoding.barInit _ _
  | barArrive => exact Laws.Encoding.barArrive _
  | barWait => exact Laws.Encoding.barWait _ _
  | barSync => exact Laws.Encoding.barSync _
  | barExpect => exact Laws.Encoding.barExpect _ _
  | barPhase => exact Laws.Encoding.barPhase _ _
  | barInval => exact Laws.Encoding.barInval _
  | fadd => exact Laws.Encoding.fadd _ _ _
  | fsub => exact Laws.Encoding.fsub _ _ _
  | fmul => exact Laws.Encoding.fmul _ _ _
  | ffma => exact Laws.Encoding.ffma _ _ _
  | fmin => exact Laws.Encoding.fmin _ _ _
  | fmax => exact Laws.Encoding.fmax _ _ _
  | fneg => exact Laws.Encoding.fneg _ _
  | fabs => exact Laws.Encoding.fabs _ _
  | fsetEq => exact Laws.Encoding.fsetEq _ _ _
  | fsetNe => exact Laws.Encoding.fsetNe _ _ _
  | fsetLt => exact Laws.Encoding.fsetLt _ _ _
  | fsetLe => exact Laws.Encoding.fsetLe _ _ _
  | fsetGt => exact Laws.Encoding.fsetGt _ _ _
  | fsetGe => exact Laws.Encoding.fsetGe _ _ _
  | fsetUn => exact Laws.Encoding.fsetUn _ _ _
  | fclass => exact Laws.Encoding.fclass _ _
  | frcp => exact Laws.Encoding.frcp _ _
  | frsq => exact Laws.Encoding.frsq _ _
  | fsqrt => exact Laws.Encoding.fsqrt _ _
  | fex2 => exact Laws.Encoding.fex2 _ _
  | flg2 => exact Laws.Encoding.flg2 _ _
  | fexp => exact Laws.Encoding.fexp _ _
  | fln => exact Laws.Encoding.fln _ _
  | fsinp => exact Laws.Encoding.fsinp _ _
  | fcosp => exact Laws.Encoding.fcosp _ _
  | ftanh => exact Laws.Encoding.ftanh _ _
  | fsig => exact Laws.Encoding.fsig _ _
  | h2add => exact Laws.Encoding.h2add _ _ _
  | h2mul => exact Laws.Encoding.h2mul _ _ _
  | h2fma => exact Laws.Encoding.h2fma _ _ _
  | b2add => exact Laws.Encoding.b2add _ _ _
  | b2mul => exact Laws.Encoding.b2mul _ _ _
  | b2fma => exact Laws.Encoding.b2fma _ _ _
  | xadd => exact Laws.Encoding.xadd _ _ _
  | xmul => exact Laws.Encoding.xmul _ _ _
  | xexp => exact Laws.Encoding.xexp _ _
  | xcvt => exact Laws.Encoding.xcvt _ _
  | xfrom => exact Laws.Encoding.xfrom _ _
  | xratio => exact Laws.Encoding.xratio _ _ _
  | cvt => exact Laws.Encoding.cvt _ _ _ _ _
  | bytp => exact Laws.Encoding.bytp _ _ _
  | hpk => exact Laws.Encoding.hpk _ _ _
  | reqI8 => exact Laws.Encoding.reqI8 _ _ _
  | reqI4 => exact Laws.Encoding.reqI4 _ _ _
  | reqN8 => exact Laws.Encoding.reqN8 _ _ _
  | reqN4 => exact Laws.Encoding.reqN4 _ _ _
  | rng => exact Laws.Encoding.rng _ _ _
  | gumb => exact Laws.Encoding.gumb _ _
  | unif => exact Laws.Encoding.unif _ _
  | softmax => exact Laws.Encoding.softmax _ _ _
  | rmsnE12 => exact Laws.Encoding.rmsnE12 _ _ _
  | rmsnE14 => exact Laws.Encoding.rmsnE14 _ _ _
  | rmsnE16 => exact Laws.Encoding.rmsnE16 _ _ _
  | rmsnE18 => exact Laws.Encoding.rmsnE18 _ _ _
  | rmsnE20 => exact Laws.Encoding.rmsnE20 _ _ _
  | kvtag => exact Laws.Encoding.kvtag _ _ _
  | bnds => exact Laws.Encoding.bnds _ _ _
  | kvmove => exact Laws.Encoding.kvmove _ _ _
  | topk => exact Laws.Encoding.topk _ _ _
  | ldgB => exact Laws.Encoding.ldgB _ _ _ _
  | ldgH => exact Laws.Encoding.ldgH _ _ _ _
  | ldgW => exact Laws.Encoding.ldgW _ _ _ _
  | ldgD => exact Laws.Encoding.ldgD _ _ _ _
  | ldgQ => exact Laws.Encoding.ldgQ _ _ _ _
  | stgB => exact Laws.Encoding.stgB _ _ _ _
  | stgH => exact Laws.Encoding.stgH _ _ _ _
  | stgW => exact Laws.Encoding.stgW _ _ _ _
  | stgD => exact Laws.Encoding.stgD _ _ _ _
  | stgQ => exact Laws.Encoding.stgQ _ _ _ _
  | ldf => exact Laws.Encoding.ldf _ _ _ _
  | stf => exact Laws.Encoding.stf _ _ _ _
  | stfRs => exact Laws.Encoding.stfRs _ _ _ _
  | pref => exact Laws.Encoding.pref _ _
  | cfill => exact Laws.Encoding.cfill _ _ _
  | gathW => exact Laws.Encoding.gathW _ _ _ _
  | gathD => exact Laws.Encoding.gathD _ _ _ _
  | gathF => exact Laws.Encoding.gathF _ _ _ _
  | scatW => exact Laws.Encoding.scatW _ _ _ _
  | scatD => exact Laws.Encoding.scatD _ _ _ _
  | kvrot => exact Laws.Encoding.kvrot _ _ _ _
  | copy => exact Laws.Encoding.copy _ _ _
  | bcopy => exact Laws.Encoding.bcopy _ _ _ _
  | copyx => exact Laws.Encoding.copyx _ _ _
  | mma => exact Laws.Encoding.mma _ _ _ _
  | mmas => exact Laws.Encoding.mmas _ _ _
  | accz => exact Laws.Encoding.accz _ _ _
  | attn => exact Laws.Encoding.attn _ _ _ _
  | attnr => exact Laws.Encoding.attnr _ _ _ _
  | kvap => exact Laws.Encoding.kvap _ _ _ _
  | kvrq => exact Laws.Encoding.kvrq _ _ _ _
  | ldvsW => exact Laws.Encoding.ldvsW _ _ _ _
  | ldvsD => exact Laws.Encoding.ldvsD _ _ _ _
  | ldvsQ => exact Laws.Encoding.ldvsQ _ _ _ _
  | valid => exact Laws.Encoding.valid _ _ _
  | verr => exact Laws.Encoding.verr _ _ _
  | casv => exact Laws.Encoding.casv _ _ _ _
  | atom => exact Laws.Encoding.atom _ _ _ _
  | cas => exact Laws.Encoding.cas _ _ _ _
  | red => exact Laws.Encoding.red _ _ _ _
  | fenceAcq => exact Laws.Encoding.fenceAcq _
  | fenceRel => exact Laws.Encoding.fenceRel _
  | fenceAr => exact Laws.Encoding.fenceAr _
  | fenceSc => exact Laws.Encoding.fenceSc _
  | ldacqW => exact Laws.Encoding.ldacqW _ _ _ _
  | ldacqD => exact Laws.Encoding.ldacqD _ _ _ _
  | strelW => exact Laws.Encoding.strelW _ _ _ _
  | strelD => exact Laws.Encoding.strelD _ _ _ _
  | trap => exact Laws.Encoding.trap _
  | rett => exact Laws.Encoding.rett
  | gets => exact Laws.Encoding.gets _ _
  | sets => exact Laws.Encoding.sets _ _
  | snap => exact Laws.Encoding.snap
  | tlbinv => exact Laws.Encoding.tlbinv _ _
  | ctxsv => exact Laws.Encoding.ctxsv _ _
  | ctxld => exact Laws.Encoding.ctxld _ _
  | halt => exact Laws.Encoding.halt
  | tapld => exact Laws.Encoding.tapld _ _
  | launch => exact Laws.Encoding.launch _ _ _
  | haltw => exact Laws.Encoding.haltw
  | ldp => exact Laws.Encoding.ldp _ _ _
  | ldx => exact Laws.Encoding.ldx _ _ _
  | ldval => exact Laws.Encoding.ldval _ _ _
  | addw => exact Laws.Encoding.addw _ _ _ _
  | subw => exact Laws.Encoding.subw _ _ _ _
  | cmpw => exact Laws.Encoding.cmpw _ _ _
  | bltw => exact Laws.Encoding.bltw _ _ _
  | bnew => exact Laws.Encoding.bnew _ _ _
  | loop => exact Laws.Encoding.loop _ _
  | skip => exact Laws.Encoding.skip _ _
  | sett => exact Laws.Encoding.sett _ _
  | emit => exact Laws.Encoding.emit _ _ _
  | flush => exact Laws.Encoding.flush _
  | bundleEntry => exact Laws.Encoding.bundleEntry _ _
  | flagWaitRelease => exact Laws.Encoding.flagWaitRelease _ _
  | operationComplete => exact Laws.Encoding.operationComplete _
  | binAgeRelease => exact Laws.Encoding.binAgeRelease _ _
  | binIdleRelease => exact Laws.Encoding.binIdleRelease _ _
  | binRefill => exact Laws.Encoding.binRefill _
  | issuePromotion => exact Laws.Encoding.issuePromotion _ _
  | sleepWake => exact Laws.Encoding.sleepWake _ _
  | waitfTimeout => exact Laws.Encoding.waitfTimeout _ _
  | waitfWriteWake => exact Laws.Encoding.waitfWriteWake _ _
  | waitfEarlyWake => exact Laws.Encoding.waitfEarlyWake _ _
  | pageWalk => exact Laws.Encoding.pageWalk _ _ _
  | storePerform => exact Laws.Encoding.storePerform _
  | scratchpadLineArrival => exact Laws.Encoding.scratchpadLineArrival _ _ _
  | pannierSend => exact Laws.Encoding.pannierSend _
  | residencyExpire => exact Laws.Encoding.residencyExpire _
  | copyComplete => exact Laws.Encoding.copyComplete _
  | copyFault => exact Laws.Encoding.copyFault _
  | mmaGrant => exact Laws.Encoding.mmaGrant _
  | reservationPromotion => exact Laws.Encoding.reservationPromotion _ _
  | mmaCallEnd => exact Laws.Encoding.mmaCallEnd _
  | bufferEviction => exact Laws.Encoding.bufferEviction _ _
  | heldSumFlush => exact Laws.Encoding.heldSumFlush _ _
  | attnStop => exact Laws.Encoding.attnStop _
  | kvOpComplete => exact Laws.Encoding.kvOpComplete _
  | tapComplete => exact Laws.Encoding.tapComplete _
  | tapGenerationRetire => exact Laws.Encoding.tapGenerationRetire
  | spokeComplete => exact Laws.Encoding.spokeComplete _
  | snapshotLatch => exact Laws.Encoding.snapshotLatch
  | qbaseWrite => exact Laws.Encoding.qbaseWrite _ _
  | qlog2Write => exact Laws.Encoding.qlog2Write _ _
  | queueEnable => exact Laws.Encoding.queueEnable _
  | qtailWrite => exact Laws.Encoding.qtailWrite _ _
  | errClear => exact Laws.Encoding.errClear _
  | packetRead => exact Laws.Encoding.packetRead _
  | dependencePoll => exact Laws.Encoding.dependencePoll _
  | placement => exact Laws.Encoding.placement _
  | csigWrite => exact Laws.Encoding.csigWrite _
  | remoteWriteArrival => exact Laws.Encoding.remoteWriteArrival _ _ _ _ _
  | remoteAccessArrival => exact Laws.Encoding.remoteAccessArrival _ _ _ _
  | hostWriteArrival => exact Laws.Encoding.hostWriteArrival _ _ _
  | hostReadArrival => exact Laws.Encoding.hostReadArrival _ _ _
  | atomicopCompletion => exact Laws.Encoding.atomicopCompletion _ _
  | fabricLinkFailure => exact Laws.Encoding.fabricLinkFailure _
  | deviceLost => exact Laws.Encoding.deviceLost _
  | pcieLinkDown => exact Laws.Encoding.pcieLinkDown _
  | correctedError => exact Laws.Encoding.correctedError _
  | uncorrectableError => exact Laws.Encoding.uncorrectableError _
  | unitFailure => exact Laws.Encoding.unitFailure _
  | thermalTrip => exact Laws.Encoding.thermalTrip
  | currentLimit => exact Laws.Encoding.currentLimit
  | hostReset => exact Laws.Encoding.hostReset
  | attestation => exact Laws.Encoding.attestation
  | health => exact Laws.Encoding.health
  | snapread => exact Laws.Encoding.snapread
  | snapRearm => exact Laws.Encoding.snapRearm
  | snaptrig => exact Laws.Encoding.snaptrig
  | fwupdate => exact Laws.Encoding.fwupdate _ _
  | reset => exact Laws.Encoding.reset
  | pcap => exact Laws.Encoding.pcap _
  | fence => exact Laws.Encoding.fence _
  | fenceClear => exact Laws.Encoding.fenceClear
  | fwcommit => exact Laws.Encoding.fwcommit
  | pcieLinkUp => exact Laws.Encoding.pcieLinkUp _
  | remoteWriteAcknowledged => exact Laws.Encoding.remoteWriteAcknowledged _ _
  | hostAtomicopArrival => exact Laws.Encoding.hostAtomicopArrival _ _ _
  | powerLoss => exact Laws.Encoding.powerLoss

theorem encode_injective {i j : Instr} {p : WordSpace × Word} (hi : encode i = some p) (hj : encode j = some p) : i = j :=
  Except.ok.inj ((decodeWord_encode i _ _ hi).symm.trans (decodeWord_encode j _ _ hj))

/-- Settles O53: each instruction's word reads back as it, also as four bytes before others, and so no two share one. -/
theorem decodeEncode : Obligations.DecodeEncode := by
  refine ⟨fun i => ?_, fun i sp w h => ⟨decodeWord_encode i sp w h, fun rest => ?_⟩, fun i j p => encode_injective⟩
  · rw [← encode_isSome, Option.isSome_iff_exists, Prod.exists]
  · rw [decode_leBytes, decodeWord_encode i sp w h]

/-- Settles O52: each word is closed, and the decoder evaluates. -/
theorem decodeWords : Obligations.DecodeWords := by
  unfold Obligations.DecodeWords
  decide

/-! ## Memory -/

/-- Settles O56: what a move leads to is an instruction to execute with memory as it was, or a state whose memory keeps its
form (`stage_keeps`), and no instruction takes memory out of its form (`exec_canonical`). -/
theorem stepKeepsMemory : Obligations.StepKeepsMemory := by
  intro s t hw hs
  have hk := stage_keeps s
  unfold step at hs
  cases hg : stage s with
  | run i u =>
    rw [hg] at hk hs
    have hu : u.mem = s.mem := hk
    exact exec_canonical i u (by rw [hu]; exact hw) t hs
  | done u =>
    rw [hg] at hk hs
    cases hs
    exact hk hw

/-- The rows outside `mayWrite` leave memory as it was. -/
theorem exec_untouched {i : Instr} (h : mayWrite i = false) (s : State) : Untouched s (exec i s) := by
  cases i with
  | nop => exact execNop_mem _
  | exit => exact execExit_mem _
  | reform => exact execReform_mem _
  | reformB => exact execReformB_mem _
  | yield => exact execYield_mem _
  | bkpt => exact execBkpt_mem _
  | iadd => exact execIadd_mem _ _ _ _
  | isub => exact execIsub_mem _ _ _ _
  | imul => exact execImul_mem _ _ _ _
  | imulhS => exact execImulhS_mem _ _ _ _
  | imulhN => exact execImulhN_mem _ _ _ _
  | imad => exact execImad_mem _ _ _ _
  | iminS => exact execIminS_mem _ _ _ _
  | iminN => exact execIminN_mem _ _ _ _
  | imaxS => exact execImaxS_mem _ _ _ _
  | imaxN => exact execImaxN_mem _ _ _ _
  | iabs => exact execIabs_mem _ _ _
  | and => exact execAnd_mem _ _ _ _
  | or => exact execOr_mem _ _ _ _
  | xor => exact execXor_mem _ _ _ _
  | andn => exact execAndn_mem _ _ _ _
  | shl => exact execShl_mem _ _ _ _
  | shr => exact execShr_mem _ _ _ _
  | sha => exact execSha_mem _ _ _ _
  | rotl => exact execRotl_mem _ _ _ _
  | popc => exact execPopc_mem _ _ _
  | clz => exact execClz_mem _ _ _
  | bfx => exact execBfx_mem _ _ _ _
  | bfi => exact execBfi_mem _ _ _ _
  | isetEq => exact execIsetEq_mem _ _ _ _
  | isetNe => exact execIsetNe_mem _ _ _ _
  | isetLt => exact execIsetLt_mem _ _ _ _
  | isetLe => exact execIsetLe_mem _ _ _ _
  | isetGt => exact execIsetGt_mem _ _ _ _
  | isetGe => exact execIsetGe_mem _ _ _ _
  | isetLtN => exact execIsetLtN_mem _ _ _ _
  | isetLeN => exact execIsetLeN_mem _ _ _ _
  | isetGtN => exact execIsetGtN_mem _ _ _ _
  | isetGeN => exact execIsetGeN_mem _ _ _ _
  | mov => exact execMov_mem _ _ _
  | sel => exact execSel_mem _ _ _ _
  | add64 => exact execAdd64_mem _ _ _ _
  | sub64 => exact execSub64_mem _ _ _ _
  | shl64 => exact execShl64_mem _ _ _ _
  | shr64 => exact execShr64_mem _ _ _ _
  | mul64 => exact execMul64_mem _ _ _ _
  | lea0 => exact execLea0_mem _ _ _ _
  | lea1 => exact execLea1_mem _ _ _ _
  | lea2 => exact execLea2_mem _ _ _ _
  | lea3 => exact execLea3_mem _ _ _ _
  | iset64Eq => exact execIset64Eq_mem _ _ _ _
  | iset64LtN => exact execIset64LtN_mem _ _ _ _
  | iaddi => exact execIaddi_mem _ _ _ _
  | andi => exact execAndi_mem _ _ _ _
  | ori => exact execOri_mem _ _ _ _
  | shli => exact execShli_mem _ _ _ _
  | shri => exact execShri_mem _ _ _ _
  | ldi => exact execLdi_mem _ _ _
  | ldhi => exact execLdhi_mem _ _ _
  | win => exact execWin_mem _ _
  | part => exact execPart_mem _ _
  | prio => exact execPrio_mem _ _
  | sleep => exact execSleep_mem _ _
  | waitf => exact execWaitf_mem _ _ _
  | bra => exact execBra_mem _ _
  | beqz => exact execBeqz_mem _ _ _
  | bnez => exact execBnez_mem _ _ _
  | bltz => exact execBltz_mem _ _ _
  | bgez => exact execBgez_mem _ _ _
  | call => exact execCall_mem _ _ _
  | jmp => exact execJmp_mem _ _
  | ret => exact execRet_mem _ _
  | callr => exact execCallr_mem _ _ _
  | qpost => cases h
  | jdecl => exact execJdecl_mem _ _ _
  | jsign => exact execJsign_mem _ _
  | jleave => exact execJleave_mem _ _
  | jcancel => exact execJcancel_mem _ _
  | jstat => exact execJstat_mem _ _ _
  | lanePick => exact execLanePick_mem _ _ _ _
  | laneBack => exact execLaneBack_mem _ _ _ _
  | laneFwd => exact execLaneFwd_mem _ _ _ _
  | laneFlip => exact execLaneFlip_mem _ _ _ _
  | laneRot => exact execLaneRot_mem _ _ _ _
  | pollEvery => exact execPollEvery_mem _ _ _
  | pollSome => exact execPollSome_mem _ _ _
  | pollMask => exact execPollMask_mem _ _ _
  | pollSame => exact execPollSame_mem _ _ _
  | pollPres => exact execPollPres_mem _ _
  | pollCnt => exact execPollCnt_mem _ _ _
  | matchLanes => exact execMatchLanes_mem _ _ _
  | mrank => exact execMrank_mem _ _ _
  | mcnt => exact execMcnt_mem _ _ _
  | mlead => exact execMlead_mem _ _ _
  | tscanAddI => exact execTscanAddI_mem _ _ _
  | tscanAddF => exact execTscanAddF_mem _ _ _
  | tscanMaxS => exact execTscanMaxS_mem _ _ _
  | tscanMinS => exact execTscanMinS_mem _ _ _
  | tscanExAddI => exact execTscanExAddI_mem _ _ _
  | tscanExAddF => exact execTscanExAddF_mem _ _ _
  | tscanSegAddI => exact execTscanSegAddI_mem _ _ _ _
  | tscanSegAddF => exact execTscanSegAddF_mem _ _ _ _
  | tredAddI => exact execTredAddI_mem _ _ _
  | tredAddF => exact execTredAddF_mem _ _ _
  | tredMaxS => exact execTredMaxS_mem _ _ _
  | tredMinS => exact execTredMinS_mem _ _ _
  | tredMaxF => exact execTredMaxF_mem _ _ _
  | tredMinF => exact execTredMinF_mem _ _ _
  | tredAnd => exact execTredAnd_mem _ _ _
  | tredOr => exact execTredOr_mem _ _ _
  | ldlB => exact execLdlB_mem _ _ _ _ _
  | ldlH => exact execLdlH_mem _ _ _ _ _
  | ldlW => exact execLdlW_mem _ _ _ _ _
  | ldlD => exact execLdlD_mem _ _ _ _ _
  | ldlQ => exact execLdlQ_mem _ _ _ _ _
  | stlB => exact execStlB_mem _ _ _ _ _
  | stlH => exact execStlH_mem _ _ _ _ _
  | stlW => exact execStlW_mem _ _ _ _ _
  | stlD => exact execStlD_mem _ _ _ _ _
  | stlQ => exact execStlQ_mem _ _ _ _ _
  | atl => exact execAtl_mem _ _ _ _ _
  | tap => exact execTap_mem _ _ _ _
  | tapNorm => exact execTapNorm_mem _ _ _ _
  | tapq => exact execTapq_mem _ _ _
  | spoke => exact execSpoke_mem _ _ _ _
  | barInit => exact execBarInit_mem _ _ _
  | barArrive => exact execBarArrive_mem _ _
  | barWait => exact execBarWait_mem _ _ _
  | barSync => exact execBarSync_mem _ _
  | barExpect => exact execBarExpect_mem _ _ _
  | barPhase => exact execBarPhase_mem _ _ _
  | barInval => exact execBarInval_mem _ _
  | fadd => exact execFadd_mem _ _ _ _
  | fsub => exact execFsub_mem _ _ _ _
  | fmul => exact execFmul_mem _ _ _ _
  | ffma => exact execFfma_mem _ _ _ _
  | fmin => exact execFmin_mem _ _ _ _
  | fmax => exact execFmax_mem _ _ _ _
  | fneg => exact execFneg_mem _ _ _
  | fabs => exact execFabs_mem _ _ _
  | fsetEq => exact execFsetEq_mem _ _ _ _
  | fsetNe => exact execFsetNe_mem _ _ _ _
  | fsetLt => exact execFsetLt_mem _ _ _ _
  | fsetLe => exact execFsetLe_mem _ _ _ _
  | fsetGt => exact execFsetGt_mem _ _ _ _
  | fsetGe => exact execFsetGe_mem _ _ _ _
  | fsetUn => exact execFsetUn_mem _ _ _ _
  | fclass => exact execFclass_mem _ _ _
  | frcp => exact execFrcp_mem _ _ _
  | frsq => exact execFrsq_mem _ _ _
  | fsqrt => exact execFsqrt_mem _ _ _
  | fex2 => exact execFex2_mem _ _ _
  | flg2 => exact execFlg2_mem _ _ _
  | fexp => exact execFexp_mem _ _ _
  | fln => exact execFln_mem _ _ _
  | fsinp => exact execFsinp_mem _ _ _
  | fcosp => exact execFcosp_mem _ _ _
  | ftanh => exact execFtanh_mem _ _ _
  | fsig => exact execFsig_mem _ _ _
  | h2add => exact execH2add_mem _ _ _ _
  | h2mul => exact execH2mul_mem _ _ _ _
  | h2fma => exact execH2fma_mem _ _ _ _
  | b2add => exact execB2add_mem _ _ _ _
  | b2mul => exact execB2mul_mem _ _ _ _
  | b2fma => exact execB2fma_mem _ _ _ _
  | xadd => exact execXadd_mem _ _ _ _
  | xmul => exact execXmul_mem _ _ _ _
  | xexp => exact execXexp_mem _ _ _
  | xcvt => exact execXcvt_mem _ _ _
  | xfrom => exact execXfrom_mem _ _ _
  | xratio => exact execXratio_mem _ _ _ _
  | cvt => exact execCvt_mem _ _ _ _ _ _
  | bytp => exact execBytp_mem _ _ _ _
  | hpk => exact execHpk_mem _ _ _ _
  | reqI8 => exact execReqI8_mem _ _ _ _
  | reqI4 => exact execReqI4_mem _ _ _ _
  | reqN8 => exact execReqN8_mem _ _ _ _
  | reqN4 => exact execReqN4_mem _ _ _ _
  | rng => exact execRng_mem _ _ _ _
  | gumb => exact execGumb_mem _ _ _
  | unif => exact execUnif_mem _ _ _
  | softmax => exact execSoftmax_mem _ _ _ _
  | rmsnE12 => exact execRmsnE12_mem _ _ _ _
  | rmsnE14 => exact execRmsnE14_mem _ _ _ _
  | rmsnE16 => exact execRmsnE16_mem _ _ _ _
  | rmsnE18 => exact execRmsnE18_mem _ _ _ _
  | rmsnE20 => exact execRmsnE20_mem _ _ _ _
  | kvtag => exact execKvtag_mem _ _ _ _
  | bnds => exact execBnds_mem _ _ _ _
  | kvmove => exact execKvmove_mem _ _ _ _
  | topk => exact execTopk_mem _ _ _ _
  | ldgB => exact execLdgB_mem _ _ _ _ _
  | ldgH => exact execLdgH_mem _ _ _ _ _
  | ldgW => exact execLdgW_mem _ _ _ _ _
  | ldgD => exact execLdgD_mem _ _ _ _ _
  | ldgQ => exact execLdgQ_mem _ _ _ _ _
  | stgB => exact execStgB_mem _ _ _ _ _
  | stgH => exact execStgH_mem _ _ _ _ _
  | stgW => exact execStgW_mem _ _ _ _ _
  | stgD => exact execStgD_mem _ _ _ _ _
  | stgQ => exact execStgQ_mem _ _ _ _ _
  | ldf => exact execLdf_mem _ _ _ _ _
  | stf => exact execStf_mem _ _ _ _ _
  | stfRs => exact execStfRs_mem _ _ _ _ _
  | pref => exact execPref_mem _ _ _
  | cfill => exact execCfill_mem _ _ _ _
  | gathW => exact execGathW_mem _ _ _ _ _
  | gathD => exact execGathD_mem _ _ _ _ _
  | gathF => exact execGathF_mem _ _ _ _ _
  | scatW => exact execScatW_mem _ _ _ _ _
  | scatD => exact execScatD_mem _ _ _ _ _
  | kvrot => exact execKvrot_mem _ _ _ _ _
  | copy => exact execCopy_mem _ _ _ _
  | bcopy => exact execBcopy_mem _ _ _ _ _
  | copyx => exact execCopyx_mem _ _ _ _
  | mma => exact execMma_mem _ _ _ _ _
  | mmas => exact execMmas_mem _ _ _ _
  | accz => exact execAccz_mem _ _ _ _
  | attn => exact execAttn_mem _ _ _ _ _
  | attnr => exact execAttnr_mem _ _ _ _ _
  | kvap => exact execKvap_mem _ _ _ _ _
  | kvrq => exact execKvrq_mem _ _ _ _ _
  | ldvsW => exact execLdvsW_mem _ _ _ _ _
  | ldvsD => exact execLdvsD_mem _ _ _ _ _
  | ldvsQ => exact execLdvsQ_mem _ _ _ _ _
  | valid => exact execValid_mem _ _ _ _
  | verr => exact execVerr_mem _ _ _ _
  | casv => exact execCasv_mem _ _ _ _ _
  | atom => exact execAtom_mem _ _ _ _ _
  | cas => exact execCas_mem _ _ _ _ _
  | red => exact execRed_mem _ _ _ _ _
  | fenceAcq => exact execFenceAcq_mem _ _
  | fenceRel => exact execFenceRel_mem _ _
  | fenceAr => exact execFenceAr_mem _ _
  | fenceSc => exact execFenceSc_mem _ _
  | ldacqW => exact execLdacqW_mem _ _ _ _ _
  | ldacqD => exact execLdacqD_mem _ _ _ _ _
  | strelW => exact execStrelW_mem _ _ _ _ _
  | strelD => exact execStrelD_mem _ _ _ _ _
  | trap => exact execTrap_mem _ _
  | rett => exact execRett_mem _
  | gets => exact execGets_mem _ _ _
  | sets => exact execSets_mem _ _ _
  | snap => exact execSnap_mem _
  | tlbinv => exact execTlbinv_mem _ _ _
  | ctxsv => exact execCtxsv_mem _ _ _
  | ctxld => cases h
  | halt => exact execHalt_mem _
  | tapld => exact execTapld_mem _ _ _
  | launch => exact execLaunch_mem _ _ _ _
  | haltw => exact execHaltw_mem _
  | ldp => exact execLdp_mem _ _ _ _
  | ldx => exact execLdx_mem _ _ _ _
  | ldval => exact execLdval_mem _ _ _ _
  | addw => exact execAddw_mem _ _ _ _ _
  | subw => exact execSubw_mem _ _ _ _ _
  | cmpw => exact execCmpw_mem _ _ _ _
  | bltw => exact execBltw_mem _ _ _ _
  | bnew => exact execBnew_mem _ _ _ _
  | loop => exact execLoop_mem _ _ _
  | skip => exact execSkip_mem _ _ _
  | sett => exact execSett_mem _ _ _
  | emit => exact execEmit_mem _ _ _ _
  | flush => exact execFlush_mem _ _
  | bundleEntry => exact execBundleEntry_mem _ _ _
  | flagWaitRelease => exact execFlagWaitRelease_mem _ _ _
  | operationComplete => cases h
  | binAgeRelease => exact execBinAgeRelease_mem _ _ _
  | binIdleRelease => exact execBinIdleRelease_mem _ _ _
  | binRefill => exact execBinRefill_mem _ _
  | issuePromotion => exact execIssuePromotion_mem _ _ _
  | sleepWake => exact execSleepWake_mem _ _ _
  | waitfTimeout => exact execWaitfTimeout_mem _ _ _
  | waitfWriteWake => exact execWaitfWriteWake_mem _ _ _
  | waitfEarlyWake => exact execWaitfEarlyWake_mem _ _ _
  | pageWalk => exact execPageWalk_mem _ _ _ _
  | storePerform => cases h
  | scratchpadLineArrival => cases h
  | pannierSend => cases h
  | residencyExpire => exact execResidencyExpire_mem _ _
  | copyComplete => cases h
  | copyFault => cases h
  | mmaGrant => exact execMmaGrant_mem _ _
  | reservationPromotion => exact execReservationPromotion_mem _ _ _
  | mmaCallEnd => cases h
  | bufferEviction => exact execBufferEviction_mem _ _ _
  | heldSumFlush => cases h
  | attnStop => cases h
  | kvOpComplete => cases h
  | tapComplete => cases h
  | tapGenerationRetire => exact execTapGenerationRetire_mem _
  | spokeComplete => exact execSpokeComplete_mem _ _
  | snapshotLatch => exact execSnapshotLatch_mem _
  | qbaseWrite => exact execQbaseWrite_mem _ _ _
  | qlog2Write => exact execQlog2Write_mem _ _ _
  | queueEnable => exact execQueueEnable_mem _ _
  | qtailWrite => exact execQtailWrite_mem _ _ _
  | errClear => exact execErrClear_mem _ _
  | packetRead => exact execPacketRead_mem _ _
  | dependencePoll => exact execDependencePoll_mem _ _
  | placement => exact execPlacement_mem _ _
  | csigWrite => cases h
  | remoteWriteArrival => cases h
  | remoteAccessArrival => cases h
  | hostWriteArrival => cases h
  | hostReadArrival => exact execHostReadArrival_mem _ _ _ _
  | atomicopCompletion => cases h
  | fabricLinkFailure => exact execFabricLinkFailure_mem _ _
  | deviceLost => exact execDeviceLost_mem _ _
  | pcieLinkDown => exact execPcieLinkDown_mem _ _
  | correctedError => exact execCorrectedError_mem _ _
  | uncorrectableError => exact execUncorrectableError_mem _ _
  | unitFailure => exact execUnitFailure_mem _ _
  | thermalTrip => exact execThermalTrip_mem _
  | currentLimit => exact execCurrentLimit_mem _
  | hostReset => cases h
  | attestation => exact execAttestation_mem _
  | health => exact execHealth_mem _
  | snapread => exact execSnapread_mem _
  | snapRearm => exact execSnapRearm_mem _
  | snaptrig => exact execSnaptrig_mem _
  | fwupdate => exact execFwupdate_mem _ _ _
  | reset => cases h
  | pcap => exact execPcap_mem _ _
  | fence => exact execFence_mem _ _
  | fenceClear => exact execFenceClear_mem _
  | fwcommit => exact execFwcommit_mem _
  | pcieLinkUp => exact execPcieLinkUp_mem _ _
  | remoteWriteAcknowledged => exact execRemoteWriteAcknowledged_mem _ _ _
  | hostAtomicopArrival => cases h
  | powerLoss => cases h

/-- Settles O58: a byte is read from memory alone, which these rows leave as it was. -/
theorem onlyTheseWriteMemory : Obligations.OnlyTheseWriteMemory := by
  intro i s t h e a
  unfold State.byte
  rw [exec_untouched h s t e]

end Sys2Proof.Machine
end

section
/-!
PROOFS. Floating point, special functions, random and packing forms, conversions and `SOFTMAX` (R134, R137, R140, R144 to
R163): each is one of the common shapes with the value that the manual's table gives.
-/

namespace Sys2Proof.Machine

/-! ## Values in the manual's terms -/

/-- A test of two words for NaN, as a proposition. -/
theorem ite_isNaN (a b x y : Word) :
    (if f32IsNaN a || f32IsNaN b then x else y) = if f32IsNaN a ∨ f32IsNaN b then x else y := by
  simp only [Bool.or_eq_true]

theorem f32Min_eq (a b : Word) :
    f32Min a b = if f32IsNaN a ∨ f32IsNaN b then 0x7FC00000#32 else if f32Key a ≤ f32Key b then a else b := by
  unfold f32Min
  rw [ite_isNaN]
  simp only [← Nat.not_lt, ite_not]
  rfl

theorem f32Max_eq (a b : Word) :
    f32Max a b = if f32IsNaN a ∨ f32IsNaN b then 0x7FC00000#32 else if f32Key a < f32Key b then b else a :=
  ite_isNaN ..

/-- A compare, its condition for two numbers as a proposition (R148). -/
theorem f32Cmp_eq {un : Bool} {f : FVal → FVal → Bool} {p : FVal → FVal → Prop} [∀ x y, Decidable (p x y)]
    (h : ∀ x y, x.isNan = false → y.isNan = false → (f x y = true ↔ p x y)) (a b : Word) :
    f32Cmp un f a b = floatCompare a b p un := by
  unfold f32Cmp floatCompare f32IsNaN
  refine (onesIf_eq _ _ ?_).symm
  cases ha : (f32Val a).isNan <;> cases hb : (f32Val b).isNan <;> simp
  rw [Bool.eq_iff_iff, h _ _ ha hb, decide_eq_true_eq]

/-- Two numbers are equal where neither is less. -/
theorem FVal.eqv_iff {x y : FVal} (hx : x.isNan = false) (hy : y.isNan = false) :
    x.eqv y = true ↔ x.lt y = false ∧ y.lt x = false := by
  simp [FVal.eqv, hx, hy]

theorem f32Cmp_unordered (a b : Word) : f32Cmp true (fun _ _ => false) a b = onesIf (f32IsNaN a ∨ f32IsNaN b) := by
  unfold f32Cmp f32IsNaN
  refine (onesIf_eq _ _ ?_).symm
  cases (f32Val a).isNan <;> cases (f32Val b).isNan <;> rfl

theorem pairMap_eq (f : Ieee) (op : FVal → FVal → FVal → FVal) (a b d : Word) : pairMap f op a b d = packed f a b d op := by
  unfold pairMap packed fieldOf'
  norm_num

/-- `HPK` (R157): the low half of a below the low half of b. -/
theorem halfPack_eq (a b : Word) : halfPack a b = BitVec.ofNat 32 (b.toNat * 2 ^ 16 + fieldOf' a 0 16) := by
  have ha : (a &&& 0xFFFF#32) = BitVec.ofNat 32 (fieldOf' a 0 16) := by
    apply BitVec.eq_of_toNat_eq
    rw [BitVec.toNat_and]
    simp [fieldOf', Nat.and_two_pow_sub_one_eq_mod a.toNat 16]
    omega
  have hb : (b <<< 16) = BitVec.ofNat 32 (b.toNat * 2 ^ 16) := shl_eq 32 16 b
  have hand : b <<< 16 &&& (a &&& 0xFFFF#32) = 0#32 := by
    apply BitVec.eq_of_getLsbD_eq
    intro i hi
    have hm : ∀ i : Fin 32, 16 ≤ i.1 → (0xFFFF#32).getLsbD i.1 = false := by decide
    rw [BitVec.getLsbD_and, BitVec.getLsbD_and, BitVec.getLsbD_shiftLeft, BitVec.getLsbD_zero]
    by_cases h : i < 16
    · simp [h]
    · simp [hm ⟨i, hi⟩ (Nat.le_of_not_lt h)]
  unfold halfPack
  rw [← BitVec.add_eq_or_of_and_eq_zero _ _ hand, ha, hb, ← BitVec.ofNat_add]

/-- A Bool negated, as a proposition. -/
theorem Bool.not_iff_not {b : Bool} : (!b) = true ↔ ¬b = true := by cases b <;> decide

/-! ## Dispatch -/

/-- The dispatch: an instruction with a register result of the float table runs `fixed` with it. -/
theorem exec_eq_fixed_of_float {i : Instr} {r : Fixed} (h : floatResult i = some r) (s : State) :
    exec i s = fixed i r.lat r.dst r.value s := by
  cases i <;> cases h
  -- R146, R147
  case fadd => rfl
  case fsub => rfl
  case fmul => rfl
  case ffma => rfl
  case fmin => exact fixed_congr fun _ => f32Min_eq _ _
  case fmax => exact fixed_congr fun _ => f32Max_eq _ _
  case fneg => rfl
  case fabs => rfl
  -- R148, R149
  case fsetEq => exact fixed_congr fun _ => f32Cmp_eq (fun _ _ => FVal.eqv_iff) _ _
  case fsetNe =>
    exact fixed_congr fun _ => f32Cmp_eq (fun _ _ hx hy => Bool.not_iff_not.trans (not_congr (FVal.eqv_iff hx hy))) _ _
  case fsetLt => exact fixed_congr fun _ => f32Cmp_eq (fun _ _ _ _ => Iff.rfl) _ _
  case fsetLe => exact fixed_congr fun _ => f32Cmp_eq (fun _ _ _ _ => Bool.not_iff_not) _ _
  case fsetGt => exact fixed_congr fun _ => f32Cmp_eq (fun _ _ _ _ => Iff.rfl) _ _
  case fsetGe => exact fixed_congr fun _ => f32Cmp_eq (fun _ _ _ _ => Bool.not_iff_not) _ _
  case fsetUn => exact fixed_congr fun _ => f32Cmp_unordered _ _
  case fclass => rfl
  -- R152
  case h2add => exact fixed_congr fun _ => pairMap_eq ..
  case h2mul => exact fixed_congr fun _ => pairMap_eq ..
  case h2fma => exact fixed_congr fun _ => pairMap_eq ..
  case b2add => exact fixed_congr fun _ => pairMap_eq ..
  case b2mul => exact fixed_congr fun _ => pairMap_eq ..
  case b2fma => exact fixed_congr fun _ => pairMap_eq ..

/-- The special functions and the random forms run `fixed` with the table's function. -/
theorem exec_eq_fixed_of_special {i : Instr} {r : Fixed} (h : specialResult i = some r) (s : State) :
    exec i s = fixed i r.lat r.dst r.value s := by
  cases i <;> cases h <;> rfl

theorem exec_eq_fixed_of_pack {i : Instr} {r : Fixed} (h : packResult i = some r) (s : State) :
    exec i s = fixed i r.lat r.dst r.value s := by
  cases i <;> cases h
  case xcvt => rfl
  case xratio => rfl
  case bytp => rfl
  case hpk => exact fixed_congr fun _ => halfPack_eq _ _

theorem exec_eq_fixed2_of_extended {i : Instr} {r : Fixed2} (h : extendedResult i = some r) (s : State) :
    exec i s = fixed2 i r.lat r.dst r.value s := by
  cases i <;> cases h <;> rfl

theorem exec_eq_withStat {i : Instr} {r : Stated} (h : requantResult i = some r) (s : State) :
    exec i s = withStat i 6 r.dst s r.value := by
  cases i <;> cases h <;> rfl

theorem withStat_done {i : Instr} {s : State} {tm : Team} {ls : List Lane} (r : Stated) (hi : s.issuer = some (tm, ls))
    (hc : ∀ l ∈ ls, l.check (instrForm i) = none) : withStat i 6 r.dst s r.value = .next (s.completed ls r.done) :=
  runLanes_done hi hc (fun _ _ => rfl) (fun _ _ => .inl rfl)

/-! ## The stochastic state (R134, R156) -/

theorem State.completed_cur (s : State) (ls : List Lane) (d : Lane → Done) : (s.completed ls d).cur = s.cur := by
  rw [State.completed, State.commit_done]
  rfl

theorem State.completed_now (s : State) (ls : List Lane) (d : Lane → Done) : (s.completed ls d).now = s.now := by
  rw [State.completed, State.commit_done]
  rfl

/-- The state advances by the word of the first member. -/
theorem State.completed_advanceRs (s : State) (l : Lane) (ls : List Lane) (d : Lane → Done) :
    (s.completed (l :: ls) d).advanceRs (l :: ls) = (s.completed (l :: ls) d).modTeam s.cur.team
      (fun tm => { tm with rs := tm.rs.set s.curSlot l.rsWord }) := by
  unfold State.advanceRs State.curSlot
  rw [State.completed_cur]

/-! ## The statements -/

/-- Settles O2: each row of the two tables is `fixed` with its value. `test_FloatResults_meets` has groups that meet the
premises. -/
theorem floatResults : Obligations.FloatResults := by
  refine ⟨?_, ?_⟩ <;> intro i r s ls h ⟨⟨tm, hi⟩, hc⟩
  · rw [exec_eq_fixed_of_float h]
    exact fixed_done hi hc
  · rw [exec_eq_fixed_of_special h]
    exact fixed_done hi hc

/-- Settles O3: the extended forms are `fixed2`, the packing forms `fixed`. -/
theorem extendedResults : Obligations.ExtendedResults := by
  refine ⟨?_, ?_⟩ <;> intro i r s ls h ⟨⟨tm, hi⟩, hc⟩
  · rw [exec_eq_fixed2_of_extended h]
    exact fixed2_done hi hc
  · rw [exec_eq_fixed_of_pack h]
    exact fixed_done hi hc

/-- Settles O4: `REQ` is `withStat`; `CVT` completes likewise and then advances the state of its issue slot. -/
theorem conversionResults : Obligations.ConversionResults := by
  refine ⟨?_, ?_⟩
  · intro i r s ls h ⟨⟨tm, hi⟩, hc⟩
    rw [exec_eq_withStat h]
    exact withStat_done r hi hc
  · intro d a c t r s l ls ⟨⟨tm, hi⟩, hc⟩ u
    rw [← State.completed_advanceRs]
    exact runFormThen_done (after := fun ls s => if r = 4#3 then s.advanceRs ls else s) hi hc (fun _ _ => rfl)
      (fun _ _ => .inl rfl)

/-- Settles O6: in a group of one partition setting the lanes that `SOFTMAX` reads are the members of the tile. -/
theorem softmaxResult : Obligations.SoftmaxResult := by
  intro d a b s ls ⟨⟨tm, hi⟩, hc⟩ ho
  rw [exec_softmax]
  unfold execSoftmax
  rw [(mixed_eq hi).2 ho, partners_eq hi hc]
  exact runLanes_done hi hc (fun _ _ => rfl) (fun _ _ => .inl rfl)

end Sys2Proof.Machine
end

section
/-!
PROOFS. Control and thread settings (R10 to R17, R32, R33, R61 to R67, R76 to R80, R338, R339): branches, jumps, the
instructions that change a thread, and the order of the checks at issue.
-/

namespace Sys2Proof.Machine

/-! ## Members that differ -/

theorem State.mixed_of_none {s : State} {ls : List Lane} {d : Lane → Done} {t : Lane → Option Trap}
    (h : ∀ l ∈ ls, t l = none) : s.mixed ls d t = s.completed ls d := by
  unfold State.mixed State.completed
  rw [List.map_congr_left fun l hl => by rw [h l hl]]

theorem State.mixed_of_some {s : State} {ls : List Lane} {d : Lane → Done} {t : Lane → Option Trap} {u : Lane → Trap}
    (h : ∀ l ∈ ls, t l = some (u l)) : s.mixed ls d t = s.trapped ls u := by
  unfold State.mixed State.trapped
  rw [List.map_congr_left fun l hl => by rw [h l hl]]

/-- Members that trap or complete, each for itself (R61). -/
theorem runLanes_mixed {i : Instr} {s : State} {f : Lane → LaneOut} {tm : Team} {ls : List Lane} {d : Lane → Done}
    {t : Lane → Option Trap} (hi : s.issuer = some (tm, ls)) (hc : ∀ l ∈ ls, l.check (instrForm i) = none)
    (hf : ∀ l ∈ ls, f l = match t l with | some x => .trap x | none => .done (d l))
    (hr : ∀ l ∈ ls, (d l).flag = 0 ∨ l.th.flag (d l).flag < 15) : runLanes i s f = .next (s.mixed ls d t) := by
  refine runFormThen_commit (after := fun _ s => s) hi (fun l hl => ?_) (fun l _ => ?_)
  · cases ht : t l with
    | some x => exact Lane.outcome_trap (hc l hl) (by rw [hf l hl, ht])
    | none => exact Lane.outcome_done (hc l hl) (by rw [hf l hl, ht]) (hr l hl)
  · cases t l <;> rfl

/-- Every member completes, and something follows in the state. -/
theorem runLanesThen_done {i : Instr} {s : State} {f : Lane → LaneOut} {after : List Lane → State → State} {tm : Team}
    {ls : List Lane} {d : Lane → Done} (hi : s.issuer = some (tm, ls)) (hc : ∀ l ∈ ls, l.check (instrForm i) = none)
    (hf : ∀ l ∈ ls, f l = .done (d l)) (hr : ∀ l ∈ ls, (d l).flag = 0 ∨ l.th.flag (d l).flag < 15) :
    runLanesThen i s f after = .next (after ls (s.completed ls d)) :=
  runFormThen_done hi hc hf hr

theorem runLanes_trap {i : Instr} {s : State} {f : Lane → LaneOut} {tm : Team} {ls : List Lane} {t : Lane → Trap}
    (hi : s.issuer = some (tm, ls)) (hc : ∀ l ∈ ls, l.check (instrForm i) = none) (hf : ∀ l ∈ ls, f l = .trap (t l)) :
    runLanes i s f = .next (s.trapped ls t) :=
  runFormThen_trap (after := fun _ s => s) hi (fun l hl => Lane.outcome_trap (hc l hl) (hf l hl))

/-! ## Branches and jumps (R32, R33, R65, R67) -/

theorem branchIf_done {i : Instr} {s : State} {tm : Team} {ls : List Lane} {x : BitVec 18} {c taken : Lane → Bool}
    (hi : s.issuer = some (tm, ls)) (hc : ∀ l ∈ ls, l.check (instrForm i) = none) (h : ∀ l, c l = taken l) :
    branchIf i s x c = .next (s.completed ls (branchDone x taken)) := by
  refine runLanes_done hi hc (fun l _ => ?_) (fun _ _ => .inl rfl)
  rw [branchTarget_eq, h]
  rfl

/-- Settles O8: each branch is `branchIf` with the table's condition. -/
theorem branchTargets : Obligations.BranchTargets := by
  intro i x taken s ls h ⟨⟨tm, hi⟩, hc⟩
  cases i <;> cases h
  case bra => exact branchIf_done hi hc fun _ => rfl
  case beqz => exact branchIf_done hi hc fun _ => rfl
  case bnez => exact branchIf_done hi hc fun _ => rfl
  case bltz => exact branchIf_done hi hc fun _ => BitVec.msb_eq_toInt
  case bgez => exact branchIf_done hi hc fun _ => by rw [BitVec.msb_eq_toInt, ← decide_not]; simp only [Int.not_lt]

/-- A jump's trap: a target that is not a multiple of 4. -/
def jumpTrap (a : BitVec 7) (l : Lane) : Option Trap :=
  if (l.pair a).toNat % 4 = 0 then none else some (.atAddr .align (l.pair a))

theorem jumpReg_mixed {i : Instr} {s : State} {tm : Team} {ls : List Lane} {a : BitVec 7} {d : Option (BitVec 7)}
    {w : Lane → List Landing} (hi : s.issuer = some (tm, ls)) (hc : ∀ l ∈ ls, l.check (instrForm i) = none)
    (hw : ∀ l, w l = match d with | some d => l.wr2 d l.link | none => []) :
    jumpReg i s a w = .next (s.mixed ls (jumpDone a d) (jumpTrap a)) := by
  refine runLanes_mixed hi hc (fun l _ => ?_) (fun _ _ => .inl rfl)
  unfold jumpTrap LaneOut.guard jumpDone
  simp only [hw, enterPc_eq]
  by_cases h : (l.pair a).toNat % 4 = 0
  · simp [h] <;> rfl
  · simp [h]

/-- The jumps to a register's address are `jumpReg`, with the link as the one difference. -/
theorem exec_jump {i : Instr} {a : BitVec 7} {d : Option (BitVec 7)} {s : State} {ls : List Lane}
    (h : jumpOf i = some (a, d)) (hr : s.Ready (instrForm i) ls) :
    exec i s = .next (s.mixed ls (jumpDone a d) (jumpTrap a)) := by
  obtain ⟨⟨tm, hi⟩, hc⟩ := hr
  cases i <;> cases h
  case jmp => exact jumpReg_mixed hi hc fun _ => rfl
  case ret => exact jumpReg_mixed hi hc fun _ => rfl
  case callr => exact jumpReg_mixed hi hc fun _ => rfl

/-- Settles O9: a jump's members complete or trap each for itself; a `CALL` branches and writes the link. -/
theorem jumpsAndCalls : Obligations.JumpsAndCalls := by
  refine ⟨fun i a d s ls h hr => ⟨fun ha => ?_, fun ha => ?_, exec_jump h hr⟩, fun a x s ls ⟨⟨tm, hi⟩, hc⟩ => ?_⟩
  · rw [exec_jump h hr, State.mixed_of_none (t := jumpTrap a) fun l hl => if_pos (ha l hl)]
  · rw [exec_jump h hr, State.mixed_of_some (t := jumpTrap a) fun l hl => if_neg (ha l hl)]
  · refine runLanes_done hi hc (fun l _ => ?_) (fun _ _ => .inl rfl)
    rw [branchTarget_eq]
    rfl

/-! ## Miscellaneous (R10 to R17, R63) -/

theorem Lane.privileged_iff (l : Lane) : l.privileged = true ↔ l.th.st = .trapped := decide_eq_true_iff

/-- The members that a `REFORM` files. -/
theorem filter_not_privileged (ls : List Lane) :
    ls.filter (fun l => !l.privileged) = ls.filter (fun l => l.th.st ≠ .trapped) := by
  simp only [Lane.privileged, ne_eq, decide_not]

theorem Team.yieldGroups_eq (now : Nat) (ls : List Lane) : Team.yieldGroups now (ls.map (fun l => l.th.idx)) = fun t =>
    { t with groups := t.groups.map (fun g =>
        if ∃ l ∈ ls, l.th.idx ∈ g.members then { g with since := some now } else g) } := by
  funext t
  unfold Team.yieldGroups
  congr 2
  funext g
  congr 1
  simp [and_comm]

theorem execReform_done {s : State} {tm : Team} {ls : List Lane} (hi : s.issuer = some (tm, ls))
    (hc : ∀ l ∈ ls, l.check (instrForm .reform) = none) :
    let u := s.completed ls (fun l => { upd := if l.th.st = .trapped then id else Thread.file .none })
    execReform s = .next { u with reforms :=
      u.reforms ++ (ls.filter (fun l => l.th.st ≠ .trapped)).map (fun l => (u.cur.team, l.th.idx)) } := by
  intro u
  unfold execReform
  rw [runLanesThen_done hi hc (d := fun l => { upd := if l.th.st = .trapped then id else Thread.file .none })
    (fun l _ => by simp only [Lane.privileged, decide_eq_true_eq]) (fun _ _ => .inl rfl), filter_not_privileged]

theorem execReformB_done {s : State} {tm : Team} {ls : List Lane} (hi : s.issuer = some (tm, ls))
    (hc : ∀ l ∈ ls, l.check (instrForm .reformB) = none) :
    execReformB s = .next
      ((sortBy id ((ls.filter (fun l => l.th.st ≠ .trapped)).map (fun l => blockOf l.th.idx)).eraseDups).foldl
        (fun s b => s.collectorCheck s.cur.team b)
        (s.completed ls (fun l => { upd := if l.th.st = .trapped then id else Thread.file .collector }))) := by
  unfold execReformB
  rw [runLanesThen_done hi hc (d := fun l => { upd := if l.th.st = .trapped then id else Thread.file .collector })
    (fun l _ => by simp only [Lane.privileged, decide_eq_true_eq]) (fun _ _ => .inl rfl), filter_not_privileged]

/-- Settles O10: each form completes in every member, and its own effect follows. -/
theorem miscEffects : Obligations.MiscEffects := by
  refine fun s ls => ⟨fun ⟨⟨tm, hi⟩, hc⟩ => ?_, fun ⟨⟨tm, hi⟩, hc⟩ => ?_, fun ⟨⟨tm, hi⟩, hc⟩ => ?_,
    fun ⟨⟨tm, hi⟩, hc⟩ => execReform_done hi hc, fun ⟨⟨tm, hi⟩, hc⟩ => execReformB_done hi hc⟩
  · exact runLanes_done hi hc (fun _ _ => rfl) (fun _ _ => .inl rfl)
  · rw [exec_yield, execYield, runLanesThen_done hi hc (fun _ _ => rfl) (fun _ _ => .inl rfl), Team.yieldGroups_eq,
      State.completed_cur, State.completed_now]
  · rw [exec_exit, execExit, runLanesThen_done hi hc (fun _ _ => rfl) (fun _ _ => .inl rfl)]
    rfl

/-! ## Traps by instruction (R63, R324, R338, R339) -/

theorem Lane.privOnly_priv {l : Lane} (h : l.th.st = .trapped) (k : LaneOut) : l.privOnly k = k := by
  simp [Lane.privOnly, Lane.privileged, LaneOut.guard, h]

theorem Lane.privOnly_user {l : Lane} (h : l.th.st ≠ .trapped) (k : LaneOut) : l.privOnly k = .trap (.of .priv) := by
  simp [Lane.privOnly, Lane.privileged, LaneOut.guard, h]

theorem LaneOut.guard_pos {b : Bool} {t : Trap} {k : LaneOut} (h : b = true) : LaneOut.guard b t k = .trap t := if_pos h
theorem LaneOut.guard_neg {b : Bool} {t : Trap} {k : LaneOut} (h : b = false) : LaneOut.guard b t k = k := by
  rw [h]
  rfl

/-- Settles O11: `BKPT` and `TRAP` trap in every member; `RETT` passes its guards in turn. -/
theorem trapInstructions : Obligations.TrapInstructions := by
  refine ⟨fun s ls => ⟨fun ⟨⟨tm, hi⟩, hc⟩ => ?_, fun c ⟨⟨tm, hi⟩, hc⟩ => ?_⟩,
    fun s ls ⟨⟨tm, hi⟩, hc⟩ hp hs => ⟨fun ha => ?_, fun ha => ?_⟩⟩
  · exact runLanes_trap hi hc fun _ _ => rfl
  · refine runLanes_trap hi hc fun _ _ => ?_
    rw [show c.zeroExtend 64 = BitVec.ofNat 64 c.toNat from BitVec.eq_of_toNat_eq (by simp)]
  · refine runLanes_done hi hc (fun l hl => ?_) (fun _ _ => .inl rfl)
    rw [Lane.privOnly_priv (hp l hl), hs l hl]
    exact LaneOut.guard_neg (by simp [ha l hl])
  · refine runLanes_trap hi hc fun l hl => ?_
    rw [Lane.privOnly_priv (hp l hl), hs l hl]
    exact LaneOut.guard_pos (decide_eq_true (ha l hl))

/-! ## Thread settings (R76 to R80) -/

/-- `SLEEP #0` sleeps for one cycle (R79). -/
theorem max_one_toNat (x : BitVec 18) : max 1 x.toNat = if x = 0 then 1 else x.toNat := by
  split
  · next h => rw [h]; rfl
  · next h => exact Nat.max_eq_right (Nat.pos_of_ne_zero fun e => h (BitVec.eq_of_toNat_eq e))

/-- Settles O12: each setting completes with its effect, and `PRIO` and `WAITF` trap where their conditions fail. -/
theorem threadSettings : Obligations.ThreadSettings := by
  refine ⟨fun x s ls => ⟨fun ⟨⟨tm, hi⟩, hc⟩ => ?_, fun ⟨⟨tm, hi⟩, hc⟩ => ?_, fun ⟨⟨tm, hi⟩, hc⟩ hx => ?_,
    fun ⟨⟨tm, hi⟩, hc⟩ hx => ?_, fun ⟨⟨tm, hi⟩, hc⟩ => ?_⟩, fun d x s ls ⟨⟨tm, hi⟩, hc⟩ => ⟨fun key hk => ?_, fun c hk => ?_⟩⟩
  · exact runLanes_done hi hc (fun _ _ => rfl) (fun _ _ => .inl rfl)
  · exact runLanes_done hi hc (fun _ _ => rfl) (fun _ _ => .inl rfl)
  · refine runLanes_done hi hc (fun l hl => ?_) (fun _ _ => .inl rfl)
    exact LaneOut.guard_neg (decide_eq_false (Nat.not_lt.2 (hx l hl)))
  · exact runLanes_trap hi hc fun l hl => LaneOut.guard_pos (decide_eq_true (hx l hl))
  · refine runLanes_done hi hc (fun l hl => ?_) (fun _ _ => .inl rfl)
    rw [max_one_toNat]
    rfl
  · refine runLanes_done hi hc (fun l hl => ?_) (fun _ _ => .inl rfl)
    obtain ⟨p, hp⟩ := hk l hl
    rw [hp]
    rfl
  · refine runLanes_trap hi hc fun l hl => ?_
    rw [hk l hl]

end Sys2Proof.Machine
end

section
/-!
PROOFS. The checks at issue (R42, R48, R62, R327, R334): their order, what a member does whose check fails, and the privilege
of the system class.
-/

namespace Sys2Proof.Machine

/-! ## The checks at issue (R42, R48, R62, R327, R334) -/

/-- `ILLOP` at issue: a word that is not well formed, or that names `lit` with no data slot after it (R42, R48). -/
theorem Lane.check_illop {l : Lane} {fm : Form} (h : fm.ok = false ∨ (fm.namesLit = true ∧ l.s.cur.lit = .none)) :
    l.check fm = some (.of .illop) := by
  unfold Lane.check
  rw [if_pos]
  rcases h with h | ⟨h, hl⟩ <;> simp_all

/-- A word that passes has its registers looked at. -/
theorem Lane.check_wf {l : Lane} {fm : Form} (h : fm.ok = true) (hl : ¬(fm.namesLit = true ∧ l.s.cur.lit = .none)) :
    l.check fm = if fm.uses.any l.outside then some (.of .regrange)
      else if fm.uses.any l.poisonedUse then some (.of .mchk) else none := by
  unfold Lane.check
  rw [if_neg]
  simpa [h] using hl

/-- The checks at issue in their order (R62). -/
theorem Lane.check_cases (l : Lane) (fm : Form) :
    let noLit := fm.namesLit = true ∧ l.s.cur.lit = .none
    (fm.ok = false ∨ noLit → l.check fm = some (.of .illop)) ∧
    (fm.ok = true → ¬noLit → (∃ u ∈ fm.uses, l.outside u = true) → l.check fm = some (.of .regrange)) ∧
    (fm.ok = true → ¬noLit → (∀ u ∈ fm.uses, l.outside u = false) → (∃ u ∈ fm.uses, l.poisonedUse u = true) →
      l.check fm = some (.of .mchk)) ∧
    (fm.ok = true → ¬noLit → (∀ u ∈ fm.uses, l.outside u = false ∧ l.poisonedUse u = false) → l.check fm = none) := by
  refine ⟨Lane.check_illop, fun h hl ho => ?_, fun h hl ho hp => ?_, fun h hl hu => ?_⟩
  · rw [Lane.check_wf h hl, if_pos (List.any_eq_true.2 ho)]
  · rw [Lane.check_wf h hl, if_neg (by simpa using ho), if_pos (List.any_eq_true.2 hp)]
  · rw [Lane.check_wf h hl, if_neg (by simpa using fun u hm => (hu u hm).1), if_neg (by simpa using fun u hm => (hu u hm).2)]

/-- An instruction whose members act each on its own: the common shape with a form, and nothing follows where no member
completes. -/
def RunsForm (fm : Form) (s : State) (o : Host.Outcome State Fault Refusal) : Prop :=
  ∃ f after, o = runFormThen fm s f after ∧ ∀ u, after [] u = u

theorem runsForm_runLanesThen {i : Instr} {s : State} {f : Lane → LaneOut} {after : List Lane → State → State}
    (h : ∀ u, after [] u = u) : RunsForm (instrForm i) s (runLanesThen i s f after) := ⟨f, after, rfl, h⟩

theorem runsForm_runLanes {i : Instr} {s : State} {f : Lane → LaneOut} : RunsForm (instrForm i) s (runLanes i s f) :=
  runsForm_runLanesThen fun _ => rfl

/-- The shapes of which something follows in the state. -/
theorem runsForm_laneAccess {i : Instr} {f : BitVec 4} {write : Bool} {dst : Lane → List Nat} {req : Lane → Except Trap LaneReq}
    {s : State} : RunsForm (instrForm i) s (laneAccess i f write dst req s) :=
  runsForm_runLanesThen fun _ => rfl

theorem runsForm_loadVersioned {i : Instr} {n : Nat} {d a o : BitVec 7} {f : BitVec 4} {s : State} :
    RunsForm (instrForm i) s (loadVersioned i n d a o f s) :=
  runsForm_runLanesThen fun _ => rfl

theorem runsForm_kvLanes {i : Instr} {op : KvOp} {d a : BitVec 7} {f : BitVec 4} {b tag : Lane → Word} {align : Nat}
    {limit : Lane → Option Trap} {s : State} : RunsForm (instrForm i) s (kvLanes i op d a f b tag align limit s) :=
  runsForm_runLanesThen fun _ => rfl

theorem runsForm_attnLanes {i : Instr} {resume : Bool} {d a b : BitVec 7} {f : BitVec 4} {s : State} :
    RunsForm (instrForm i) s (attnLanes i resume d a b f s) :=
  runsForm_runLanesThen fun _ => rfl

theorem Team.yieldGroups_nil (now : Nat) : Team.yieldGroups now [] = id := by
  funext t
  simp [Team.yieldGroups]

theorem State.modTeam_id (s : State) (k : Nat) : s.modTeam k id = s := by
  simp [State.modTeam]

/-- Every instruction whose members act each on its own has that shape. -/
theorem exec_runsForm {i : Instr} (h : actsAlone i = true) (s : State) : RunsForm (formOf i) s (exec i s) := by
  cases i <;> try cases h
  case exit => rw [exec_exit]; exact runsForm_runLanesThen fun _ => rfl
  case reform => rw [exec_reform]; exact runsForm_runLanesThen fun u => by simp
  case reformB => rw [exec_reformB]; exact runsForm_runLanesThen fun _ => rfl
  case yield => rw [exec_yield]; exact runsForm_runLanesThen fun u => by rw [List.map_nil, Team.yieldGroups_nil, State.modTeam_id]
  case tapq => rw [exec_tapq]; exact runsForm_runLanesThen fun _ => rfl
  case stf => rw [exec_stf]; exact runsForm_runLanesThen fun _ => rfl
  case stfRs => rw [exec_stfRs]; exact runsForm_runLanesThen fun _ => rfl
  case cfill => rw [exec_cfill]; exact runsForm_runLanesThen fun _ => rfl
  case pref => rw [exec_pref]; exact runsForm_runLanesThen fun _ => rfl
  case sets => rw [exec_sets]; exact runsForm_runLanesThen fun _ => rfl
  case snap => rw [exec_snap]; exact runsForm_runLanesThen fun _ => rfl
  case halt => rw [exec_halt]; exact runsForm_runLanesThen fun _ => rfl
  case bcopy => rw [exec_bcopy]; exact runsForm_runLanesThen fun _ => rfl
  case cvt => rw [exec_cvt]; exact runsForm_runLanesThen fun u => by split <;> rfl
  case gathW => rw [exec_gathW]; exact runsForm_laneAccess
  case gathD => rw [exec_gathD]; exact runsForm_laneAccess
  case gathF => rw [exec_gathF, execGathF]; exact runsForm_laneAccess
  case scatW => rw [exec_scatW]; exact runsForm_laneAccess
  case scatD => rw [exec_scatD]; exact runsForm_laneAccess
  case ldvsW => rw [exec_ldvsW]; exact runsForm_loadVersioned
  case ldvsD => rw [exec_ldvsD]; exact runsForm_loadVersioned
  case ldvsQ => rw [exec_ldvsQ]; exact runsForm_loadVersioned
  case kvtag => rw [exec_kvtag]; exact runsForm_kvLanes
  case bnds => rw [exec_bnds]; exact runsForm_kvLanes
  case kvmove => rw [exec_kvmove]; exact runsForm_kvLanes
  case topk => rw [exec_topk]; exact runsForm_kvLanes
  case kvap => rw [exec_kvap]; exact runsForm_kvLanes
  case kvrq => rw [exec_kvrq]; exact runsForm_kvLanes
  case kvrot => rw [exec_kvrot]; exact runsForm_kvLanes
  case attn => rw [exec_attn]; exact runsForm_attnLanes
  case attnr => rw [exec_attnr]; exact runsForm_attnLanes
  case tapld => rw [exec_tapld]; exact ⟨_, _, rfl, fun _ => rfl⟩
  case tlbinv => rw [exec_tlbinv]; exact ⟨_, _, rfl, fun _ => rfl⟩
  case ctxsv => rw [exec_ctxsv]; exact ⟨_, _, rfl, fun _ => rfl⟩
  case ctxld => rw [exec_ctxld]; exact ⟨_, _, rfl, fun _ => rfl⟩
  all_goals exact runsForm_runLanes

/-- A check that fails in every member traps them all, whatever the instruction. -/
theorem RunsForm.trapped {fm : Form} {s : State} {o : Host.Outcome State Fault Refusal} (h : RunsForm fm s o) {tm : Team}
    {ls : List Lane} {t : Lane → Trap} (hi : s.issuer = some (tm, ls)) (hc : ∀ l ∈ ls, l.check fm = some (t l)) :
    o = .next (s.trapped ls t) := by
  obtain ⟨f, after, rfl, ha⟩ := h
  rw [runFormThen_trap hi (fun l hl => Lane.outcome_check (hc l hl)), ha]
  rfl

/-! ### One thread at a time -/

/-- A thread that runs, alone in its group, is seen as the issuer before its group is dissolved. -/
theorem State.Single.issuer {s : State} {l : Lane} (h : s.Single l) :
    ∃ tm, l.tm = { tm with groups := l.tm.groups } ∧ s.issuer = some (tm, [({ s := s, tm := tm, th := l.th } : Lane)]) :=
  State.Alone.issuer (fm := ⟨true, []⟩) { h with passes := rfl }

theorem State.Single.lane_s {s : State} {l : Lane} (h : s.Single l) : l.s = s.dissolve :=
  State.Alone.lane_s (fm := ⟨true, []⟩) { h with passes := rfl }

/-- The checks look at nothing that the group's dissolution changes. -/
theorem State.Single.check_eq {s : State} {l : Lane} (h : s.Single l) {tm : Team} (e : l.tm = { tm with groups := l.tm.groups })
    (fm : Form) : Lane.check { s := s, tm := tm, th := l.th } fm = l.check fm := by
  have hs := h.lane_s
  cases l
  dsimp only at hs e
  subst hs
  rw [e]
  rfl

/-- A member that fails a check at issue traps. -/
theorem State.member_check {fm : Form} {s : State} {m : Lane} {j : Nat} {t : Trap} (f : Lane → LaneOut × (State → State))
    (ht : s.teams[s.cur.team]? = some m.tm) (hl : s.laneFor m.tm j = some m) (hr : m.th.runnable = true)
    (hc : m.check fm = some t) : State.member fm f s j = s.trapIssued s.cur.team j t := by
  unfold State.member
  rw [ht]; dsimp only
  rw [hl]; dsimp only
  rw [hr, hc]
  rfl

/-- A thread alone that fails a check at issue: nothing holds it, and it acts on what comes before it. -/
theorem State.Single.run_check {before : State → Nat → State} {fm : Form} {s : State} {l : Lane} {t : Trap} {held : Lane → Bool}
    {f : Lane → LaneOut × (State → State)} (h : s.Single l) (hc : l.check fm = some t) :
    runSeqAfter before fm s held f = .next ((State.member fm f (before s.dissolve l.th.idx) l.th.idx).modTeam s.cur.team
      (Team.gather s.now s.cur.members)) := by
  obtain ⟨tm, e, hi⟩ := h.issuer
  have hfull : State.memberFull fm f s.dissolve l.th.idx = false := by
    unfold State.memberFull
    rw [show s.dissolve.cur.team = s.cur.team from rfl, h.team]
    dsimp only
    rw [h.lane]
    dsimp only
    rw [hc]
    simp
  unfold runSeqAfter
  rw [hi]
  simp only [List.map_cons, List.map_nil, sortBy_one, List.foldl_cons, List.foldl_nil, List.any_cons, List.any_nil,
    Bool.or_false, h.check_eq e, hc, hfull, Option.isNone_some, Bool.false_and, Bool.false_eq_true, if_false]

theorem State.Single.trapped {fm : Form} {s : State} {l : Lane} {t : Trap} {held : Lane → Bool}
    {f : Lane → LaneOut × (State → State)} (h : s.Single l) (hc : l.check fm = some t) :
    runFormSeq fm s held f = .next (s.actedTrap l t) := by
  unfold runFormSeq State.actedTrap
  rw [h.run_check hc, State.member_check f h.team h.lane h.runs hc, h.lane_s]

/-- The members of an instruction act one after another, in the common shape with a form. -/
def RunsSeq (fm : Form) (s : State) (o : Host.Outcome State Fault Refusal) : Prop :=
  ∃ held f, o = runFormSeq fm s held f

theorem exec_runsSeq {i : Instr} (h : actsInTurn i = true) (hp : actsInPlace i = false) (s : State) :
    RunsSeq (formOf i) s (exec i s) := by
  cases i <;> try cases h
  all_goals try cases hp
  all_goals exact ⟨_, _, rfl⟩

/-- The threads act each in its place among the operations on join registers. -/
def RunsJoin (i : Instr) (s : State) (o : Host.Outcome State Fault Refusal) : Prop :=
  ∃ held f, o = runJoin i s held f

theorem exec_runsJoin {i : Instr} (h : actsInPlace i = true) (s : State) : RunsJoin i s (exec i s) := by
  cases i <;> try cases h
  all_goals exact ⟨_, _, rfl⟩

theorem formOf_actsInPlace {i : Instr} (h : actsInPlace i = true) : formOf i = instrForm i := by
  cases i <;> try cases h
  all_goals rfl

theorem State.Placed.trapped {i : Instr} {s : State} {l m : Lane} {t : Trap} {held : Lane → Bool}
    {f : Lane → LaneOut × (State → State)} (h : s.Placed l m) (hl : l.check (instrForm i) = some t)
    (hm : m.check (instrForm i) = some t) : runJoin i s held f = .next (s.actedTrap m t) := by
  have hb : s.dissolve.leaveBefore s.dissolve.cur.team l.th.idx = m.s := by rw [h.left, h.lane_s]; rfl
  unfold runJoin State.actedTrap
  rw [h.run_check hl, hb, State.member_check f h.seat h.lane' h.runs' hm, h.same]

/-- Every member traps, and what follows where no member completes is nothing. -/
theorem runLanesThen_trap {i : Instr} {s : State} {f : Lane → LaneOut} {after : List Lane → State → State} {tm : Team}
    {ls : List Lane} {t : Lane → Trap} (hi : s.issuer = some (tm, ls)) (hc : ∀ l ∈ ls, l.check (instrForm i) = none)
    (hf : ∀ l ∈ ls, f l = .trap (t l)) (ha : ∀ u, after [] u = u) : runLanesThen i s f after = .next (s.trapped ls t) := by
  unfold runLanesThen
  rw [runFormThen_trap hi (fun l hl => Lane.outcome_trap (hc l hl) (hf l hl)), ha]
  rfl

/-! ### Privilege (R334) -/

/-- A privileged instruction is the common shape, and traps with `PRIV` in a member that is not in `TRAPPED` (R334). -/
def TrapsUser (fm : Form) (s : State) (o : Host.Outcome State Fault Refusal) : Prop :=
  ∃ f after, o = runFormThen fm s f after ∧ (∀ u, after [] u = u) ∧ ∀ l, l.th.st ≠ .trapped → f l = .trap (.of .priv)

theorem Lane.not_privileged {l : Lane} (h : l.th.st ≠ .trapped) : l.privileged = false := decide_eq_false h

theorem Lane.savePlan_user {l : Lane} (h : l.th.st ≠ .trapped) (a : DWord) (b : Word) : l.savePlan a b = .error (.of .priv) := by
  unfold Lane.savePlan
  rw [Lane.not_privileged h]
  rfl

theorem Lane.loadPlan_user {l : Lane} (h : l.th.st ≠ .trapped) (a : DWord) (b : Word) : l.loadPlan a b = .error (.of .priv) := by
  unfold Lane.loadPlan
  rw [Lane.not_privileged h]
  rfl

theorem trapsUser_privOnly {i : Instr} {s : State} {k : Lane → LaneOut} {after : List Lane → State → State}
    (h : ∀ u, after [] u = u) : TrapsUser (instrForm i) s (runLanesThen i s (fun l => l.privOnly (k l)) after) :=
  ⟨_, after, rfl, h, fun _ hl => Lane.privOnly_user hl _⟩

theorem exec_trapsUser {i : Instr} {fm : Form} (h : privilegedForm i = some fm) (s : State) : TrapsUser fm s (exec i s) := by
  cases i <;> cases h
  case rett => rw [exec_rett]; exact trapsUser_privOnly (after := fun _ s => s) fun _ => rfl
  case snap => rw [exec_snap]; exact trapsUser_privOnly fun _ => rfl
  case halt => rw [exec_halt]; exact trapsUser_privOnly fun _ => rfl
  case ctxsv a b =>
    rw [exec_ctxsv]
    refine ⟨_, _, rfl, fun _ => rfl, fun l hl => ?_⟩
    rw [Lane.savePlan_user hl]
  case ctxld a b =>
    rw [exec_ctxld]
    refine ⟨_, _, rfl, fun _ => rfl, fun l hl => ?_⟩
    rw [Lane.loadPlan_user hl, Lane.not_privileged hl]
    rfl
  case tapld a b =>
    rw [exec_tapld]
    refine ⟨_, _, rfl, fun _ => rfl, fun l hl => ?_⟩
    exact LaneOut.guard_pos (by rw [Lane.not_privileged hl]; rfl)

theorem TrapsUser.trapped {fm : Form} {s : State} {o : Host.Outcome State Fault Refusal} {ls : List Lane} (h : TrapsUser fm s o)
    (hr : s.Ready fm ls) (hu : ∀ l ∈ ls, l.th.st ≠ .trapped) : o = .next (s.trapped ls (fun _ => .of .priv)) := by
  obtain ⟨⟨tm, hi⟩, hc⟩ := hr
  obtain ⟨f, after, rfl, ha, ht⟩ := h
  rw [runFormThen_trap hi (fun l hl => Lane.outcome_trap (hc l hl) (ht l (hu l hl))), ha]
  rfl

/-- Settles O13: the order of the checks is `Lane.check`'s own; a check that fails traps in each of the three shapes an
instruction has, before what the instruction itself asks; and the system class traps with `PRIV` first of all. -/
theorem checksAtIssue : Obligations.ChecksAtIssue := by
  refine ⟨Lane.check_cases, fun i s tm ls t ha hi hc => (exec_runsForm ha s).trapped hi hc, fun i s l t ha hp h hc => ?_,
    fun i s l m t hp h hl hm => ?_, fun i fm s ls hf hr hu => (exec_trapsUser hf s).trapped hr hu,
    fun a b s ls ⟨⟨tm, hi⟩, hc⟩ hu => ?_, fun d n s ls ⟨⟨tm, hi⟩, hc⟩ hu hn => ?_, fun a n s ls ⟨⟨tm, hi⟩, hc⟩ hu hn => ?_⟩
  · obtain ⟨held, f, he⟩ := exec_runsSeq ha hp s
    rw [he, h.trapped hc]
  · obtain ⟨held, f, he⟩ := exec_runsJoin hp s
    rw [formOf_actsInPlace hp] at hl hm
    rw [he, h.trapped hl hm]
  · refine runFormThen_trap (after := fun _ s => s) hi fun l hl => Lane.outcome_trap (hc l hl) ?_
    dsimp only
    rw [(hu l hl).2]
    exact Lane.privOnly_user (hu l hl).1 _
  · refine runLanes_trap hi hc fun l hl => LaneOut.guard_pos ?_
    rw [Lane.not_privileged (hu l hl)]
    simpa [sregUserRead] using hn
  · rw [exec_sets]
    refine runLanesThen_trap hi hc (fun l hl => LaneOut.guard_pos ?_) fun _ => rfl
    rw [Lane.not_privileged (hu l hl)]
    simpa [sregUserWrite] using hn

end Sys2Proof.Machine
end

section
/-!
PROOFS. The step (R11, R24, R34, R277; log entries 8, 85) and the machine at its start (R8, R50, R201, R312, R315, R336, R355).
-/

namespace Sys2Proof.Machine

/-! ## The step runs the decoded instruction -/

/-- Four bytes as the little-endian word that `decode` reads. -/
theorem wordAt_eq (b0 b1 b2 b3 : Byte) : BitVec.ofNat 32 (leNat [b0, b1, b2, b3]) = b3 ++ b2 ++ b1 ++ b0 := by
  apply BitVec.eq_of_toNat_eq
  have h0 := b0.isLt; have h1 := b1.isLt; have h2 := b2.isLt; have h3 := b3.isLt
  simp only [leNat, BitVec.toNat_ofNat, BitVec.toNat_append]
  rw [← Nat.shiftLeft_add_eq_or_of_lt h0, ← Nat.shiftLeft_add_eq_or_of_lt h1, ← Nat.shiftLeft_add_eq_or_of_lt h2]
  simp only [Nat.shiftLeft_eq]
  omega

/-- The bytes at a key decode as the word at it does. -/
theorem State.decode_bytesAt {s : State} {key : Nat} {i : Instr} (h : decode .core (s.bytesAt key 4) = .ok (i, [])) :
    decodeCore (BitVec.ofNat 32 (s.natAt key 4)) = .ok i := by
  have e : BitVec.ofNat 32 (s.natAt key 4) = s.byte (key + 1 + 1 + 1) ++ s.byte (key + 1 + 1) ++ s.byte (key + 1) ++ s.byte key :=
    wordAt_eq _ _ _ _
  rw [e]
  change (match decodeWord .core (s.byte (key + 1 + 1 + 1) ++ s.byte (key + 1 + 1) ++ s.byte (key + 1) ++ s.byte key) with
    | .ok i => Except.ok (i, ([] : List Byte))
    | .error e => .error e) = .ok (i, []) at h
  change decodeWord .core _ = _
  generalize decodeWord .core _ = r at h
  cases r with
  | error e => cases h
  | ok j => cases h; rfl

/-- A group whose word can be fetched and decodes issues it. -/
theorem State.issueGroup_run {s : State} {k : Nat} {t : Team} {g : Group} {th : Thread} {key : Nat} {leaf : Leaf} {i : Instr}
    (hth : t.threads[g.lead]? = some th) (htr : s.translate (fetchWho t th) .fetch th.pc 4 = .ok (key, leaf))
    (hp : s.poisoned key 4 = false) (hd : decode .core (s.bytesAt key 4) = .ok (i, [])) :
    s.issueGroup k t g = s.runAs k g.members g.promotion (s.litAt th key) i := by
  have hw : s.fetchWord t th th.pc = .ok (BitVec.ofNat 32 (s.natAt key 4), key) := by
    unfold State.fetchWord
    rw [htr]
    dsimp only
    rw [hp]
    rfl
  unfold State.issueGroup State.groupInstr
  rw [hth]
  dsimp only
  rw [hw]
  dsimp only
  rw [State.decode_bytesAt hd]

/-- No slot of the core acts thread by thread: the slot's group issues what it stands at. -/
theorem State.issue_group {s : State} {core slot k : Nat} {t : Team} {g : Group} (hm : s.mgmt.state ≠ 2)
    (ht : ∀ x ∈ s.openTurns (core / 4), ¬(x.core = core ∧ x.slot = slot)) (hi : (core, slot) ∉ s.issued)
    (ha : s.aloneInHub core slot = true) (hg : s.pickGroup core slot = some (k, t, g)) :
    s.issue core slot = State.issueGroup { s.passOver core slot k g.members with
      issued := (core, slot) :: (s.passOver core slot k g.members).issued } k t g := by
  have hany : (s.openTurns (hubOf core)).any (fun t => decide (t.core = core ∧ t.slot = slot)) = false := by
    simpa [List.any_eq_false, hubOf] using ht
  unfold State.issue
  rw [if_neg hm, hany, hg, ha]
  simp [hi]

/-- A slot among those that act in order: the thread whose turn it is acts. -/
theorem State.issue_turn {s : State} {core slot j : Nat} {t : Turn} {tm : Team} {th : Thread} (hm : s.mgmt.state ≠ 2)
    (ht : ∃ x ∈ s.openTurns (core / 4), x.core = core ∧ x.slot = slot) (ho : s.hubOpen (core / 4) = false)
    (hn : s.nextTurn (core / 4) = some (t, j)) (htm : s.teams[t.team]? = some tm) (hr : tm.status = .resident)
    (hth : s.thread? t.team j = some th) (hru : th.runnable = true) :
    s.issue core slot = .run t.ins { s with
      turns := s.turns.map (fun x => if x.core = t.core ∧ x.slot = t.slot ∧ x.team = t.team then { x with left := x.left.erase j } else x)
      cur := { team := t.team, members := [j], lit := t.lit, walker := 0, promo := t.promo } } := by
  have hany : (s.openTurns (hubOf core)).any (fun t => decide (t.core = core ∧ t.slot = slot)) = true := by
    simpa [List.any_eq_true, hubOf] using ht
  unfold State.issue
  rw [if_neg hm, hany, if_pos rfl, show s.hubOpen (hubOf core) = false from ho]
  unfold State.takeTurn
  rw [show s.nextTurn (hubOf core) = some (t, j) from hn]
  simp [htm, hr, hth, hru, State.runAs]

/-- A walker's turn: its next word, where that decodes. -/
theorem State.walkerMove_run {s : State} {ctx : Nat} {w : Walker} {x : Word} {i : Instr} (hc : ctx ∉ s.walked)
    (hw : s.walkers.find? (fun w => w.ctx = ctx) = some w) (hr : s.walkRuns w = true) (hx : w.prog[w.wpc]? = some x)
    (hd : decodeWalker x = .ok i) :
    s.walkerMove ctx = .run i { s with walked := ctx :: s.walked, cur := { s.cur with walker := ctx } } := by
  unfold State.walkerMove
  rw [hw]
  simp [hr, hc, hx, hd]

/-- The step takes the first move of the agenda. -/
theorem stage_agenda {s : State} {m : Move} {ms : List Move} (h : s.agenda = m :: ms) :
    stage s = State.move { s with agenda := ms, fresh := s.fresh + 1, cur := { s.cur with promo := 0 } } m := by
  have hm : s.takeMove = (m, { s with agenda := ms }) := by
    unfold State.takeMove
    split
    · next e => cases h.symm.trans e; rfl
    · next e => cases h.symm.trans e
  unfold stage
  rw [hm]

theorem State.move_input {s : State} {x : Input} {i : Instr} (h : x.row = some i) : s.move (.input x) = .run i s := by
  change (match x.row with | some r => Stage.run r s | none => .done (s.takeInput x)) = _
  rw [h]

theorem step_run {s u : State} {i : Instr} (h : stage s = .run i u) : step s = exec i u := by
  unfold step
  rw [h]

/-- Settles O54: each kind of move runs the instruction that its agent stands at. -/
theorem stepRunsDecoded : Obligations.StepRunsDecoded := by
  intro s m ms hs u
  refine ⟨fun core slot k t g th key leaf i hm hi hst ht ha hg hth => ?_,
    fun core slot t j tm th hm hst ht ho hn htm hr hth hru => ?_, fun ctx w x i hm hc hw hr hx hd => ?_, fun i hm hd => ?_,
    fun x i hm hx => ?_⟩ <;> subst hm
  · intro v htr hp hd
    refine step_run ((stage_agenda hs).trans ?_)
    exact (State.issue_group (s := u) hst ht hi ha hg).trans (State.issueGroup_run hth htr hp hd)
  · exact step_run ((stage_agenda hs).trans (State.issue_turn hst ht ho hn htm hr hth hru))
  · exact step_run ((stage_agenda hs).trans (State.walkerMove_run hc hw hr hx hd))
  · exact step_run ((stage_agenda hs).trans (if_pos hd))
  · exact step_run ((stage_agenda hs).trans (State.move_input hx))

/-! ## The start -/

/-- A function's address space after reset holds nothing. -/
theorem State.reset_space (fn : Nat) : State.reset.space fn = ASpace.reset := by
  show (List.replicate 17 ASpace.reset).getD fn ASpace.reset = ASpace.reset
  rw [List.getD_eq_getElem?_getD, List.getElem?_replicate]
  split <;> rfl

theorem State.reset_health : State.reset.health = BitVec.ofNat 64 (192 * 2 ^ 48) := by decide +kernel

/-- The registers of a thread at its start beyond v0 and v1. -/
theorem newThread_regs {p : Packet} {m j n : Nat} {v : Word} (hn : 2 ≤ n) (h : (newThread p m j).regs[n]? = some v) : v = 0 := by
  change ([p.args.lo, p.args.hi] ++ List.replicate ((roleAt p.roles 0 j).2 - 2) 0)[n]? = some v at h
  rw [List.getElem?_append_right (by simpa using hn), List.getElem?_replicate] at h
  split at h <;> cases h
  rfl

theorem newThread_flag (p : Packet) (m j k : Nat) : (newThread p m j).flag k = 0 := by
  show (if k = 0 then 0 else (List.replicate 12 0).getD (k - 1) 0) = 0
  rw [List.getD_eq_getElem?_getD, List.getElem?_replicate]
  split
  · rfl
  · split <;> rfl

/-- Settles O55: the reset state, a thread and a team at their start, field by field. -/
theorem resetState : Obligations.ResetState := by
  refine ⟨⟨rfl, rfl, rfl, rfl, rfl, rfl, rfl, fun _ => rfl, fun _ => rfl, fun fn _ => ?_, rfl, State.reset_health, rfl⟩,
    fun p m j => ⟨rfl, rfl, rfl, rfl, fun n v hn h => newThread_regs hn h, rfl, rfl, newThread_flag p m j, rfl, rfl, rfl, rfl, rfl,
      rfl, rfl, fun h => ?_⟩, fun _ _ _ _ _ _ _ _ => ⟨rfl, rfl, rfl, rfl⟩⟩
  · rw [State.reset_space]
    exact ⟨rfl, rfl, rfl, rfl, rfl⟩
  · show (if p.seqen then _ else 0xFFFFFFFF#32) = _
    rw [h]
    rfl

end Sys2Proof.Machine
end

section
/-!
PROOFS. What a write does to memory and to the versions of its lines (R1, R106, R201).
-/

namespace Sys2Proof.Machine

theorem nodup_eraseDups : ∀ (n : Nat) (l : List Nat), l.length ≤ n → l.eraseDups.Nodup
  | _, [], _ => by simp
  | 0, _ :: _, h => absurd h (by simp)
  | n + 1, a :: l, h => by
    rw [List.eraseDups_cons, List.nodup_cons]
    refine ⟨fun hm => ?_, nodup_eraseDups n _ (Nat.le_trans (List.length_filter_le _ _) (by simpa using h))⟩
    simp at hm

/-- The lines of a byte range are those of its bytes. -/
theorem mem_linesOf {k n line : Nat} : line ∈ linesOf k n ↔ n ≠ 0 ∧ k / 128 ≤ line ∧ line ≤ (k + n - 1) / 128 := by
  unfold linesOf lineOf
  split
  · simp [*]
  · rw [List.mem_range'_1]
    have : k / 128 ≤ (k + n - 1) / 128 := Nat.div_le_div_right (by omega)
    omega

/-! ## Bytes -/

theorem State.storeBytes_mem (core : Option Nat) (s : State) (w : Nat × List Byte) :
    (State.storeBytes core s w).mem = memPut s.mem w.1 w.2 := by
  show memPut (State.mem (List.foldl State.noteChange s _)) w.1 w.2 = _
  rw [foldl_mem (fun _ _ => State.noteChange_mem _ _)]

theorem State.writeMem_mem (s : State) (core : Option Nat) (k : Nat) (bs : List Byte) :
    (s.writeMem core k bs).mem = memPut s.mem k bs := by
  show (List.foldl State.bumpVersion (State.storeBytes core s (k, bs)) _).mem = _
  rw [foldl_mem (fun _ _ => State.bumpVersion_mem _ _), State.storeBytes_mem]

/-- What a write leaves: its bytes read back, and the others are as before. -/
theorem State.writeMem_bytesAt {s : State} (h : Memory.wf s.mem = true) (core : Option Nat) (k : Nat) (bs : List Byte) :
    (s.writeMem core k bs).bytesAt k bs.length = bs := by
  unfold State.bytesAt
  rw [State.writeMem_mem, memBytes_memPut k bs h]

theorem State.writeMem_byte_outside {s : State} (h : Memory.wf s.mem = true) (core : Option Nat) {k a : Nat} {bs : List Byte}
    (ha : a < k ∨ k + bs.length ≤ a) : (s.writeMem core k bs).byte a = s.byte a := by
  unfold State.byte
  rw [State.writeMem_mem, memByte_memPut_outside h ha]

theorem State.performStore_of_unreachable {s : State} {k : Nat} (h : s.unreachable k = true) (e : SqEntry) (bs : List Byte) :
    s.performStore e k bs = s := if_pos h

theorem State.performStore_mem {s : State} {k : Nat} (h : s.unreachable k = false) (e : SqEntry) (bs : List Byte) :
    (s.performStore e k bs).mem = (s.writeMem (some e.core) k bs).mem := by
  unfold State.performStore
  rw [if_neg (by simp [h])]
  simp

/-! ## Versions -/

theorem State.storeBytes_vers (core : Option Nat) (s : State) (w : Nat × List Byte) : (State.storeBytes core s w).vers = s.vers := by
  show State.vers (List.foldl State.noteChange s _) = _
  induction List.filter _ _ generalizing s with
  | nil => rfl
  | cons l ls ih => exact ih _

theorem State.bumpVersion_of_own {s : State} {line : Nat} (h : line * 128 < 257 * 2 ^ 52) :
    s.bumpVersion line = { s with vers := Tab.put s.vers line (s.version line + 1) 0 } := by
  have hk : keyHost (line * 128) = false := decide_eq_false (Nat.not_le.2 h)
  unfold State.bumpVersion
  rw [hk]
  rfl

/-- Each of some lines outside the hosts goes one version on, and no other line does. -/
theorem State.bumpVersions {lines : List Nat} {s : State} (hw : Tab.wf 0 s.vers = true) (hn : lines.Nodup)
    (hl : ∀ l ∈ lines, l * 128 < 257 * 2 ^ 52) (line : Nat) :
    (lines.foldl State.bumpVersion s).version line = if line ∈ lines then s.version line + 1 else s.version line := by
  induction lines generalizing s with
  | nil => simp
  | cons x xs ih =>
    obtain ⟨hx, hxs⟩ := List.nodup_cons.1 hn
    rw [List.foldl_cons, State.bumpVersion_of_own (hl x List.mem_cons_self), ih (Tab.put_wf _ _ hw) hxs
      fun l h => hl l (List.mem_cons_of_mem _ h)]
    have hv : State.version { s with vers := Tab.put s.vers x (s.version x + 1) 0 } line =
        if line = x then s.version x + 1 else s.version line := Tab.get_put x line _ hw
    rw [hv]
    by_cases e : line = x
    · subst e; simp [hx]
    · simp [e]

/-- A write steps the version of each of its lines once. -/
theorem State.writeMem_version {s : State} (hw : Tab.wf 0 s.vers = true) (core : Option Nat) {k : Nat} {bs : List Byte}
    (hk : k + bs.length ≤ 257 * 2 ^ 52) (line : Nat) :
    (s.writeMem core k bs).version line = if line ∈ linesOf k bs.length then s.version line + 1 else s.version line := by
  have hv := State.storeBytes_vers core s (k, bs)
  have hb := State.bumpVersions (s := State.storeBytes core s (k, bs)) (lines := ([(k, bs)].flatMap (fun w => linesOf w.1 w.2.length)).eraseDups)
    (by rw [hv]; exact hw) (nodup_eraseDups _ _ (Nat.le_refl _)) (fun l h => by
      have hm : l ∈ linesOf k bs.length := by simpa using h
      have := (mem_linesOf.1 hm).2.2
      have := (mem_linesOf.1 hm).1
      omega) line
  have e : (State.storeBytes core s (k, bs)).version line = s.version line := by
    unfold State.version
    rw [hv]
  refine Eq.trans (show _ = _ from hb) ?_
  rw [e]
  simp

/-- Settles O59: a write is `memPut` on the bytes and one step on each of its lines' versions; a store that its queue performs
is such a write, where its memory can be reached. -/
theorem memoryReadsBack : Obligations.MemoryReadsBack := by
  refine ⟨fun s core k bs h => ⟨State.writeMem_bytesAt h core k bs, fun a ha => State.writeMem_byte_outside h core ha⟩,
    fun s core k bs hw hk line => ?_, fun s e k bs h => ⟨fun a ha => ?_, fun hu => ?_⟩⟩
  · rw [State.writeMem_version hw core hk]
    simp only [mem_linesOf, ne_eq, List.length_eq_zero_iff]
  · cases hu : s.unreachable k with
    | true => rw [State.performStore_of_unreachable hu]
    | false =>
      have hb := State.writeMem_byte_outside h (some e.core) ha
      unfold State.byte at hb ⊢
      rw [State.performStore_mem hu, hb]
  · have hb := State.writeMem_bytesAt h (some e.core) k bs
    unfold State.bytesAt at hb ⊢
    rw [State.performStore_mem hu, hb]

end Sys2Proof.Machine
end

section
/-!
PROOFS. What a completed instruction leaves unchanged (R11, R34, R39, R43), and taking a trap (R24, R321 to R332).
-/

namespace Sys2Proof.Machine

/-! ## Results outstanding -/

/-- A thread in which some results have landed: its registers, window, partition and status bits may differ. -/
def Thread.LandsTo (t u : Thread) : Prop :=
  u = { t with regs := u.regs, poisonRegs := u.poisonRegs, win := u.win, part := u.part, fpstat := u.fpstat }

theorem Thread.LandsTo.trans {t u v : Thread} (h : t.LandsTo u) (k : u.LandsTo v) : t.LandsTo v := by
  unfold Thread.LandsTo at *
  rw [k, h]

theorem foldl_landsTo {α : Type} {f : Thread → α → Thread} (h : ∀ t x, Thread.LandsTo t (f t x)) (l : List α) (t : Thread) :
    t.LandsTo (l.foldl f t) := by
  induction l generalizing t with
  | nil => rfl
  | cons x xs ih => exact (h t x).trans (ih _)

theorem Landing.apply_landsTo (t : Thread) (w : Landing) : t.LandsTo (Landing.apply t w) := by
  cases w <;> rfl

theorem Pend.apply_landsTo (t : Thread) (p : Pend) : t.LandsTo (Pend.apply t p) :=
  foldl_landsTo Landing.apply_landsTo p.writes t

theorem Thread.settle_pc (now : Nat) (t : Thread) : (t.settle now).pc = t.pc := by
  have h : Thread.LandsTo t (List.foldl Pend.apply t (t.pend.filter (fun p => p.lands ≤ now))) :=
    foldl_landsTo Pend.apply_landsTo _ t
  unfold Thread.settle
  rw [h]

/-! ## The frame of a completed instruction -/

/-- Outside the team's members and groups, only the operations and the entries of the store queue are added. -/
theorem State.completed_eq (s : State) (ls : List Lane) (d : Lane → Done) :
    s.completed ls d = { s with
      teams := s.teams.modify s.cur.team (fun t => (t.complete s ls d).regroup s.now s.cur.members)
      ops := s.ops ++ ls.zipIdx.flatMap (fun p => (d p.1).opOf p.1 s.nextId (s.nextId + p.2))
      sq := s.sq ++ ls.zipIdx.flatMap (fun p => (d p.1).sqOf p.1 s.nextId (s.nextId + p.2))
      nextId := s.nextId + ls.length } := by
  unfold State.completed
  rw [State.commit_done]
  unfold State.modTeam
  simp only [List.modify_modify_eq]
  rfl

/-- The thread a position of the team holds once some lanes have completed. -/
theorem Team.complete_thread {s : State} {ls : List Lane} {d : Lane → Done} {t : Team} {j : Nat} {th : Thread}
    (h : t.threads[j]? = some th) : (t.complete s ls d).threads[j]? = some (match ls.find? (fun l => l.th.idx = th.idx) with
      | some l => (d l).apply s.now (s.draw (laneOf th.idx) 2) s.nextId l.th
      | none => th) := by
  unfold Team.complete
  rw [List.getElem?_map, h]
  rfl

/-- The thread at the place where it goes on. -/
def Done.place (d : Done) (now : Nat) (th : Thread) : Thread :=
  if d.stay then { th with lastIssue := some now } else match d.goto with
    | some pc => Thread.jumpTo pc { th with lastIssue := some now }
    | none => Thread.advance { th with lastIssue := some now }

theorem Done.place_frame (d : Done) (now : Nat) (th : Thread) :
    d.place now th = { th with pc := (d.place now th).pc, sword := (d.place now th).sword, waited := (d.place now th).waited, lastIssue := some now } := by
  unfold Done.place
  split
  · rfl
  · split
    · rfl
    · unfold Thread.advance Thread.runTo
      split <;> rfl

theorem Done.apply_eq {d : Done} (h : d.upd = id) (now pick order : Nat) (th : Thread) :
    d.apply now pick order th = ((d.place now th).addPend now d.lat pick order d.writes).flagUp d.flag := by
  show d.upd _ = _
  rw [h]
  rfl

theorem Thread.addPend_frame (now lat pick order : Nat) (ws : List Landing) (t : Thread) :
    t.addPend now lat pick order ws = { t with pend := (t.addPend now lat pick order ws).pend } := by
  unfold Thread.addPend
  split <;> rfl

theorem Thread.addPend_nil (now lat pick order : Nat) (t : Thread) : t.addPend now lat pick order [] = t := rfl

theorem Thread.setFlag_frame (t : Thread) (k v : Nat) : t.setFlag k v = { t with flags := (t.setFlag k v).flags } := by
  unfold Thread.setFlag
  split <;> rfl

/-- A counter that another flag's change leaves. -/
theorem Thread.flag_setFlag_ne {t : Thread} {k n v : Nat} (h : k ≠ n) : (t.setFlag n v).flag k = t.flag k := by
  unfold Thread.setFlag Thread.flag
  split
  · rfl
  · next hn =>
    split
    · rfl
    · next hk => rw [List.getD_eq_getElem?_getD, List.getD_eq_getElem?_getD, List.getElem?_set_ne (by omega)]

theorem Thread.flag_setFlag_same {t : Thread} {k v : Nat} (h : 1 ≤ k) (hl : k ≤ t.flags.length) : (t.setFlag k v).flag k = v := by
  unfold Thread.setFlag Thread.flag
  rw [if_neg (by omega), if_neg (by omega), List.getD_eq_getElem?_getD, List.getElem?_set_self (by omega)]
  rfl

/-- What completing does to a member that its instruction does not itself change. -/
theorem Done.apply_frame {d : Done} (h : d.upd = id) (now pick order : Nat) (th : Thread) :
    let u := d.apply now pick order th
    u = { th with pc := u.pc, sword := u.sword, waited := u.waited, flags := u.flags, pend := u.pend, lastIssue := some now } := by
  intro u
  have e : u = _ := d.apply_eq h now pick order th
  rw [e]
  unfold Thread.flagUp
  rw [Thread.setFlag_frame, Thread.addPend_frame, Done.place_frame]

/-- The flags that it leaves. -/
theorem Done.place_addPend_flags (d : Done) (now pick order : Nat) (th : Thread) :
    ((d.place now th).addPend now d.lat pick order d.writes).flags = th.flags := by
  rw [Thread.addPend_frame, Done.place_frame]

theorem Done.apply_flag_ne {d : Done} (h : d.upd = id) {now pick order k : Nat} {th : Thread} (hk : k ≠ d.flag) :
    (d.apply now pick order th).flag k = th.flag k := by
  rw [Done.apply_eq h, Thread.flagUp, Thread.flag_setFlag_ne hk]
  unfold Thread.flag
  rw [Done.place_addPend_flags]

theorem Done.apply_flag_same {d : Done} (h : d.upd = id) {now pick order : Nat} {th : Thread} (h1 : 1 ≤ d.flag)
    (hl : d.flag ≤ th.flags.length) : (d.apply now pick order th).flag d.flag = th.flag d.flag + 1 := by
  rw [Done.apply_eq h, Thread.flagUp, Thread.flag_setFlag_same h1 (by rw [Done.place_addPend_flags]; exact hl)]
  unfold Thread.flag
  rw [Done.place_addPend_flags]

theorem Done.apply_pend {d : Done} (h : d.upd = id) (hw : d.writes = []) (now pick order : Nat) (th : Thread) :
    (d.apply now pick order th).pend = th.pend := by
  rw [Done.apply_eq h, hw, Thread.addPend_nil, Thread.flagUp, Thread.setFlag_frame, Done.place_frame]

/-- The one result outstanding of a thread that had none. -/
theorem Thread.addPend_of_none {t : Thread} (h : t.pend = []) (now lat pick order n : Nat) (v : Word) :
    t.addPend now lat pick order [.reg n v] =
      { t with pend := [{ order := order, due := now + lat, lands := now + 1 + pick % lat, writes := [.reg n v] }] } := by
  unfold Thread.addPend
  rw [h]
  rfl

/-- Settles O57: the frame is `State.completed_eq` with `Team.complete_thread`; a member keeps all but what `Done.apply_frame`
names; a result lands in one of the `L` cycles after its issue, so it is there `L` cycles later and not at once. -/
theorem completionFrame : Obligations.CompletionFrame := by
  refine ⟨fun s ls d => ⟨_, State.completed_eq s ls d, fun k hk => ?_, fun t ht => ?_⟩,
    fun d now pick order th h => ⟨Done.apply_frame h now pick order th, fun k hk => Done.apply_flag_ne h hk,
      fun hw => Done.apply_pend h hw now pick order th, fun h1 hl => Done.apply_flag_same h h1 hl⟩,
    fun th now lat pick order n v hp hl hn => ?_⟩
  · exact List.getElem?_modify_ne _ _ (Ne.symm hk)
  · refine ⟨(t.complete s ls d).regroup s.now s.cur.members, ?_, rfl, fun j th hth => ⟨fun hl => ?_, fun l hl => ?_⟩⟩
    · rw [List.getElem?_modify_eq, ht]
      rfl
    · rw [Team.regroup_threads, Team.complete_thread hth, List.find?_eq_none.2 (by simpa using hl)]
    · refine ⟨s.draw (laneOf th.idx) 2, ?_⟩
      rw [Team.regroup_threads, Team.complete_thread hth, hl]
  · have hm : pick % lat < lat := Nat.mod_lt _ hl
    rw [Thread.addPend_of_none hp]
    constructor
    · simp [Thread.settle, show ¬(now + 1 + pick % lat ≤ now) by omega]
    · simp [Thread.settle, show now + 1 + pick % lat ≤ now + lat by omega, Pend.apply, Landing.apply]

end Sys2Proof.Machine
end

section
/-!
PROOFS. Taking a trap, and leaving the join registers in order (R24, R26, R321 to R332; log entries 50, 85).
-/

namespace Sys2Proof.Machine

/-! ## The order of those that leave (R24) -/

theorem State.insertLeave_perm (s : State) (x : Leave) : ∀ ys, (s.insertLeave x ys).Perm (x :: ys)
  | [] => List.Perm.refl _
  | y :: ys => by
    unfold State.insertLeave
    split
    · exact List.Perm.refl _
    · exact ((s.insertLeave_perm x ys).cons y).trans (List.Perm.swap x y ys)

/-- Of two places, the first is not the later one. -/
def State.InPlace (s : State) (xs : List Leave) : Prop :=
  xs.Pairwise (fun x y => s.orderPlace x.team x.thr ≤ s.orderPlace y.team y.thr)

theorem State.insertLeave_inPlace (s : State) (x : Leave) : ∀ {ys}, s.InPlace ys → s.InPlace (s.insertLeave x ys)
  | [], _ => List.pairwise_singleton _ _
  | y :: ys, h => by
    obtain ⟨hy, hys⟩ := List.pairwise_cons.1 h
    unfold State.insertLeave
    split
    · next hlt =>
      refine List.pairwise_cons.2 ⟨fun z hz => ?_, h⟩
      rcases List.mem_cons.1 hz with rfl | hz
      · exact Nat.le_of_lt hlt
      · exact Nat.le_trans (Nat.le_of_lt hlt) (hy z hz)
    · next hge =>
      refine List.pairwise_cons.2 ⟨fun z hz => ?_, s.insertLeave_inPlace x hys⟩
      rcases List.mem_cons.1 ((s.insertLeave_perm x ys).mem_iff.1 hz) with rfl | hz
      · exact Nat.le_of_not_lt hge
      · exact hy z hz

theorem State.foldr_insertLeave (s : State) (xs : List Leave) :
    (xs.foldr s.insertLeave []).Perm xs ∧ s.InPlace (xs.foldr s.insertLeave []) := by
  induction xs with
  | nil => exact ⟨List.Perm.refl _, List.Pairwise.nil⟩
  | cons x xs ih => exact ⟨(s.insertLeave_perm x _).trans (ih.1.cons x), s.insertLeave_inPlace x ih.2⟩

/-! ## The team's place and its hub set -/

theorem State.orderPlace_of_team {s : State} {k : Nat} {tm : Team} (h : s.teams[k]? = some tm) (j : Nat) :
    s.orderPlace k j = tm.core * 65536 + j := by
  unfold State.orderPlace
  rw [h]

theorem State.trapCycle_of_team {s : State} {k : Nat} {tm : Team} (h : s.teams[k]? = some tm) :
    s.trapCycle k = if ∃ x ∈ s.issued, hubOf x.1 = hubOf tm.core then s.now + 1 else s.now := by
  unfold State.trapCycle State.hubIssued
  rw [h]
  simp only [List.any_eq_true, decide_eq_true_eq]

theorem State.enrolled_iff {s : State} {k : Nat} {tm : Team} (h : s.teams[k]? = some tm) (j : Nat) :
    s.enrolled k j = true ↔ ∃ h, s.hubsets[tm.hubset]? = some h ∧ ∃ jn ∈ h.joins, (k, j) ∈ jn.unsigned := by
  unfold State.enrolled
  rw [h]
  dsimp only
  cases s.hubsets[tm.hubset]? <;> simp

theorem State.leaveBefore_eq (s : State) (k j : Nat) :
    s.leaveBefore k j = s.leaveWhere (fun x => decide (x.since ≤ s.now ∧ s.orderPlace x.team x.thr ≤ s.orderPlace k j ∧
      hubOf (s.orderPlace x.team x.thr / 65536) = hubOf (s.orderPlace k j / 65536))) := by
  unfold State.leaveBefore
  simp only [Bool.decide_and, Bool.and_assoc]

/-- The teams that a stop of one stops (R26). -/
theorem State.widened_self {s : State} {k : Nat} {tm : Team} {h : HubSet} (ht : s.teams[k]? = some tm)
    (hh : s.hubsets[tm.hubset]? = some h) (hn : ∀ jn ∈ h.joins, jn.st = .idle ∨ ∀ e ∈ jn.enrolled, e.1 ≠ k) :
    s.widened k = [k] := by
  have hf : h.joins.any (fun jn => jn.st ≠ .idle && jn.enrolled.any (fun e => e.1 = k)) = false := by
    refine List.any_eq_false.2 fun jn hj ha => ?_
    obtain ⟨hi, he⟩ := Bool.and_eq_true_iff.1 ha
    obtain ⟨e, hm, hk⟩ := List.any_eq_true.1 he
    rcases hn jn hj with h | h
    · exact of_decide_eq_true hi h
    · exact h e hm (of_decide_eq_true hk)
  unfold State.widened
  rw [ht]; dsimp only
  rw [hh]; dsimp only
  rw [hf]
  rfl

theorem State.mem_widened {s : State} {k : Nat} {tm : Team} {h : HubSet} (ht : s.teams[k]? = some tm)
    (hh : s.hubsets[tm.hubset]? = some h) (hn : ∃ jn ∈ h.joins, jn.st ≠ .idle ∧ ∃ e ∈ jn.enrolled, e.1 = k) (k' : Nat) :
    k' ∈ s.widened k ↔ k' ∈ h.teams ∧ ∃ t, s.teams[k']? = some t ∧ t.seated = true := by
  have hf : h.joins.any (fun jn => jn.st ≠ .idle && jn.enrolled.any (fun e => e.1 = k)) = true := by
    simpa [List.any_eq_true] using hn
  unfold State.widened
  rw [ht]; dsimp only
  rw [hh]; dsimp only
  rw [hf, if_pos rfl, List.mem_filter]
  cases s.teams[k']? <;> simp

/-! ## Stopping teams (R328) -/

/-- Some state differs from another in teams only within a list, and of those in their groups alone. -/
def State.OnlyGroups (ks : List Nat) (s u : State) : Prop :=
  (∀ k, k ∉ ks → u.teams[k]? = s.teams[k]?) ∧
  ∀ (k : Nat) (t : Team), s.teams[k]? = some t → ∃ g, u.teams[k]? = some { t with groups := g }

theorem State.onlyGroups_refl (ks : List Nat) (s : State) : s.OnlyGroups ks s := ⟨fun _ _ => rfl, fun _ t h => ⟨t.groups, h⟩⟩

theorem State.OnlyGroups.trans {ks : List Nat} {s u v : State} (h : s.OnlyGroups ks u) (k : u.OnlyGroups ks v) :
    s.OnlyGroups ks v := by
  refine ⟨fun x hx => (k.1 x hx).trans (h.1 x hx), fun x t ht => ?_⟩
  obtain ⟨g, hg⟩ := h.2 x t ht
  obtain ⟨g', hg'⟩ := k.2 x _ hg
  exact ⟨g', hg'⟩

theorem State.onlyGroups_modTeam {ks : List Nat} {k : Nat} (hk : k ∈ ks) {f : Team → Team}
    (hf : ∀ t, f t = { t with groups := (f t).groups }) (s : State) : s.OnlyGroups ks (s.modTeam k f) := by
  refine ⟨fun x hx => List.getElem?_modify_ne _ _ (fun e => hx (e ▸ hk)), fun x t ht => ?_⟩
  by_cases e : k = x
  · subst e
    refine ⟨(f t).groups, ?_⟩
    show (s.teams.modify k f)[k]? = _
    rw [List.getElem?_modify_eq, ht, ← hf t]
    rfl
  · exact ⟨t.groups, (List.getElem?_modify_ne _ _ e).trans ht⟩

theorem State.onlyGroups_foldl {ks : List Nat} {α : Type} {f : State → α → State} {l : List α}
    (h : ∀ x ∈ l, ∀ s, State.OnlyGroups ks s (f s x)) (s : State) : s.OnlyGroups ks (l.foldl f s) := by
  induction l generalizing s with
  | nil => exact s.onlyGroups_refl ks
  | cons x xs ih =>
    exact (h x List.mem_cons_self s).trans (ih (fun y hy => h y (List.mem_cons_of_mem _ hy)) _)

theorem State.endTurns_onlyGroups (s : State) (ks : List Nat) : s.OnlyGroups ks (s.endTurns (fun t => ks.contains t.team)) := by
  refine State.onlyGroups_foldl (fun t ht u => State.onlyGroups_modTeam ?_ (fun _ => rfl) u) s
  simpa using (List.mem_filter.1 ht).2

/-- The thread as a stop leaves it. -/
theorem Thread.save_eq (th : Thread) : th.save = if th.st = .exited then th else
    { th.final with st := .saved, stSaved := th.st, whySaved := th.why, why := .none, stale := true } := rfl

theorem Team.stop_stop (held : Bool) (t : Team) : (t.stop held).stop held = t.stop held := by
  unfold Team.stop
  by_cases h : t.status = .resident <;> simp [h]

/-- Stopping some teams leaves the others. -/
theorem stop_not_mem {ks : List Nat} {held : Bool} {k : Nat} (hk : k ∉ ks) (s : State) :
    (ks.foldl (fun s k => s.modTeam k (Team.stop held)) s).teams[k]? = s.teams[k]? := by
  induction ks generalizing s with
  | nil => rfl
  | cons x xs ih =>
    obtain ⟨hx, hxs⟩ := not_or.1 (mt List.mem_cons.2 hk)
    rw [List.foldl_cons, ih hxs]
    exact List.getElem?_modify_ne _ _ (Ne.symm hx)

theorem stop_mem {ks : List Nat} {held : Bool} {k : Nat} (hk : k ∈ ks) (s : State) :
    (ks.foldl (fun s k => s.modTeam k (Team.stop held)) s).teams[k]? = (s.teams[k]?).map (Team.stop held) := by
  induction ks generalizing s with
  | nil => cases hk
  | cons x xs ih =>
    rw [List.foldl_cons]
    by_cases hm : k ∈ xs
    · rw [ih hm]
      by_cases e : x = k
      · subst e
        rw [State.modTeam, List.getElem?_modify_eq]
        cases s.teams[x]? <;> simp [Team.stop_stop]
      · exact congrArg _ (List.getElem?_modify_ne _ _ e)
    · rw [stop_not_mem hm]
      rcases List.mem_cons.1 hk with rfl | h
      · exact List.getElem?_modify_eq _ _ _
      · exact absurd h hm

/-- What a stop does to the teams: to those it names, and to no other. -/
theorem State.stopTeams_other {ks : List Nat} {k : Nat} (hk : k ∉ ks) (s : State) (held : Bool) :
    (s.stopTeams ks held).teams[k]? = s.teams[k]? :=
  (stop_not_mem hk _).trans ((s.endTurns_onlyGroups ks).1 k hk)

theorem State.stopTeams_named {ks : List Nat} {k : Nat} {t : Team} {s : State} (hk : k ∈ ks) (ht : s.teams[k]? = some t) (held : Bool) :
    ∃ g, (s.stopTeams ks held).teams[k]? = some (Team.stop held { t with groups := g }) := by
  obtain ⟨g, hg⟩ := (s.endTurns_onlyGroups ks).2 k t ht
  have h := stop_mem (held := held) hk { (s.endTurns (fun t => ks.contains t.team)) with turns := s.turns.filter (fun t => !ks.contains t.team) }
  refine ⟨g, Eq.trans h ?_⟩
  show (State.teams (s.endTurns _))[k]?.map _ = _
  rw [hg]
  rfl

/-! ## The double trap (R325) -/

theorem State.triggerSnap_frame (s : State) (source : Nat) (cause : Word) (core thr : Nat) :
    s.triggerSnap source cause core thr = { s with snap := (s.triggerSnap source cause core thr).snap } := by
  unfold State.triggerSnap
  split <;> rfl

theorem State.queueIrq_teams (s : State) (q : Nat) : (s.queueIrq q).teams = s.teams := by
  unfold State.queueIrq
  split <;> rfl

theorem State.doubleTrap_teams {s : State} {k : Nat} {tm : Team} (h : s.teams[k]? = some tm) (j : Nat) (c : Cause) :
    (s.doubleTrap k j c).teams = (s.stopTeams (s.widened k) true).teams := by
  unfold State.doubleTrap
  rw [h]
  dsimp only
  rw [State.send_teams, State.triggerSnap_frame]
  split
  · rw [State.queueIrq_teams]
  · rfl

theorem State.doubleTrap_alert {s : State} {k : Nat} {tm : Team} (h : s.teams[k]? = some tm) (j : Nat) (c : Cause) :
    Out.alert ∈ (s.doubleTrap k j c).out := by
  unfold State.doubleTrap
  rw [h]
  simp [State.send]

/-- A stop leaves a thread its trap registers. -/
theorem Thread.save_trap (th : Thread) : th.save.trapPc = th.trapPc ∧ th.save.trapCause = th.trapCause ∧
    th.save.trapAddr = th.trapAddr ∧ th.save.trapInfo = th.trapInfo := by
  have h : Thread.LandsTo th (List.foldl Pend.apply th th.pend) := foldl_landsTo Pend.apply_landsTo _ th
  unfold Thread.save Thread.final
  split
  · exact ⟨rfl, rfl, rfl, rfl⟩
  · rw [h]
    exact ⟨rfl, rfl, rfl, rfl⟩

theorem Team.stop_thread {held : Bool} {t : Team} {j : Nat} {th x : Thread} (ht : t.threads[j]? = some th)
    (hx : (t.stop held).threads[j]? = some x) : x = th ∨ x = th.save := by
  unfold Team.stop at hx
  split at hx
  · exact .inl (Option.some.inj (hx.symm.trans ht))
  · change (t.threads.map Thread.save)[j]? = some x at hx
    rw [List.getElem?_map, ht] at hx
    exact .inr (Option.some.inj hx).symm

theorem State.doubleTrap_keeps {s : State} {k j : Nat} {c : Cause} {tm : Team} {th x : Thread} (htm : s.teams[k]? = some tm)
    (hth : s.thread? k j = some th) (hx : (s.doubleTrap k j c).thread? k j = some x) :
    x.trapPc = th.trapPc ∧ x.trapCause = th.trapCause ∧ x.trapAddr = th.trapAddr ∧ x.trapInfo = th.trapInfo := by
  have ht : tm.threads[j]? = some th := by
    unfold State.thread? at hth
    rw [htm] at hth
    exact hth
  unfold State.thread? at hx
  rw [State.doubleTrap_teams htm] at hx
  by_cases hk : k ∈ s.widened k
  · obtain ⟨g, hg⟩ := State.stopTeams_named hk htm true
    rw [hg] at hx
    rcases Team.stop_thread (t := { tm with groups := g }) ht hx with rfl | rfl
    · exact ⟨rfl, rfl, rfl, rfl⟩
    · exact th.save_trap
  · rw [State.stopTeams_other hk, htm] at hx
    cases Option.some.inj (ht.symm.trans hx)
    exact ⟨rfl, rfl, rfl, rfl⟩

/-- The thread enters its handler. -/
theorem Thread.settle_trapEntry (now : Nat) (tvb : DWord) (t : Trap) (later : Bool) (x : Thread) :
    (x.settle now).trapEntry tvb t later = { x.settle now with
      trapPc := x.pc, trapCause := BitVec.ofNat 32 (t.cause.code + if later then 256 else 0), trapAddr := t.addr
      trapInfo := t.info, st := .trapped, why := .none
      pc := tvb + BitVec.ofNat 64 (64 * t.cause.code) + 4, sword := none, waited := false } := by
  unfold Thread.trapEntry trapWord vectorPc
  rw [Thread.settle_pc]

/-- Settles O60: a first cause is `takeTrapIn` as it stands, a second one stops teams and keeps the trap registers; those
that leave are sorted by insertion. -/
theorem trapEntry : Obligations.TrapEntry := by
  refine ⟨fun s k j t later tm th htm hth => ⟨fun hst => ?_, fun hst => ⟨?_, fun x hx => State.doubleTrap_keeps htm hth hx⟩⟩,
    fun s p => ?_, fun s k j tm htm => ⟨State.orderPlace_of_team htm j, State.trapCycle_of_team htm, State.enrolled_iff htm j, rfl,
      s.leaveBefore_eq k j⟩,
    fun s k j c tm htm => ⟨State.doubleTrap_alert htm j c, fun k' hk t ht hr => ?_, fun k' hk => ?_,
      fun h hh => ⟨State.widened_self htm hh, State.mem_widened htm hh⟩⟩, rfl⟩
  · unfold State.takeTrap State.takeTrapIn State.leaveLater
    rw [htm, hth]
    dsimp only
    rw [if_neg hst]
    simp only [Thread.settle_trapEntry] <;> rfl
  · unfold State.takeTrap State.takeTrapIn
    rw [htm, hth]
    dsimp only
    rw [if_pos hst]
  · obtain ⟨hp, ho⟩ := s.foldr_insertLeave (s.leaving.filter p)
    exact ⟨_, hp, ho, rfl⟩
  · obtain ⟨g, hg⟩ := State.stopTeams_named hk ht true
    rw [State.doubleTrap_teams htm]
    refine ⟨_, hg, ?_⟩
    unfold Team.stop
    rw [if_neg (by simpa using hr)]
    exact ⟨rfl, rfl, List.map_congr_left fun th _ => th.save_eq⟩
  · rw [State.doubleTrap_teams htm, State.stopTeams_other hk]

end Sys2Proof.Machine
end

section
/-!
PROOFS. Barriers (R95 to R99; log entry 74).
-/

namespace Sys2Proof.Machine

/-! ## One thread at a time -/

/-- Nothing holds a thread whose instruction is never held. -/
theorem State.Alone.completes {i : Instr} {s : State} {l : Lane} {f : Lane → LaneOut × (State → State)} {d : Done}
    {after : State → State} (h : s.Alone (instrForm i) l) (hf : f l = (.done d, after)) (hr : d.flag = 0 ∨ l.th.flag d.flag < 15) :
    runSeq i s (fun _ => false) f = .next (s.acted l d after) := h.done (fun _ _ => rfl) hf hr

theorem State.Alone.traps {i : Instr} {s : State} {l : Lane} {f : Lane → LaneOut × (State → State)} {t : Trap}
    {after : State → State} (h : s.Alone (instrForm i) l) (hf : f l = (.trap t, after)) :
    runSeq i s (fun _ => false) f = .next (s.actedTrap l t) := h.trap (fun _ _ => rfl) hf

/-- A thread whose earlier accesses are in place is not held for them (R98). -/
theorem State.Alone.not_held {fm : Form} {s : State} {l : Lane} (h : s.Alone fm l) (hq : l.quiet = true) (tm : Team)
    (ht : l.tm = { tm with groups := l.tm.groups }) : (!Lane.quiet { s := s, tm := tm, th := l.th }) = false := by
  rw [(h.same ht 0).2.1, hq]
  rfl

/-! ## The object a register names -/

theorem Lane.bar?_none {l : Lane} {a : BitVec 7} (h : l.tm.bars.length ≤ (l.reg a).toNat) : l.bar? a = none := by
  have e : l.tm.bars[(l.reg a).toNat]? = none := List.getElem?_eq_none h
  unfold Lane.bar? Team.bar?
  rw [e]
  rfl

theorem Lane.bar?_some {l : Lane} {a : BitVec 7} {b : Barrier} (h : l.tm.bars[(l.reg a).toNat]? = some b) :
    l.bar? a = some ((l.reg a).toNat, b) := by
  unfold Lane.bar? Team.bar?
  rw [h]
  rfl

theorem onBar_none {a : BitVec 7} {l : Lane} (h : l.tm.bars.length ≤ (l.reg a).toNat) (f : Nat → Barrier → LaneOut × (State → State)) :
    onBar a l f = (.trap (.of .bounds), id) := by
  unfold onBar
  rw [Lane.bar?_none h]

theorem onBar_some {a : BitVec 7} {l : Lane} {b : Barrier} (h : l.tm.bars[(l.reg a).toNat]? = some b)
    (f : Nat → Barrier → LaneOut × (State → State)) : onBar a l f = f (l.reg a).toNat b := by
  unfold onBar
  rw [Lane.bar?_some h]

theorem Lane.bar_of_lt {l : Lane} {a : BitVec 7} (h : (l.reg a).toNat < l.tm.bars.length) :
    ∃ b, l.tm.bars[(l.reg a).toNat]? = some b := ⟨_, List.getElem?_eq_getElem h⟩

theorem Barrier.setup_eq (n : Word) : Barrier.setup n.toNat = fun bar =>
    { bar with count := if n = 0 then none else some n.toNat, arr := [], arrn := [], p := 0 } := by
  have h : (n.toNat = 0) = (n = 0) := propext ⟨fun h => BitVec.eq_of_toNat_eq h, fun h => by rw [h]; rfl⟩
  funext bar
  unfold Barrier.setup
  simp only [h]

/-! ## Arrivals (R97) -/

theorem Team.arrival_now {t : Team} {b : Barrier} (h : b.arr.length < t.expected b) : t.arrival b = .now := if_pos h

theorem Team.arrival_ahead {t : Team} {b : Barrier} (h : ¬b.arr.length < t.expected b) (ha : b.arrn.length < t.expected b) :
    t.arrival b = .ahead := by
  unfold Team.arrival
  rw [if_neg h, if_pos ha]

theorem Team.arrival_none {t : Team} {b : Barrier} (h : ¬b.arr.length < t.expected b)
    (ha : ¬(¬b.arr.length < t.expected b ∧ b.arrn.length < t.expected b)) : t.arrival b = .none := by
  unfold Team.arrival
  rw [if_neg h, if_neg fun h' => ha ⟨h, h'⟩]

/-- `BAR.ARRIVE` of a thread alone, by where its arrival is counted. -/
theorem execBarArrive_counts {a : BitVec 7} {s : State} {l : Lane} {bar : Barrier} (h : s.Alone (instrForm (.barArrive a)) l)
    (hb : l.tm.bars[(l.reg a).toNat]? = some bar) (hq : l.quiet = true) (hw : l.tm.arrival bar ≠ .none) :
    exec (.barArrive a) s = .next (s.acted l {} (fun s => s.barArrive s.cur.team (l.reg a).toNat l.th.idx (l.tm.arrival bar))) := by
  refine h.done (h.not_held hq) ?_ (.inl rfl)
  rw [onBar_some hb]
  exact if_neg hw

theorem execBarSync_counts {a : BitVec 7} {s : State} {l : Lane} {bar : Barrier} (h : s.Alone (instrForm (.barSync a)) l)
    (hb : l.tm.bars[(l.reg a).toNat]? = some bar) (hq : l.quiet = true) (hw : l.tm.arrival bar ≠ .none) :
    exec (.barSync a) s = .next (s.acted l
      { upd := fun t => { t with st := .parked, left := t.st, why := .barSync (l.reg a).toNat (bar.phaseOf (l.tm.arrival bar)) } }
      (fun s => s.barArrive s.cur.team (l.reg a).toNat l.th.idx (l.tm.arrival bar))) := by
  refine h.done (h.not_held hq) ?_ (.inl rfl)
  rw [onBar_some hb]
  exact if_neg hw

/-- An arrival that no phase takes, or at no object. -/
theorem arrive_bounds {i : Instr} {a : BitVec 7} {s : State} {l : Lane} (hi : i = .barArrive a ∨ i = .barSync a)
    (h : s.Alone (instrForm i) l) (hq : l.quiet = true)
    (hb : l.tm.bars.length ≤ (l.reg a).toNat ∨ ∃ bar, l.tm.bars[(l.reg a).toNat]? = some bar ∧ l.tm.arrival bar = .none) :
    exec i s = .next (s.actedTrap l (.of .bounds)) := by
  rcases hi with rfl | rfl <;> refine h.trap (after := id) (h.not_held hq) ?_ <;> rcases hb with hb | ⟨bar, hb, hw⟩
  · exact onBar_none hb _
  · rw [onBar_some hb]
    exact if_pos hw
  · exact onBar_none hb _
  · rw [onBar_some hb]
    exact if_pos hw

/-! ## The obligations -/

/-- Settles O17: each instruction acts on the object that its register names; an arrival goes where `Team.arrival` says. -/
theorem barrierOperations : Obligations.BarrierOperations := by
  refine ⟨fun a b s l => ⟨fun h => ⟨fun hb => ?_, fun hb hn => ?_⟩, fun h => ⟨fun hb => ?_, fun hb => ?_⟩,
      fun h => ⟨fun hb => ?_, fun bar hb => ⟨fun hp => ?_, fun hp => ?_⟩⟩,
      fun d ls ⟨⟨tm, hi⟩, hc⟩ => ⟨fun hb => ?_, fun bar hb => ?_⟩⟩,
    fun a s l bar hb hq => ⟨fun h => ⟨fun hn => ?_, fun hn => ?_, fun hn ha => ?_⟩, fun h => ⟨fun hn => ?_, fun hn => ?_, fun hn ha => ?_⟩⟩,
    fun i a s l hi h hq hb => arrive_bounds hi h hq (.inl hb)⟩
  · refine h.traps (after := id) ?_
    rcases Nat.lt_or_ge (l.reg a).toNat l.tm.bars.length with hlt | hge
    · obtain ⟨bar, hbar⟩ := Lane.bar_of_lt hlt
      rw [onBar_some hbar]
      exact if_pos (hb.resolve_left (Nat.not_le.2 hlt))
    · exact onBar_none hge _
  · obtain ⟨bar, hbar⟩ := Lane.bar_of_lt hb
    refine h.completes ?_ (.inl rfl)
    rw [onBar_some hbar, ← Barrier.setup_eq]
    exact if_neg (Nat.not_lt.2 hn)
  · exact h.traps (onBar_none hb _)
  · obtain ⟨bar, hbar⟩ := Lane.bar_of_lt hb
    exact h.completes (onBar_some hbar _) (.inl rfl)
  · exact h.traps (onBar_none hb _)
  · refine h.completes ?_ (.inl rfl)
    rw [onBar_some hb]
    exact if_pos hp
  · refine h.completes ?_ (.inl rfl)
    rw [onBar_some hb]
    exact if_neg hp
  · refine runLanes_trap hi hc fun l hl => ?_
    rw [Lane.bar?_none (hb l hl)]
  · refine runLanes_done hi hc (fun l hl => ?_) (fun _ _ => .inl rfl)
    rw [Lane.bar?_some (hb l hl)]
  · have hw := Team.arrival_now hn
    rw [execBarArrive_counts h hb hq (by rw [hw]; decide), hw]
    rfl
  · have hw := Team.arrival_ahead hn.1 hn.2
    rw [execBarArrive_counts h hb hq (by rw [hw]; decide), hw]
    rfl
  · exact arrive_bounds (.inl rfl) h hq (.inr ⟨bar, hb, Team.arrival_none hn ha⟩)
  · have hw := Team.arrival_now hn
    rw [execBarSync_counts h hb hq (by rw [hw]; decide), hw]
    rfl
  · have hw := Team.arrival_ahead hn.1 hn.2
    rw [execBarSync_counts h hb hq (by rw [hw]; decide), hw]
    rfl
  · exact arrive_bounds (.inr rfl) h hq (.inr ⟨bar, hb, Team.arrival_none hn ha⟩)

theorem State.barCheck_of_bar {s : State} {k o n : Nat} {t : Team} {bar : Barrier} (ht : s.teams[k]? = some t)
    (hb : t.bars[o]? = some bar) : s.barCheck (n + 1) k o =
      if t.expected bar ≠ 0 ∧ bar.arr.length = t.expected bar ∧ bar.p = 0 then
        ((s.modTeam k (Team.modBar o (fun bar =>
          { bar with phase := bar.phase + 1, arr := bar.arrn, arrn := [], engDone := bar.engDone || bar.engPend,
                     engPend := false }))).wakeBar k o bar.phase).barCheck n k o
      else s := by
  have hb' : t.bar? o = some bar := hb
  conv_lhs => unfold State.barCheck
  rw [ht]
  dsimp only
  rw [hb']

/-- Settles O18: `BAR.INVAL` is its own effect; the check is one unfolding of `barCheck`. -/
theorem barrierPhases : Obligations.BarrierPhases := by
  refine ⟨fun a s l bar h hb => ?_, fun a s l h hb => h.traps (onBar_none hb _), fun s k o n t bar ht hb => ⟨fun hn => ?_, fun h0 ha hp => ?_⟩⟩
  · refine h.completes ?_ (.inl rfl)
    rw [onBar_some hb]
    rfl
  · rw [State.barCheck_of_bar ht hb, if_neg hn]
  · rw [State.barCheck_of_bar ht hb, if_pos ⟨h0, ha, hp⟩]

end Sys2Proof.Machine
end

section
/-!
PROOFS. Join registers (R23 to R26; log entries 41, 59).
-/

namespace Sys2Proof.Machine

/-! ## What leaves the join registers alone -/

/-- A fold whose steps leave the hub sets leaves them. -/
theorem foldl_hubsets {α : Type} {f : State → α → State} (h : ∀ s x, (f s x).hubsets = s.hubsets) (l : List α) (s : State) :
    (l.foldl f s).hubsets = s.hubsets := by
  induction l generalizing s with
  | nil => rfl
  | cons x xs ih => rw [List.foldl_cons, ih, h]

theorem State.release_hubsets (s : State) (k : Nat) (js : List Nat) : (s.release k js).hubsets = s.hubsets := by
  unfold State.release
  split <;> rfl

theorem State.releaseWhere_hubsets (s : State) (p : Nat → Nat → Thread → Bool) : (s.releaseWhere p).hubsets = s.hubsets := by
  refine foldl_hubsets (fun s k => ?_) _ _
  split
  · exact s.release_hubsets _ _
  · rfl

theorem State.acquireL1_hubsets (s : State) (core : Nat) : (s.acquireL1 core).hubsets = s.hubsets := rfl

theorem State.releaseSigners_hubsets (s : State) (n : Nat) (signs : List Sign) (m : Mine) :
    (s.releaseSigners n signs m).hubsets = s.hubsets := by
  have h : (State.releaseWhere (signs.foldl (fun s g => s.modThread g.team g.thr (Thread.outcome n m)) s) (fun k j th =>
      th.why = .jsign n && signs.any (fun g => g.team = k && g.thr = j))).hubsets = s.hubsets := by
    rw [State.releaseWhere_hubsets]
    exact foldl_hubsets (fun _ _ => by rfl) signs s
  unfold State.releaseSigners
  dsimp only
  split
  · rw [foldl_hubsets fun s g => ?_, h]
    split <;> rfl
  · exact h

theorem State.stopTeams_hubsets (s : State) (ks : List Nat) (held : Bool) : (s.stopTeams ks held).hubsets = s.hubsets := by
  have h : (s.endTurns (fun t => ks.contains t.team)).hubsets = s.hubsets := foldl_hubsets (fun _ _ => by rfl) _ s
  refine Eq.trans ?_ h
  exact foldl_hubsets (fun s k => by exact State.modTeam_hubsets s k (Team.stop held)) ks
    { s.endTurns (fun t => ks.contains t.team) with turns := s.turns.filter (fun t => !ks.contains t.team) }

theorem State.queueIrq_hubsets (s : State) (q : Nat) : (s.queueIrq q).hubsets = s.hubsets := by
  unfold State.queueIrq
  split <;> rfl

theorem State.doubleTrap_hubsets (s : State) (k j : Nat) (c : Cause) : (s.doubleTrap k j c).hubsets = s.hubsets := by
  unfold State.doubleTrap
  split
  · rfl
  · dsimp only
    rw [State.send_hubsets, State.triggerSnap_frame]
    split
    · rw [State.queueIrq_hubsets]
      exact s.stopTeams_hubsets _ _
    · exact s.stopTeams_hubsets _ _

theorem State.leaveLater_hubsets (s : State) (since k j : Nat) : (s.leaveLater since k j).hubsets = s.hubsets := by
  unfold State.leaveLater
  split <;> rfl

/-- A thread that traps leaves its join registers later, not at once (R24). -/
theorem State.takeTrapIn_hubsets (s : State) (since k j : Nat) (t : Trap) (defer : Bool) :
    (s.takeTrapIn since k j t defer).hubsets = s.hubsets := by
  unfold State.takeTrapIn
  split
  · split
    · exact s.doubleTrap_hubsets _ _ _
    · dsimp only
      split
      · rw [State.triggerSnap_frame]
        exact State.leaveLater_hubsets _ _ _ _
      · exact State.leaveLater_hubsets _ _ _ _
  · rfl

theorem State.wakeBar_hubsets (s : State) (k o : Nat) (phase : Word) : (s.wakeBar k o phase).hubsets = s.hubsets := by
  unfold State.wakeBar
  split
  · rfl
  · dsimp only
    rw [apply_ite State.hubsets, State.acquireL1_hubsets, State.release_hubsets, ite_self]

theorem State.barCheck_hubsets (n : Nat) (s : State) (k o : Nat) : (s.barCheck n k o).hubsets = s.hubsets := by
  induction n generalizing s with
  | zero => rfl
  | succ n ih =>
    unfold State.barCheck
    split
    · rfl
    · split
      · rfl
      · split
        · rw [ih, State.wakeBar_hubsets]
          rfl
        · rfl

theorem State.collectorCheck_hubsets (s : State) (k b : Nat) : (s.collectorCheck k b).hubsets = s.hubsets := by
  unfold State.collectorCheck
  split
  · rfl
  · dsimp only
    split <;> rfl

theorem State.exitCheck_hubsets (s : State) (k j : Nat) : (s.exitCheck k j).hubsets = s.hubsets := by
  unfold State.exitCheck
  split
  · rfl
  · split
    · split
      · exact State.takeTrapIn_hubsets _ _ _ _ _ _
      · unfold State.exitThread State.barCheckAll
        rw [State.collectorCheck_hubsets]
        split
        · rfl
        · exact foldl_hubsets (fun s o => s.barCheck_hubsets 2 k o) _ _
    · rfl

theorem State.completeOp_hubsets (s : State) (o : Op) (ws : List Word) (t : Option Trap) : (s.completeOp o ws t).hubsets = s.hubsets :=
  State.exitCheck_hubsets _ _ _

/-! ## A register and its changes -/

theorem State.join?_congr {s u : State} (h : u.hubsets = s.hubsets) (hs n : Nat) : u.join? hs n = s.join? hs n := by
  unfold State.join?
  rw [h]

theorem State.join?_modJoin {s : State} {h n : Nat} {jn : Join} (hj : s.join? h n = some jn) (f : Join → Join) :
    (s.modJoin h n f).join? h n = some (f jn) := by
  unfold State.join? at hj ⊢
  obtain ⟨hs, hh, hn⟩ := Option.bind_eq_some_iff.1 hj
  show ((s.hubsets.modify h _)[h]?).bind _ = _
  rw [List.getElem?_modify_eq, hh]
  show (hs.joins.modify n f)[n]? = _
  rw [List.getElem?_modify_eq, hn]
  rfl

theorem State.join?_joinIdle {s : State} {h n : Nat} {jn : Join} (hj : s.join? h n = some jn) :
    (s.joinIdle h n).join? h n = some Join.idle := by
  unfold State.joinIdle
  rw [State.join?_congr (State.releaseWhere_hubsets _ _), State.join?_modJoin hj]

/-- An idle register holds nothing. -/
theorem Join.idle_eq : Join.idle = { st := .idle, n := 0, enrolled := [], unsigned := [], signs := [], wd := 0, kind := none } := rfl

theorem State.joinCheck_of {s : State} {h n : Nat} {jn : Join} (hj : s.join? h n = some jn) :
    s.joinCheck h n = if jn.st = .opened ∧ jn.signs.length + jn.wd = jn.n then
      match jn.kind with
      | some (.mma _ d) =>
        if jn.signs.isEmpty then s.joinIdle h n else (s.postJoin h n jn d).modJoin h n (fun jn => { jn with st := .busy })
      | _ => (s.releaseSigners n jn.signs .done).joinIdle h n
    else s := by
  unfold State.joinCheck
  rw [hj] <;> rfl

theorem State.joinCheck_waits {s : State} {h n : Nat} {jn : Join} (hj : s.join? h n = some jn)
    (hn : ¬(jn.st = .opened ∧ jn.signs.length + jn.wd = jn.n)) : s.joinCheck h n = s := by
  rw [State.joinCheck_of hj, if_neg hn]

theorem State.joinCheck_jsign {s : State} {h n : Nat} {jn : Join} (hj : s.join? h n = some jn)
    (hn : jn.st = .opened ∧ jn.signs.length + jn.wd = jn.n) (hk : ∀ dp d, jn.kind ≠ some (.mma dp d)) :
    s.joinCheck h n = (s.releaseSigners n jn.signs .done).joinIdle h n := by
  rw [State.joinCheck_of hj, if_pos hn]
  split
  · next e => exact absurd e (hk _ _)
  · rfl

theorem State.joinCheck_mma {s : State} {h n : Nat} {jn : Join} {dp : DWord} {d : MxDesc} (hj : s.join? h n = some jn)
    (hn : jn.st = .opened ∧ jn.signs.length + jn.wd = jn.n) (hk : jn.kind = some (.mma dp d)) :
    s.joinCheck h n = if jn.signs.isEmpty then s.joinIdle h n
      else (s.postJoin h n jn d).modJoin h n (fun jn => { jn with st := .busy }) := by
  rw [State.joinCheck_of hj, if_pos hn, hk]

/-- The call that a register's signers make enters the table of the hub (R24). -/
theorem State.postJoin_eq {s : State} {h : Nat} {hs : HubSet} (hh : s.hubsets[h]? = some hs) (n : Nat) (jn : Join) (d : MxDesc) :
    ∃ c : MxCall, c.signers = jn.signs ∧ c.join = some (h, n) ∧ c.desc = d ∧
      s.postJoin h n jn d = { s.setEngine hs.hub { s.engine hs.hub with table := (s.engine hs.hub).table ++ [c] } with
        nextId := s.nextId + 1 } := by
  unfold State.postJoin
  rw [hh]
  exact ⟨_, rfl, rfl, rfl, rfl⟩

/-- Settles O16: the four cases of `joinCheck`. -/
theorem joinCompletes : Obligations.JoinCompletes := by
  intro s h n jn hj
  refine ⟨State.joinCheck_waits hj, fun ho hn => ⟨State.joinCheck_jsign hj ⟨ho, hn⟩, fun dp d hk he => ?_, fun dp d hk hne hs hh => ?_⟩,
    State.join?_joinIdle hj⟩
  · rw [State.joinCheck_mma hj ⟨ho, hn⟩ hk, he]
    rfl
  · obtain ⟨c, hc, hcj, hd, hp⟩ := State.postJoin_eq hh n jn d
    refine ⟨c, hc, hcj, hd, ?_⟩
    rw [State.joinCheck_mma hj ⟨ho, hn⟩ hk, hp, if_neg (by simpa using hne)]

/-! ## The instructions -/

/-- An operation counts on no flag. -/
def NoFlag (f : Lane → LaneOut × (State → State)) : Prop := ∀ x d, (f x).1 = .done d → d.flag = 0

theorem NoFlag.room {f : Lane → LaneOut × (State → State)} (h : NoFlag f) (l : Lane) :
    (match (f l).1 with | .done d => l.full d | _ => false) = false := by
  split
  · next d e => exact Lane.not_full (.inl (h l d e))
  · rfl

/-- A member acts in its turn, where nothing holds it at issue. -/
theorem State.InTurn.completes {i : Instr} {s : State} {l m : Lane} {held : Lane → Bool} {f : Lane → LaneOut × (State → State)}
    {d : Done} {after : State → State} (h : s.InTurn (instrForm i) l m) (hn : NoFlag f)
    (hh : ∀ tm, l.tm = { tm with groups := l.tm.groups } → held { s := s, tm := tm, th := l.th } = false)
    (hf : f m = (.done d, after)) : runJoin i s held f = .next (s.acted m d after) :=
  h.done ⟨hh, hn.room l⟩ hf (.inl (hn m d (by rw [hf])))

theorem State.InTurn.traps {i : Instr} {s : State} {l m : Lane} {held : Lane → Bool} {f : Lane → LaneOut × (State → State)}
    {t : Trap} {after : State → State} (h : s.InTurn (instrForm i) l m) (hn : NoFlag f)
    (hh : ∀ tm, l.tm = { tm with groups := l.tm.groups } → held { s := s, tm := tm, th := l.th } = false)
    (hf : f m = (.trap t, after)) : runJoin i s held f = .next (s.actedTrap m t) :=
  h.trap ⟨hh, hn.room l⟩ hf

/-- What `JDECL` does in a thread (R24). -/
def declares (j a : BitVec 7) (l : Lane) : LaneOut × (State → State) :=
  let n := (l.reg a).toNat
  let enrolled : LaneOut := .done { upd := Thread.enrol j.toNat }
  match l.join? j with
  | none => (.trap (.of .joinbad), id)
  | some jn =>
    if n < 1 ∨ 8192 < n then (.trap (.of .joinbad), id)
    else match jn.st with
      | .idle => (enrolled, fun s => s.modJoin l.tm.hubset j.toNat (fun _ =>
          { Join.idle with st := .opened, n := n, enrolled := [l.me], unsigned := [l.me] }))
      | .opened =>
        if n ≠ jn.n ∨ jn.enrolled.contains l.me ∨ jn.enrolled.length = jn.n then (.trap (.of .joinbad), id)
        else (enrolled, fun s => s.modJoin l.tm.hubset j.toNat (fun jn =>
          { jn with enrolled := jn.enrolled ++ [l.me], unsigned := jn.unsigned ++ [l.me] }))
      | _ => (.done { stay := true, upd := Thread.park (.jdecl j.toNat) }, id)

theorem declares_noFlag (j a : BitVec 7) : NoFlag (declares j a) := by
  intro x d h
  unfold declares at h
  dsimp only at h
  repeat' split at h
  all_goals cases h
  all_goals rfl

theorem State.InTurn.declares {j a : BitVec 7} {s : State} {l m : Lane} {d : Done} {after : State → State}
    (h : s.InTurn (instrForm (.jdecl j a)) l m) (hf : declares j a m = (.done d, after)) :
    exec (.jdecl j a) s = .next (s.acted m d after) :=
  h.completes (declares_noFlag j a) (fun _ _ => rfl) hf

theorem State.InTurn.not_declares {j a : BitVec 7} {s : State} {l m : Lane} {t : Trap} {after : State → State}
    (h : s.InTurn (instrForm (.jdecl j a)) l m) (hf : Machine.declares j a m = (.trap t, after)) :
    exec (.jdecl j a) s = .next (s.actedTrap m t) :=
  h.traps (declares_noFlag j a) (fun _ _ => rfl) hf

theorem declares_of {j a : BitVec 7} {m : Lane} {jn : Join} (hj : m.s.join? m.tm.hubset j.toNat = some jn)
    (hn : ¬((m.reg a).toNat < 1 ∨ 8192 < (m.reg a).toNat)) : declares j a m = match jn.st with
      | .idle => (.done { upd := Thread.enrol j.toNat }, fun s => s.modJoin m.tm.hubset j.toNat (fun _ =>
          { Join.idle with st := .opened, n := (m.reg a).toNat, enrolled := [m.me], unsigned := [m.me] }))
      | .opened =>
        if (m.reg a).toNat ≠ jn.n ∨ jn.enrolled.contains m.me ∨ jn.enrolled.length = jn.n then (.trap (.of .joinbad), id)
        else (.done { upd := Thread.enrol j.toNat }, fun s => s.modJoin m.tm.hubset j.toNat (fun jn =>
          { jn with enrolled := jn.enrolled ++ [m.me], unsigned := jn.unsigned ++ [m.me] }))
      | _ => (.done { stay := true, upd := Thread.park (.jdecl j.toNat) }, id) := by
  unfold declares Lane.join?
  rw [hj]
  exact if_neg hn

/-- Settles O14: the cases of `declares` in the state of the register. -/
theorem joinDeclares : Obligations.JoinDeclares := by
  intro j a s l m h
  refine ⟨fun hb => h.not_declares (after := id) ?_, fun jn hj h1 h2 => ⟨fun hs => h.declares ?_, fun hs hn he hl => h.declares ?_,
    fun hs hb => h.not_declares (after := id) ?_, fun hs => h.declares ?_⟩⟩
  · unfold Machine.declares Lane.join?
    split
    · rfl
    · next e => exact if_pos (hb.resolve_left fun h => by rw [h] at e; cases e)
  all_goals have hn' : ¬((m.reg a).toNat < 1 ∨ 8192 < (m.reg a).toNat) := by omega
  all_goals rw [declares_of hj hn']
  · rw [hs]
    rfl
  · rw [hs]
    dsimp only
    rw [if_neg (by simpa [hn] using ⟨he, hn ▸ hl⟩)]
    rfl
  · rw [hs]
    dsimp only
    rw [if_pos]
    rcases hb with hb | hb | hb
    · exact .inl hb
    · exact .inr (.inl (by simpa [Lane.me] using hb))
    · by_cases e : (m.reg a).toNat = jn.n
      · exact .inr (.inr (hb.trans e))
      · exact .inl e
  · rcases hs with hs | hs <;> rw [hs] <;> rfl

/-- A thread's signature by `JSIGN`. -/
def Lane.signature (l : Lane) : Sign :=
  { team := l.s.cur.team, thr := l.th.idx, col := rankOf l.tm.core * 32 + laneOf l.th.idx, op := 0, flag := 0, base := 0
    nanTrap := false, priv := l.privileged }

/-- What `JSIGN` does in a thread (R24). -/
def signs (j : BitVec 7) (l : Lane) : LaneOut × (State → State) :=
  let n := j.toNat
  match l.join? j with
  | none => (.trap (.of .joinbad), id)
  | some jn =>
    if !jn.unsigned.contains l.me then (.trap (.of .joinbad), id)
    else match jn.st, jn.kind with
      | .drain, _ => (.done {}, fun s => s.leaveJoin s.cur.team l.th.idx l.tm.hubset n)
      | .opened, some (.mma ..) => (.trap (.of .joinbad), id)
      | .opened, _ =>
        (.done { upd := fun th => (th.unenrol n).park (.jsign n) },
         fun s => (s.modJoin l.tm.hubset n (fun jn => jn.sign l.signature .jsign)).joinCheck l.tm.hubset n)
      | _, _ => (.trap (.of .joinbad), id)

theorem signs_noFlag (j : BitVec 7) : NoFlag (signs j) := by
  intro x d h
  unfold signs at h
  dsimp only at h
  repeat' split at h
  all_goals cases h
  all_goals rfl

theorem State.InTurn.signs {j : BitVec 7} {s : State} {l m : Lane} {d : Done} {after : State → State}
    (h : s.InTurn (instrForm (.jsign j)) l m) (hq : l.quiet = true) (hf : Machine.signs j m = (.done d, after)) :
    exec (.jsign j) s = .next (s.acted m d after) :=
  h.completes (signs_noFlag j) (fun tm ht => h.alone.not_held hq tm ht) hf

theorem State.InTurn.not_signs {j : BitVec 7} {s : State} {l m : Lane} {t : Trap} {after : State → State}
    (h : s.InTurn (instrForm (.jsign j)) l m) (hq : l.quiet = true) (hf : Machine.signs j m = (.trap t, after)) :
    exec (.jsign j) s = .next (s.actedTrap m t) :=
  h.traps (signs_noFlag j) (fun tm ht => h.alone.not_held hq tm ht) hf

/-- A thread that the register does not name as unsigned. -/
theorem signs_stranger {j : BitVec 7} {m : Lane}
    (h : ∀ jn, m.s.join? m.tm.hubset j.toNat = some jn → (m.s.cur.team, m.th.idx) ∉ jn.unsigned) :
    signs j m = (.trap (.of .joinbad), id) := by
  unfold signs Lane.join?
  split
  · rfl
  · next jn e => exact if_pos (by simpa [Lane.me] using h jn e)

/-- One that it does. -/
theorem signs_unsigned {j : BitVec 7} {m : Lane} {jn : Join} (hj : m.s.join? m.tm.hubset j.toNat = some jn)
    (hu : (m.s.cur.team, m.th.idx) ∈ jn.unsigned) :
    (jn.st = .drain → signs j m = (.done {}, fun s => s.leaveJoin s.cur.team m.th.idx m.tm.hubset j.toNat)) ∧
    (jn.st = .opened → (∃ dp d, jn.kind = some (.mma dp d)) → signs j m = (.trap (.of .joinbad), id)) ∧
    (jn.st = .opened → (∀ dp d, jn.kind ≠ some (.mma dp d)) →
      signs j m = (.done { upd := fun th => (th.unenrol j.toNat).park (.jsign j.toNat) },
        fun s => (s.modJoin m.tm.hubset j.toNat (fun jn => jn.sign m.signature .jsign)).joinCheck m.tm.hubset j.toNat)) := by
  have hm : ¬(!jn.unsigned.contains m.me) = true := by simpa [Lane.me] using hu
  unfold signs Lane.join?
  rw [hj]
  dsimp only
  rw [if_neg hm]
  refine ⟨fun hs => ?_, fun hs ⟨dp, d, hk⟩ => ?_, fun hs hk => ?_⟩
  · rw [hs]
  · rw [hs, hk]
  · rw [hs]
    cases hj' : jn.kind with
    | none => rfl
    | some k =>
      cases k with
      | jsign => rfl
      | mma dp d => exact absurd hj' (hk dp d)

/-- `JSIGN` by a thread of the register, in its states, and by another. -/
theorem execJsign_cases (j : BitVec 7) {s : State} {l m : Lane} (h : s.InTurn (instrForm (.jsign j)) l m) (hq : l.quiet = true) :
    let me := (m.s.cur.team, m.th.idx)
    (∀ jn, m.s.join? m.tm.hubset j.toNat = some jn → me ∈ jn.unsigned →
      (jn.st = .opened → (∀ dp d, jn.kind ≠ some (.mma dp d)) → ∃ g : Sign, g.team = m.s.cur.team ∧ g.thr = m.th.idx ∧
        exec (.jsign j) s = .next (s.acted m
          { upd := fun t => { t with joinMask := t.joinMask &&& ~~~(1#64 <<< j.toNat), st := .parked, left := t.st,
                                     why := .jsign j.toNat } }
          (fun s => (s.modJoin m.tm.hubset j.toNat (fun jn =>
            { jn with signs := jn.signs ++ [g], unsigned := jn.unsigned.filter (fun e => e ≠ me), kind := some .jsign })).joinCheck
            m.tm.hubset j.toNat))) ∧
      (jn.st = .drain → exec (.jsign j) s = .next (s.acted m {} (fun s => s.leaveJoin s.cur.team m.th.idx m.tm.hubset j.toNat))) ∧
      (jn.st = .opened → (∃ dp d, jn.kind = some (.mma dp d)) → exec (.jsign j) s = .next (s.actedTrap m (.of .joinbad)))) ∧
    ((∀ jn, m.s.join? m.tm.hubset j.toNat = some jn → me ∉ jn.unsigned) →
      exec (.jsign j) s = .next (s.actedTrap m (.of .joinbad))) := by
  refine ⟨fun jn hj hu => ?_, fun hu => h.not_signs hq (signs_stranger hu)⟩
  obtain ⟨hd, hm, ho⟩ := signs_unsigned hj hu
  refine ⟨fun hs hk => ?_, fun hs => h.signs hq (hd hs), fun hs hk => h.not_signs hq (hm hs hk)⟩
  exact ⟨m.signature, rfl, rfl, h.signs hq (ho hs hk)⟩

theorem execJleave_cases (j : BitVec 7) {s : State} {l m : Lane} (h : s.InTurn (instrForm (.jleave j)) l m) :
    let me := (m.s.cur.team, m.th.idx)
    ((∃ jn, m.s.join? m.tm.hubset j.toNat = some jn ∧ me ∈ jn.unsigned) →
      exec (.jleave j) s = .next (s.acted m {} (fun s => s.leaveJoin s.cur.team m.th.idx m.tm.hubset j.toNat))) ∧
    ((∀ jn, m.s.join? m.tm.hubset j.toNat = some jn → me ∉ jn.unsigned) →
      exec (.jleave j) s = .next (s.actedTrap m (.of .joinbad))) := by
  have hn : NoFlag (fun l => match l.join? j with
      | none => (.trap (.of .joinbad), id)
      | some jn => if jn.unsigned.contains l.me then
          (.done {}, fun s => s.leaveJoin s.cur.team l.th.idx l.tm.hubset j.toNat)
        else (.trap (.of .joinbad), id)) := by
    intro x d h
    dsimp only at h
    repeat' split at h
    all_goals cases h
    all_goals rfl
  refine ⟨fun ⟨jn, hj, hu⟩ => h.completes hn (fun _ _ => rfl) ?_, fun hu => h.traps (after := id) hn (fun _ _ => rfl) ?_⟩
  · unfold Lane.join?
    rw [hj]
    exact if_pos (by simpa [Lane.me] using hu)
  · unfold Lane.join?
    split
    · rfl
    · next jn e => exact if_neg (by simpa [Lane.me] using hu jn e)

theorem execJcancel_cases (j : BitVec 7) {s : State} {l m : Lane} (h : s.InTurn (instrForm (.jcancel j)) l m) :
    (m.s.join? m.tm.hubset j.toNat = none → exec (.jcancel j) s = .next (s.actedTrap m (.of .joinbad))) ∧
    (∀ jn, m.s.join? m.tm.hubset j.toNat = some jn →
      (jn.st = .opened ∨ jn.st = .busy → exec (.jcancel j) s = .next (s.acted m {} (fun s => s.cancelJoin m.tm.hubset j.toNat))) ∧
      (jn.st = .idle ∨ jn.st = .drain → exec (.jcancel j) s = .next (s.acted m {} id))) := by
  have hn : NoFlag (fun l => match l.join? j with
      | none => (.trap (.of .joinbad), id)
      | some jn => (.done {}, fun s => if jn.st = .opened ∨ jn.st = .busy then s.cancelJoin l.tm.hubset j.toNat else s)) := by
    intro x d h
    dsimp only at h
    split at h
    all_goals cases h
    all_goals rfl
  refine ⟨fun hj => h.traps (after := id) hn (fun _ _ => rfl) ?_, fun jn hj => ⟨fun hs => h.completes hn (fun _ _ => rfl) ?_,
    fun hs => h.completes hn (fun _ _ => rfl) ?_⟩⟩ <;> unfold Lane.join? <;> rw [hj]
  · simp only [if_pos hs]
  · have hns : ¬(jn.st = .opened ∨ jn.st = .busy) := by rcases hs with hs | hs <;> simp [hs]
    simp only [if_neg hns]
    rfl

theorem joinWord_eq (jn : Join) (me : Nat × Nat) (mine : Mine) : joinWord jn me mine = joinStatus jn (jn.unsigned.contains me) mine := by
  obtain ⟨st, n, enrolled, unsigned, signs, wd, kind⟩ := jn
  unfold joinWord joinStatus
  refine congrArg (BitVec.ofNat 32) ?_
  dsimp only
  generalize (if unsigned.contains me = true then 2 ^ 27 else 0) = x
  cases st with
  | idle => cases mine <;> simp [JState.code, Mine.code]
  | opened | busy | drain => cases mine <;> exact (Nat.add_assoc _ _ _).symm

theorem execJstat_cases (d j : BitVec 7) {s : State} {ls : List Lane} (h : s.Ready (instrForm (.jstat d j)) ls) :
    ((∀ l ∈ ls, l.s.join? l.tm.hubset j.toNat = none) →
      exec (.jstat d j) s = .next (s.trapped ls (fun _ => .of .joinbad))) ∧
    (∀ jn : Lane → Join, (∀ l ∈ ls, l.s.join? l.tm.hubset j.toNat = some (jn l)) →
      exec (.jstat d j) s = .next (s.completed ls (fun l =>
        { writes := l.wr d (joinStatus (jn l) ((jn l).unsigned.contains (l.s.cur.team, l.th.idx)) (Tab.get l.th.mine j.toNat .none))
          lat := 8 }))) := by
  obtain ⟨⟨tm, hi⟩, hc⟩ := h
  refine ⟨fun hj => runLanes_trap hi hc fun l hl => ?_, fun jn hj => runLanes_done hi hc (fun l hl => ?_) fun _ _ => .inl rfl⟩
  · unfold Lane.join?
    rw [hj l hl]
  · unfold Lane.join?
    rw [hj l hl]
    show LaneOut.done { writes := l.wr d (joinWord (jn l) l.me _), lat := 8 } = _
    rw [joinWord_eq]
    rfl

/-! ## Leaving and cancelling -/

theorem State.leaveJoin_of {s : State} {h n k t : Nat} {jn : Join} (hj : s.join? h n = some jn) (hu : (k, t) ∈ jn.unsigned) :
    s.leaveJoin k t h n =
      let rest := jn.unsigned.filter (fun e => e ≠ (k, t))
      if jn.st = .drain then
        let s := (s.modThread k t (Thread.outcome n .cancelled)).modJoin h n (fun jn => { jn with unsigned := rest })
        if rest.isEmpty then s.joinIdle h n else s
      else ((s.modThread k t (Thread.outcome n .withdrawn)).modJoin h n (fun jn => { jn with unsigned := rest, wd := jn.wd + 1 })).joinCheck h n := by
  unfold State.leaveJoin
  rw [hj]
  exact if_neg (by simpa using hu)

theorem State.leaveJoin_drain {s : State} {h n k t : Nat} {jn : Join} (hj : s.join? h n = some jn) (hu : (k, t) ∈ jn.unsigned)
    (hd : jn.st = .drain) : (s.leaveJoin k t h n).join? h n = some (if jn.unsigned.filter (fun e => e ≠ (k, t)) = [] then Join.idle
      else { jn with unsigned := jn.unsigned.filter (fun e => e ≠ (k, t)) }) := by
  have hm := State.join?_modJoin (s := s.modThread k t (Thread.outcome n .cancelled)) hj
    (fun jn' => { jn' with unsigned := jn.unsigned.filter (fun e => e ≠ (k, t)) })
  rw [State.leaveJoin_of hj hu]
  dsimp only
  rw [if_pos hd]
  by_cases he : jn.unsigned.filter (fun e => e ≠ (k, t)) = []
  · rw [if_pos he, if_pos (by rw [he]; rfl), State.join?_joinIdle hm]
  · rw [if_neg he, if_neg (by simpa using he), hm]

theorem State.leaveJoin_open {s : State} {h n k t : Nat} {jn : Join} (hj : s.join? h n = some jn) (hu : (k, t) ∈ jn.unsigned)
    (ho : jn.st = .opened) : s.leaveJoin k t h n = ((s.modThread k t (Thread.outcome n .withdrawn)).modJoin h n
      (fun jn' => { jn' with unsigned := jn.unsigned.filter (fun e => e ≠ (k, t)), wd := jn'.wd + 1 })).joinCheck h n := by
  rw [State.leaveJoin_of hj hu]
  exact if_neg (by rw [ho]; decide)

theorem State.leaveJoin_open_waits {s : State} {h n k t : Nat} {jn : Join} (hj : s.join? h n = some jn) (hu : (k, t) ∈ jn.unsigned)
    (ho : jn.st = .opened) (hn : jn.signs.length + jn.wd + 1 ≠ jn.n) : (s.leaveJoin k t h n).join? h n =
      some { jn with unsigned := jn.unsigned.filter (fun e => e ≠ (k, t)), wd := jn.wd + 1 } := by
  have hm := State.join?_modJoin (s := s.modThread k t (Thread.outcome n .withdrawn)) hj
    (fun jn' => { jn' with unsigned := jn.unsigned.filter (fun e => e ≠ (k, t)), wd := jn'.wd + 1 })
  rw [State.leaveJoin_open hj hu ho, State.joinCheck_waits hm (fun h => hn h.2), hm]

/-- What a cancelled register is left as: its signers are released, and it drains or is idle. -/
theorem State.join?_cancelJoin {s : State} {h n : Nat} {jn : Join} (hj : s.join? h n = some jn) :
    (s.cancelJoin h n).join? h n = some (if jn.unsigned = [] then Join.idle else { jn with st := .drain, kind := none }) := by
  obtain ⟨hs, hh, -⟩ := Option.bind_eq_some_iff.1 hj
  unfold State.cancelJoin
  rw [hj, hh]
  dsimp only
  have hm := State.join?_modJoin (s := s.setEngine hs.hub { s.engine hs.hub with table := (s.engine hs.hub).table.filter (fun c => c.join ≠ some (h, n)) })
    hj (fun jn => { jn with st := .drain, kind := none })
  rw [← State.join?_congr (State.releaseSigners_hubsets _ n jn.signs .cancelled)] at hm
  generalize State.releaseSigners _ n jn.signs .cancelled = u at hm
  generalize hv : List.foldl _ u jn.signs = v
  have hu : v.join? h n = some { jn with st := .drain, kind := none } := by
    rw [← hm, ← hv]
    refine State.join?_congr (foldl_hubsets (fun s g => ?_) _ _) h n
    split
    · exact State.completeOp_hubsets _ _ _ _
    · rfl
  by_cases he : jn.unsigned = []
  · rw [if_pos he, if_pos (by rw [he]; rfl), State.join?_joinIdle hu]
  · rw [if_neg he, if_neg (by simpa using he), hu]

/-- Settles O15: the instructions by the register's state, then `leaveJoin` and `cancelJoin` by what they leave in it. -/
theorem joinOperations : Obligations.JoinOperations :=
  ⟨fun j _ _ _ => ⟨execJsign_cases j, execJleave_cases j⟩, ⟨fun j _ _ _ => execJcancel_cases j, fun d j _ _ => execJstat_cases d j⟩,
    fun _ _ _ _ _ _ hj => ⟨State.leaveJoin_drain hj, fun hu ho => ⟨State.leaveJoin_open hj hu ho, State.leaveJoin_open_waits hj hu ho⟩,
      fun _ _ => State.join?_cancelJoin hj⟩⟩

end Sys2Proof.Machine
end

section
/-!
PROOFS. Local and generic accesses (R89 to R93, R166 to R169, R210 to R216; log entry 41).
-/

namespace Sys2Proof.Machine

/-! ## Local accesses -/

/-- The instruction is a local access of a form, whose flag is the one that its effect counts on. -/
def LocalForm.Runs (g : LocalForm) (i : Instr) (s : State) : Prop :=
  exec i s = runLanes i s (fun l => l.localAccess (g.addr l) g.size (g.effect l)) ∧ ∀ l loc, (g.effect l loc).flag = g.flag.toNat

theorem loadLocal_runs {i : Instr} {n : Nat} {d a o : BitVec 7} {f : BitVec 4} {s : State} (h : exec i s = loadLocal i n d a o f s) :
    (localLoadForm n d a o f).Runs i s := by
  refine ⟨?_, fun _ _ => rfl⟩
  rw [h]
  unfold loadLocal
  simp only [Lane.localAddr_eq]
  rfl

theorem storeLocal_runs {i : Instr} {n : Nat} {d a o : BitVec 7} {f : BitVec 4} {s : State} (h : exec i s = storeLocal i n d a o f s) :
    (localStoreForm n d a o f).Runs i s := by
  refine ⟨?_, fun _ _ => rfl⟩
  rw [h]
  unfold storeLocal
  simp only [Lane.localAddr_eq]
  rfl

theorem localForm_runs {i : Instr} {g : LocalForm} (h : localForm i = some g) (s : State) : g.Runs i s := by
  cases i <;> cases h
  case ldlB | ldlH | ldlW | ldlD | ldlQ => exact loadLocal_runs rfl
  case stlB | stlH | stlW | stlD | stlQ => exact storeLocal_runs rfl
  case atl => exact ⟨rfl, fun _ _ => rfl⟩

theorem Lane.access_ready {l : Lane} (h : l.acquiring = false) (k : LaneOut) : l.access k = k := by
  unfold Lane.access
  rw [h]
  rfl

theorem Lane.localAccess_ok {l : Lane} {addr : Word} {n : Nat} {loc : LocalLoc} (h : l.localAt addr n = .ok loc)
    (ha : l.s.absentLine loc = none) (hq : l.acquiring = false) (k : LocalLoc → Done) : l.localAccess addr n k = .done (k loc) := by
  unfold Lane.localAccess
  rw [h]; dsimp only
  rw [ha]
  exact Lane.access_ready hq _

theorem Lane.localAccess_absent {l : Lane} {addr : Word} {n team line : Nat} {loc : LocalLoc} (h : l.localAt addr n = .ok loc)
    (ha : l.s.absentLine loc = some (team, line)) (k : LocalLoc → Done) :
    l.localAccess addr n k = .done { stay := true, upd := Thread.park (.line team line) } := by
  unfold Lane.localAccess
  rw [h]; dsimp only
  rw [ha]

theorem Lane.localAccess_error {l : Lane} {addr : Word} {n : Nat} {t : Trap} (h : l.localAt addr n = .error t) (k : LocalLoc → Done) :
    l.localAccess addr n k = .trap t := by
  unfold Lane.localAccess
  rw [h]

/-- There is room on the flag of each member. -/
theorem Room.of {f : Nat} {ls : List Lane} (h : Room f ls) {d : Lane → Done} (hd : ∀ l, (d l).flag = f) :
    ∀ l ∈ ls, (d l).flag = 0 ∨ l.th.flag (d l).flag < 15 := by
  intro l hl
  rw [hd l]
  exact h.imp_right fun h => h l hl

/-- Settles O19: the three outcomes of `localAccess`. -/
theorem localAccesses : Obligations.LocalAccesses := by
  intro i g s ls hg ⟨⟨tm, hi⟩, hc⟩
  obtain ⟨he, hf⟩ := localForm_runs hg s
  rw [he]
  refine ⟨fun loc hl hq hr => ?_, fun loc at' hl => ?_, fun t ht => ?_⟩
  · exact runLanes_done hi hc (fun l h => Lane.localAccess_ok (hl l h).1 (hl l h).2 (hq l h) _) (hr.of fun l => hf l (loc l))
  · exact runLanes_done hi hc (fun l h => Lane.localAccess_absent (hl l h).1 (hl l h).2 _) fun _ _ => .inl rfl
  · exact runLanes_trap hi hc fun l h => Lane.localAccess_error (ht l h) _

/-! ## Places (R89, R90) -/

/-- The fields of the register part of an address. -/
theorem regFields (x : Word) : bits (bits x.toNat 20 0) 19 10 = fieldOf' x 10 10 ∧ bits (bits x.toNat 20 0) 9 2 = fieldOf' x 2 8 ∧
    bits (bits x.toNat 20 0) 20 20 = fieldOf' x 20 1 := by
  unfold bits fieldOf'
  omega

/-- An address in scratchpad space. -/
theorem Lane.localAt_spad {l : Lane} {addr : Word} {n : Nat} (h : fieldOf' addr 23 1 = 0) :
    l.localAt addr n = match l.rankTeam (fieldOf' addr 21 2) with
      | none => .error (.atAddr .rankbad (addr.zeroExtend 64))
      | some k =>
        if addr.toNat % n ≠ 0 then .error (.atAddr .align (addr.zeroExtend 64))
        else if 2 ^ 24 ≤ addr.toNat then .error (.atAddr .spadbound (addr.zeroExtend 64))
        else match l.s.teams[k]? with
          | none => .error (.atAddr .rankbad (addr.zeroExtend 64))
          | some t => if t.spadBytes < fieldOf' addr 0 21 + n then .error (.atAddr .spadbound (addr.zeroExtend 64))
            else .ok (.spad k (fieldOf' addr 0 21)) := by
  have hr : ¬bits addr.toNat 23 23 = 1 := by
    rw [show bits addr.toNat 23 23 = 0 from h]
    decide
  unfold Lane.localAt
  simp only [hr, if_false] <;> rfl

/-- An address in register space. -/
theorem Lane.localAt_reg {l : Lane} {addr : Word} {n : Nat} (h : fieldOf' addr 23 1 = 1) :
    l.localAt addr n =
      if fieldOf' addr 21 2 ≠ rankOf l.tm.core then .error (.atAddr .rankbad (addr.zeroExtend 64))
      else if addr.toNat % n ≠ 0 then .error (.atAddr .align (addr.zeroExtend 64))
      else if 2 ^ 24 ≤ addr.toNat then .error (.atAddr .spadbound (addr.zeroExtend 64))
      else match l.tm.threads[fieldOf' addr 10 10]? with
        | none => .error (.atAddr .spadbound (addr.zeroExtend 64))
        | some th => if fieldOf' addr 20 1 = 1 ∨ th.regs.length ≤ fieldOf' addr 2 8
            then .error (.atAddr .spadbound (addr.zeroExtend 64))
            else .ok (.reg l.s.cur.team (fieldOf' addr 10 10) (fieldOf' addr 2 8) (fieldOf' addr 0 21 % 4)) := by
  obtain ⟨ht, hn, hb⟩ := regFields addr
  have hr : bits addr.toNat 23 23 = 1 := h
  unfold Lane.localAt
  simp only [hr, ht, hn, hb, if_true]
  by_cases hk : fieldOf' addr 21 2 = rankOf l.tm.core
  · rw [if_pos (show bits addr.toNat 22 21 = rankOf l.tm.core from hk), if_neg (not_not.2 hk)] <;> rfl
  · rw [if_neg (show ¬bits addr.toNat 22 21 = rankOf l.tm.core from hk), if_pos hk]

/-- Settles O20: the checks of either space in their order. -/
theorem localPlaces : Obligations.LocalPlaces := by
  intro l addr n at' rank off thread reg
  refine ⟨fun h0 => ⟨fun hk => ?_, fun k t hk ht => ⟨fun ha => ?_, fun ha hb => ?_, fun ha hb hs => ?_⟩⟩,
    fun h1 => ⟨fun hk => ?_, fun hk => ⟨fun ha => ?_, fun ha hb => ?_, fun th ha hb h20 hth => ⟨fun hn => ?_, fun hn => ?_⟩⟩⟩⟩
  · rw [Lane.localAt_spad h0, show l.rankTeam (fieldOf' addr 21 2) = none from hk]
  · rw [Lane.localAt_spad h0, show l.rankTeam (fieldOf' addr 21 2) = some k from hk]
    exact if_pos ha
  · rw [Lane.localAt_spad h0, show l.rankTeam (fieldOf' addr 21 2) = some k from hk]
    dsimp only
    rw [if_neg (not_not.2 ha), ht]
    split
    · rfl
    · next hn => exact if_pos (hb.resolve_left hn)
  · rw [Lane.localAt_spad h0, show l.rankTeam (fieldOf' addr 21 2) = some k from hk]
    dsimp only
    rw [if_neg (not_not.2 ha), if_neg (Nat.not_le.2 hb), ht]
    exact if_neg (Nat.not_lt.2 hs)
  · rw [Lane.localAt_reg h1, if_pos hk]
  · rw [Lane.localAt_reg h1, if_neg (not_not.2 hk), if_pos ha]
  · rw [Lane.localAt_reg h1, if_neg (not_not.2 hk), if_neg (not_not.2 ha)]
    split
    · rfl
    · next hn =>
      split
      · rfl
      · next th hth =>
        refine if_pos ((hb.resolve_left hn).imp_right fun hl => ?_)
        rw [List.getElem?_eq_none hl] at hth
        cases hth
  · rw [Lane.localAt_reg h1, if_neg (not_not.2 hk), if_neg (not_not.2 ha), if_neg (Nat.not_le.2 hb), hth]
    exact if_pos (.inr hn)
  · rw [Lane.localAt_reg h1, if_neg (not_not.2 hk), if_neg (not_not.2 ha), if_neg (Nat.not_le.2 hb), hth]
    exact if_neg fun h => h.elim (fun e => by rw [h20] at e; cases e) (Nat.not_le.2 hn)

/-! ## Generic accesses -/

/-- What a lane does at a generic access of a form. -/
structure GlobalForm.Runs (g : GlobalForm) (f : Lane → LaneOut) : Prop where
  align (l : Lane) (h : (g.addr l).toNat % g.size ≠ 0) : f l = .trap (.atAddr .align (g.addr l))
  error (l : Lane) (c : Cause) (h : (g.addr l).toNat % g.size = 0)
    (ht : l.s.translate l.who g.kind (g.addr l) g.size = .error c) : f l = .trap (.atAddr c (g.addr l))
  done (l : Lane) (key : Nat) (leaf : Leaf) (h : l.Reaches g key leaf) (hq : l.acquiring = false)
    (ht : g.takes key leaf = true) : f l = .done (g.effect l key leaf)
  refused (l : Lane) (key : Nat) (leaf : Leaf) (h : l.Reaches g key leaf) (hq : l.acquiring = false)
    (ht : g.takes key leaf = false) : f l = .trap (.atAddr (g.refuse key leaf) (g.addr l))

/-- The access is checked, and then `k` decides by the page. -/
theorem GlobalForm.runs_withPage {g : GlobalForm} {k : Lane → Nat → Leaf → LaneOut}
    (hk : ∀ l key leaf, g.takes key leaf = true → k l key leaf = .done (g.effect l key leaf))
    (hn : ∀ l key leaf, g.takes key leaf = false → k l key leaf = .trap (.atAddr (g.refuse key leaf) (g.addr l))) :
    g.Runs (fun l => l.withPage (l.reach g.kind (g.addr l) g.size g.size) (k l)) where
  align _ h := Lane.withPage_align h
  error _ _ h ht := Lane.withPage_error h ht
  done l key leaf h hq ht := (Lane.withPage_ok h.1 h.2 hq).trans (hk l key leaf ht)
  refused l key leaf h hq ht := (Lane.withPage_ok h.1 h.2 hq).trans (hn l key leaf ht)

/-- Every page takes it. -/
theorem GlobalForm.runs_all {g : GlobalForm} (h : ∀ key leaf, g.takes key leaf = true) :
    g.Runs (fun l => l.withPage (l.reach g.kind (g.addr l) g.size g.size) (fun key leaf => .done (g.effect l key leaf))) :=
  GlobalForm.runs_withPage (fun _ _ _ _ => rfl) fun _ key leaf hn => by rw [h key leaf] at hn; cases hn

/-- The instruction is a generic access of a form. -/
def GlobalForm.RunsAs (g : GlobalForm) (i : Instr) (s : State) : Prop :=
  (∃ f, exec i s = runLanes i s f ∧ g.Runs f) ∧ ∀ l key leaf, (g.effect l key leaf).flag = g.flag.toNat

theorem loadGlobal_runs {i : Instr} {n : Nat} {d a o : BitVec 7} {f : BitVec 4} {s : State} (h : exec i s = loadGlobal i n d a o f s) :
    (loadForm n d a o f).RunsAs i s := by
  refine ⟨⟨_, ?_, GlobalForm.runs_all fun _ _ => rfl⟩, fun _ _ _ => rfl⟩
  rw [h]
  unfold loadGlobal
  simp only [Lane.gva_eq]
  rfl

theorem storeGlobal_runs {i : Instr} {n : Nat} {d a o : BitVec 7} {f : BitVec 4} {s : State} (h : exec i s = storeGlobal i n d a o f s) :
    (storeForm n d a o f).RunsAs i s := by
  refine ⟨⟨_, ?_, GlobalForm.runs_all fun _ _ => rfl⟩, fun _ _ _ => rfl⟩
  rw [h]
  unfold storeGlobal
  simp only [Lane.gva_eq]
  rfl

theorem loadAcquire_runs {i : Instr} {n : Nat} {d a x : BitVec 7} {f : BitVec 4} {s : State} (h : exec i s = loadAcquire i n d a x f s) :
    (acquireForm n d a x f).RunsAs i s :=
  ⟨⟨_, h, GlobalForm.runs_all (g := acquireForm n d a x f) fun _ _ => rfl⟩, fun _ _ _ => rfl⟩

theorem storeRelease_runs {i : Instr} {n : Nat} {d a x : BitVec 7} {f : BitVec 4} {s : State} (h : exec i s = storeRelease i n d a x f s) :
    (releaseForm n d a x f).RunsAs i s :=
  ⟨⟨_, h, GlobalForm.runs_all (g := releaseForm n d a x f) fun _ _ => rfl⟩, fun _ _ _ => rfl⟩

/-- The pages that an atomic is refused on. -/
theorem Leaf.isAcc_eq (p : Leaf) : p.isAcc = (decide (p.fmt = 25) && !(decide (p.geo = 1) || decide (p.geo = 2))) := by
  unfold Leaf.isAcc
  simp only [ne_eq, decide_not, Bool.not_or, Bool.and_assoc]

/-- What an atomic does on a page that its lane reaches. -/
theorem atomic_page {c a : BitVec 7} {operand : Lane → List Word} {f : BitVec 4} {dst : Lane → List Nat} (l : Lane) (key : Nat)
    (leaf : Leaf) : (if keyHost key && !atomHost c then .trap (.atAddr .prot (l.pair a))
      else if decide (c = 20) && !leaf.isAcc then .trap (.atAddr .fmtbad (l.pair a))
      else LaneOut.done ((atomicForm c a operand f dst).effect l key leaf)) =
    if (atomicForm c a operand f dst).takes key leaf then .done ((atomicForm c a operand f dst).effect l key leaf)
    else .trap (.atAddr ((atomicForm c a operand f dst).refuse key leaf) (l.pair a)) := by
  have ht : (atomicForm c a operand f dst).takes key leaf =
      ((!keyHost key || atomHost c) && (decide (c ≠ 20) || leaf.isAcc)) := by
    rw [atomHost_eq, Leaf.isAcc_eq]
    rfl
  have hr : (atomicForm c a operand f dst).refuse key leaf = if keyHost key && !atomHost c then .prot else .fmtbad := by
    rw [atomHost_eq]
    rfl
  rw [ht, hr]
  cases keyHost key <;> cases atomHost c <;> cases leaf.isAcc <;> by_cases h : c = 20 <;> simp [h]

theorem atomic_runs (c a : BitVec 7) (operand : Lane → List Word) (f : BitVec 4) (dst : Lane → List Nat) :
    (atomicForm c a operand f dst).Runs (fun l => l.atomic c a (operand l) f.toNat (dst l)) := by
  have h := GlobalForm.runs_withPage (g := atomicForm c a operand f dst) (k := fun l key leaf =>
    if keyHost key && !atomHost c then .trap (.atAddr .prot (l.pair a))
    else if decide (c = 20) && !leaf.isAcc then .trap (.atAddr .fmtbad (l.pair a))
    else .done ((atomicForm c a operand f dst).effect l key leaf))
    (fun l key leaf ht => by rw [atomic_page, if_pos ht])
    (fun l key leaf ht => by rw [atomic_page, ht]; rfl)
  unfold Lane.atomic
  simp only [atomSize_eq]
  exact h

/-- The version read: a host page has no versions. -/
theorem verr_runs (d a : BitVec 7) (f : BitVec 4) (g : GlobalForm) (hg : globalForm (.verr d a f) = some g) :
    g.Runs (fun l => l.withPage (l.ownReach .load (l.pair a) 1 1) (fun key _ =>
      .done { flag := f.toNat, dst := l.dsts d 2, op := some (.verr key (l.pair a)) })) := by
  cases hg
  refine ⟨fun l h => ?_, fun l c h ht => ?_, fun l key leaf h hq ht => ?_, fun l key leaf h hq ht => ?_⟩
  · exact absurd (Nat.mod_one _) h
  · unfold Lane.withPage Lane.ownReach Lane.reach
    rw [if_neg (not_not.2 h), ht]
  · have hk : keyHost key = false := by simpa using ht
    unfold Lane.withPage Lane.ownReach Lane.reach
    rw [if_neg (not_not.2 h.1), h.2]
    dsimp only
    rw [hk]
    exact Lane.access_ready hq _
  · have hk : keyHost key = true := by simpa using ht
    unfold Lane.withPage Lane.ownReach Lane.reach
    rw [if_neg (not_not.2 h.1), h.2]
    dsimp only
    rw [hk]
    rfl

theorem globalForm_runs {i : Instr} {g : GlobalForm} (h : globalForm i = some g) (s : State) : g.RunsAs i s := by
  cases i <;> cases h
  case ldgB | ldgH | ldgW | ldgD | ldgQ => exact loadGlobal_runs rfl
  case stgB | stgH | stgW | stgD | stgQ => exact storeGlobal_runs rfl
  case ldacqW | ldacqD => exact loadAcquire_runs rfl
  case strelW | strelD => exact storeRelease_runs rfl
  case atom d a c f =>
    refine ⟨⟨_, ?_, atomic_runs c a _ f _⟩, fun _ _ _ => rfl⟩
    simp only [← atomSize_eq]
    rfl
  case red c a b f =>
    refine ⟨⟨_, ?_, atomic_runs c a _ f _⟩, fun _ _ _ => rfl⟩
    simp only [← atomSize_eq]
    rfl
  case cas d a b f => exact ⟨⟨_, rfl, GlobalForm.runs_all fun _ _ => rfl⟩, fun _ _ _ => rfl⟩
  case verr d a f => exact ⟨⟨_, rfl, verr_runs d a f _ rfl⟩, fun _ _ _ => rfl⟩

/-- Settles O21: every member reaches a page that takes its access. -/
theorem globalAccesses : Obligations.GlobalAccesses := by
  intro i g s ls key leaf hg ⟨⟨tm, hi⟩, hc⟩ hq hr hl
  obtain ⟨⟨f, he, hf⟩, hfl⟩ := globalForm_runs hg s
  rw [he]
  exact runLanes_done hi hc (fun l h => hf.done l _ _ (hl l h).1 (hq l h) (hl l h).2) (hr.of fun l => hfl l (key l) (leaf l))

/-- Settles O22: the traps of an access in their order, alone or beside members that complete. -/
theorem accessTraps : Obligations.AccessTraps := by
  intro i g s ls hg ⟨⟨tm, hi⟩, hc⟩
  obtain ⟨⟨f, he, hf⟩, hfl⟩ := globalForm_runs hg s
  rw [he]
  refine ⟨fun ha => ?_, fun c ht => ?_, fun key leaf hl hq => ?_, fun key leaf t hq hr hl => ?_⟩
  · exact runLanes_trap hi hc fun l h => hf.align l (ha l h)
  · exact runLanes_trap hi hc fun l h => hf.error l (c l) (ht l h).1 (ht l h).2
  · exact runLanes_trap hi hc fun l h => hf.refused l _ _ (hl l h).1 (hq l h) (hl l h).2
  · refine runLanes_mixed hi hc (fun l h => ?_) (hr.of fun l => hfl l (key l) (leaf l))
    rcases hl l h with ⟨ht, hreach, htakes⟩ | ⟨ha, ht⟩ | ⟨ha, c, hw, ht⟩ <;> rw [ht]
    · exact hf.done l _ _ hreach (hq l h) htakes
    · exact hf.align l ha
    · exact hf.error l c ha hw

end Sys2Proof.Machine
end

section
/-!
PROOFS. Versioned loads and their check, `CASV`, format-reading accesses, `PREF`, `CFILL` and fences (R141, R142, R170 to R173,
R207 to R210, R215, R225; log entries 17, 37, 57, 75).
-/

namespace Sys2Proof.Machine

/-! ## The issuing group -/

/-- The members of the group, as the state has them. -/
theorem State.issuer_s {s : State} {tm : Team} {ls : List Lane} (h : s.issuer = some (tm, ls)) :
    ∀ l ∈ ls, l.s = s ∧ l.tm = tm := by
  unfold State.issuer at h
  split at h
  · cases h
  · next t _ =>
    dsimp only at h
    split at h
    · cases h
    · cases h
      intro l hl
      obtain ⟨j, -, hj⟩ := List.mem_filterMap.1 hl
      unfold State.laneFor at hj
      obtain ⟨th, -, e⟩ := Option.map_eq_some_iff.1 hj
      rw [← e]
      exact ⟨rfl, rfl⟩

theorem State.issuer_ne_nil {s : State} {tm : Team} {ls : List Lane} (h : s.issuer = some (tm, ls)) : ls ≠ [] := by
  unfold State.issuer at h
  split at h
  · cases h
  · dsimp only at h
    split at h
    · cases h
    · next hn =>
      cases h
      simpa using hn

/-! ## Pages that are not a host's -/

theorem Lane.withPage_own_align {l : Lane} {kind : Access} {va : DWord} {align len : Nat} {k : Nat → Leaf → LaneOut}
    (ha : va.toNat % align ≠ 0) : l.withPage (l.ownReach kind va align len) k = .trap (.atAddr .align va) := by
  unfold Lane.withPage Lane.ownReach Lane.reach
  rw [if_pos ha]

theorem Lane.withPage_own_error {l : Lane} {kind : Access} {va : DWord} {align len : Nat} {c : Cause} {k : Nat → Leaf → LaneOut}
    (ha : va.toNat % align = 0) (ht : l.s.translate l.who kind va len = .error c) :
    l.withPage (l.ownReach kind va align len) k = .trap (.atAddr c va) := by
  unfold Lane.withPage Lane.ownReach Lane.reach
  rw [if_neg (not_not.2 ha), ht]

theorem Lane.ownReach_ok {l : Lane} {kind : Access} {va : DWord} {align len key : Nat} {leaf : Leaf} (ha : va.toNat % align = 0)
    (ht : l.s.translate l.who kind va len = .ok (key, leaf)) (hk : keyHost key = false) :
    l.ownReach kind va align len = .ok (key, leaf) := by
  unfold Lane.ownReach Lane.reach
  rw [if_neg (not_not.2 ha), ht]
  dsimp only
  rw [hk]
  rfl

theorem Lane.withPage_own_host {l : Lane} {kind : Access} {va : DWord} {align len key : Nat} {leaf : Leaf} {k : Nat → Leaf → LaneOut}
    (ha : va.toNat % align = 0) (ht : l.s.translate l.who kind va len = .ok (key, leaf)) (hk : keyHost key = true) :
    l.withPage (l.ownReach kind va align len) k = .trap (.atAddr .prot va) := by
  unfold Lane.withPage Lane.ownReach Lane.reach
  rw [if_neg (not_not.2 ha), ht]
  dsimp only
  rw [hk]
  rfl

theorem Lane.withPage_own_ok {l : Lane} {kind : Access} {va : DWord} {align len key : Nat} {leaf : Leaf} {k : Nat → Leaf → LaneOut}
    (ha : va.toNat % align = 0) (ht : l.s.translate l.who kind va len = .ok (key, leaf)) (hk : keyHost key = false)
    (hq : l.acquiring = false) : l.withPage (l.ownReach kind va align len) k = k key leaf := by
  unfold Lane.withPage
  rw [Lane.ownReach_ok ha ht hk]
  exact Lane.access_ready hq _

/-! ## Versioned loads (R207) -/

theorem Thread.setHas_iff {t : Thread} {line : Nat} : t.setHas line = true ↔ ∃ e ∈ t.vset, e.line = line := by
  unfold Thread.setHas
  simp

theorem versionedForm_exec {i : Instr} {size : Nat} {d a o : BitVec 7} {f : BitVec 4} (h : versionedForm i = some (size, d, a, o, f))
    (s : State) : exec i s = loadVersioned i size d a o f s := by
  cases i <;> cases h <;> rfl

theorem loadVersioned_eq (i : Instr) (size : Nat) (d a o : BitVec 7) (f : BitVec 4) (s : State) :
    loadVersioned i size d a o f s = runLanesThen i s (fun l =>
      l.withPage (l.ownReach .load (l.offsetAddr a o size) size size) (fun key _ =>
        .guard (!l.th.setHas (lineOf key) && decide (16 ≤ l.th.vset.length)) (.of .vsetfull)
          (.done { flag := f.toNat, dst := l.dsts d (size / 4), op := some (.ldvs key size (l.offsetAddr a o size)) })))
      (fun ls s => ls.foldl (fun s l => match l.ownReach .load (l.offsetAddr a o size) size size with
        | .ok (key, _) => s.modThread s.cur.team l.th.idx (Thread.enterSet (lineOf key) (s.opOfLane l))
        | .error _ => s) s) := by
  unfold loadVersioned
  simp only [Lane.gva_eq] <;> rfl

/-- Settles O23: the checks in their order; what follows is that each line enters its thread's set. -/
theorem versionedLoads : Obligations.VersionedLoads := by
  intro i size d a o f s ls key leaf hv ⟨⟨tm, hi⟩, hc⟩
  rw [versionedForm_exec hv, loadVersioned_eq]
  refine ⟨fun ha => ?_, fun c ht => ?_, fun hq hp => ⟨fun hk hr => ?_, fun hk => ?_, fun hk => ?_⟩⟩
  · exact runLanesThen_trap hi hc (fun l hl => Lane.withPage_own_align (ha l hl)) fun _ => rfl
  · exact runLanesThen_trap hi hc (fun l hl => Lane.withPage_own_error (ht l hl).1 (ht l hl).2) fun _ => rfl
  · rw [runLanesThen_done hi hc (d := fun l => { flag := f.toNat, dst := l.dsts d (size / 4)
                                                 op := some (.ldvs (key l) size (l.offsetAddr a o size)) })
      (fun l hl => ?_) (hr.of fun _ => rfl)]
    · refine congrArg Host.Outcome.next (List.foldl_ext _ _ _ fun u l hl => ?_)
      rw [Lane.ownReach_ok (hp l hl).1 (hp l hl).2 (hk l hl).1]
      rfl
    · rw [Lane.withPage_own_ok (hp l hl).1 (hp l hl).2 (hk l hl).1 (hq l hl)]
      refine LaneOut.guard_neg ?_
      rcases (hk l hl).2 with h | h
      · rw [show l.th.setHas (lineOf (key l)) = true from Thread.setHas_iff.2 h]
        rfl
      · rw [decide_eq_false (Nat.not_le.2 h), Bool.and_false]
  · refine runLanesThen_trap hi hc (fun l hl => ?_) fun _ => rfl
    rw [Lane.withPage_own_ok (hp l hl).1 (hp l hl).2 (hk l hl).1 (hq l hl)]
    refine LaneOut.guard_pos ?_
    have hn : l.th.setHas (lineOf (key l)) = false := by
      rw [← Bool.not_eq_true, Thread.setHas_iff]
      exact fun ⟨e, he, hl'⟩ => (hk l hl).2.1 e he hl'
    rw [hn, decide_eq_true (hk l hl).2.2]
    rfl
  · exact runLanesThen_trap hi hc (fun l hl => Lane.withPage_own_host (hp l hl).1 (hp l hl).2 (hk l hl)) fun _ => rfl

/-! ## The check of the set, and `CASV` (R208, R210, R225) -/

theorem Lane.casvReach_align {l : Lane} {va : DWord} (ha : va.toNat % 4 ≠ 0) : l.casvReach va = .error (.atAddr .align va) := if_pos ha

theorem Lane.casvReach_error {l : Lane} {va : DWord} {c : Cause} (ha : va.toNat % 4 = 0)
    (ht : l.s.translateFor l.who .atomic va 4 (decide (l.s.recordByte l.tm.fn va = some 0)) = .error c) :
    l.casvReach va = .error (.atAddr c va) := by
  unfold Lane.casvReach
  dsimp only
  rw [if_neg (not_not.2 ha), ht]

/-- The word is reached: it is refused at a host, and at byte 4 of a record (log entry 37). -/
theorem Lane.casvReach_ok {l : Lane} {va : DWord} {key : Nat} {leaf : Leaf} (ha : va.toNat % 4 = 0)
    (ht : l.s.translateFor l.who .atomic va 4 (decide (l.s.recordByte l.tm.fn va = some 0)) = .ok (key, leaf)) :
    l.casvReach va = if keyHost key || decide (l.s.recordByte l.tm.fn va = some 4) then .error (.atAddr .prot va) else .ok key := by
  unfold Lane.casvReach
  dsimp only
  rw [if_neg (not_not.2 ha), ht]

/-- Settles O24: `VALID` is one access; `CASV` passes its checks in their order, and is fused where its word stands at byte 0. -/
theorem validationAndVersionSwap : Obligations.ValidationAndVersionSwap := by
  refine ⟨fun d k f s ls ⟨⟨tm, hi⟩, hc⟩ hq hr => runLanes_done hi hc (fun l hl => Lane.access_ready (hq l hl) _) (hr.of fun _ => rfl),
    fun d a b f s ls ⟨⟨tm, hi⟩, hc⟩ => ⟨fun key leaf hq hr hp hf => ?_, fun ha => ?_, fun c ht => ?_, fun hp => ?_, fun hp => ?_⟩⟩
  · obtain ⟨c, hc1, hc2⟩ : ∃ c : Bool, (c = true ↔ ∀ l ∈ ls, l.s.recordByte l.tm.fn (l.pair a) = some 0) ∧
        ∀ l ∈ ls, decide (l.s.recordByte l.tm.fn (l.pair a) = some 0) = c := by
      rcases hf with hf | hf
      · exact ⟨true, ⟨fun _ => hf, fun _ => rfl⟩, fun l hl => decide_eq_true (hf l hl)⟩
      · obtain ⟨l0, h0⟩ := List.exists_mem_of_ne_nil ls (State.issuer_ne_nil hi)
        exact ⟨false, ⟨fun e => (nomatch e), fun h => absurd (h l0 h0) (hf l0 h0)⟩, fun l hl => decide_eq_false (hf l hl)⟩
    refine ⟨c, hc1, runLanes_done hi hc (fun l hl => ?_) (hr.of fun _ => rfl)⟩
    obtain ⟨ha, ht, hk, h4⟩ := hp l hl
    dsimp only
    rw [Lane.casvReach_ok ha ht, hk, decide_eq_false h4, hc2 l hl]
    exact Lane.access_ready (hq l hl) _
  · refine runLanes_trap hi hc fun l hl => ?_
    dsimp only
    rw [Lane.casvReach_align (ha l hl)]
  · refine runLanes_trap hi hc fun l hl => ?_
    dsimp only
    rw [Lane.casvReach_error (ht l hl).1 (ht l hl).2]
  · refine runLanes_trap hi hc fun l hl => ?_
    obtain ⟨ha, key, leaf, ht, hk⟩ := hp l hl
    dsimp only
    rw [Lane.casvReach_ok ha ht, hk]
    rfl
  · refine runLanes_trap hi hc fun l hl => ?_
    obtain ⟨ha, h4, ⟨key, leaf⟩, ht⟩ := hp l hl
    have h0 : decide (l.s.recordByte l.tm.fn (l.pair a) = some 0) = false := by rw [h4]; rfl
    dsimp only
    rw [Lane.casvReach_ok ha (by rw [h0]; exact ht), decide_eq_true h4, Bool.or_true]
    rfl

/-! ## Elements of a page's format (R141, R142, R170, R171) -/

/-- A store of an element without a scale byte. -/
theorem Lane.formatStore_plain {l : Lane} {d a o : BitVec 7} {f : BitVec 4} {mode : RMode} {e : Elem}
    (he : l.elemAt .store (l.offsetAddr a o 1) none = .ok e) (hs : e.scale = none) (hq : l.acquiring = false) :
    l.formatStore d a o f mode = .done { flag := f.toNat, op := storeOp f, acts := [(none, .store e.key (e.encode mode (l.reg d) none).1)]
                                         upd := fun t => { t with fpstat := t.fpstat ||| (e.encode mode (l.reg d) none).2.bits } } := by
  unfold Lane.formatStore
  dsimp only
  rw [Lane.gva_eq, he]; dsimp only
  rw [hs]
  exact Lane.access_ready hq _

/-- A store of one with a scale byte, which is read first. -/
theorem Lane.formatStore_scaled {l : Lane} {d a o : BitVec 7} {f : BitVec 4} {mode : RMode} {e : Elem} {p : Nat × DWord} {k : Nat}
    (he : l.elemAt .store (l.offsetAddr a o 1) none = .ok e) (hs : e.scale = some p) (ho : l.readsOut = false)
    (ha : l.s.hostAway p.1 = false) (hk : l.scaleByte p.1 = some k) (hq : l.acquiring = false) :
    l.formatStore d a o f mode = .done { flag := f.toNat, op := storeOp f, acts := [(none, .store e.key (e.encode mode (l.reg d) (some k)).1)]
                                         upd := fun t => { t with fpstat := t.fpstat ||| (e.encode mode (l.reg d) (some k)).2.bits } } := by
  unfold Lane.formatStore
  dsimp only
  rw [Lane.gva_eq, he]; dsimp only
  rw [hs]; dsimp only
  rw [ho, ha, hk]
  exact Lane.access_ready hq _

/-- A poisoned scale byte: its cause stays on the flag, and the element is not written. -/
theorem Lane.formatStore_poisoned {l : Lane} {d a o : BitVec 7} {f : BitVec 4} {mode : RMode} {e : Elem} {p : Nat × DWord}
    (he : l.elemAt .store (l.offsetAddr a o 1) none = .ok e) (hs : e.scale = some p) (ho : l.readsOut = false)
    (ha : l.s.hostAway p.1 = false) (hk : l.scaleByte p.1 = none) (hq : l.acquiring = false) :
    l.formatStore d a o f mode = .done { flag := f.toNat, op := some (.ready []), trap := some (.atAddr .mchk p.2) } := by
  unfold Lane.formatStore
  dsimp only
  rw [Lane.gva_eq, he]; dsimp only
  rw [hs]; dsimp only
  rw [ho, ha, hk]
  exact Lane.access_ready hq _

theorem Lane.formatStore_error {l : Lane} {d a o : BitVec 7} {f : BitVec 4} {mode : RMode} {t : Trap}
    (he : l.elemAt .store (l.offsetAddr a o 1) none = .error t) : l.formatStore d a o f mode = .trap t := by
  unfold Lane.formatStore
  dsimp only
  rw [Lane.gva_eq, he]

/-- Whether a lane performs its store, for the stochastic state (R134). -/
theorem Lane.storesElem_of {l : Lane} {a o : BitVec 7} {e : Elem} (he : l.elemAt .store (l.offsetAddr a o 1) none = .ok e) :
    (e.scale = none → l.storesElem a o = true) ∧
    ∀ p, e.scale = some p → l.storesElem a o = (l.scaleByte p.1).isSome := by
  unfold Lane.storesElem
  rw [Lane.gva_eq, he]; dsimp only
  refine ⟨fun hs => ?_, fun p hs => ?_⟩ <;> rw [hs]

/-- A format store: the lanes' part, and that the stochastic state advances for the members that store. -/
theorem formatStoreOf_exec {i : Instr} {d a o : BitVec 7} {f : BitVec 4} {mode : Lane → RMode} {adv : List Lane → State → State}
    (h : formatStoreOf i = some (d, a, o, f, mode, adv)) (s : State) :
    exec i s = runLanesThen i s (fun l => l.formatStore d a o f (mode l))
      (fun ls s => adv (ls.filter (fun l => l.storesElem a o)) (s.scalesRead ls a o)) := by
  cases i <;> cases h <;> rfl

/-- Settles O25: a load is one access of the element; a store is one of the three outcomes of `formatStore`. -/
theorem formatAccesses : Obligations.FormatAccesses := by
  refine ⟨fun d a o f s ls ⟨⟨tm, hi⟩, hc⟩ => ⟨fun e he hq hr => ?_, fun t he => ?_⟩,
    fun i d a o f mode adv s ls hfm ⟨⟨tm, hi⟩, hc⟩ => ⟨fun e scale hq hr he => ?_, fun e p hq hr he => ?_, fun t he => ?_⟩⟩
  · refine runLanes_done hi hc (fun l hl => ?_) (hr.of fun _ => rfl)
    dsimp only
    rw [Lane.gva_eq, he l hl]
    exact Lane.access_ready (hq l hl) _
  · refine runLanes_trap hi hc fun l hl => ?_
    dsimp only
    rw [Lane.gva_eq, he l hl]
  · have hst : ls.filter (fun l => l.storesElem a o) = ls := by
      refine List.filter_eq_self.2 fun l hl => ?_
      obtain ⟨hel, ⟨hs, -⟩ | ⟨p, hs, -, -, k, hk, -⟩⟩ := he l hl
      · exact (Lane.storesElem_of hel).1 hs
      · rw [(Lane.storesElem_of hel).2 p hs, hk]
        rfl
    rw [formatStoreOf_exec hfm, runLanesThen_done hi hc (d := fun l =>
      { flag := f.toNat, op := storeOp f, acts := [(none, .store (e l).key ((e l).encode (mode l) (l.reg d) (scale l)).1)]
        upd := fun t => { t with fpstat := t.fpstat ||| ((e l).encode (mode l) (l.reg d) (scale l)).2.bits } })
      (fun l hl => ?_) (hr.of fun _ => rfl), hst]
    · rfl
    · obtain ⟨hel, ⟨hs, hsc⟩ | ⟨p, hs, ho, ha, k, hk, hsc⟩⟩ := he l hl
      · rw [Lane.formatStore_plain hel hs (hq l hl), hsc]
      · rw [Lane.formatStore_scaled hel hs ho ha hk (hq l hl), hsc]
  · have hst : ls.filter (fun l => l.storesElem a o) = [] := by
      refine List.filter_eq_nil_iff.2 fun l hl => ?_
      obtain ⟨hel, hs, -, -, hk⟩ := he l hl
      rw [(Lane.storesElem_of hel).2 _ hs, hk]
      decide
    rw [formatStoreOf_exec hfm, runLanesThen_done hi hc (d := fun l =>
      { flag := f.toNat, op := some (.ready []), trap := some (.atAddr .mchk (p l).2) }) (fun l hl => ?_) (hr.of fun _ => rfl), hst]
    obtain ⟨hel, hs, ho, ha, hk⟩ := he l hl
    exact Lane.formatStore_poisoned hel hs ho ha hk (hq l hl)
  · rw [formatStoreOf_exec hfm]
    exact runFormThen_trap (after := fun ls s => adv (ls.filter (fun l => l.storesElem a o)) (s.scalesRead ls a o)) hi
      fun l hl => Lane.outcome_trap (hc l hl) (Lane.formatStore_error (he l hl))

/-! ## `PREF` and `CFILL` (R172, R173) -/

/-- Only the L1 sectors differ. -/
def State.OnlyL1 (s u : State) : Prop := ∃ l1, u = { s with l1 := l1 }

theorem State.OnlyL1.trans {s u v : State} (h : s.OnlyL1 u) (k : u.OnlyL1 v) : s.OnlyL1 v := by
  obtain ⟨x, rfl⟩ := h
  obtain ⟨y, rfl⟩ := k
  exact ⟨y, rfl⟩

theorem State.l1Fill_onlyL1 (s : State) (core sector : Nat) : s.OnlyL1 (s.l1Fill core sector) := by
  unfold State.l1Fill State.l1Trim State.l1Drop
  dsimp only
  split
  · exact ⟨_, rfl⟩
  · split
    · exact ⟨_, rfl⟩
    · exact ⟨_, rfl⟩

theorem State.onlyL1_foldl {α : Type} {f : State → α → State} (h : ∀ s x, State.OnlyL1 s (f s x)) (l : List α) (s : State) :
    s.OnlyL1 (l.foldl f s) := by
  induction l generalizing s with
  | nil => exact ⟨s.l1, rfl⟩
  | cons x xs ih => exact (h s x).trans (ih _)

theorem fillCount_eq (b : Word) : fillCount b = b.toNat / 256 := by
  have h := b.isLt
  unfold fillCount bits
  omega

theorem State.fillLine_eq (b : Word) (s : State) (x : Nat) : s.fillLine (bits b.toNat 7 0) x =
    { s with resid := Tab.put s.resid x (if b.toNat % 256 ≠ 0 ∧ s.countFits x = true then b.toNat % 256 + 1 else 0) 0 } := by
  have e : bits b.toNat 7 0 = b.toNat % 256 := by simp [bits]
  unfold State.fillLine
  rw [e]
  by_cases h : b.toNat % 256 = 0 <;> simp [h]

/-- Settles O26: `PREF` touches the L1 sectors at most; `CFILL` checks its count, its alignment and its pages in this order. -/
theorem prefetchAndFill : Obligations.PrefetchAndFill := by
  refine ⟨fun a o s ls ⟨⟨tm, hi⟩, hc⟩ hq => ?_, fun a b f s ls ⟨⟨tm, hi⟩, hc⟩ => ⟨fun hn => ?_, fun hn => ?_, fun lines hq hr hn => ?_⟩⟩
  · rw [exec_pref, execPref, runLanesThen_done hi hc (d := fun _ => {}) (fun l hl => Lane.access_ready (hq l hl) _) fun _ _ => .inl rfl]
    obtain ⟨l1, h⟩ := State.onlyL1_foldl (f := fun s (l : Lane) =>
      match l.s.translate l.who .load (l.gva a o 1) 1 with
      | .ok (key, _) =>
        if keyOwn key && s.draw (laneOf l.th.idx) 3 % 2 = 0 then s.l1Fill l.tm.core (sectorOf key) else s
      | .error _ => s) (fun s l => by
        split
        · split
          · exact s.l1Fill_onlyL1 _ _
          · exact ⟨s.l1, rfl⟩
        · exact ⟨s.l1, rfl⟩) ls (s.completed ls (fun _ => {}))
    exact ⟨l1, congrArg Host.Outcome.next h⟩
  all_goals rw [exec_cfill, execCfill]
  · refine runLanesThen_trap hi hc (fun l hl => ?_) fun _ => rfl
    dsimp only
    rw [fillCount_eq]
    exact if_pos (hn l hl)
  · refine runLanesThen_trap hi hc (fun l hl => ?_) fun _ => rfl
    obtain ⟨h1, h2, ha⟩ := hn l hl
    dsimp only at h1 h2 ⊢
    rw [fillCount_eq, if_neg (by omega), if_pos ha]
  · rw [runLanesThen_done hi hc (d := fun _ => { flag := f.toNat, op := if f = 0 then none else some (.ready []) })
      (fun l hl => ?_) (hr.of fun _ => rfl)]
    · refine congrArg Host.Outcome.next (List.foldl_ext _ _ _ fun u l hl => ?_)
      rw [fillCount_eq, (hn l hl).2.2.2]
      exact List.foldl_ext _ _ _ fun v x _ => State.fillLine_eq _ _ _
    · obtain ⟨h1, h2, ha, hf⟩ := hn l hl
      dsimp only at h1 h2 ⊢
      rw [fillCount_eq, if_neg (by omega), if_neg (not_not.2 ha), hf]
      exact Lane.access_ready (hq l hl) _

/-! ## Fences (R215, R324) -/

/-- A fence of a form. -/
theorem fenceForm_exec {i : Instr} {g : FenceForm} (h : fenceForm i = some g) (s : State) :
    ∃ held : Lane → Bool, (∀ l, (held l || l.s.unflagged l.s.cur.team l.th.idx) = g.waits l) ∧
      ∃ act : Lane → State → State, (∀ l u, act l u = if g.acquires = true ∧ g.scope ≠ 0 then u.acquireL1 l.tm.core else u) ∧
      exec i s = fence i s held { acts := match g.place with | some sc => [(some sc, .fence sc)] | none => [] } act := by
  cases i <;> cases h
  case fenceAcq x => exact ⟨_, fun _ => rfl, _, fun l u => by simp [State.scopeDrop], rfl⟩
  case fenceRel x => exact ⟨_, fun _ => rfl, _, fun l u => by simp, rfl⟩
  case fenceAr x => exact ⟨_, fun _ => rfl, _, fun l u => by simp [State.scopeDrop], rfl⟩
  case fenceSc x => exact ⟨_, fun _ => rfl, _, fun l u => by simp [State.scopeDrop], rfl⟩

/-- A cause held on no flag is delivered in the fence's place. -/
theorem State.Alone.delivers {fm : Form} {s : State} {l : Lane} {held : Lane → Bool} {f : Lane → LaneOut × (State → State)}
    {c : Deferred} {after : State → State} (h : s.Alone fm l)
    (hh : ∀ tm, l.tm = { tm with groups := l.tm.groups } → held { s := s, tm := tm, th := l.th } = false)
    (hf : f l = (.deliver c, after)) : runFormSeq fm s held f = .next
      ((s.dissolve.deliverIn s.now s.cur.team l.th.idx c).modTeam s.cur.team (Team.gather s.now s.cur.members)) := by
  unfold runFormSeq
  rw [h.run ⟨hh, by rw [hf]⟩, State.member_eq f h.team h.lane h.runs h.passes, hf]
  rfl

/-- What a fence waits for does not depend on the thread's own group. -/
theorem FenceForm.waits_same {i : Instr} {g : FenceForm} (hg : fenceForm i = some g) {fm : Form} {s : State} {l : Lane}
    (h : s.Alone fm l) {tm : Team} (ht : l.tm = { tm with groups := l.tm.groups }) :
    g.waits { s := s, tm := tm, th := l.th } = g.waits l := by
  have e := h.lane_s
  cases l
  dsimp only at e ht
  subst e
  cases i <;> cases hg <;> rfl

/-- Settles O28: a fence that waits for nothing delivers the cause held on no flag, or takes its effect. -/
theorem fences : Obligations.Fences := by
  intro i g s l hg h hw
  obtain ⟨held, hheld, act, hact, he⟩ := fenceForm_exec hg s
  have hfree (tm : Team) (ht : l.tm = { tm with groups := l.tm.groups }) :
      (held { s := s, tm := tm, th := l.th } || s.unflagged s.cur.team l.th.idx) = false := by
    rw [show (held { s := s, tm := tm, th := l.th } || s.unflagged s.cur.team l.th.idx) = _ from hheld _, FenceForm.waits_same hg h ht, hw]
  have ha : act l = fun s => if g.acquires = true ∧ g.scope ≠ 0 then s.acquireL1 l.tm.core else s := funext (hact l)
  rw [he]
  refine ⟨fun hn => ?_, fun c hn => ?_⟩
  · refine h.done hfree ?_ (.inl rfl)
    rw [hn]
    exact congrArg (Prod.mk _) ha
  · refine h.delivers (after := id) hfree ?_
    rw [hn]

end Sys2Proof.Machine
end

section
/-!
PROOFS. Gathers and scatters (R120 to R122, R174 to R176; log entry 16): one operation for the group, whose lane requests stand
in the Pannier.
-/

namespace Sys2Proof.Machine

/-! ## Accepting requests (R120) -/

/-- The entries of a Pannier that has taken requests: each is there with the requests it had, and perhaps more. -/
def PannierGrows (p q : List PannierEntry) : Prop :=
  ∀ e ∈ p, ∃ e' ∈ q, e'.id = e.id ∧ e'.core = e.core ∧ e'.sent = e.sent ∧ e'.sector = e.sector ∧ e'.write = e.write ∧
    ∃ more, e'.reqs = e.reqs ++ more

theorem PannierGrows.refl (p : List PannierEntry) : PannierGrows p p :=
  fun e he => ⟨e, he, rfl, rfl, rfl, rfl, rfl, [], (List.append_nil _).symm⟩

theorem PannierGrows.trans {p q r : List PannierEntry} (h : PannierGrows p q) (k : PannierGrows q r) : PannierGrows p r := by
  intro e he
  obtain ⟨e', he', hid, hc, hs, hx, hw, m, hm⟩ := h e he
  obtain ⟨e'', he'', hid', hc', hs', hx', hw', m', hm'⟩ := k e' he'
  exact ⟨e'', he'', hid'.trans hid, hc'.trans hc, hs'.trans hs, hx'.trans hx, hw'.trans hw, m ++ m', by rw [hm', hm, List.append_assoc]⟩

/-- What accepting requests leaves of the state. -/
structure State.Accepts (s u : State) : Prop where
  teams : u.teams = s.teams
  mem : u.mem = s.mem
  ops : u.ops = s.ops
  cur : u.cur = s.cur
  grows : PannierGrows s.pannier u.pannier

theorem State.accepts_refl (s : State) : s.Accepts s := ⟨rfl, rfl, rfl, rfl, PannierGrows.refl _⟩

theorem State.Accepts.trans {s u v : State} (h : s.Accepts u) (k : u.Accepts v) : s.Accepts v :=
  ⟨k.teams.trans h.teams, k.mem.trans h.mem, k.ops.trans h.ops, k.cur.trans h.cur, h.grows.trans k.grows⟩

/-- A request stands in an entry of its core, its sector and its kind that has still to be sent. -/
def State.Stands (s : State) (core : Nat) (write : Bool) (r : PannierReq) : Prop :=
  ∃ e ∈ s.pannier, e.core = core ∧ e.sent = false ∧ e.sector = sectorOf r.loc ∧ e.write = write ∧ r ∈ e.reqs

theorem State.Stands.grows {s u : State} {core : Nat} {write : Bool} {r : PannierReq} (h : s.Stands core write r)
    (k : PannierGrows s.pannier u.pannier) : u.Stands core write r := by
  obtain ⟨e, he, hc, hs, hx, hw, hr⟩ := h
  obtain ⟨e', he', -, hc', hs', hx', hw', m, hm⟩ := k e he
  exact ⟨e', he', hc'.trans hc, hs'.trans hs, hx'.trans hx, hw'.trans hw, by rw [hm]; exact List.mem_append_left _ hr⟩

/-- The entry that a request joins. -/
theorem State.joins_some {s : State} {core sector : Nat} {write : Bool} {x : PannierEntry} (h : s.joins core sector write = some x) :
    x ∈ s.pannier ∧ x.core = core ∧ x.sent = false ∧ x.sector = sector ∧ x.write = write := by
  unfold State.joins at h
  split at h
  · cases h
  · next e he =>
    split at h
    · next hw =>
      cases h
      obtain ⟨hm, hx⟩ := List.mem_filter.1 (List.mem_of_getLast? he)
      obtain ⟨hp, hcs⟩ := List.mem_filter.1 hm
      simp only [Bool.and_eq_true, decide_eq_true_eq, Bool.not_eq_true'] at hx hcs hw
      exact ⟨hp, hcs.1, hcs.2, hx, hw.1⟩
    · cases h

/-- A request is added to the entries of a number. -/
theorem pannierGrows_add (p : List PannierEntry) (id : Nat) (r : PannierReq) :
    PannierGrows p (p.map (fun e => if e.id = id then { e with reqs := e.reqs ++ [r] } else e)) := by
  intro e he
  refine ⟨_, List.mem_map_of_mem he, ?_⟩
  split
  · exact ⟨rfl, rfl, rfl, rfl, rfl, [r], rfl⟩
  · exact ⟨rfl, rfl, rfl, rfl, rfl, [], (List.append_nil _).symm⟩

theorem State.acceptReq_accepts (s : State) (core : Nat) (write : Bool) (r : PannierReq) :
    s.Accepts (s.acceptReq core write r) ∧ (s.acceptReq core write r).Stands core write r := by
  unfold State.acceptReq
  dsimp only
  cases hj : s.joins core (sectorOf r.loc) write with
  | some x =>
    obtain ⟨hx, hc, hs, hsec, hw⟩ := State.joins_some hj
    dsimp only
    refine ⟨⟨rfl, rfl, rfl, rfl, pannierGrows_add _ _ _⟩, { x with reqs := x.reqs ++ [r] }, List.mem_map.2 ⟨x, hx, if_pos rfl⟩,
      hc, hs, hsec, hw, List.mem_append_right _ (List.mem_singleton.2 rfl)⟩
  | none =>
    dsimp only
    exact ⟨⟨rfl, rfl, rfl, rfl, fun e he => ⟨e, List.mem_append_left _ he, rfl, rfl, rfl, rfl, rfl, [], (List.append_nil _).symm⟩⟩,
      { id := s.nextId, core := core, sector := sectorOf r.loc, write := write, born := s.now, sent := false, reqs := [r] },
      List.mem_append_right _ (List.mem_singleton.2 rfl), rfl, rfl, rfl, rfl, List.mem_singleton.2 rfl⟩

/-- Steps that accept requests, one after another: each step's own property holds in the end, where a later step keeps it. -/
theorem State.foldl_accepts {α : Type} {f : State → α → State} {P : State → α → Prop} (hf : ∀ s x, s.Accepts (f s x) ∧ P (f s x) x)
    (hm : ∀ s u x, State.Accepts s u → P s x → P u x) (l : List α) (s : State) :
    s.Accepts (l.foldl f s) ∧ ∀ x ∈ l, P (l.foldl f s) x := by
  induction l generalizing s with
  | nil => exact ⟨s.accepts_refl, fun _ h => nomatch h⟩
  | cons x xs ih =>
    obtain ⟨ha, hp⟩ := hf s x
    obtain ⟨ha', hp'⟩ := ih (f s x)
    refine ⟨ha.trans ha', fun y hy => ?_⟩
    rcases List.mem_cons.1 hy with rfl | hy
    · exact hm _ _ _ ha' hp
    · exact hp' y hy

/-! ## One lane's requests (R174, R175) -/

/-- The request of a part of a lane's element. -/
def laneReqOf (team op : Nat) (l : Lane) (q : (Nat × Nat × List Byte) × Nat) : PannierReq :=
  { team := team, thr := l.th.idx, op := op, loc := q.1.1, len := q.1.2.1, word := (wordOf q.1).1, width := (wordOf q.1).2
    data := q.1.2.2, pwin := l.tm.pwin.toNat, part := q.2 }

/-- The aligned word that holds a part. -/
theorem wordOf_eq (p : Nat × Nat × List Byte) : wordOf p = (p.1 / wordWidth p.2.1 * wordWidth p.2.1, wordWidth p.2.1) := by
  unfold wordOf wordWidth
  dsimp only
  rw [← Nat.div_mul_self_eq_mod_sub_self]

theorem Lane.plainReq_eq (l : Lane) (kind : Access) (size : Nat) (a b : BitVec 7) (data : Lane → List Byte) :
    l.plainReq kind size a b (data l) = plainElement kind size a b data l := by
  have e : l.pair a + BitVec.ofNat 64 size * (l.reg b).zeroExtend 64 = BitVec.ofNat 64 ((l.pair a).toNat + size * (l.reg b).toNat) := by
    apply BitVec.eq_of_toNat_eq
    simp [BitVec.toNat_add, BitVec.toNat_mul]
  unfold Lane.plainReq plainElement Lane.reach
  rw [e]
  generalize BitVec.ofNat 64 ((l.pair a).toNat + size * (l.reg b).toNat) = va
  by_cases ha : va.toNat % size ≠ 0
  · simp only [if_pos ha]
  · simp only [if_neg ha]
    cases l.s.translate l.who kind va size <;> rfl

theorem gatherForm_exec {i : Instr} {g : GatherForm} (h : gatherForm i = some g) (s : State) :
    exec i s = laneAccess i g.flag g.write g.dst (g.req s) s := by
  cases i <;> cases h
  case gathW d a b f =>
    have e := funext fun l : Lane => l.plainReq_eq .load 4 a b fun _ => []
    exact congrArg (fun r => laneAccess (.gathW d a b f) f false (fun l => l.dsts d 1) r s) e
  case gathD d a b f =>
    have e := funext fun l : Lane => l.plainReq_eq .load 8 a b fun _ => []
    exact congrArg (fun r => laneAccess (.gathD d a b f) f false (fun l => l.dsts d 2) r s) e
  case gathF d a b f => rfl
  case scatW d a b f =>
    have e := funext fun l : Lane => l.plainReq_eq .store 4 a b fun l => bytesOfWord (l.reg d)
    exact congrArg (fun r => laneAccess (.scatW d a b f) f true (fun _ => []) r s) e
  case scatD d a b f =>
    have e := funext fun l : Lane => l.plainReq_eq .store 8 a b fun l => bytesOfPair (l.pair d)
    exact congrArg (fun r => laneAccess (.scatD d a b f) f true (fun _ => []) r s) e

/-! ## The operation of the group (R122) -/

/-- The operation that the group leaves in state u. -/
def lanesOp (u : State) (f thr : Nat) (lanes : List (Nat × List Nat × LoadForm × DWord)) (waits : List (Nat × Nat)) : Op :=
  { id := u.nextId, ins := u.nextId, team := u.cur.team, thr := thr, flag := f, dst := [], trap := none, passed := [], seen := []
    ldvs := false, kind := .lanes lanes waits [] }

/-- A state accepts the request of one part of a lane's element. -/
def State.acceptPart (op : Nat) (write : Bool) (l : Lane) (s : State) (q : (Nat × Nat × List Byte) × Nat) : State :=
  let w := wordWidth q.1.2.1
  s.acceptReq l.tm.core write
    { team := s.cur.team, thr := l.th.idx, op := op, loc := q.1.1, len := q.1.2.1, word := q.1.1 / w * w
      width := w, data := q.1.2.2, pwin := l.tm.pwin.toNat, part := q.2 }

/-- That the request of a part stands, as a property of the state that the accepting of others keeps. -/
def State.PartStands (op : Nat) (write : Bool) (l : Lane) (s : State) (q : (Nat × Nat × List Byte) × Nat) : Prop :=
  s.Stands l.tm.core write (laneReqOf s.cur.team op l q)

theorem State.PartStands.accepts {op : Nat} {write : Bool} {l : Lane} {s u : State} {q : (Nat × Nat × List Byte) × Nat}
    (h : s.PartStands op write l q) (k : s.Accepts u) : u.PartStands op write l q := by
  unfold State.PartStands
  rw [k.cur]
  exact State.Stands.grows h k.grows

theorem State.acceptPart_accepts (op : Nat) (write : Bool) (l : Lane) (s : State) (q : (Nat × Nat × List Byte) × Nat) :
    s.Accepts (s.acceptPart op write l q) ∧ (s.acceptPart op write l q).PartStands op write l q := by
  have e : s.acceptPart op write l q = s.acceptReq l.tm.core write (laneReqOf s.cur.team op l q) := by
    unfold State.acceptPart laneReqOf
    rw [wordOf_eq]
  obtain ⟨ha, hs⟩ := s.acceptReq_accepts l.tm.core write (laneReqOf s.cur.team op l q)
  rw [e, State.PartStands, ha.cur]
  exact ⟨ha, hs⟩

/-- Accepting the requests of every lane, one lane after another (R120): each of them stands in the end. -/
theorem State.acceptLanes (op : Nat) (write : Bool) (rs : List (Lane × LaneReq)) (s : State) :
    s.Accepts (rs.foldl (fun s p => p.2.parts.zipIdx.foldl (State.acceptPart op write p.1) s) s) ∧
    ∀ p ∈ rs, ∀ q ∈ p.2.parts.zipIdx,
      (rs.foldl (fun s p => p.2.parts.zipIdx.foldl (State.acceptPart op write p.1) s) s).PartStands op write p.1 q :=
  State.foldl_accepts (P := fun s p => ∀ q ∈ p.2.parts.zipIdx, s.PartStands op write p.1 q)
    (fun s p => State.foldl_accepts (State.acceptPart_accepts op write p.1)
      (fun _ _ _ ha h => State.PartStands.accepts (l := p.1) h ha) _ s)
    (fun _ _ p ha h q hq => State.PartStands.accepts (l := p.1) (h q hq) ha) rs s

/-- What the group leaves: its operation in flight, and its requests in the Pannier. -/
theorem laneAccess_done {i : Instr} {f : BitVec 4} {write : Bool} {dst : Lane → List Nat} {req : Lane → Except Trap LaneReq}
    {r : Lane → LaneReq} {s : State} {tm : Team} {ls : List Lane} (hi : s.issuer = some (tm, ls))
    (hc : ∀ l ∈ ls, l.check (instrForm i) = none) (hr : ∀ l ∈ ls, req l = .ok (r l)) (hq : NoAcquire ls) (hf : Room f.toNat ls)
    (hh : ∀ l ∈ ls, l.s.pannierGroups l.tm.core s.cur.members < 64 ∧ ∀ p ∈ (r l).parts,
      (if write then l.scatterHeld p.1 p.2.1 else l.gatherHeld p.1) = false) :
    ∃ (t : State) (op : Op), laneAccess i f write dst req s = .next t ∧
      State.Accepts { s.completed ls (fun _ => { flag := f.toNat }) with ops := (s.completed ls (fun _ => { flag := f.toNat })).ops ++ [op] } t ∧
      op.id = (s.completed ls (fun _ => { flag := f.toNat })).nextId ∧ op.team = s.cur.team ∧ op.flag = f.toNat ∧
      op.kind = .lanes (ls.map (fun l => (l.th.idx, dst l, (r l).form, (r l).va)))
        (ls.flatMap (fun l => (List.range (r l).parts.length).map (fun n => (l.th.idx, n)))) [] ∧
      ∀ l ∈ ls, ∀ p ∈ (r l).parts.zipIdx, t.Stands l.tm.core write (laneReqOf s.cur.team op.id l p) := by
  have hne := State.issuer_ne_nil hi
  have hls := State.issuer_s hi
  have hroom : ∀ l ∈ ls, f.toNat = 0 ∨ l.th.flag f.toNat < 15 := fun l hl => hf.imp_right fun h => h l hl
  unfold laneAccess
  rw [runLanesThen_done (d := fun _ => { flag := f.toNat }) hi hc (fun l hl => ?_) hroom]
  · dsimp only
    rw [List.filterMap_congr (g := fun l => some (l, r l)) (fun l hl => by rw [hr l hl])]
    generalize hu : s.completed ls (fun _ => { flag := f.toNat }) = u
    have hcur : u.cur.team = s.cur.team := by rw [← hu, State.completed_cur]
    rw [← hcur]
    cases ls with
    | nil => exact absurd rfl hne
    | cons l0 rest =>
      rw [List.filterMap_eq_map', List.map_map, List.flatMap_map]
      let op := lanesOp u f.toNat l0.th.idx ((l0 :: rest).map (fun l => (l.th.idx, dst l, (r l).form, (r l).va)))
          ((l0 :: rest).flatMap (fun l => (List.range (r l).parts.length).map (fun n => (l.th.idx, n))))
      obtain ⟨ha, hst⟩ := State.acceptLanes op.id write ((l0 :: rest).map (fun l => (l, r l))) { u with ops := u.ops ++ [op], nextId := u.nextId + 1 }
      refine ⟨_, op, rfl, ⟨ha.teams, ha.mem, ha.ops, ha.cur, ha.grows⟩, rfl, rfl, rfl, rfl, fun l hl p hp => ?_⟩
      have h := hst (l, r l) (List.mem_map_of_mem hl) p hp
      rwa [State.PartStands, ha.cur] at h
  · obtain ⟨hg, hp⟩ := hh l hl
    have hany : (r l).parts.any (fun p => if write then l.scatterHeld p.1 p.2.1 else l.gatherHeld p.1) = false :=
      List.any_eq_false.2 fun p hp' => by rw [hp p hp']; exact Bool.false_ne_true
    rw [hr l hl]
    dsimp only
    rw [hany, (hls l hl).1, decide_eq_false (by rw [(hls l hl).1] at hg; omega)]
    exact Lane.access_ready (hq l hl) _

/-- Settles O27: every form of the table is `laneAccess`, whose requests the Pannier accepts one by one. -/
theorem gathersAndScatters : Obligations.GathersAndScatters := by
  unfold Obligations.GathersAndScatters
  intro i g s ls hg hr
  obtain ⟨⟨tm, hi⟩, hc⟩ := hr
  rw [gatherForm_exec hg]
  refine ⟨fun r hq hf hok hh => ?_, fun t ht => ?_⟩
  · obtain ⟨t, op, he, ha, hid, hteam, hflag, hkind, hst⟩ := laneAccess_done (dst := g.dst) hi hc hok hq hf hh
    have hp : PannierGrows s.pannier t.pannier := by
      have h := ha.grows
      rwa [State.completed_eq] at h
    refine ⟨t, op, he, ha.teams, ha.mem.trans (by rw [State.completed_eq]), ha.ops, hid, hteam, hflag, hkind, fun e hm => ?_, fun l hl p hp => ?_⟩
    · obtain ⟨e', he', hid', -, hs', -, -, hm'⟩ := hp e hm
      exact ⟨e', he', hid', hs', hm'⟩
    · exact hst l hl p hp
  · exact runLanesThen_trap hi hc (fun l hl => by rw [ht l hl]) fun _ => rfl

end Sys2Proof.Machine
end

section
/-!
PROOFS. Copies (R177 to R184): the chunks of a copy are its bytes, and the start of a copy that passes its checks.
-/

namespace Sys2Proof.Machine

/-! ## Places -/

theorem CopyEnd.inSector_lt (e : CopyEnd) : e.inSector < 32 := by
  cases e <;> exact Nat.mod_lt _ (by decide)

theorem CopyEnd.inSector_add (e : CopyEnd) (n : Nat) : (e.add n).inSector = (e.inSector + n) % 32 := by
  cases e with
  | mem va =>
    simp only [CopyEnd.add, CopyEnd.inSector, BitVec.toNat_add, BitVec.toNat_ofNat]
    omega
  | spad k o =>
    simp only [CopyEnd.add, CopyEnd.inSector]
    omega

theorem CopyEnd.add_add (e : CopyEnd) (m n : Nat) : (e.add m).add n = e.add (m + n) := by
  cases e with
  | mem va => simp only [CopyEnd.add, BitVec.ofNat_add, BitVec.add_assoc]
  | spad k o => simp only [CopyEnd.add, Nat.add_assoc]

/-! ## The chunks of one row (R179) -/

/-- A row's bytes are cut at destination sectors: the step of the recursion. -/
theorem rowChunks_succ (row fuel : Nat) (dst : CopyEnd) (off col n : Nat) (h : n ≠ 0) :
    rowChunks row (fuel + 1) dst off col n =
      { off := off, row := row, col := col, dst := dst, len := min n (32 - dst.inSector) } ::
        rowChunks row fuel (dst.add (min n (32 - dst.inSector))) (off + min n (32 - dst.inSector))
          (col + min n (32 - dst.inSector)) (n - min n (32 - dst.inSector)) := by
  rw [rowChunks, if_neg h]

theorem rowChunks_zero (row fuel : Nat) (dst : CopyEnd) (off col : Nat) : rowChunks row fuel dst off col 0 = [] := by
  cases fuel <;> rfl

/-- Fuel suffices for a row of n bytes from a place: one step for every sector that it touches. -/
def Suffices (fuel : Nat) (dst : CopyEnd) (n : Nat) : Prop := n = 0 ∨ dst.inSector + n ≤ 32 * fuel

/-- The rest of a row, after its first chunk, needs one step fewer. -/
theorem Suffices.rest {fuel : Nat} {dst : CopyEnd} {n : Nat} (h : Suffices (fuel + 1) dst n) :
    Suffices fuel (dst.add (min n (32 - dst.inSector))) (n - min n (32 - dst.inSector)) := by
  unfold Suffices at *
  have hs := dst.inSector_lt
  rw [CopyEnd.inSector_add]
  omega

/-- The lengths of a row's chunks add up to the row. -/
theorem rowChunks_sum {row fuel : Nat} {dst : CopyEnd} {off col n : Nat} (h : Suffices fuel dst n) :
    ((rowChunks row fuel dst off col n).map (fun c => c.len)).sum = n := by
  induction fuel generalizing dst off col n with
  | zero =>
    have hn : n = 0 := h.elim id fun h => by omega
    rw [hn]; rfl
  | succ fuel ih =>
    by_cases hn : n = 0
    · rw [hn, rowChunks_zero]; rfl
    · rw [rowChunks_succ _ _ _ _ _ _ hn, List.map_cons, List.sum_cons, ih h.rest]
      exact Nat.add_sub_cancel' (Nat.min_le_left _ _)

/-- A chunk lies in its row and in one sector, at the place of its column. -/
theorem rowChunks_bounds {row fuel : Nat} {dst : CopyEnd} {off col n : Nat} :
    ∀ c ∈ rowChunks row fuel dst off col n, 1 ≤ c.len ∧ c.dst.inSector + c.len ≤ 32 ∧ c.row = row ∧
      ∃ k, c.col = col + k ∧ k + c.len ≤ n ∧ c.off = off + k ∧ c.dst = dst.add k := by
  induction fuel generalizing dst off col n with
  | zero => intro c hc; cases hc
  | succ fuel ih =>
    intro c hc
    by_cases hn : n = 0
    · rw [hn, rowChunks_zero] at hc; cases hc
    · rw [rowChunks_succ _ _ _ _ _ _ hn] at hc
      have hs := dst.inSector_lt
      rcases List.mem_cons.1 hc with rfl | hc
      · dsimp only
        refine ⟨by omega, by omega, rfl, 0, rfl, by omega, rfl, ?_⟩
        cases dst with
        | mem va => simp only [CopyEnd.add, BitVec.add_zero]
        | spad k o => rfl
      · obtain ⟨h1, h2, h3, k, hk, hl, ho, hd⟩ := ih c hc
        exact ⟨h1, h2, h3, min n (32 - dst.inSector) + k, by omega, by omega, by omega, by rw [hd, CopyEnd.add_add]⟩

/-- A chunk has the byte at a column. -/
def CopyChunk.has (c : CopyChunk) (x : Nat) : Bool := decide (c.col ≤ x ∧ x < c.col + c.len)

/-- Each byte of a row is in one of its chunks, and no other is in any. -/
theorem rowChunks_count {row fuel : Nat} {dst : CopyEnd} {off col n : Nat} (x : Nat) (h : Suffices fuel dst n) :
    ((rowChunks row fuel dst off col n).filter (fun c => c.has x)).length = if col ≤ x ∧ x < col + n then 1 else 0 := by
  induction fuel generalizing dst off col n with
  | zero =>
    have hn : n = 0 := h.elim id fun h => by omega
    rw [hn, rowChunks_zero, if_neg (by omega)]; rfl
  | succ fuel ih =>
    by_cases hn : n = 0
    · rw [hn, rowChunks_zero, if_neg (by omega)]; rfl
    · have hs := dst.inSector_lt
      rw [rowChunks_succ _ _ _ _ _ _ hn, List.filter_cons]
      split
      · next hx =>
        simp only [CopyChunk.has, decide_eq_true_eq] at hx
        rw [List.length_cons, ih h.rest, if_neg (by omega), if_pos (by omega)]
      · next hx =>
        simp only [CopyChunk.has, decide_eq_true_eq] at hx
        rw [ih h.rest]
        exact if_congr (by omega) rfl rfl

/-- The chunks of a row that have the byte at a column of row r: one, where the row is r. -/
theorem rowChunks_count_row {row fuel : Nat} {dst : CopyEnd} {off n : Nat} (h : Suffices fuel dst n) (r : Nat) {x : Nat} (hx : x < n) :
    ((rowChunks row fuel dst off 0 n).filter (fun c => decide (c.row = r ∧ c.col ≤ x ∧ x < c.col + c.len))).length =
      if row = r then 1 else 0 := by
  by_cases hr : row = r
  · rw [if_pos hr, List.filter_congr (q := fun c => c.has x), rowChunks_count x h, if_pos (by omega)]
    intro c hc
    have e : c.row = r := (rowChunks_bounds c hc).2.2.1.trans hr
    exact decide_eq_decide.2 (and_iff_right e)
  · rw [if_neg hr, List.filter_eq_nil_iff.2]
    · rfl
    · intro c hc he
      exact hr ((rowChunks_bounds c hc).2.2.1.symm.trans (of_decide_eq_true he).1)

/-- One row of several counts. -/
theorem sum_single (rows r : Nat) : ((List.range rows).map (fun i => if i = r then 1 else 0)).sum = if r < rows then 1 else 0 := by
  induction rows with
  | zero => rfl
  | succ n ih =>
    rw [List.range_succ, List.map_append, List.sum_append, ih, List.map_singleton, List.sum_singleton]
    split <;> split <;> split <;> omega

/-- The fuel of a row is enough from every place. -/
theorem suffices_row (dst : CopyEnd) (n : Nat) : Suffices (n / 32 + 2) dst n := by
  have hs := dst.inSector_lt
  exact Or.inr (by omega)

/-! ## The chunks of the rows -/

/-- Settles O30: the recursion of a row, row by row. -/
theorem copyChunks_exact : Obligations.CopyChunks := by
  unfold Obligations.CopyChunks
  intro dst pitch rows rbytes
  dsimp only
  refine ⟨?_, fun c hc => ?_, fun r x hr hx => ?_⟩
  · rw [Machine.copyChunks, List.map_flatMap, List.flatMap_def, List.sum_flatten, List.map_map]
    unfold Function.comp
    rw [List.map_congr_left (g := fun _ => rbytes) fun i _ => rowChunks_sum (suffices_row _ _)]
    rw [List.map_const', List.sum_replicate, List.length_range, smul_eq_mul]
  · obtain ⟨i, hi, hc⟩ := List.mem_flatMap.1 hc
    obtain ⟨h1, h2, hrow, k, hk, hl, ho, hd⟩ := rowChunks_bounds c hc
    have hi := List.mem_range.1 hi
    refine ⟨h1, h2, by omega, by omega, by rw [ho, hrow]; omega, ?_⟩
    rw [hd, CopyEnd.add_add, hrow]
    congr 1
    omega
  · rw [Machine.copyChunks, List.filter_flatMap, List.length_flatMap]
    rw [List.map_congr_left (g := fun i => if i = r then 1 else 0) fun i _ => rowChunks_count_row (suffices_row _ _) r hx]
    rw [sum_single, if_pos hr]

/-! ## Reads at issue of a thread alone in its group -/

/-- What a read at issue answers does not depend on the thread's own group. -/
theorem State.Alone.same_answer {fm : Form} {s : State} {l : Lane} (h : s.Alone fm l) {tm : Team}
    (ht : l.tm = { tm with groups := l.tm.groups }) (r : Request) :
    Lane.answer { s := s, tm := tm, th := l.th } r = l.answer r ∧ Lane.requestKeys { s := s, tm := tm, th := l.th } r = l.requestKeys r := by
  have e := h.lane_s
  cases l
  dsimp only at e ht
  subst e
  rw [ht]
  exact ⟨rfl, rfl⟩

/-- Nor does what a script reads. -/
theorem State.Alone.same_scriptKeys {fm : Form} {s : State} {l : Lane} {α : Type} (h : s.Alone fm l) {tm : Team}
    (ht : l.tm = { tm with groups := l.tm.groups }) (sc : Script α) :
    Lane.scriptKeys { s := s, tm := tm, th := l.th } sc = l.scriptKeys sc := by
  induction sc with
  | done a => rfl
  | stop f => rfl
  | ask r k ih =>
    obtain ⟨ha, hk⟩ := h.same_answer ht r
    rw [Lane.scriptKeys, Lane.scriptKeys, ha, hk, ih]

/-- Nor whether a script waits for a link. -/
theorem State.Alone.same_scriptAway {fm : Form} {s : State} {l : Lane} {α : Type} (h : s.Alone fm l) {tm : Team}
    (ht : l.tm = { tm with groups := l.tm.groups }) (sc : Script α) :
    Lane.scriptAway { s := s, tm := tm, th := l.th } sc = l.scriptAway sc := by
  unfold Lane.scriptAway
  rw [h.same_scriptKeys ht, h.lane_s]
  rfl

/-- Nor what a register holds. -/
theorem State.Alone.same_pair {fm : Form} {s : State} {l : Lane} (h : s.Alone fm l) {tm : Team}
    (ht : l.tm = { tm with groups := l.tm.groups }) (a : BitVec 7) :
    Lane.pair { s := s, tm := tm, th := l.th } a = l.pair a := by
  have e := h.lane_s
  cases l
  dsimp only at e ht
  subst e
  rw [ht]
  rfl

/-- What holds an instruction that reads a block at issue. -/
theorem State.Alone.reads_block {fm : Form} {s : State} {l : Lane} (h : s.Alone fm l) {a : BitVec 7} {n : Nat}
    (hw : l.waitsToRead = false) (ha : l.scriptAway (Script.read (l.pair a) n) = false) (tm : Team)
    (ht : l.tm = { tm with groups := l.tm.groups }) :
    (Lane.waitsToRead { s := s, tm := tm, th := l.th } ||
      Lane.scriptAway { s := s, tm := tm, th := l.th } (Script.read (Lane.pair { s := s, tm := tm, th := l.th } a) n)) = false := by
  rw [(h.same ht 0).2.2.1, h.same_pair ht, h.same_scriptAway ht, hw, ha]
  rfl

/-! ## COPY and COPYX (R177 to R180, R184) -/

theorem Lane.block_misaligned {l : Lane} {a : DWord} {n align : Nat} (h : a.toNat % align ≠ 0) :
    l.block a n align = .error (.atAddr .align a) := if_pos h

theorem Lane.block_aligned {l : Lane} {a : DWord} {n align : Nat} (h : a.toNat % align = 0) :
    l.block a n align = l.runScript (Script.read a n) := if_neg (not_not_intro h)

theorem State.linesFit_of {s : State} {ps : List (Nat × Nat)} (h : ∀ x ∈ ps, s.lineCount x < 3) : s.linesFit ps = true :=
  List.all_eq_true.2 fun x hx => decide_eq_true (h x hx)

theorem copyForm_exec {i : Instr} {g : CopyForm} (h : copyForm i = some g) (s : State) :
    exec i s = copyLanes i g.ctl g.bar g.flag g.bytes g.block g.plan s := by
  cases i <;> cases h <;> rfl

/-- What one member's copy makes of its barrier word, its control block and its plan (R178). -/
def CopyForm.issue (g : CopyForm) (l : Lane) : Except Trap (Option Nat × CopyPlan) :=
  (l.barrierWord (l.reg g.bar)).bind fun obj => (l.block (l.pair g.ctl) g.bytes 64).bind fun cb => (g.plan l cb).map fun p => (obj, p)

/-- What one member does. -/
def CopyForm.member (g : CopyForm) (l : Lane) : LaneOut × (State → State) :=
  match g.issue l with
  | .error t => (.trap t, id)
  | .ok (obj, p) =>
    if !l.s.linesFit (chunkLines p.chunks) then (.hold, id)
    else (.done { flag := g.flag.toNat }, fun s =>
      s.startCopy (s.copyOp l s.nextId g.flag obj [l.th.idx] (g.block (l.pair g.ctl)) p) l
        (l.scriptKeys (Script.read (l.pair g.ctl) g.bytes)))

theorem copyLanes_eq (i : Instr) (g : CopyForm) (s : State) :
    copyLanes i g.ctl g.bar g.flag g.bytes g.block g.plan s =
      runSeq i s (fun l => l.waitsToRead || l.scriptAway (Script.read (l.pair g.ctl) g.bytes)) g.member := by
  unfold copyLanes
  dsimp only
  congr 1
  funext l
  unfold CopyForm.member CopyForm.issue
  cases l.barrierWord (l.reg g.bar) with
  | error t => rfl
  | ok obj =>
    dsimp only [Except.bind]
    cases l.block (l.pair g.ctl) g.bytes 64 with
    | error t => rfl
    | ok cb =>
      dsimp only
      cases g.plan l cb <;> rfl

/-- A copy whose issue meets a trap. -/
theorem copyLanes_trap {i : Instr} {g : CopyForm} {s : State} {l : Lane} {t : Trap} (h : s.Alone (instrForm i) l)
    (hw : l.waitsToRead = false) (ha : l.scriptAway (Script.read (l.pair g.ctl) g.bytes) = false) (ht : g.issue l = .error t) :
    copyLanes i g.ctl g.bar g.flag g.bytes g.block g.plan s = .next (s.actedTrap l t) := by
  rw [copyLanes_eq]
  exact h.trap (after := id) (h.reads_block hw ha) (by unfold CopyForm.member; rw [ht])

/-- A copy that passes its checks, with room on the lines it writes. -/
theorem copyLanes_done {i : Instr} {g : CopyForm} {s : State} {l : Lane} {obj : Option Nat} {p : CopyPlan} (h : s.Alone (instrForm i) l)
    (hw : l.waitsToRead = false) (ha : l.scriptAway (Script.read (l.pair g.ctl) g.bytes) = false) (hp : g.issue l = .ok (obj, p))
    (hl : ∀ x ∈ chunkLines p.chunks, l.s.lineCount x < 3) (hf : Room g.flag.toNat [l]) :
    copyLanes i g.ctl g.bar g.flag g.bytes g.block g.plan s = .next (s.acted l { flag := g.flag.toNat }
      (fun s => s.startCopy (s.copyOp l s.nextId g.flag obj [l.th.idx] (g.block (l.pair g.ctl)) p) l
        (l.scriptKeys (Script.read (l.pair g.ctl) g.bytes)))) := by
  rw [copyLanes_eq]
  refine h.done (h.reads_block hw ha) ?_ (hf.imp_right fun k => k l (List.mem_singleton.2 rfl))
  unfold CopyForm.member
  rw [hp]
  dsimp only
  rw [State.linesFit_of hl]
  rfl

/-! ## BCOPY (R182, R183) -/

/-- Every member of a group that is ready takes part. -/
theorem State.Ready.partners {fm : Form} {s : State} {ls : List Lane} (h : s.Ready fm ls) : partnersOf fm s = ls := by
  obtain ⟨⟨tm, hi⟩, hc⟩ := h
  unfold partnersOf
  rw [hi]
  exact List.filter_eq_self.2 fun l hl => by rw [hc l hl]; rfl

/-- What holds a `BCOPY` holds no member. -/
theorem bcopy_not_held {l : Lane} {ls : List Lane} {sc : Lane → Script (List Byte × KvEntry × Nat × CopyEnd)}
    (h : ∀ m ∈ ls, m.waitsToRead = false ∧ m.scriptAway (sc m) = false) (hl : l ∈ ls) :
    (ls.any Lane.waitsToRead || l.scriptAway (sc l)) = false := by
  rw [(h l hl).2, Bool.or_false]
  exact List.any_eq_false.2 fun m hm => by rw [(h m hm).1]; exact Bool.false_ne_true

/-- Settles O29: a thread's copy is `copyLanes`, a group's `BCOPY` the common shape over its plan. -/
theorem copies : Obligations.Copies := by
  unfold Obligations.Copies
  refine ⟨fun i g s l hg h hw => ?_, fun d a b f s l rest h => ?_⟩
  · dsimp only
    intro ha
    rw [copyForm_exec hg]
    refine ⟨fun t ht => copyLanes_trap h hw ha (by rw [CopyForm.issue, ht]; rfl), fun obj hobj => ⟨fun hx => ?_, fun hx => ⟨fun t ht => ?_, fun cb hcb =>
      ⟨fun t ht => ?_, fun p hp hl hf => ?_⟩⟩⟩⟩
    · exact copyLanes_trap h hw ha (by rw [CopyForm.issue, hobj, Lane.block_misaligned hx]; rfl)
    · exact copyLanes_trap h hw ha (by rw [CopyForm.issue, hobj, Lane.block_aligned hx, ht]; rfl)
    · exact copyLanes_trap h hw ha (by rw [CopyForm.issue, hobj, Lane.block_aligned hx, hcb]; dsimp only [Except.bind]; rw [ht]; rfl)
    · exact copyLanes_done h hw ha (by rw [CopyForm.issue, hobj, Lane.block_aligned hx, hcb]; dsimp only [Except.bind]; rw [hp]; rfl) hl hf
  · dsimp only
    intro hm
    have hps := h.partners
    obtain ⟨⟨tm, hi⟩, hc⟩ := h
    rw [exec_bcopy]
    unfold execBcopy
    rw [hps]
    dsimp only
    refine ⟨fun t ht => ?_, fun obj p hp hf hl => ?_⟩
    · refine runLanesThen_trap hi hc (fun m hm' => ?_) fun _ => rfl
      rw [bcopy_not_held hm hm', ht]
      rfl
    · rw [runLanesThen_done (d := fun _ => { flag := f.toNat }) hi hc (fun m hm' => ?_) fun m hm' => hf.imp_right fun k => k m hm']
      · rw [hp]
      · rw [bcopy_not_held hm hm', hp]
        dsimp only
        rw [hl m hm']
        rfl

end Sys2Proof.Machine
end

section
/-!
PROOFS. The hub matrix engine at issue (R24, R251 to R253, R257, R263, R295): signings, calls and zeroing.
-/

namespace Sys2Proof.Machine

/-! ## MMA (R24, R295) -/

/-- What `MMA` does in a thread. -/
def signsCall (j a b : BitVec 7) (f : BitVec 4) (l : Lane) : LaneOut × (State → State) :=
  let n := j.toNat
  match l.join? j with
  | none => (.trap (.of .joinbad), id)
  | some jn =>
    if l.mmaRefused jn (l.pair a) then (.trap (.of .joinbad), id)
    else match l.readDesc (l.pair a) true b with
      | .error t => (.trap t, id)
      | .ok d =>
        if jn.st = .drain then (.done {}, fun s => s.leaveJoin s.cur.team l.th.idx l.tm.hubset n)
        else
          (.done { flag := f.toNat, op := some (.matrix 0), upd := Thread.unenrol n }, fun s =>
            let op := s.nextId - 1
            let g : Sign := { team := l.s.cur.team, thr := l.th.idx, col := l.column, op := op, flag := f.toNat
                              base := l.alloc b, nanTrap := l.th.nanTrap, priv := l.privileged }
            let s := s.noteBlock l op (l.pair a) 64
            let first (jn : Join) : JKind := match jn.kind with | some k => k | none => .mma (l.pair a) d
            (s.modJoin l.tm.hubset n (fun jn => jn.sign g (first jn))).joinCheck l.tm.hubset n)

theorem exec_mma_eq (j a b : BitVec 7) (f : BitVec 4) (s : State) :
    exec (.mma j a b f) s = runJoin (.mma j a b f) s (fun l => l.signHeld a) (signsCall j a b f) := rfl

/-- It counts on its flag or on none. -/
theorem signsCall_flag {j a b : BitVec 7} {f : BitVec 4} {l : Lane} {d : Done} (h : (signsCall j a b f l).1 = .done d) :
    d.flag = 0 ∨ d.flag = f.toNat := by
  unfold signsCall at h
  dsimp only at h
  split at h
  · cases h
  · split at h
    · cases h
    · split at h
      · cases h
      · split at h
        · cases h; exact .inl rfl
        · cases h; exact .inr rfl

/-- Nothing keeps a thread from signing whose flag has room, or whose own place decides. -/
theorem State.InTurn.goes {j a b : BitVec 7} {f : BitVec 4} {s : State} {l m : Lane} (h : s.InTurn (instrForm (.mma j a b f)) l m)
    (hs : l.signHeld a = false) (hr : m = l ∨ Room f.toNat [l])
    (hm : ∀ d, (signsCall j a b f m).1 = .done d → d.flag = 0 ∨ m.th.flag d.flag < 15) :
    State.Goes s l (fun l => l.signHeld a) (signsCall j a b f) where
  free tm ht := (h.alone.same ht a).1.trans hs
  room := by
    split
    · next d hd =>
      refine Lane.not_full ?_
      rcases hr with rfl | hr
      · exact hm d hd
      · rcases signsCall_flag hd with h0 | h0
        · exact .inl h0
        · rw [h0]
          exact hr.imp_right fun k => k l (List.mem_singleton.2 rfl)
    · rfl

theorem State.InTurn.not_signsCall {j a b : BitVec 7} {f : BitVec 4} {s : State} {l m : Lane} {t : Trap}
    (h : s.InTurn (instrForm (.mma j a b f)) l m) (hs : l.signHeld a = false) (hr : m = l ∨ Room f.toNat [l])
    (hf : Machine.signsCall j a b f m = (.trap t, id)) : exec (.mma j a b f) s = .next (s.actedTrap m t) :=
  h.trap (h.goes hs hr fun d hd => by rw [hf] at hd; cases hd) hf

theorem State.InTurn.signsCall {j a b : BitVec 7} {f : BitVec 4} {s : State} {l m : Lane} {d : Done} {after : State → State}
    (h : s.InTurn (instrForm (.mma j a b f)) l m) (hs : l.signHeld a = false) (hr : m = l ∨ Room f.toNat [l])
    (hf : Machine.signsCall j a b f m = (.done d, after)) (hd : d.flag = 0 ∨ m.th.flag d.flag < 15) :
    exec (.mma j a b f) s = .next (s.acted m d after) :=
  h.done (h.goes hs hr fun d' hd' => by rw [hf] at hd'; cases hd'; exact hd) hf hd

/-- A thread that may sign is not refused. -/
theorem mmaRefused_of_may {m : Lane} {jn : Join} {addr : DWord} (h : MaySignCall m.s m jn addr) : m.mmaRefused jn addr = false := by
  obtain ⟨hu, ho, hk⟩ := h
  have hc : jn.unsigned.contains m.me = true := by simpa [Lane.me] using hu
  unfold Lane.mmaRefused
  rw [hc, ho]
  rcases hk with hk | ⟨⟨d, hk⟩, hg⟩
  · rw [hk]; rfl
  · rw [hk]
    have hany : jn.signs.any (fun g => decide (g.col = m.column)) = false :=
      List.any_eq_false.2 fun g hm => by rw [decide_eq_true_eq]; exact hg g hm
    dsimp only
    rw [hany]
    simp

/-- A thread that the register does not name as unsigned, or that may not sign, is refused. -/
theorem mmaRefused_of_not {m : Lane} {jn : Join} {addr : DWord} (h : (m.s.cur.team, m.th.idx) ∉ jn.unsigned ∨ jn.st = .idle ∨
    jn.st = .busy ∨ (jn.st = .opened ∧ ¬MaySignCall m.s m jn addr)) : m.mmaRefused jn addr = true := by
  unfold Lane.mmaRefused
  rw [Bool.or_eq_true]
  by_cases hu : (m.s.cur.team, m.th.idx) ∈ jn.unsigned
  · refine .inr ?_
    rcases h with h | h | h | ⟨ho, hn⟩
    · exact absurd hu h
    · rw [h]
    · rw [h]
    · rw [ho]
      split
      · next hs => cases hs
      · next a' d _ hk =>
        rw [Bool.or_eq_true, decide_eq_true_eq, List.any_eq_true]
        by_contra hc
        obtain ⟨ha, hg⟩ := not_or.1 hc
        refine hn ⟨hu, ho, .inr ⟨⟨d, by rw [hk, not_not.1 ha]⟩, fun g hm he => hg ⟨g, hm, decide_eq_true he⟩⟩⟩
      · next _ hk => exact absurd ⟨hu, ho, .inl hk⟩ hn
      · rfl
  · refine .inl ?_
    rw [Bool.not_eq_true', List.contains_eq_mem]
    exact decide_eq_false hu

/-- A draining register refuses no thread that it names as unsigned. -/
theorem mmaRefused_of_drain {m : Lane} {jn : Join} {addr : DWord} (hu : (m.s.cur.team, m.th.idx) ∈ jn.unsigned) (hst : jn.st = .drain) :
    m.mmaRefused jn addr = false := by
  have hc : jn.unsigned.contains m.me = true := by simpa [Lane.me] using hu
  unfold Lane.mmaRefused
  rw [hc, hst]
  rfl

/-- What a thread that the register refuses does. -/
theorem signsCall_refused {j a b : BitVec 7} {f : BitVec 4} {m : Lane} {jn : Join} (hj : m.s.join? m.tm.hubset j.toNat = some jn)
    (hr : m.mmaRefused jn (m.pair a) = true) : signsCall j a b f m = (.trap (.of .joinbad), id) := by
  unfold signsCall Lane.join?
  rw [hj]
  exact if_pos hr

/-- What a thread whose descriptor does not pass does. -/
theorem signsCall_badDesc {j a b : BitVec 7} {f : BitVec 4} {m : Lane} {jn : Join} {t : Trap}
    (hj : m.s.join? m.tm.hubset j.toNat = some jn) (hr : m.mmaRefused jn (m.pair a) = false)
    (ht : m.readDesc (m.pair a) true b = .error t) : signsCall j a b f m = (.trap t, id) := by
  unfold signsCall Lane.join?
  rw [hj]
  dsimp only
  rw [hr, ht]
  rfl

/-- What a thread does that a draining register names as unsigned. -/
theorem signsCall_drain {j a b : BitVec 7} {f : BitVec 4} {m : Lane} {jn : Join} {d : MxDesc}
    (hj : m.s.join? m.tm.hubset j.toNat = some jn) (hr : m.mmaRefused jn (m.pair a) = false)
    (hd : m.readDesc (m.pair a) true b = .ok d) (hst : jn.st = .drain) :
    signsCall j a b f m = (.done {}, fun s => s.leaveJoin s.cur.team m.th.idx m.tm.hubset j.toNat) := by
  unfold signsCall Lane.join?
  rw [hj]
  dsimp only
  rw [hr, hd, hst]
  rfl

/-- What a thread that signs does. -/
theorem signsCall_signs {j a b : BitVec 7} {f : BitVec 4} {m : Lane} {jn : Join} {d : MxDesc}
    (hj : m.s.join? m.tm.hubset j.toNat = some jn) (hr : m.mmaRefused jn (m.pair a) = false)
    (hd : m.readDesc (m.pair a) true b = .ok d) (hst : jn.st ≠ .drain) :
    signsCall j a b f m = (.done { flag := f.toNat, op := some (.matrix 0), upd := Thread.unenrol j.toNat }, fun u =>
      ((u.noteBlock m (u.nextId - 1) (m.pair a) 64).modJoin m.tm.hubset j.toNat (fun jn =>
        jn.sign { team := m.s.cur.team, thr := m.th.idx, col := m.column, op := u.nextId - 1, flag := f.toNat
                  base := m.alloc b, nanTrap := m.th.nanTrap, priv := m.privileged }
          (match jn.kind with | some k => k | none => .mma (m.pair a) d))).joinCheck m.tm.hubset j.toNat) := by
  unfold signsCall Lane.join?
  rw [hj]
  dsimp only
  rw [hr, hd, if_neg Bool.false_ne_true]
  dsimp only
  rw [if_neg hst] <;> rfl

/-- Settles O31: what `signsCall` does in each state of the join register. -/
theorem matrixSigns : Obligations.MatrixSigns := by
  unfold Obligations.MatrixSigns
  intro j a b f s l m h hs hr
  dsimp only
  refine ⟨fun hj => ?_, fun jn hj => ⟨fun hmay => ⟨fun t ht => ?_, fun d hd hroom => ?_⟩, fun hnot => ?_, fun hu hst d hd => ?_⟩⟩
  · exact h.not_signsCall hs hr (by unfold Machine.signsCall Lane.join?; rw [hj])
  · exact h.not_signsCall hs hr (signsCall_badDesc hj (mmaRefused_of_may hmay) ht)
  · have hst : jn.st ≠ .drain := by rw [hmay.2.1]; decide
    exact h.signsCall hs hr (signsCall_signs hj (mmaRefused_of_may hmay) hd hst)
      (hroom.imp_right fun k => k m (List.mem_singleton.2 rfl))
  · exact h.not_signsCall hs hr (signsCall_refused hj (mmaRefused_of_not hnot))
  · exact h.signsCall hs hr (signsCall_drain hj (mmaRefused_of_drain hu hst) hd hst) (.inl rfl)

/-! ## MMAS (R257) and ACCZ (R263) -/

theorem Lane.zeroTrap_limits {l : Lane} {a : DWord} {p : Word} (h : p.toNat % 32 ≠ 0 ∨ p.toNat < 1024) :
    l.zeroTrap a p = some (.of .bounds) := if_pos h

theorem Lane.zeroTrap_misaligned {l : Lane} {a : DWord} {p : Word} (h0 : p.toNat % 32 = 0) (h1 : 1024 ≤ p.toNat)
    (h : a.toNat % 32 ≠ 0) : l.zeroTrap a p = some (.atAddr .align a) := by
  unfold Lane.zeroTrap
  rw [if_neg (by omega), if_pos h]

theorem Lane.zeroTrap_aligned {l : Lane} {a : DWord} {p : Word} (h0 : p.toNat % 32 = 0) (h1 : 1024 ≤ p.toNat)
    (h : a.toNat % 32 = 0) : l.zeroTrap a p = match l.s.pageOf l.who .store a with
      | .error c => some (.atAddr c a)
      | .ok q => when' (!q.isAcc) (.atAddr .fmtbad a) := by
  unfold Lane.zeroTrap
  rw [if_neg (by omega), if_neg (not_not_intro h)] <;> rfl

theorem Leaf.isAcc_eq_false {p : Leaf} (h : p.fmt ≠ 25 ∨ p.geo = 1 ∨ p.geo = 2) : p.isAcc = false := by
  unfold Leaf.isAcc
  rw [← Bool.not_eq_true, Bool.and_eq_true, Bool.and_eq_true]
  simp only [decide_eq_true_eq]
  omega

theorem Leaf.isAcc_eq_true {p : Leaf} (h : p.fmt = 25) (hg : ¬(p.geo = 1 ∨ p.geo = 2)) : p.isAcc = true := by
  unfold Leaf.isAcc
  rw [Bool.and_eq_true, Bool.and_eq_true]
  simp only [decide_eq_true_eq]
  omega

/-- An `ACCZ` whose checks meet a trap. -/
theorem execAccz_trap {a b : BitVec 7} {f : BitVec 4} {s : State} {l : Lane} {t : Trap} (h : s.Alone (instrForm (.accz a b f)) l)
    (hq : l.acquiring = false) (ht : l.zeroTrap (l.pair a) (l.reg b) = some t) : exec (.accz a b f) s = .next (s.actedTrap l t) := by
  rw [exec_accz]
  exact h.trap (after := id) (fun tm e => (h.same e 0).2.2.2.1.trans hq) (by rw [ht])

theorem execAccz_cases (a b : BitVec 7) (f : BitVec 4) (s : State) (l : Lane) (h : s.Alone (instrForm (.accz a b f)) l)
    (hq : l.acquiring = false) :
    ((l.reg b).toNat % 32 ≠ 0 ∨ (l.reg b).toNat < 1024 → exec (.accz a b f) s = .next (s.actedTrap l (.of .bounds))) ∧
    ((l.reg b).toNat % 32 = 0 → 1024 ≤ (l.reg b).toNat →
      ((l.pair a).toNat % 32 ≠ 0 → exec (.accz a b f) s = .next (s.actedTrap l (.atAddr .align (l.pair a)))) ∧
      (∀ c, (l.pair a).toNat % 32 = 0 → l.s.pageOf l.who .store (l.pair a) = .error c →
        exec (.accz a b f) s = .next (s.actedTrap l (.atAddr c (l.pair a)))) ∧
      ((l.pair a).toNat % 32 = 0 → ∀ p, l.s.pageOf l.who .store (l.pair a) = .ok p →
        (p.fmt ≠ 25 ∨ (p.geo = 1 ∨ p.geo = 2) → exec (.accz a b f) s = .next (s.actedTrap l (.atAddr .fmtbad (l.pair a)))) ∧
        (p.fmt = 25 → ¬(p.geo = 1 ∨ p.geo = 2) → Room f.toNat [l] → exec (.accz a b f) s = .next (s.acted l { flag := f.toNat } (fun u =>
          let o := u.zeroOp l (l.pair a) (l.reg b).toNat f
          State.copyPlace { u with ops := u.ops ++ [o], nextId := u.nextId + 1 } o l.tm.core))))) := by
  refine ⟨fun hl => execAccz_trap h hq (Lane.zeroTrap_limits hl), fun h0 h1 => ⟨fun ha => ?_, fun c ha hp => ?_, fun ha p hp =>
    ⟨fun hf => ?_, fun hf hg hr => ?_⟩⟩⟩
  · exact execAccz_trap h hq (Lane.zeroTrap_misaligned h0 h1 ha)
  · exact execAccz_trap h hq (by rw [Lane.zeroTrap_aligned h0 h1 ha, hp])
  · exact execAccz_trap h hq (by rw [Lane.zeroTrap_aligned h0 h1 ha, hp]; dsimp only; rw [Leaf.isAcc_eq_false hf]; rfl)
  · have hz : l.zeroTrap (l.pair a) (l.reg b) = none := by
      rw [Lane.zeroTrap_aligned h0 h1 ha, hp]
      dsimp only
      rw [Leaf.isAcc_eq_true hf hg]
      rfl
    rw [exec_accz]
    exact h.done (fun tm e => (h.same e 0).2.2.2.1.trans hq) (by rw [hz]) (hr.imp_right fun k => k l (List.mem_singleton.2 rfl))

theorem execMmas_cases (a b : BitVec 7) (f : BitVec 4) (s : State) (l : Lane) (h : s.Alone (instrForm (.mmas a b f)) l)
    (hw : l.waitsToRead = false) (ha : l.scriptAway (Script.read (l.pair a) 64) = false) :
    (∀ t, l.barrierWord (l.reg b) = .error t → exec (.mmas a b f) s = .next (s.actedTrap l t)) ∧
    (∀ obj, l.barrierWord (l.reg b) = .ok obj →
      (∀ t, l.readDesc (l.pair a) false b = .error t → exec (.mmas a b f) s = .next (s.actedTrap l t)) ∧
      (∀ d, l.readDesc (l.pair a) false b = .ok d → (l.s.liveTable (l.tm.core / 4)).length < 32 → Room f.toNat [l] →
        exec (.mmas a b f) s = .next (s.acted l { flag := f.toNat, op := some (.matrix 0) } (fun u =>
          (u.noteBlock l (u.nextId - 1) (l.pair a) 64).postCall (l.soloCall u (u.nextId - 1) f.toNat obj d))))) := by
  rw [exec_mmas]
  unfold execMmas
  refine ⟨fun t ht => ?_, fun obj hobj => ⟨fun t ht => ?_, fun d hd hfull hr => ?_⟩⟩
  · exact h.trap (after := id) (h.reads_block hw ha) (by rw [ht])
  · exact h.trap (after := id) (h.reads_block hw ha) (by rw [hobj]; dsimp only; rw [ht])
  · refine h.done (h.reads_block hw ha) ?_ (hr.imp_right fun k => k l (List.mem_singleton.2 rfl))
    have hn : l.s.tableFull (hubOf l.tm.core) = false := decide_eq_false (Nat.not_le.2 hfull)
    rw [hobj]
    dsimp only
    rw [hd]
    dsimp only
    rw [hn, if_neg Bool.false_ne_true]

/-- Settles O32: each in a thread alone in its group. -/
theorem matrixCallsAndZeroing : Obligations.MatrixCallsAndZeroing :=
  ⟨execMmas_cases, execAccz_cases⟩

end Sys2Proof.Machine
end

section
/-!
PROOFS. The engines of the KV cache and of attention at issue (R218, R220, R241 to R243, R291, R297 to R305).
-/

namespace Sys2Proof.Machine

/-- A script that waits for nothing lets its lane go on. -/
theorem Lane.goes_on {α : Type} {l : Lane} {sc : Lane → Script α} (h : l.waitsToRead = false ∧ l.scriptAway (sc l) = false) :
    ¬(l.waitsToRead || l.scriptAway (sc l)) = true := by
  rw [h.1, h.2]
  exact Bool.false_ne_true

/-! ## KV maintenance (R297 to R305) -/

/-- The register limit of a maintenance operation. -/
def KvForm.limit (g : KvForm) (l : Lane) : Option Trap :=
  if g.op = .kvrq then when' (!scaleOk (g.value l)) (.of .fmtbad) else none

theorem kvForm_exec {i : Instr} {g : KvForm} (h : kvForm i = some g) (s : State) :
    exec i s = kvLanes i g.op g.dst g.desc g.flag g.value g.tag g.align g.limit s := by
  cases i <;> cases h <;> rfl

/-- The field of a register that holds an exponent, where the sign is clear. -/
theorem scaleOk_iff (w : Word) : scaleOk w = true ↔ w = 0 ∨ (1 ≤ w.toNat / 2 ^ 23 ∧ w.toNat / 2 ^ 23 ≤ 254) := by
  have hw := w.isLt
  unfold scaleOk bits
  rw [Bool.or_eq_true, Bool.and_eq_true, Bool.and_eq_true, Bool.not_eq_true', BitVec.msb_eq_false_iff_two_mul_lt]
  simp only [decide_eq_true_eq]
  refine or_congr_right ?_
  omega

theorem KvForm.limit_none {g : KvForm} {l : Lane} (h : g.Admits l) : g.limit l = none := by
  unfold KvForm.limit
  split
  · next hk =>
    rw [(scaleOk_iff _).2 (h hk)]
    rfl
  · rfl

theorem KvForm.limit_some {g : KvForm} {l : Lane} (h : ¬g.Admits l) : g.limit l = some (.of .fmtbad) := by
  obtain ⟨hk, hn⟩ := Classical.not_imp.1 h
  unfold KvForm.limit
  rw [if_pos hk, Bool.eq_false_iff.2 fun k => hn ((scaleOk_iff _).1 k)]
  rfl

/-- Settles O33: every form of the table is `kvLanes`, in the order of its checks. -/
theorem kvOperations : Obligations.KvOperations := by
  unfold Obligations.KvOperations
  intro i g s ls hg ⟨⟨tm, hi⟩, hc⟩ hw
  rw [kvForm_exec hg]
  unfold kvLanes
  dsimp only
  refine ⟨fun ha => runLanesThen_trap hi hc (fun l hl => ?_) fun _ => rfl, fun ha => runLanesThen_trap hi hc (fun l hl => ?_) fun _ => rfl,
    fun t ht => runLanesThen_trap hi hc (fun l hl => ?_) fun _ => rfl, fun j hf hj => runLanesThen_done hi hc (fun l hl => ?_) fun l hl => hf.imp_right fun k => k l hl⟩
  all_goals refine (if_neg (Lane.goes_on (sc := g.issue) (hw l hl))).trans ?_
  · rw [KvForm.limit_some (ha l hl)]
  · obtain ⟨had, hal⟩ := ha l hl
    rw [KvForm.limit_none had]
    exact if_pos hal
  · obtain ⟨had, hal, he⟩ := ht l hl
    unfold KvForm.issue at he
    rw [KvForm.limit_none had]
    dsimp only at he ⊢
    rw [if_neg (not_not_intro hal), he]
  · obtain ⟨had, hal, he⟩ := hj l hl
    unfold KvForm.issue at he
    rw [KvForm.limit_none had]
    dsimp only at he ⊢
    rw [if_neg (not_not_intro hal), he]

/-! ## Attention (R218, R220) -/

theorem attnForm_exec {i : Instr} {resume : Bool} {d a b : BitVec 7} {f : BitVec 4} (h : attnForm i = some (resume, d, a, b, f))
    (s : State) : exec i s = attnLanes i resume d a b f s := by
  cases i <;> cases h <;> rfl

theorem toleranceOk_iff (w : Word) : toleranceOk w = true ↔ IsTolerance w := by
  unfold toleranceOk tolerance IsTolerance
  rw [decide_eq_true_eq]
  split
  · next h => exact iff_of_true (Nat.zero_le _) (.inl h)
  · next h => exact (or_iff_right h).symm

/-- Settles O34: both are `attnLanes`, in the order of its checks. -/
theorem attentionCalls : Obligations.AttentionCalls := by
  unfold Obligations.AttentionCalls
  intro i resume d a b f s ls hg ⟨⟨tm, hi⟩, hc⟩
  dsimp only
  intro hw
  rw [attnForm_exec hg]
  unfold attnLanes
  dsimp only
  refine ⟨fun ha => runLanesThen_trap hi hc (fun l hl => ?_) fun _ => rfl, fun ha => runLanesThen_trap hi hc (fun l hl => ?_) fun _ => rfl,
    fun t ht => runLanesThen_trap hi hc (fun l hl => ?_) fun _ => rfl, fun j hf hj => runLanesThen_done hi hc (fun l hl => ?_) fun l hl => hf.imp_right fun k => k l hl⟩
  all_goals refine (if_neg (Lane.goes_on (sc := fun l => attnIssue l resume (tolerance (l.reg b)) (l.pair a)) (hw l hl))).trans ?_
  · rw [Bool.eq_false_iff.2 fun k => ha l hl ((toleranceOk_iff _).1 k)]
    rfl
  · obtain ⟨htol, hal⟩ := ha l hl
    rw [(toleranceOk_iff _).2 htol]
    exact if_pos hal
  · obtain ⟨htol, hal, he⟩ := ht l hl
    rw [(toleranceOk_iff _).2 htol, if_neg (by decide), if_neg (not_not_intro hal), he]
  · obtain ⟨htol, hal, he⟩ := hj l hl
    rw [(toleranceOk_iff _).2 htol, if_neg (by decide), if_neg (not_not_intro hal), he]

end Sys2Proof.Machine
end

section
/-!
PROOFS. Taps at issue (R280 to R283, R306, R307, R345).
-/

namespace Sys2Proof.Machine

/-! ## The first of several traps (R62) -/

/-- A check that passes. -/
theorem firstTrap_cons (ts : List (Option Trap)) : firstTrap (none :: ts) = firstTrap ts := rfl

/-- Checks that all pass meet no trap. -/
theorem firstTrap_none {ts : List (Option Trap)} (h : ∀ x ∈ ts, x = none) : firstTrap ts = none := by
  induction ts with
  | nil => rfl
  | cons x xs ih =>
    rw [h x List.mem_cons_self]
    exact ih fun y hy => h y (List.mem_cons_of_mem _ hy)

/-- A check that fails is reported where no later one fails with a cause that comes before its own. -/
theorem firstTrap_some {t : Trap} {ts : List (Option Trap)} (h : ∀ u, some u ∈ ts → t.cause.rank ≤ u.cause.rank) :
    firstTrap (some t :: ts) = some t := by
  unfold firstTrap
  rw [List.foldl_cons]
  dsimp only
  induction ts with
  | nil => rfl
  | cons x xs ih =>
    rw [List.foldl_cons]
    have hx := ih fun u hu => h u (List.mem_cons_of_mem _ hu)
    cases x with
    | none => exact hx
    | some u =>
      dsimp only
      rw [if_neg (Nat.not_lt.2 (h u List.mem_cons_self))]
      exact hx

/-- What a page meets comes after a misaligned address (R62). -/
theorem Walked.Plain.rank {α : Type} {x : Walked α} (h : Walked.Plain x) {c : Cause} (e : x = .error c) : 8 ≤ c.rank := by
  rcases h c e with rfl | rfl | rfl <;> decide

/-- The trap of an access to a page, where it meets one. -/
def pageTrap (x : Walked Leaf) (a : DWord) : Option Trap := match x with
  | .error c => some (.atAddr c a)
  | .ok _ => none

theorem pageTrap_rank {x : Walked Leaf} (h : Walked.Plain x) {a : DWord} {u : Trap} (e : some u = pageTrap x a) : 8 ≤ u.cause.rank := by
  unfold pageTrap at e
  split at e
  · next c hc => cases e; exact h.rank rfl
  · cases e

theorem unalignedWord_rank {a : DWord} {u : Trap} (e : some u = Lane.tapJob.unalignedWord a) : 8 ≤ u.cause.rank := by
  unfold Lane.tapJob.unalignedWord when' at e
  split at e
  · cases e; exact Nat.le_refl 8
  · cases e

/-! ## TAP and TAP.NORM (R306) -/

/-- The checks of a tap's rows, in their order. -/
def Lane.tapChecks (l : Lane) (row : DWord) (out : Option DWord) : List (Option Trap) :=
  [Lane.tapJob.unalignedWord row] ++ out.toList.map Lane.tapJob.unalignedWord ++ [pageTrap (l.s.pageOf l.who .atomic row) row] ++
    out.toList.map (fun a => pageTrap (l.s.pageOf l.who .store a) a)

/-- The job of a tap that passes its checks. -/
def Lane.tapOf (l : Lane) (g : TapGen) (point : Nat) (row : DWord) (out : Option DWord) : TapJob :=
  { fn := l.tm.fn, priv := l.privileged, core := l.tm.core, gen := g.gen, point := point
    record := l.s.recordOf l.tm.fn l.th.seq, row := row, out := out, log := [] }

/-- A tap without tables, or at a point beyond them. -/
theorem Lane.tapJob_bounds {l : Lane} {b : BitVec 7} (h : l.s.tapGens = [] ∨ 64 ≤ (l.reg b).toNat) (row : DWord) (out : Option DWord) :
    l.tapJob b row out = .error (.of .bounds) := by
  unfold Lane.tapJob
  dsimp only
  split
  · rfl
  · next g gs e => exact if_pos (h.resolve_left (by rw [e]; exact List.cons_ne_nil _ _))

/-- A tap at a point of the current generation: its rows are checked, then what its entry has after it. -/
theorem Lane.tapJob_eq {l : Lane} {b : BitVec 7} {g : TapGen} {gs : List TapGen} (hg : l.s.tapGens = g :: gs) (hp : (l.reg b).toNat < 64)
    (row : DWord) (out : Option DWord) : l.tapJob b row out = match firstTrap (l.tapChecks row out) with
      | some t => .error t
      | none => match if out.isSome then (g.entry (l.reg b).toNat).firstPost else none with
        | some k => .error { cause := .tapmode, addr := 0, info := BitVec.ofNat 64 ((l.reg b).toNat * 2 ^ 8 + k) }
        | none => .ok (l.tapOf g (l.reg b).toNat row out) := by
  have hi (k : Nat) : tapInfo 0 (l.reg b).toNat k = BitVec.ofNat 64 ((l.reg b).toNat * 2 ^ 8 + k) := by
    unfold tapInfo
    rw [Nat.zero_mul, Nat.zero_add]
  unfold Lane.tapJob Lane.tapChecks Lane.tapOf pageTrap
  rw [hg]
  dsimp only
  rw [if_neg (Nat.not_le.2 hp)]
  simp only [hi] <;> rfl

/-- The traps of the checks after the row's alignment come no earlier. -/
theorem Lane.tapChecks_misaligned {l : Lane} {row : DWord} (h : row.toNat % 4 ≠ 0) (out : Option DWord) :
    firstTrap (l.tapChecks row out) = some (.atAddr .align row) := by
  have hrow : Lane.tapJob.unalignedWord row = some (.atAddr .align row) := by
    unfold Lane.tapJob.unalignedWord
    rw [decide_eq_true h]
    rfl
  unfold Lane.tapChecks
  rw [hrow]
  refine firstTrap_some fun u hu => ?_
  rcases List.mem_append.1 hu with hu | hu
  · rcases List.mem_append.1 hu with hu | hu
    · obtain ⟨a, -, e⟩ := List.mem_map.1 hu
      exact unalignedWord_rank e.symm
    · exact pageTrap_rank (l.s.pageOf_plain _ _ _) (List.mem_singleton.1 hu)
  · obtain ⟨a, -, e⟩ := List.mem_map.1 hu
    exact pageTrap_rank (l.s.pageOf_plain _ _ _) e.symm

/-- Aligned rows on pages that take them meet no trap. -/
theorem Lane.tapChecks_pass {l : Lane} {row : DWord} {out : Option DWord} {p : Leaf} (h : row.toNat % 4 = 0)
    (hp : l.s.pageOf l.who .atomic row = .ok p)
    (ho : ∀ o, out = some o → o.toNat % 4 = 0 ∧ ∃ p, l.s.pageOf l.who .store o = .ok p) :
    firstTrap (l.tapChecks row out) = none := by
  have hal {a : DWord} (ha : a.toNat % 4 = 0) : Lane.tapJob.unalignedWord a = none := by
    unfold Lane.tapJob.unalignedWord
    rw [decide_eq_false (not_not_intro ha)]
    rfl
  refine firstTrap_none fun x hx => ?_
  unfold Lane.tapChecks at hx
  rcases List.mem_append.1 hx with hx | hx
  · rcases List.mem_append.1 hx with hx | hx
    · rcases List.mem_append.1 hx with hx | hx
      · rw [List.mem_singleton.1 hx, hal h]
      · obtain ⟨a, ha, rfl⟩ := List.mem_map.1 hx
        exact hal (ho a (Option.mem_toList.1 ha)).1
    · rw [List.mem_singleton.1 hx, hp]
      rfl
  · obtain ⟨a, ha, rfl⟩ := List.mem_map.1 hx
    obtain ⟨q, hq⟩ := (ho a (Option.mem_toList.1 ha)).2
    rw [hq]
    rfl

theorem tapForm_exec {i : Instr} {a b : BitVec 7} {f : BitVec 4} {out : Lane → Option DWord} (h : tapForm i = some (a, b, f, out))
    (s : State) : exec i s = tapLanes i f b (fun l => l.pair a) out s := by
  cases i <;> cases h <;> rfl

/-- A tap whose members all meet traps. -/
theorem tapLanes_trap {i : Instr} {f : BitVec 4} {b : BitVec 7} {row : Lane → DWord} {out : Lane → Option DWord} {s : State}
    {tm : Team} {ls : List Lane} {t : Lane → Trap} (hi : s.issuer = some (tm, ls)) (hc : ∀ l ∈ ls, l.check (instrForm i) = none)
    (h : ∀ l ∈ ls, l.tapJob b (row l) (out l) = .error (t l)) : tapLanes i f b row out s = .next (s.trapped ls t) :=
  runLanes_trap hi hc fun l hl => by rw [h l hl]

theorem taps_cases (i : Instr) (a b : BitVec 7) (f : BitVec 4) (out : Lane → Option DWord) (s : State) (ls : List Lane)
    (hg : tapForm i = some (a, b, f, out)) (hr : s.Ready (instrForm i) ls) :
     ((∀ l ∈ ls, l.s.tapGens = [] ∨ 64 ≤ (l.reg b).toNat) → exec i s = .next (s.trapped ls (fun _ => .of .bounds))) ∧
     ((∀ l ∈ ls, l.s.tapGens ≠ [] ∧ (l.reg b).toNat < 64 ∧ (l.pair a).toNat % 4 ≠ 0) →
       exec i s = .next (s.trapped ls (fun l => .atAddr .align (l.pair a)))) ∧
     (∀ (g : Lane → TapGen) (page : Lane → Leaf), NoAcquire ls →
       (∀ l ∈ ls, (∃ old, l.s.tapGens = g l :: old) ∧ (l.reg b).toNat < 64 ∧ (l.pair a).toNat % 4 = 0 ∧
         l.s.pageOf l.who .atomic (l.pair a) = .ok (page l) ∧
         (∀ o, out l = some o → o.toNat % 4 = 0 ∧ ∃ p, l.s.pageOf l.who .store o = .ok p)) →
       (∀ k : Lane → Nat, (∀ l ∈ ls, (out l).isSome = true ∧ ((g l).entry (l.reg b).toNat).firstPost = some (k l)) →
         exec i s = .next (s.trapped ls (fun l =>
           { cause := .tapmode, addr := 0, info := BitVec.ofNat 64 ((l.reg b).toNat * 2 ^ 8 + k l) }))) ∧
       ((∀ l ∈ ls, out l = none ∨ ((g l).entry (l.reg b).toNat).firstPost = none) → Room f.toNat ls →
         exec i s = .next (s.completed ls (fun l =>
           { flag := f.toNat, op := some (.tap (l.tapOf (g l) (l.reg b).toNat (l.pair a) (out l))) })))) := by
  obtain ⟨⟨tm, hi⟩, hc⟩ := hr
  rw [tapForm_exec hg]
  refine ⟨fun h => tapLanes_trap hi hc fun l hl => Lane.tapJob_bounds (h l hl) _ _, fun h => tapLanes_trap hi hc fun l hl => ?_,
    fun g page hq h => ⟨fun k hk => tapLanes_trap hi hc fun l hl => ?_, fun hk hf => runLanes_done hi hc (fun l hl => ?_)
      fun l hl => hf.imp_right fun k => k l hl⟩⟩
  · obtain ⟨hn, hp, ha⟩ := h l hl
    obtain ⟨x, xs, e⟩ := List.exists_cons_of_ne_nil hn
    rw [Lane.tapJob_eq e hp, Lane.tapChecks_misaligned ha]
  · obtain ⟨⟨old, e⟩, hp, ha, hpg, ho⟩ := h l hl
    obtain ⟨hs, hk⟩ := hk l hl
    rw [Lane.tapJob_eq e hp, Lane.tapChecks_pass ha hpg ho, hs, hk]
    rfl
  · obtain ⟨⟨old, e⟩, hp, ha, hpg, ho⟩ := h l hl
    have hnone : (if (out l).isSome = true then ((g l).entry (l.reg b).toNat).firstPost else none) = none := by
      rcases hk l hl with h0 | h0
      · rw [h0]; rfl
      · rw [h0, ite_self]
    rw [Lane.tapJob_eq e hp, Lane.tapChecks_pass ha hpg ho]
    dsimp only
    rw [hnone]
    exact Lane.access_ready (hq l hl) _

/-! ## TAPLD (R282, R345) -/

theorem Lane.pageTraps_rank {l : Lane} {va : DWord} {n : Nat} {kind : Access} {u : Trap} (h : some u ∈ l.pageTraps va n kind) :
    8 ≤ u.cause.rank := by
  unfold Lane.pageTraps at h
  obtain ⟨i, -, e⟩ := List.mem_map.1 h
  exact pageTrap_rank (l.s.pageOf_plain _ _ _) e.symm

/-- The pages of both tables, as `TAPLD` checks them. -/
def Lane.tablePages (l : Lane) (a b : BitVec 7) : List (Option Trap) :=
  l.pageTraps (l.pair a) 32768 .load ++ l.pageTraps (l.pair b) 4096 .load

theorem Lane.tablePages_rank {l : Lane} {a b : BitVec 7} {u : Trap} (h : some u ∈ l.tablePages a b) : 8 ≤ u.cause.rank := by
  rcases List.mem_append.1 h with h | h <;> exact Lane.pageTraps_rank h

/-- The checks of a `TAPLD`, then what its reads meet. -/
theorem tapldLane_eq (a b : BitVec 7) (l : Lane) : tapldLane a b l =
    match firstTrap (when' (decide ((l.pair a).toNat % 512 ≠ 0)) (.atAddr .align (l.pair a)) ::
      when' (decide ((l.pair b).toNat % 16 ≠ 0)) (.atAddr .align (l.pair b)) :: l.tablePages a b) with
    | some t => .error t
    | none => match l.runScript (tapTables (l.pair a) (l.pair b)) with
      | .error t => .error t.atSector
      | .ok r => .ok r := by
  unfold tapldLane Lane.tablePages
  generalize l.pageTraps (l.pair a) 32768 .load = p
  generalize l.pageTraps (l.pair b) 4096 .load = q
  generalize l.runScript (tapTables (l.pair a) (l.pair b)) = r
  rw [List.append_assoc]
  rfl

theorem tapldLane_misalignedProbe {a b : BitVec 7} {l : Lane} (h : (l.pair a).toNat % 512 ≠ 0) :
    tapldLane a b l = .error (.atAddr .align (l.pair a)) := by
  rw [tapldLane_eq, decide_eq_true h, when', if_pos rfl, firstTrap_some]
  intro u hu
  rcases List.mem_cons.1 hu with hu | hu
  · unfold when' at hu
    split at hu
    · cases hu; exact Nat.le_refl 8
    · cases hu
  · exact Lane.tablePages_rank hu

theorem tapldLane_misalignedSteer {a b : BitVec 7} {l : Lane} (h : (l.pair a).toNat % 512 = 0) (h' : (l.pair b).toNat % 16 ≠ 0) :
    tapldLane a b l = .error (.atAddr .align (l.pair b)) := by
  rw [tapldLane_eq, decide_eq_false (not_not_intro h), decide_eq_true h', when', if_neg Bool.false_ne_true, firstTrap_cons, when', if_pos rfl,
    firstTrap_some (t := .atAddr .align (l.pair b)) fun u hu => Lane.tablePages_rank hu]

theorem tapldLane_aligned {a b : BitVec 7} {l : Lane} (h : (l.pair a).toNat % 512 = 0) (h' : (l.pair b).toNat % 16 = 0)
    (hp : ∀ x ∈ l.tablePages a b, x = none) : tapldLane a b l = match l.runScript (tapTables (l.pair a) (l.pair b)) with
      | .error t => .error t.atSector
      | .ok r => .ok r := by
  rw [tapldLane_eq, decide_eq_false (not_not_intro h), decide_eq_false (not_not_intro h'), when', if_neg Bool.false_ne_true, firstTrap_cons,
    when', if_neg Bool.false_ne_true, firstTrap_cons, firstTrap_none hp]

/-- What a `TAPLD` does in a member in `TRAPPED` that waits for nothing. -/
theorem tapld_member {a b : BitVec 7} {l : Lane} (hp : l.th.st = .trapped)
    (hw : l.waitsToRead = false ∧ l.scriptAway (tapTables (l.pair a) (l.pair b)) = false) (k : LaneOut) :
    LaneOut.guard (!l.privileged) (.of .priv)
      (if l.waitsToRead || l.scriptAway (tapTables (l.pair a) (l.pair b)) then .hold else k) = k := by
  rw [LaneOut.guard_neg (by simp [Lane.privileged, hp]), if_neg (Lane.goes_on (sc := fun l => tapTables (l.pair a) (l.pair b)) hw)]

/-- A `TAPLD` whose members all meet traps. -/
theorem execTapld_trap {a b : BitVec 7} {s : State} {tm : Team} {ls : List Lane} {t : Lane → Trap} (hi : s.issuer = some (tm, ls))
    (hc : ∀ l ∈ ls, l.check (tapldForm a b) = none) (hp : Priv ls)
    (hw : ∀ l ∈ ls, l.waitsToRead = false ∧ l.scriptAway (tapTables (l.pair a) (l.pair b)) = false)
    (h : ∀ l ∈ ls, tapldLane a b l = .error (t l)) : exec (.tapld a b) s = .next (s.trapped ls t) := by
  rw [exec_tapld]
  unfold execTapld
  rw [runFormThen_trap hi fun l hl => Lane.outcome_trap (hc l hl) ((tapld_member (hp l hl) (hw l hl) _).trans (by rw [h l hl]))]
  rfl

/-- A `TAPLD` whose members all read tables that pass: each parks, and its tables wait. -/
theorem execTapld_done {a b : BitVec 7} {s : State} {tm : Team} {ls : List Lane} {r : Lane → List Byte × List Byte}
    (hi : s.issuer = some (tm, ls)) (hc : ∀ l ∈ ls, l.check (tapldForm a b) = none) (hp : Priv ls)
    (hw : ∀ l ∈ ls, l.waitsToRead = false ∧ l.scriptAway (tapTables (l.pair a) (l.pair b)) = false)
    (h : ∀ l ∈ ls, tapldLane a b l = .ok (r l)) : exec (.tapld a b) s = .next (ls.foldl
      (fun u l => State.tapInstall { u with tapWait := u.tapWait ++ [(u.cur.team, l.th.idx, (r l).1, (r l).2)] })
      ((s.completed ls (fun _ => { upd := Thread.park (.tapld 0) })).readScripts ls (fun l => tapTables (l.pair a) (l.pair b)))) := by
  rw [exec_tapld]
  unfold execTapld
  rw [runFormThen_done (d := fun _ => { upd := Thread.park (.tapld 0) }) hi hc (fun l hl => (tapld_member (hp l hl) (hw l hl) _).trans (by rw [h l hl]))
    fun _ _ => .inl rfl]
  refine congrArg _ (List.foldl_ext _ _ _ fun u l hl => ?_)
  rw [h l hl]

theorem tapld_cases (a b : BitVec 7) (s : State) (ls : List Lane) (hr : s.Ready (tapldForm a b) ls) (hp : Priv ls)
    (hw : ∀ l ∈ ls, l.waitsToRead = false ∧ l.scriptAway (tapTables (l.pair a) (l.pair b)) = false) :
     ((∀ l ∈ ls, (l.pair a).toNat % 512 ≠ 0) → exec (.tapld a b) s = .next (s.trapped ls (fun l => .atAddr .align (l.pair a)))) ∧
     ((∀ l ∈ ls, (l.pair a).toNat % 512 = 0 ∧ (l.pair b).toNat % 16 ≠ 0) →
       exec (.tapld a b) s = .next (s.trapped ls (fun l => .atAddr .align (l.pair b)))) ∧
     (∀ t : Lane → Trap,
       (∀ l ∈ ls, (l.pair a).toNat % 512 = 0 ∧ (l.pair b).toNat % 16 = 0 ∧ (∀ x ∈ l.tablePages a b, x = none) ∧
         l.runScript (tapTables (l.pair a) (l.pair b)) = .error (t l)) →
       exec (.tapld a b) s = .next (s.trapped ls (fun l => (t l).atSector))) ∧
     (∀ r : Lane → List Byte × List Byte,
       (∀ l ∈ ls, (l.pair a).toNat % 512 = 0 ∧ (l.pair b).toNat % 16 = 0 ∧ (∀ x ∈ l.tablePages a b, x = none) ∧
         l.runScript (tapTables (l.pair a) (l.pair b)) = .ok (r l)) →
       exec (.tapld a b) s = .next (ls.foldl
         (fun u l => State.tapInstall { u with tapWait := u.tapWait ++ [(u.cur.team, l.th.idx, (r l).1, (r l).2)] })
         ((s.completed ls (fun _ => { upd := Thread.park (.tapld 0) })).readScripts ls (fun l => tapTables (l.pair a) (l.pair b))))) := by
  obtain ⟨⟨tm, hi⟩, hc⟩ := hr
  refine ⟨fun h => execTapld_trap hi hc hp hw fun l hl => tapldLane_misalignedProbe (h l hl), fun h => execTapld_trap hi hc hp hw fun l hl =>
    tapldLane_misalignedSteer (h l hl).1 (h l hl).2, fun t h => execTapld_trap hi hc hp hw fun l hl => ?_,
    fun r h => execTapld_done hi hc hp hw fun l hl => ?_⟩
  · obtain ⟨ha, hb, hx, he⟩ := h l hl
    rw [tapldLane_aligned ha hb hx, he]
  · obtain ⟨ha, hb, hx, he⟩ := h l hl
    rw [tapldLane_aligned ha hb hx, he]

/-! ## TAPQ (R307) -/

theorem tapq_cases (a b : BitVec 7) (s : State) (ls : List Lane) (hr : s.Ready (instrForm (.tapq a b)) ls)
    (hw : ∀ l ∈ ls, l.waitsToRead = false ∧ l.scriptAway l.line1Script = false) :
     ((∀ l ∈ ls, 64 ≤ (l.reg b).toNat) → exec (.tapq a b) s = .next (s.trapped ls (fun _ => .of .bounds))) ∧
     ((∀ l ∈ ls, (l.reg b).toNat < 64 ∧ (l.pair a).toNat % 16 ≠ 0) →
       exec (.tapq a b) s = .next (s.trapped ls (fun l => .atAddr .align (l.pair a)))) ∧
     (∀ (key : Lane → Nat) (leaf : Lane → Leaf) (l1 : Lane → List Byte),
       (∀ l ∈ ls, (l.reg b).toNat < 64 ∧ (l.pair a).toNat % 16 = 0 ∧
         l.s.translate l.who .store (l.pair a) 16 = .ok (key l, leaf l) ∧ l.line1 = .ok (l1 l)) →
       exec (.tapq a b) s = .next ((s.completed ls (fun l =>
         { acts := [(none, .store (key l) (l.s.tapRecord (l.reg b).toNat (l1 l)))] })).readScripts ls Lane.line1Script)) := by
  obtain ⟨⟨tm, hi⟩, hc⟩ := hr
  rw [exec_tapq]
  unfold execTapq
  dsimp only
  refine ⟨fun h => runLanesThen_trap hi hc (fun l hl => ?_) fun _ => rfl, fun h => runLanesThen_trap hi hc (fun l hl => ?_) fun _ => rfl,
    fun key leaf l1 h => runLanesThen_done hi hc (fun l hl => ?_) fun l hl => .inl rfl⟩
  all_goals refine (if_neg (Lane.goes_on (sc := Lane.line1Script) (hw l hl))).trans ?_
  · exact if_pos (h l hl)
  · obtain ⟨hp, ha⟩ := h l hl
    rw [if_neg (Nat.not_le.2 hp), if_pos ha]
  · obtain ⟨hp, ha, ht, h1⟩ := h l hl
    rw [if_neg (Nat.not_le.2 hp), if_neg (not_not_intro ha), ht]
    dsimp only
    rw [h1]

/-- Settles O35: the checks of each in their order. -/
theorem taps : Obligations.Taps := ⟨taps_cases, tapld_cases, tapq_cases⟩

end Sys2Proof.Machine
end

section
/-!
PROOFS. The words of a walker program (R271 to R275).
-/

namespace Sys2Proof.Machine

/-! ## A word in the context that `step` has named -/

theorem walkWord_of {s : State} {w : Walker} (h : s.Walks w) (f : Walker → WalkOut) : walkWord s f = .next (s.walkOut w (f w)) := by
  unfold walkWord
  rw [h.1]
  exact congrArg _ (if_pos h.2)

/-! ## Arithmetic modulo 2^64 -/

theorem ofInt_toNat {n : Nat} (x : BitVec n) : BitVec.ofInt n x.toNat = x := by
  rw [BitVec.ofInt_natCast, BitVec.ofNat_toNat, BitVec.setWidth_eq]

theorem add_signExtend (x : DWord) (i : BitVec 15) : x + i.signExtend 64 = BitVec.ofInt 64 (x.toNat + i.toInt) := by
  rw [BitVec.ofInt_add, ofInt_toNat]
  rfl

theorem sub_toNat (base x : DWord) : (x - base).toNat = distanceFrom base x := by
  have hb := base.isLt
  unfold distanceFrom
  rw [BitVec.toNat_sub]
  congr 1
  omega

theorem ofInt_sub_int (a b : Int) : BitVec.ofInt 64 (a - b) = BitVec.ofInt 64 a - BitVec.ofInt 64 b := by
  rw [Int.sub_eq_add_neg, BitVec.ofInt_add, BitVec.ofInt_neg, BitVec.sub_eq_add_neg]

theorem walkEffect_add (x y : DWord) (i : BitVec 15) :
    x + y + i.signExtend 64 = BitVec.ofInt 64 (x.toNat + y.toNat + i.toInt) := by
  rw [BitVec.ofInt_add, BitVec.ofInt_add, ofInt_toNat, ofInt_toNat]
  rfl

theorem walkEffect_sub (x y : DWord) (i : BitVec 15) :
    x - y + i.signExtend 64 = BitVec.ofInt 64 (x.toNat - y.toNat + i.toInt) := by
  rw [BitVec.ofInt_add, ofInt_sub_int, ofInt_toNat, ofInt_toNat]
  rfl

theorem sub_one (x : DWord) : x - 1 = BitVec.ofInt 64 (x.toNat - 1) := by
  rw [ofInt_sub_int, ofInt_toNat]
  rfl

theorem sub_one_ne_zero (x : DWord) : x - 1 ≠ 0 ↔ x.toNat ≠ 1 := by
  rw [ne_eq, ne_eq, sub_eq_zero]
  exact not_congr ⟨fun h => by rw [h]; rfl, fun h => BitVec.eq_of_toNat_eq h⟩

/-! ## Words that compute (R272) -/

theorem Walker.put_wpc (w : Walker) (r : BitVec 4) (v : DWord) : (w.put r v).wpc = w.wpc := by
  unfold Walker.put
  split <;> rfl

theorem Walker.put_then (w : Walker) (r : BitVec 4) (v : DWord) : (w.put r v).then' = .go (w.put r v) (w.wpc + 1) id := by
  unfold Walker.then'
  rw [Walker.put_wpc]

/-- What a word that names its next word does. -/
theorem State.walkOut_go (s : State) (w w' : Walker) (target : Int) (after : State → State) :
    s.walkOut w (.go w' target after) = after (if 0 ≤ target ∧ target < w.prog.length then s.setWalker { w' with wpc := target.toNat }
      else s.setWalker { w' with stopped := some (.illop, 0) }) := by
  rw [apply_ite after]
  rfl

/-- A word that computes is a word that goes on, to the context and the word that the table gives. -/
theorem walkEffect_exec {i : Instr} {s : State} {w w' : Walker} {target : Int} (h : s.Walks w) (he : walkEffect w i = some (w', target)) :
    exec i s = .next (s.walkOut w (.go w' target id)) := by
  cases i
  case addw d a b i =>
    cases he
    rw [exec_addw, execAddw, walkWord_of h, walkEffect_add, Walker.put_then]
  case subw d a b i =>
    cases he
    rw [exec_subw, execSubw, walkWord_of h, walkEffect_sub, Walker.put_then]
  case cmpw d a b =>
    cases he
    rw [exec_cmpw, execCmpw, walkWord_of h, Walker.put_then]
    simp only [BitVec.ult, decide_eq_true_eq]
    rfl
  case bltw a b i =>
    cases he
    rw [exec_bltw, execBltw, walkWord_of h]
    unfold Walker.branch
    simp only [BitVec.ult, decide_eq_true_eq]
  case bnew a b i =>
    cases he
    rw [exec_bnew, execBnew, walkWord_of h]
    unfold Walker.branch
    simp only [decide_eq_true_eq, ne_eq, BitVec.toNat_inj]
  case loop d i =>
    unfold walkEffect at he
    dsimp only at he
    split at he
    · cases he
    · next hd =>
      cases he
      rw [exec_loop, execLoop, walkWord_of h, if_neg hd, ← sub_one]
      unfold Walker.branch
      simp only [decide_eq_true_eq, Walker.put_wpc, ← sub_one_ne_zero]
  case skip a b =>
    cases he
    rw [exec_skip, execSkip, walkWord_of h]
  case sett a b =>
    cases he
    rw [exec_sett, execSett, walkWord_of h]
    rfl
  case emit d a b =>
    cases he
    rw [exec_emit, execEmit, walkWord_of h]
    simp only [sub_toNat]
    split <;> rfl
  all_goals cases he

/-! ## Load words (R272, R273) -/

/-- A load word whose element the table gives. -/
theorem walkLoad_of {s : State} {w : Walker} {d a : BitVec 4} {i : BitVec 15} {ok : Nat → Bool} {place : Nat → DWord × Nat}
    {value : Nat → Nat → Nat} {g : WalkLoad} (hd : g.dst = d) (hx : g.index = walkIndex w a i) (hl : ok g.index = decide (g.index < g.limit))
    (hp : place g.index = (g.addr, g.size)) (hv : value g.index = g.value) : s.walkLoad w d a i ok place value =
      if g.limit ≤ g.index then .fault .bounds 0
      else if s.placesAway w.who .load g.addr g.size then .wait
      else match s.walkRead w g.addr g.size with
        | .error e => .fault e.1 e.2
        | .ok (ks, bs) => .go (w.put g.dst (BitVec.ofNat 64 (g.value (leNat bs)))) (w.wpc + 1) (fun s => s.askHost ks) := by
  have hx' : (w.reg a + i.signExtend 64).toNat = g.index := by rw [add_signExtend, hx]; rfl
  unfold State.walkLoad
  dsimp only
  rw [hx', hl, hp, hv, hd]
  simp only [Bool.not_eq_true', decide_eq_false_iff_not, Nat.not_lt] <;> rfl

/-- A load word of the table. -/
theorem walkerLoad_exec {i : Instr} {s : State} {w : Walker} {g : WalkLoad} (h : s.Walks w) (hg : walkerLoad w i = some g) :
    exec i s = .next (s.walkOut w (if g.limit ≤ g.index then .fault .bounds 0
      else if s.placesAway w.who .load g.addr g.size then .wait
      else match s.walkRead w g.addr g.size with
        | .error e => .fault e.1 e.2
        | .ok (ks, bs) => .go (w.put g.dst (BitVec.ofNat 64 (g.value (leNat bs)))) (w.wpc + 1) (fun s => s.askHost ks))) := by
  cases i
  case ldp d a i =>
    cases hg
    rw [exec_ldp, execLdp, walkWord_of h]
    exact congrArg _ (congrArg _ (walkLoad_of rfl rfl (decide_eq_decide.2 Nat.lt_succ_iff.symm) rfl rfl))
  case ldx d a i =>
    cases hg
    rw [exec_ldx, execLdx, walkWord_of h]
    exact congrArg _ (congrArg _ (walkLoad_of rfl rfl rfl rfl rfl))
  case ldval d a i =>
    cases hg
    rw [exec_ldval, execLdval, walkWord_of h]
    exact congrArg _ (congrArg _ (walkLoad_of rfl rfl rfl rfl rfl))
  all_goals cases hg

/-- Settles O36: what each word of the two tables does. -/
theorem walkerWords : Obligations.WalkerWords := by
  unfold Obligations.WalkerWords
  refine ⟨fun s w h => ⟨fun i w' target he => ?_, fun i => ?_, ?_⟩, fun i w g s hg h => ?_⟩
  · rw [walkEffect_exec h he, State.walkOut_go]
    rfl
  · rw [exec_loop, execLoop, walkWord_of h, if_pos rfl]
    rfl
  · rw [exec_haltw, execHaltw, walkWord_of h]
    rfl
  · rw [walkerLoad_exec h hg]
    refine ⟨fun hb => ?_, fun hb ha => ?_, fun hb ha => ⟨fun c x he => ?_, fun ks bs he => ?_⟩⟩
    · rw [if_pos hb]
      rfl
    · rw [if_neg (Nat.not_le.2 hb), if_pos ha]
      rfl
    · rw [if_neg (Nat.not_le.2 hb), ha, he]
      rfl
    · have ht : (0 ≤ (w.wpc : Int) + 1 ∧ (w.wpc : Int) + 1 < w.prog.length) = (w.wpc + 1 < w.prog.length) := propext (by omega)
      rw [if_neg (Nat.not_le.2 hb), ha, he, if_neg Bool.false_ne_true]
      dsimp only
      rw [State.walkOut_go]
      simp only [ht]
      rfl

end Sys2Proof.Machine
end

section
/-!
PROOFS. The start of a walk, and the calls that it posts (R267 to R270, R274).
-/

namespace Sys2Proof.Machine

/-! ## SPOKE (R267) -/

/-- What holds a `SPOKE`. -/
theorem State.Alone.walk_not_held {fm : Form} {s : State} {l : Lane} (h : s.Alone fm l) {a : BitVec 7} (hw : l.waitsToRead = false)
    (ha : l.walkAway (l.pair a) = false) (tm : Team) (ht : l.tm = { tm with groups := l.tm.groups }) :
    (Lane.waitsToRead { s := s, tm := tm, th := l.th } ||
      Lane.walkAway { s := s, tm := tm, th := l.th } (Lane.pair { s := s, tm := tm, th := l.th } a)) = false := by
  unfold Lane.walkAway at ha ⊢
  rw [(h.same ht 0).2.2.1, h.same_pair ht, h.same_scriptAway ht, hw, ha]
  rfl

theorem execSpoke_cases (a b : BitVec 7) (f : BitVec 4) (s : State) (l : Lane) (h : s.Alone (instrForm (.spoke a b f)) l)
    (hw : l.waitsToRead = false) (ha : l.walkAway (l.pair a) = false) :
    (∀ t, l.barrierWord (l.reg b) = .error t → exec (.spoke a b f) s = .next (s.actedTrap l t)) ∧
    (∀ obj, l.barrierWord (l.reg b) = .ok obj →
      (∀ t, l.walkPlan (l.pair a) = .error t → exec (.spoke a b f) s = .next (s.actedTrap l t)) ∧
      (∀ p c, l.walkPlan (l.pair a) = .ok p → l.s.freeContext (l.tm.core / 4) = some c → Room f.toNat [l] →
        exec (.spoke a b f) s = .next (s.acted l { flag := f.toNat, op := some (.spoke c) } (fun u =>
          { u.noteWalk l (u.nextId - 1) p (l.pair a) with
            walkers := (u.noteWalk l (u.nextId - 1) p (l.pair a)).walkers ++ [l.startWalk c (u.nextId - 1) obj p] })))) := by
  rw [exec_spoke]
  unfold execSpoke
  refine ⟨fun t ht => ?_, fun obj hobj => ⟨fun t ht => ?_, fun p c hp hctx hr => ?_⟩⟩
  · exact h.trap (after := id) (h.walk_not_held hw ha) (by rw [ht])
  · exact h.trap (after := id) (h.walk_not_held hw ha) (by rw [hobj]; dsimp only; rw [ht])
  · refine h.done (h.walk_not_held hw ha) ?_ (hr.imp_right fun k => k l (List.mem_singleton.2 rfl))
    have hctx' : l.s.freeContext (hubOf l.tm.core) = some c := hctx
    rw [hobj]
    dsimp only
    rw [hp]
    dsimp only
    rw [hctx']

/-! ## FLUSH (R274) -/

theorem execFlush_cases (a : BitVec 4) (s : State) (w : Walker) (l : Lane) (h : s.Walks w) (hl : s.walkLane w = some l) :
    ((w.reg a).toNat % 64 ≠ 0 → exec (.flush a) s = .next (s.walkStops w .align (w.reg a))) ∧
    ((w.reg a).toNat % 64 = 0 → s.placesAway w.who .load (w.reg a) 64 = false →
      (∀ c x, s.walkRead w (w.reg a) 64 = .error (c, x) → exec (.flush a) s = .next (s.walkStops w c x)) ∧
      (∀ ks bs, s.walkRead w (w.reg a) 64 = .ok (ks, bs) →
        (∀ t, firstTrap (l.descTraps bs false true ++ w.tileTraps (MxDesc.ofBytes bs)) = some t →
          exec (.flush a) s = .next (s.walkStops w t.cause t.addr)) ∧
        (firstTrap (l.descTraps bs false true ++ w.tileTraps (MxDesc.ofBytes bs)) = none → s.tableFull (w.core / 4) = false →
          w.wpc + 1 < w.prog.length →
          exec (.flush a) s = .next (((s.setWalker { w with
            tile := List.replicate (128 * w.tk) 0, buf := !w.buf, busy := w.busy ++ [(s.nextId, w.buf)]
            posted := w.posted ++ [s.nextId]
            wpc := w.wpc + 1 }).askHost ks).postCall (s.walkerCall w (MxDesc.ofBytes bs)))))) := by
  rw [exec_flush, execFlush, walkWord_of h]
  dsimp only
  refine ⟨fun ha => by rw [if_pos ha]; rfl, fun ha haway => ?_⟩
  rw [if_neg (not_not_intro ha), haway, if_neg Bool.false_ne_true, hl]
  refine ⟨fun c x he => by rw [he]; rfl, fun ks bs he => ?_⟩
  rw [he]
  dsimp only
  refine ⟨fun t ht => by rw [ht]; rfl, fun ht hfull hn => ?_⟩
  have hfull' : s.tableFull (hubOf w.core) = false := hfull
  rw [ht]
  dsimp only
  rw [hfull', if_neg Bool.false_ne_true, State.walkOut_go, if_pos (by omega)]
  rfl

/-- Settles O37: the checks of `SPOKE` and of `FLUSH` in their order. -/
theorem walks : Obligations.Walks := ⟨execSpoke_cases, execFlush_cases⟩

end Sys2Proof.Machine
end

section
/-!
PROOFS. The special registers (R336, R337).
-/

namespace Sys2Proof.Machine

/-! ## Reading (R336) -/

theorem sregWide_eq (n : BitVec 7) : sregWide n = wideRegister n.toNat := by
  unfold sregWide wideRegister
  rfl

/-- What the scope of a register holds. -/
theorem State.sregHeld_eq (l : Lane) (n : Nat) : l.s.sregHeld l.tm l.th n = registerValue l n := rfl

/-- Without a write of its own a thread reads what the scope holds. -/
theorem Lane.sreg_held {l : Lane} (h : ∀ p ∈ l.s.sregs, p.team = l.s.cur.team → p.thr ≠ l.th.idx) (n : Nat) :
    l.sreg n = registerValue l n := by
  have hf : l.s.sregs.filter (fun p => l.s.sregSame p n l.s.cur.team l.th.idx && p.team = l.s.cur.team && p.thr = l.th.idx) = [] := by
    refine List.filter_eq_nil_iff.2 fun p hp => ?_
    rw [Bool.and_eq_true, Bool.and_eq_true, decide_eq_true_eq, decide_eq_true_eq]
    rintro ⟨⟨-, ht⟩, hj⟩
    exact h p hp ht hj
  unfold Lane.sreg State.sregRead
  rw [hf, ← State.sregHeld_eq]
  rfl

/-- A write of a thread goes to the register that it names. -/
theorem State.sregSame_self {s : State} {p : SregPend} {tm : Team} (h : s.teams[p.team]? = some tm) :
    s.sregSame p p.reg p.team p.thr = true := by
  unfold State.sregSame
  rw [h]
  simp only [decide_true, Bool.and_self, Bool.true_and]
  split
  · rfl
  · split
    · rfl
    · split <;> rfl

/-- A thread reads its own last write at once (R337). -/
theorem Lane.sreg_last {l : Lane} {ps : List SregPend} {p : SregPend} (ht : l.s.teams[l.s.cur.team]? = some l.tm)
    (hs : l.s.sregs = ps ++ [p]) (hk : p.team = l.s.cur.team) (hj : p.thr = l.th.idx) : l.sreg p.reg = p.value := by
  have hp : l.s.sregSame p p.reg l.s.cur.team l.th.idx = true := by
    rw [← hk, ← hj]
    exact State.sregSame_self (hk ▸ ht)
  unfold Lane.sreg State.sregRead
  rw [hs, List.filter_append, List.filter_cons_of_pos (by rw [hp, hk, hj]; simp), List.filter_nil, List.getLast?_concat]

theorem execGets_done (d n : BitVec 7) (s : State) (ls : List Lane) (hr : s.Ready (instrForm (.gets d n)) ls)
    (hp : Priv ls ∨ n.toNat ≤ 7 ∨ n.toNat = 14) : exec (.gets d n) s = .next (s.completed ls (fun l =>
      { writes := if wideRegister n.toNat then l.wr2 d (l.sreg n.toNat) else l.wr d ((l.sreg n.toNat).truncate 32), lat := 8 })) := by
  obtain ⟨⟨tm, hi⟩, hc⟩ := hr
  rw [exec_gets]
  unfold execGets
  refine runLanes_done hi hc (fun l hl => ?_) fun _ _ => .inl rfl
  have hg : (!l.privileged && !sregUserRead n.toNat) = false := by
    rcases hp with hp | hp
    · rw [show l.privileged = true from decide_eq_true (hp l hl)]
      rfl
    · rw [show sregUserRead n.toNat = true by unfold sregUserRead; simpa using hp]
      exact Bool.and_false _
  rw [LaneOut.guard_neg hg, sregWide_eq]
  rfl

/-! ## Writing (R337) -/

/-- A value that the register takes meets no trap. -/
theorem setsTrap_none {n : Nat} {v : DWord} (h : RegisterTakes n v) : setsTrap n v = none := by
  obtain ⟨h2, h3, h12, h13, h15, h16, h17⟩ := h
  unfold setsTrap sregCheck
  dsimp only
  split
  · rw [if_neg (by have := h2 rfl; omega)]; rfl
  · rw [if_neg (by have := h3 rfl; omega)]; rfl
  · rw [if_neg (by have := h12 rfl; omega)]; rfl
  · rw [if_neg (by have := h13 rfl; omega)]; rfl
  · rw [if_neg (by have := h15 rfl; omega)]; rfl
  · rw [if_neg (by have := h16 rfl; omega)]; rfl
  · rw [if_neg (by have := h17 rfl; omega)]; rfl
  · rfl

/-- A value that it does not take meets the register's trap. -/
theorem setsTrap_some {n : Nat} {v : DWord} (h : ¬RegisterTakes n v) : setsTrap n v = some (registerTrap n v) := by
  unfold RegisterTakes at h
  unfold setsTrap sregCheck registerTrap
  dsimp only
  split
  · rw [if_pos (by omega)]; rfl
  · rw [if_pos (by omega)]; rfl
  · rw [if_pos (by omega)]; rfl
  · rw [if_pos (by omega)]; rfl
  · rw [if_pos (by omega)]; rfl
  · rw [if_pos (by omega)]; rfl
  · rw [if_pos (by omega)]; rfl
  · next k2 k3 k12 k13 k15 k16 k17 =>
    exact absurd ⟨fun e => (k2 e).elim, fun e => (k3 e).elim, fun e => (k12 e).elim, fun e => (k13 e).elim, fun e => (k15 e).elim,
      fun e => (k16 e).elim, fun e => (k17 e).elim⟩ h

/-- A register that user code may write, or that privileged code writes, is written. -/
theorem Lane.setsWrites_of {l : Lane} {n : Nat} (h : ¬ReadOnly n) : l.setsWrites n = true := by
  unfold Lane.setsWrites
  rw [Bool.or_eq_true]
  refine .inr ?_
  unfold ReadOnly at h
  simp only [sregPrivWrite, Bool.not_eq_true', Bool.or_eq_false_iff, decide_eq_false_iff_not]
  omega

/-- A privileged write of a read-only register is discarded. -/
theorem Lane.setsWrites_readOnly {l : Lane} {n : Nat} (hp : l.privileged = true) (h : ReadOnly n) : l.setsWrites n = false := by
  unfold Lane.setsWrites
  rw [hp, Bool.not_true, Bool.false_or]
  unfold ReadOnly at h
  simp only [sregPrivWrite, Bool.not_eq_false', Bool.or_eq_true, decide_eq_true_eq]
  omega

/-- The thread may name the register (R336). -/
theorem sets_permitted {n : BitVec 7} {ls : List Lane} (hp : Priv ls ∨ n.toNat ≤ 3) {l : Lane} (hl : l ∈ ls) :
    (!l.privileged && !sregUserWrite n.toNat) = false := by
  rcases hp with hp | hp
  · rw [show l.privileged = true from decide_eq_true (hp l hl)]
    rfl
  · rw [show sregUserWrite n.toNat = true from decide_eq_true hp]
    exact Bool.and_false _

theorem execSets_cases (a n : BitVec 7) (s : State) (ls : List Lane) (hr : s.Ready (instrForm (.sets a n)) ls)
    (hp : Priv ls ∨ n.toNat ≤ 3) :
    let value (l : Lane) : DWord := if wideRegister n.toNat then l.pair a else (l.reg a).zeroExtend 64
    (ReadOnly n.toNat → exec (.sets a n) s = .next (s.completed ls (fun _ => {}))) ∧
    (¬ReadOnly n.toNat → (∀ l ∈ ls, ¬RegisterTakes n.toNat (value l)) →
      exec (.sets a n) s = .next (s.trapped ls (fun l => registerTrap n.toNat (value l)))) ∧
    (¬ReadOnly n.toNat → (∀ l ∈ ls, RegisterTakes n.toNat (value l)) →
      exec (.sets a n) s = .next (ls.foldl (fun u l =>
        u.sregWrite u.cur.team l.th.idx n.toNat (value l) (u.draw (laneOf l.th.idx) 6)) (s.completed ls (fun _ => {})))) := by
  obtain ⟨⟨tm, hi⟩, hc⟩ := hr
  intro value
  have hv (l : Lane) : l.setsValue a n = value l := by
    unfold Lane.setsValue
    rw [sregWide_eq]
  rw [exec_sets]
  unfold execSets
  refine ⟨fun ho => ?_, fun hw hn => ?_, fun hw ht => ?_⟩
  · have hread (l : Lane) (hl : l ∈ ls) : l.setsWrites n.toNat = false := by
      refine Lane.setsWrites_readOnly (decide_eq_true (hp.resolve_right (fun k => ?_) l hl)) ho
      unfold ReadOnly at ho
      omega
    rw [runLanesThen_done (d := fun _ => {}) hi hc (fun l hl => ?_) fun _ _ => .inl rfl]
    · rw [List.filter_eq_nil_iff.2 fun l hl => by rw [hread l hl]; exact Bool.false_ne_true]
      rfl
    · rw [LaneOut.guard_neg (sets_permitted hp hl), hread l hl]
      rfl
  · refine runLanesThen_trap hi hc (fun l hl => ?_) fun _ => rfl
    rw [LaneOut.guard_neg (sets_permitted hp hl), Lane.setsWrites_of hw, if_pos rfl, hv, setsTrap_some (hn l hl)]
  · rw [runLanesThen_done (d := fun _ => {}) hi hc (fun l hl => ?_) fun _ _ => .inl rfl]
    · simp only [hv, List.filter_eq_self.2 fun l _ => Lane.setsWrites_of (l := l) hw]
    · rw [LaneOut.guard_neg (sets_permitted hp hl), Lane.setsWrites_of hw, if_pos rfl, hv, setsTrap_none (ht l hl)]

theorem State.mem_insertSreg (s : State) (p : SregPend) (qs : List SregPend) : p ∈ s.insertSreg p qs := by
  induction qs with
  | nil => exact List.mem_singleton.2 rfl
  | cons q qs ih =>
    unfold State.insertSreg
    split
    · exact List.mem_cons_self
    · exact List.mem_cons_of_mem _ ih

/-- A write of a register that has none outstanding takes effect in one of the next 8 cycles. -/
theorem State.sregWrite_pending (s : State) (k j n : Nat) (v : DWord) (pick : Nat) (h : ∀ p ∈ s.sregs, s.sregSame p n k j = false) :
    ∃ p ∈ (s.sregWrite k j n v pick).sregs, p.reg = n ∧ p.team = k ∧ p.thr = j ∧
      p.value = (if n = 0 then v &&& 0x80000007#64 else v) ∧ s.now + 1 ≤ p.lands ∧ p.lands ≤ s.now + 8 := by
  have hm : s.sregs.filter (fun p => s.sregSame p n k j) = [] :=
    List.filter_eq_nil_iff.2 fun p hp => by rw [h p hp]; exact Bool.false_ne_true
  unfold State.sregWrite
  dsimp only
  rw [hm]
  refine ⟨_, s.mem_insertSreg _ _, rfl, rfl, rfl, rfl, ?_, ?_⟩
  · exact Nat.le_add_right _ _
  · have := Nat.mod_lt pick (show 0 < 8 by decide)
    show s.now + 1 + pick % 8 ≤ s.now + 8
    omega

/-- Settles O38: what a thread reads, and what a write does. -/
theorem specialRegisters : Obligations.SpecialRegisters :=
  ⟨execGets_done, fun _ n h => Lane.sreg_held h n, fun _ _ _ => Lane.sreg_last, execSets_cases, State.sregWrite_pending⟩

end Sys2Proof.Machine
end

section
/-!
PROOFS. Snapshots by instruction, the halting of a grid, and translation control (R334, R340 to R342).
-/

namespace Sys2Proof.Machine

theorem Lane.privOnly_done {l : Lane} {ls : List Lane} (hp : Priv ls) (hl : l ∈ ls) (k : LaneOut) : l.privOnly k = k :=
  Lane.privOnly_priv (hp l hl) k

theorem execSnap_done (s : State) (ls : List Lane) (hr : s.Ready (instrForm .snap) ls) (hp : Priv ls) :
    exec .snap s = .next (ls.foldl (fun u l => u.triggerSnap 0 0 l.tm.core l.th.idx) (s.completed ls (fun _ => {}))) := by
  obtain ⟨⟨tm, hi⟩, hc⟩ := hr
  rw [exec_snap]
  exact runLanesThen_done hi hc (fun l hl => Lane.privOnly_done hp hl _) fun _ _ => .inl rfl

theorem execHalt_done (s : State) (l : Lane) (ls : List Lane) (hr : s.Ready (instrForm .halt) (l :: ls)) (hp : Priv (l :: ls)) :
    exec .halt s = .next ((s.completed (l :: ls) (fun _ => {})).haltGrid l.tm.grid) := by
  obtain ⟨⟨tm, hi⟩, hc⟩ := hr
  rw [exec_halt]
  exact runLanesThen_done hi hc (fun l hl => Lane.privOnly_done hp hl _) fun _ _ => .inl rfl

/-! ## The teams of a halted grid (R341) -/

theorem Team.halt_halt (t : Team) : t.halt.halt = t.halt := by
  unfold Team.halt
  rw [List.map_map]
  rfl

/-- Several teams changed one after another. -/
theorem State.foldl_modTeam (f : Team → Team) (ks : List Nat) (s : State) :
    ks.foldl (fun s k => s.modTeam k f) s = { s with teams := ks.foldl (fun ts k => ts.modify k f) s.teams } := by
  induction ks generalizing s with
  | nil => rfl
  | cons k ks ih => rw [List.foldl_cons, ih]; rfl

/-- A change that does nothing a second time is made once for each team that is named. -/
theorem getElem?_foldl_modify {α : Type} {f : α → α} (hf : ∀ x, f (f x) = f x) (ks : List Nat) (ts : List α) (k : Nat) :
    (ks.foldl (fun ts k => ts.modify k f) ts)[k]? = if k ∈ ks then ts[k]?.map f else ts[k]? := by
  induction ks generalizing ts with
  | nil => rfl
  | cons j ks ih =>
    rw [List.foldl_cons, ih, List.getElem?_modify]
    by_cases hj : j = k
    · have hm (o : Option α) : Option.map f (Option.map f o) = Option.map f o := by
        rw [Option.map_map]
        exact congrArg (Option.map · o) (funext hf)
      simp only [if_pos hj, Option.map_eq_map, hm, ite_self, hj, List.mem_cons_self, if_true]
    · simp only [if_neg hj, List.mem_cons, Ne.symm hj, false_or, Option.map_eq_map, Option.map_id']

/-! ## What halting leaves -/

/-- What the end of saves and the eviction of buffers leave of the state. -/
structure State.Kept (s u : State) : Prop where
  mem : u.mem = s.mem
  grids : u.grids = s.grids
  queues : u.queues = s.queues
  walkers : u.walkers = s.walkers
  bins : u.bins = s.bins
  contexts : u.contexts = s.contexts
  saves : u.saves = s.saves

theorem State.Kept.refl (s : State) : s.Kept s := ⟨rfl, rfl, rfl, rfl, rfl, rfl, rfl⟩

theorem State.Kept.trans {s u v : State} (h : s.Kept u) (k : u.Kept v) : s.Kept v :=
  ⟨k.mem.trans h.mem, k.grids.trans h.grids, k.queues.trans h.queues, k.walkers.trans h.walkers, k.bins.trans h.bins,
    k.contexts.trans h.contexts, k.saves.trans h.saves⟩

theorem State.kept_foldl {α : Type} {f : State → α → State} (h : ∀ s x, State.Kept s (f s x)) (l : List α) (s : State) :
    s.Kept (l.foldl f s) := by
  induction l generalizing s with
  | nil => exact State.Kept.refl s
  | cons x xs ih => exact (h s x).trans (ih _)

theorem State.kept_unpark (s : State) (k j : Nat) (w : Why) : s.Kept (s.unpark k j w) := by
  unfold State.unpark
  split
  · split
    · exact ⟨rfl, rfl, rfl, rfl, rfl, rfl, rfl⟩
    · exact State.Kept.refl s
  · exact State.Kept.refl s

theorem State.kept_evict (s : State) (hub id : Nat) : s.Kept (s.evict hub id) ∧ (s.evict hub id).teams = s.teams := by
  unfold State.evict
  split
  · exact ⟨⟨rfl, rfl, rfl, rfl, rfl, rfl, rfl⟩, rfl⟩
  · exact ⟨State.Kept.refl s, rfl⟩

/-! ## Threads that continue -/

/-- A thread of another team continues. -/
theorem State.unpark_other {s : State} {k j x : Nat} {w : Why} (h : k ≠ x) : (s.unpark k j w).teams[x]? = s.teams[x]? := by
  unfold State.unpark
  split
  · split
    · exact List.getElem?_modify_ne _ _ h
    · rfl
  · rfl

/-- No thread of a team is parked. -/
def Team.NoneParked (t : Team) : Prop := ∀ th ∈ t.threads, th.st ≠ .parked

theorem Team.noneParked_halt (t : Team) : t.halt.NoneParked := by
  intro th hm
  obtain ⟨x, -, rfl⟩ := List.mem_map.1 hm
  exact fun h => nomatch h

/-- A thread that is not parked does not continue. -/
theorem State.unpark_noneParked {s : State} {k j : Nat} {w : Why} {t : Team} (ht : s.teams[k]? = some t) (h : t.NoneParked) :
    s.unpark k j w = s := by
  unfold State.unpark
  split
  · next th e =>
    unfold State.thread? at e
    rw [ht] at e
    exact if_neg fun hp => h th (List.mem_of_getElem? e) hp.1
  · rfl

/-- The threads of some saves continue: a team none of whose threads does, or is parked, stays as it is. -/
theorem State.foldl_unpark_team {ps : List Save} {s : State} {k : Nat}
    (h : (∀ p ∈ ps, p.team ≠ k) ∨ ∃ t, s.teams[k]? = some t ∧ t.NoneParked) :
    (ps.foldl (fun s p => s.unpark p.team p.thr .ctxsv) s).teams[k]? = s.teams[k]? := by
  induction ps generalizing s with
  | nil => rfl
  | cons p ps ih =>
    have hs : (s.unpark p.team p.thr .ctxsv).teams[k]? = s.teams[k]? := by
      by_cases hk : p.team = k
      · rcases h with h | ⟨t, ht, hn⟩
        · exact absurd hk (h p List.mem_cons_self)
        · rw [hk, State.unpark_noneParked ht hn]
      · exact State.unpark_other hk
    rw [List.foldl_cons, ih, hs]
    rw [hs]
    exact h.imp_left fun h q hq => h q (List.mem_cons_of_mem _ hq)

/-! ## What a halted grid has in flight -/

theorem State.keptTeams_foldl {α : Type} {f : State → α → State} (h : ∀ s x, State.Kept s (f s x) ∧ (f s x).teams = s.teams) (l : List α)
    (s : State) : s.Kept (l.foldl f s) ∧ (l.foldl f s).teams = s.teams := by
  induction l generalizing s with
  | nil => exact ⟨State.Kept.refl s, rfl⟩
  | cons x xs ih =>
    obtain ⟨hk, ht⟩ := h s x
    obtain ⟨hk', ht'⟩ := ih (f s x)
    exact ⟨hk.trans hk', ht'.trans ht⟩

theorem State.kept_evictTeams (s : State) (ks : List Nat) (hub : Nat) : s.Kept (s.evictTeams ks hub) ∧ (s.evictTeams ks hub).teams = s.teams :=
  State.keptTeams_foldl (fun s (b : MxBuf) => s.kept_evict hub b.id) _ s

theorem State.kept_modEngine (s : State) (hub : Nat) (f : MxEngine → MxEngine) :
    s.Kept (s.modEngine hub f) ∧ (s.modEngine hub f).teams = s.teams := ⟨⟨rfl, rfl, rfl, rfl, rfl, rfl, rfl⟩, rfl⟩

/-- What is in flight of some teams, taken out. -/
def State.withoutWork (s : State) (ks : List Nat) : State :=
  { s with
    ops := s.ops.filter (fun o => !ks.contains o.team || s.goesOn o)
    sq := s.sq.filter (fun e => !(decide (e.act = SqAct.copy) && ks.contains e.team))
    walkers := s.walkers.filter (fun w => !ks.contains w.team)
    bins := s.bins.filter (fun b => !ks.contains b.team)
    reforms := s.reforms.filter (fun r => !ks.contains r.1)
    tapWait := s.tapWait.filter (fun w => !ks.contains w.1)
    contexts := s.contexts.map (Context.discardFor ks) }

/-- The engines follow the saves. -/
theorem State.kept_haltWork (s : State) (ks : List Nat) :
    State.Kept ((s.withoutWork ks).dropSaves ks) (s.haltWork ks) ∧ (s.haltWork ks).teams = ((s.withoutWork ks).dropSaves ks).teams := by
  refine State.keptTeams_foldl (fun s h => ?_) _ _
  obtain ⟨hk, ht⟩ := s.kept_modEngine h (fun e => { e with table := e.table.filter (fun c => !c.isFrom ks) })
  obtain ⟨hk', ht'⟩ := State.kept_evictTeams (s.modEngine h (fun e => { e with table := e.table.filter (fun c => !c.isFrom ks) })) ks h
  exact ⟨hk.trans hk', ht'.trans ht⟩

theorem State.kept_dropSaves (s : State) (ks : List Nat) :
    State.Kept { s with saves := s.saves.filter (fun p => !p.teams.any ks.contains) } (s.dropSaves ks) :=
  State.kept_foldl (fun s (p : Save) => s.kept_unpark p.team p.thr .ctxsv) _ _

/-- A team that the end of the saves leaves. -/
theorem State.dropSaves_team {s : State} {ks : List Nat} {k : Nat}
    (h : (∀ p ∈ s.saves, p.team = k → ∀ x ∈ p.teams, x ∉ ks) ∨ ∃ t, s.teams[k]? = some t ∧ t.NoneParked) :
    (s.dropSaves ks).teams[k]? = s.teams[k]? := by
  refine State.foldl_unpark_team (s := { s with saves := s.saves.filter (fun p => !p.teams.any ks.contains) }) (h.imp_left fun h p hp hk => ?_)
  obtain ⟨hm, hx⟩ := List.mem_filter.1 hp
  obtain ⟨x, hx, hc⟩ := List.any_eq_true.1 hx
  exact h p hm hk x hx (List.contains_iff_mem.1 hc)

/-- A context whose teams are discarded names none of them. -/
theorem Context.discardFor_teams (ks : List Nat) (c : Context) : ∀ k ∈ (c.discardFor ks).teams, k ∉ ks := by
  intro k hk hm
  unfold Context.discardFor at hk
  split at hk
  · cases hk
  · next h => exact h (List.any_eq_true.2 ⟨k, hk, List.contains_iff_mem.2 hm⟩)

/-! ## How a halted grid is reported -/

/-- A queue that is set is there. -/
theorem State.mem_setQueue (s : State) (q : Queue) : q ∈ (s.setQueue q).queues := by
  unfold State.setQueue
  split
  · next h =>
    obtain ⟨x, hx, hk⟩ := List.any_eq_true.1 h
    exact List.mem_map.2 ⟨x, hx, if_pos (of_decide_eq_true hk)⟩
  · exact List.mem_append_right _ (List.mem_singleton.2 rfl)

theorem State.queueIrq_queues (s : State) (key : Nat) : (s.queueIrq key).queues = s.queues := by
  unfold State.queueIrq
  split <;> rfl

/-- A grid of a queue is reported there, with its packet's number. -/
theorem State.reportHalt_queue {s : State} {g : Grid} (h : g.parent = 0) : ∃ q ∈ (s.reportHalt g).queues, q.key = (s.queue g.queue).key ∧
    q.err = true ∧ q.ecode = 9 ∧ q.epkt = BitVec.ofNat 64 g.pktNo ∧ q.en = false := by
  unfold State.reportHalt
  rw [if_pos h, State.queueIrq_queues]
  exact ⟨_, State.mem_setQueue _ _, rfl, rfl, rfl, rfl, rfl⟩

/-! ## A grid ends as by HALT -/

/-- A grid's own state before what it has in flight is taken out: it has ended, and its teams are gone. -/
def State.haltTeams (s : State) (gi : Nat) (g : Grid) : State :=
  { s with grids := s.grids.modify gi (fun g => { g with ended := true }), teams := g.teams.foldl (fun ts k => ts.modify k Team.halt) s.teams }

/-- The state before the report. -/
def State.halted (s : State) (gi : Nat) (g : Grid) : State := ((s.haltTeams gi g).haltWork g.teams).clearJoins g.teams

theorem State.haltGrid_running {s : State} {gi : Nat} {g : Grid} (h : s.grids[gi]? = some g) (he : g.ended = false) :
    s.haltGrid gi = (s.halted gi g).reportHalt g := by
  unfold State.haltGrid
  rw [h]
  dsimp only
  rw [he, if_neg Bool.false_ne_true, State.foldl_modTeam]
  rfl

theorem State.haltGrid_ended {s : State} {gi : Nat} {g : Grid} (h : s.grids[gi]? = some g) (he : g.ended = true) :
    s.haltGrid gi = s := by
  unfold State.haltGrid
  rw [h]
  exact if_pos he

/-- What the whole of it leaves. -/
theorem State.kept_halted (s : State) (gi : Nat) (g : Grid) : State.Kept { (s.haltTeams gi g).withoutWork g.teams with
    saves := s.saves.filter (fun p => !p.teams.any g.teams.contains) } (s.halted gi g) := by
  have h := (State.kept_dropSaves ((s.haltTeams gi g).withoutWork g.teams) g.teams).trans (State.kept_haltWork (s.haltTeams gi g) g.teams).1
  exact h.trans ⟨rfl, rfl, rfl, rfl, rfl, rfl, rfl⟩

theorem State.halted_teams (s : State) (gi : Nat) (g : Grid) :
    (s.halted gi g).teams = (((s.haltTeams gi g).withoutWork g.teams).dropSaves g.teams).teams :=
  (State.kept_haltWork (s.haltTeams gi g) g.teams).2

theorem State.haltTeams_team (s : State) (gi : Nat) (g : Grid) (k : Nat) :
    (s.haltTeams gi g).teams[k]? = if k ∈ g.teams then s.teams[k]?.map Team.halt else s.teams[k]? :=
  getElem?_foldl_modify Team.halt_halt g.teams s.teams k

/-- A team of the grid is gone. -/
theorem State.halted_team {s : State} {gi : Nat} {g : Grid} {k : Nat} {tm : Team} (hk : k ∈ g.teams) (ht : s.teams[k]? = some tm) :
    (s.halted gi g).teams[k]? = some tm.halt := by
  have h : ((s.haltTeams gi g).withoutWork g.teams).teams[k]? = some tm.halt := by
    refine (s.haltTeams_team gi g k).trans ?_
    rw [if_pos hk, ht]
    rfl
  rw [State.halted_teams, State.dropSaves_team (.inr ⟨_, h, tm.noneParked_halt⟩), h]

/-- A team of another grid stays as it is. -/
theorem State.halted_other {s : State} {gi : Nat} {g : Grid} {k : Nat} (hk : k ∉ g.teams)
    (h : ∀ p ∈ s.saves, p.team = k → ∀ x ∈ p.teams, x ∉ g.teams) : (s.halted gi g).teams[k]? = s.teams[k]? := by
  rw [State.halted_teams, State.dropSaves_team (s := (s.haltTeams gi g).withoutWork g.teams) (.inl h)]
  exact (s.haltTeams_team gi g k).trans (if_neg hk)

theorem haltGrid_cases (s : State) (gi : Nat) (g : Grid) (hg : s.grids[gi]? = some g) :
    (g.ended = true → s.haltGrid gi = s) ∧
    (g.ended = false → ∃ u : State, s.haltGrid gi = u.reportHalt g ∧ u.mem = s.mem ∧
      (∃ x, u.grids[gi]? = some x ∧ x.ended = true) ∧
      (∀ k ∈ g.teams, ∀ tm, s.teams[k]? = some tm → ∃ t, u.teams[k]? = some t ∧ t.status = .gone ∧ t.groups = [] ∧
        t.queue = [] ∧ t.threads = tm.threads.map (fun th =>
          { th with st := .exited, why := .none, held := [], pend := [], nanAt := none })) ∧
      (∀ k, k ∉ g.teams → (∀ p ∈ s.saves, p.team = k → ∀ x ∈ p.teams, x ∉ g.teams) → u.teams[k]? = s.teams[k]?) ∧
      (∀ p ∈ u.saves, ∀ k ∈ p.teams, k ∉ g.teams) ∧ (∀ c ∈ u.contexts, ∀ k ∈ c.teams, k ∉ g.teams) ∧
      (∀ hs ∈ u.hubsets, (∃ k ∈ hs.teams, k ∈ g.teams) → ∀ jn ∈ hs.joins, jn = Join.idle) ∧
      (∀ w ∈ u.walkers, w.team ∉ g.teams) ∧ (∀ b ∈ u.bins, b.team ∉ g.teams) ∧
      (g.parent = 0 → ∃ q ∈ (s.haltGrid gi).queues, q.key = (s.queue g.queue).key ∧ q.err = true ∧ q.ecode = 9 ∧
        q.epkt = BitVec.ofNat 64 g.pktNo ∧ q.en = false)) := by
  refine ⟨State.haltGrid_ended hg, fun he => ?_⟩
  have hk := s.kept_halted gi g
  rw [State.haltGrid_running hg he]
  refine ⟨s.halted gi g, rfl, hk.mem, ?_, fun k hm tm ht => ⟨tm.halt, State.halted_team hm ht, rfl, rfl, rfl, rfl⟩,
    fun k hm h => State.halted_other hm h, fun p hp k hkp hm => ?_, fun c hc => ?_, fun hs hm hin jn hj => ?_, fun w hw hm => ?_,
    fun b hb hm => ?_, fun h0 => ?_⟩
  · rw [hk.grids]
    refine ⟨{ g with ended := true }, (List.getElem?_modify_eq _ _ _).trans ?_, rfl⟩
    rw [hg]
    rfl
  · rw [hk.saves] at hp
    obtain ⟨-, hn⟩ := List.mem_filter.1 hp
    rw [Bool.not_eq_true', List.any_eq_false] at hn
    exact hn k hkp (List.contains_iff_mem.2 hm)
  · rw [hk.contexts] at hc
    obtain ⟨x, -, rfl⟩ := List.mem_map.1 hc
    exact Context.discardFor_teams g.teams x
  · obtain ⟨x, -, rfl⟩ := List.mem_map.1 hm
    by_cases hn : x.teams.any g.teams.contains = true
    · rw [if_pos hn] at hj
      obtain ⟨y, -, rfl⟩ := List.mem_map.1 hj
      rfl
    · rw [if_neg hn] at hin
      obtain ⟨k, hkx, hkg⟩ := hin
      exact absurd (List.any_eq_true.2 ⟨k, hkx, List.contains_iff_mem.2 hkg⟩) hn
  · rw [hk.walkers] at hw
    obtain ⟨-, hn⟩ := List.mem_filter.1 hw
    rw [Bool.not_eq_true', List.contains_eq_mem, decide_eq_false_iff_not] at hn
    exact hn hm
  · rw [hk.bins] at hb
    obtain ⟨-, hn⟩ := List.mem_filter.1 hb
    rw [Bool.not_eq_true', List.contains_eq_mem, decide_eq_false_iff_not] at hn
    exact hn hm
  · have hq : (s.halted gi g).queue g.queue = s.queue g.queue := by
      unfold State.queue
      rw [hk.queues]
      rfl
    rw [← hq]
    exact State.reportHalt_queue h0

/-! ## TLBINV (R342) -/

/-- The conditions on a control word. -/
theorem tlbWordOk_iff (w : Word) : tlbWordOk w = true ↔
    w.toNat / 64 = 0 ∧ fieldOf' w 4 2 ≠ 3 ∧ fieldOf' w 3 1 = 0 ∧ fieldOf' w 0 3 ≤ 5 := by
  have hw := w.isLt
  have h3 : (!w.getLsbD 3) = true ↔ w.toNat / 8 % 2 = 0 := by
    rw [Bool.not_eq_true', BitVec.getLsbD, Nat.testBit_eq_decide_div_mod_eq, decide_eq_false_iff_not]
    omega
  unfold tlbWordOk tlbKind tlbScope bits fieldOf'
  rw [Bool.and_eq_true, Bool.and_eq_true, Bool.and_eq_true, h3]
  simp only [decide_eq_true_eq]
  omega

theorem execTlbinv_cases (a b : BitVec 7) (s : State) (ls : List Lane) (hr : s.Ready (pairWordForm a b) ls) :
    let legal (w : Word) : Prop := w.toNat / 64 = 0 ∧ fieldOf' w 4 2 ≠ 3 ∧ fieldOf' w 3 1 = 0 ∧ fieldOf' w 0 3 ≤ 5
    ((∀ l ∈ ls, ¬legal (l.reg b)) → exec (.tlbinv a b) s = .next (s.trapped ls (fun _ => .of .illop))) ∧
    ((∀ l ∈ ls, legal (l.reg b) ∧ fieldOf' (l.reg b) 4 2 = 0 ∧ canonical (l.pair a) = false) → Priv ls →
      exec (.tlbinv a b) s = .next (s.trapped ls (fun l => .atAddr .page (l.pair a)))) ∧
    ((∀ l ∈ ls, legal (l.reg b) ∧ (fieldOf' (l.reg b) 4 2 = 0 → canonical (l.pair a) = true)) → Priv ls →
      exec (.tlbinv a b) s = .next (s.completed ls (fun l =>
        { upd := fun t => { t with
            st := .parked, left := t.st
            why := .tlbinv (fieldOf' (l.reg b) 4 2) (fieldOf' (l.reg b) 0 3) (l.pair a) l.s.nextId false } }))) := by
  obtain ⟨⟨tm, hi⟩, hc⟩ := hr
  have hkind (w : Word) : tlbKind w = fieldOf' w 4 2 := rfl
  have hscope (w : Word) : tlbScope w = fieldOf' w 0 3 := by
    unfold tlbScope bits fieldOf'
    rfl
  rw [exec_tlbinv]
  unfold execTlbinv
  dsimp only
  refine ⟨fun h => ?_, fun h hp => ?_, fun h hp => ?_⟩
  · refine runFormThen_trap hi fun l hl => Lane.outcome_trap (hc l hl) (LaneOut.guard_pos ?_)
    rw [Bool.not_eq_true', Bool.eq_false_iff]
    exact fun k => h l hl ((tlbWordOk_iff _).1 k)
  · refine runFormThen_trap hi fun l hl => Lane.outcome_trap (hc l hl) ?_
    obtain ⟨hok, hk, hcan⟩ := h l hl
    rw [LaneOut.guard_neg (by rw [(tlbWordOk_iff _).2 hok]; rfl), Lane.privOnly_done hp hl, hkind, hk, hcan]
    rfl
  · refine runFormThen_done (d := fun l => { upd := Thread.park (.tlbinv (tlbKind (l.reg b)) (tlbScope (l.reg b)) (l.pair a) l.s.nextId false) })
      hi hc (fun l hl => ?_) fun _ _ => .inl rfl
    obtain ⟨hok, hcan⟩ := h l hl
    rw [LaneOut.guard_neg (by rw [(tlbWordOk_iff _).2 hok]; rfl), Lane.privOnly_done hp hl, LaneOut.guard_neg]
    rw [Bool.and_eq_false_imp, decide_eq_true_eq, Bool.not_eq_false']
    exact hcan

/-- Settles O39: the three instructions, and what the halting of a grid leaves. -/
theorem systemInstructions : Obligations.SystemInstructions :=
  ⟨execSnap_done, execHalt_done, haltGrid_cases, execTlbinv_cases⟩

end Sys2Proof.Machine
end

section
/-!
PROOFS. Contexts: the saving of teams and their return (R328 to R331, R343, R344).
-/

namespace Sys2Proof.Machine

/-! ## Bytes written one by one -/

/-- The memory after one write event of several parts. -/
theorem State.writeParts_mem (s : State) (core : Option Nat) (ws : List (Nat × List Byte)) :
    (s.writeParts core ws).mem = ws.foldl (fun m w => memPut m w.1 w.2) s.mem := by
  have h (ws : List (Nat × List Byte)) (s : State) :
      (ws.foldl (State.storeBytes core) s).mem = ws.foldl (fun m w => memPut m w.1 w.2) s.mem := by
    induction ws generalizing s with
    | nil => rfl
    | cons w ws ih => rw [List.foldl_cons, List.foldl_cons, ih, State.storeBytes_mem]
  unfold State.writeParts
  dsimp only
  rw [foldl_mem (fun _ _ => State.bumpVersion_mem _ _), h]

/-- A byte that no part names stays as it was. -/
theorem memByte_foldl_other {ps : List (Nat × Byte)} {m : Tab Byte} {x : Nat} (hw : Memory.wf m = true) (h : x ∉ ps.map Prod.fst) :
    memByte ((ps.map (fun p => (p.1, [p.2]))).foldl (fun m w => memPut m w.1 w.2) m) x = memByte m x := by
  induction ps generalizing m with
  | nil => rfl
  | cons p ps ih =>
    obtain ⟨hne, hx⟩ := not_or.1 (fun k => h (List.mem_cons.2 k))
    rw [List.map_cons, List.foldl_cons, ih (memPut_wf _ _ hw) hx, memByte_memPut_outside hw]
    simp only [List.length_singleton]
    omega

/-- A byte that some part names, and to which every part that names it gives one value, has that value. -/
theorem memByte_foldl_named {ps : List (Nat × Byte)} {m : Tab Byte} {x : Nat} {v : Byte} (hw : Memory.wf m = true)
    (hx : x ∈ ps.map Prod.fst) (hv : ∀ p ∈ ps, p.1 = x → p.2 = v) :
    memByte ((ps.map (fun p => (p.1, [p.2]))).foldl (fun m w => memPut m w.1 w.2) m) x = v := by
  induction ps generalizing m with
  | nil => cases hx
  | cons p ps ih =>
    rw [List.map_cons, List.foldl_cons]
    by_cases h : x ∈ ps.map Prod.fst
    · exact ih (memPut_wf _ _ hw) h fun q hq => hv q (List.mem_cons_of_mem _ hq)
    · have hp : p.1 = x := ((List.mem_cons.1 hx).resolve_right h).symm
      rw [memByte_foldl_other (memPut_wf _ _ hw) h, memByte_memPut _ _ _ hw, if_pos (by simp only [List.length_singleton]; omega), hp,
        Nat.sub_self, ← hv p List.mem_cons_self hp]
      rfl

/-- Distinct bytes written to as many keys read back. -/
theorem map_memByte_foldl_zip {keys : List Nat} {bs : List Byte} {m : Tab Byte} (hw : Memory.wf m = true) (hn : keys.Nodup)
    (hl : keys.length = bs.length) :
    keys.map (memByte (((keys.zip bs).map (fun p => (p.1, [p.2]))).foldl (fun m w => memPut m w.1 w.2) m)) = bs := by
  refine List.ext_getElem (by rw [List.length_map, hl]) fun i h1 h2 => ?_
  rw [List.getElem_map]
  have hi : i < keys.length := by rwa [List.length_map] at h1
  refine memByte_foldl_named hw ?_ fun p hp hk => ?_
  · rw [List.map_fst_zip (Nat.le_of_eq hl)]
    exact List.getElem_mem hi
  · obtain ⟨j, hj, rfl⟩ := List.mem_iff_getElem.1 hp
    rw [List.getElem_zip] at hk ⊢
    have hij : j = i := (List.Nodup.getElem_inj_iff hn).1 hk
    subst hij
    rfl

/-! ## The status of a team -/

/-- The status of a team. -/
def State.statusOf (s : State) (k : Nat) : Option TeamStatus := (s.teams[k]?).map (fun t => t.status)

theorem State.statusOf_foldl {α : Type} {f : State → α → State} {k : Nat} (h : ∀ s x, (f s x).statusOf k = s.statusOf k) (l : List α)
    (s : State) : (l.foldl f s).statusOf k = s.statusOf k := by
  induction l generalizing s with
  | nil => rfl
  | cons x xs ih => rw [List.foldl_cons, ih, h]

theorem State.statusOf_noteChange (s : State) (line k : Nat) : (s.noteChange line).statusOf k = s.statusOf k := by
  unfold State.statusOf State.noteChange
  rw [List.getElem?_map, Option.map_map]
  rfl

theorem State.statusOf_storeBytes (core : Option Nat) (s : State) (w : Nat × List Byte) (k : Nat) :
    (State.storeBytes core s w).statusOf k = s.statusOf k := by
  unfold State.storeBytes
  exact State.statusOf_foldl (fun s x => s.statusOf_noteChange x k) _ s

theorem State.statusOf_bumpVersion (s : State) (line k : Nat) : (s.bumpVersion line).statusOf k = s.statusOf k := by
  unfold State.bumpVersion
  split <;> rfl

theorem State.statusOf_sendRemote (s : State) (t j loc k : Nat) : (s.sendRemote t j loc).statusOf k = s.statusOf k := by
  unfold State.sendRemote State.sendHost
  split
  · rfl
  · split
    · split <;> rfl
    · rfl

theorem State.statusOf_writeParts (s : State) (core : Option Nat) (ws : List (Nat × List Byte)) (k : Nat) :
    (s.writeParts core ws).statusOf k = s.statusOf k := by
  unfold State.writeParts
  refine (State.statusOf_foldl (fun s x => s.statusOf_bumpVersion x k) _ _).trans ?_
  exact State.statusOf_foldl (fun s w => State.statusOf_storeBytes core s w k) _ s

theorem State.statusOf_writeArea (s : State) (p : Save) (bytes : List Byte) (k : Nat) : (s.writeArea p bytes).statusOf k = s.statusOf k := by
  unfold State.writeArea
  exact (State.statusOf_foldl (fun s l => s.statusOf_sendRemote _ _ _ k) _ _).trans (s.statusOf_writeParts _ _ k)

/-! ## CTXSV (R343) -/

theorem execCtxsv_trap {a b : BitVec 7} {s : State} {tm : Team} {ls : List Lane} {t : Lane → Trap} (hi : s.issuer = some (tm, ls))
    (hc : ∀ l ∈ ls, l.check (pairWordForm a b) = none) (h : ∀ l ∈ ls, l.savePlan (l.pair a) (l.reg b) = .error (t l)) :
    exec (.ctxsv a b) s = .next (s.trapped ls t) := by
  rw [exec_ctxsv]
  unfold execCtxsv
  refine runFormThen_trap hi fun l hl => Lane.outcome_trap (hc l hl) ?_
  rw [h l hl]

theorem execCtxsv_done {a b : BitVec 7} {s : State} {tm : Team} {ls : List Lane} {p : Lane → Save} (hi : s.issuer = some (tm, ls))
    (hc : ∀ l ∈ ls, l.check (pairWordForm a b) = none) (h : ∀ l ∈ ls, l.savePlan (l.pair a) (l.reg b) = .ok (p l)) :
    exec (.ctxsv a b) s = .next (ls.foldl (fun u l => u.startSave (p l)) (s.completed ls (fun _ => { upd := Thread.park .ctxsv }))) := by
  rw [exec_ctxsv]
  unfold execCtxsv
  rw [runFormThen_done (d := fun _ => { upd := Thread.park .ctxsv }) hi hc (fun l hl => by rw [h l hl]) fun _ _ => .inl rfl]
  refine congrArg _ (List.foldl_ext _ _ _ fun u l hl => ?_)
  rw [h l hl]

theorem Lane.saveTargets_empty {l : Lane} {b : Word}
    (h : ∀ core, l.s.physCore (fieldOf' b 16 16) = some core → l.s.teamIn core (fieldOf' b 0 5) = none) :
    l.saveTargets b = .error (.of .bounds) := by
  have hn : ((l.s.physCore (bits b.toNat 31 16)).bind fun core => l.s.teamIn core (bits b.toNat 4 0)) = none := by
    rw [Option.bind_eq_none_iff]
    exact h
  unfold Lane.saveTargets
  rw [hn]

theorem Lane.saveTargets_own {l : Lane} {b : Word} {core k : Nat} {t : Team} (hc : l.s.physCore (fieldOf' b 16 16) = some core)
    (hk : l.s.teamIn core (fieldOf' b 0 5) = some k) (ht : l.s.teams[k]? = some t) (hh : t.hubset = l.tm.hubset) :
    l.saveTargets b = .error (.of .bounds) := by
  have hb : ((l.s.physCore (bits b.toNat 31 16)).bind fun core => l.s.teamIn core (bits b.toNat 4 0)) = some k := by
    rw [show l.s.physCore (bits b.toNat 31 16) = some core from hc]
    exact hk
  unfold Lane.saveTargets
  rw [hb]
  dsimp only
  rw [ht]
  exact if_pos (.inl hh)

/-- The teams that are named are checked first. -/
theorem Lane.savePlan_targets {l : Lane} {a : DWord} {b : Word} {t : Trap} (hp : l.privileged = true) (h : l.saveTargets b = .error t) :
    l.savePlan a b = .error t := by
  unfold Lane.savePlan
  rw [hp, h]
  rfl

/-- Then the alignment of the area. -/
theorem Lane.savePlan_misaligned {l : Lane} {a : DWord} {b : Word} {ks : List Nat} (hp : l.privileged = true)
    (h : l.saveTargets b = .ok ks) (ha : a.toNat % 4096 ≠ 0) : l.savePlan a b = .error (.atAddr .align a) := by
  unfold Lane.savePlan
  rw [hp, h]
  exact (if_pos ha).trans rfl

/-! ## CTXLD (R344) -/

theorem Lane.loadPlan_noCore {l : Lane} {a : DWord} {b : Word} (hp : l.privileged = true) (h : l.s.physCore (fieldOf' b 16 16) = none) :
    l.loadPlan a b = .error (.of .bounds) := by
  unfold Lane.loadPlan
  rw [hp, show l.s.physCore (bits b.toNat 31 16) = none from h]
  rfl

theorem Lane.loadPlan_misaligned {l : Lane} {a : DWord} {b : Word} (hp : l.privileged = true)
    (h : l.s.physCore (fieldOf' b 16 16) ≠ none) (ha : a.toNat % 4096 ≠ 0) : l.loadPlan a b = .error (.atAddr .align a) := by
  obtain ⟨core, hc⟩ := Option.ne_none_iff_exists'.1 h
  unfold Lane.loadPlan
  rw [hp, show l.s.physCore (bits b.toNat 31 16) = some core from hc]
  dsimp only
  rw [if_pos ha]
  rfl

theorem execCtxld_trap {a b : BitVec 7} {s : State} {tm : Team} {ls : List Lane} {t : Lane → Trap} (hi : s.issuer = some (tm, ls))
    (hc : ∀ l ∈ ls, l.check (pairWordForm a b) = none) (hh : ∀ l ∈ ls, l.loadHeld (l.pair a) = false)
    (h : ∀ l ∈ ls, l.loadPlan (l.pair a) (l.reg b) = .error (t l)) : exec (.ctxld a b) s = .next (s.trapped ls t) := by
  rw [exec_ctxld]
  unfold execCtxld
  refine runFormThen_trap hi fun l hl => Lane.outcome_trap (hc l hl) ?_
  rw [hh l hl, Bool.and_false, if_neg Bool.false_ne_true, h l hl]

theorem execCtxld_done {a b : BitVec 7} {s : State} {tm : Team} {ls : List Lane} {p : Lane → LoadPlan} (hi : s.issuer = some (tm, ls))
    (hc : ∀ l ∈ ls, l.check (pairWordForm a b) = none) (hh : ∀ l ∈ ls, l.loadHeld (l.pair a) = false)
    (h : ∀ l ∈ ls, l.loadPlan (l.pair a) (l.reg b) = .ok (p l) ∧ ∀ ks, (p l).source = .live ks → l.s.blocksAway ks = false) :
    exec (.ctxld a b) s = .next (ls.foldl (fun u l => (u.loadTeams l.tm.core (p l)).acquireL1 l.tm.core)
      (s.completed ls (fun _ => { upd := Thread.park .ctxld }))) := by
  rw [exec_ctxld]
  unfold execCtxld
  rw [runFormThen_done (d := fun _ => { upd := Thread.park .ctxld }) hi hc (fun l hl => ?_) fun _ _ => .inl rfl]
  · refine congrArg _ (List.foldl_ext _ _ _ fun u l hl => ?_)
    rw [(h l hl).1]
  · obtain ⟨hp, hb⟩ := h l hl
    rw [hh l hl, Bool.and_false, if_neg Bool.false_ne_true, hp]
    dsimp only
    cases hs : (p l).source with
    | live ks => exact if_neg (Bool.eq_false_iff.1 (hb ks hs))
    | body x => rfl

/-! ## The last step of a save (R328) -/

theorem State.saveStep_eq (s : State) (p : Save) : s.saveStep p = if s.drained p.teams = true ∧ s.quiet p.team p.thr = true ∧
    (∀ u ∈ s.unacked, ¬(u.team = p.team ∧ u.thr = p.thr)) ∧ (∀ x ∈ p.keys, s.hostAway x = false) then s.saveTeams p else s := by
  unfold State.saveStep
  refine if_congr ?_ rfl rfl
  rw [Bool.and_eq_true, Bool.and_eq_true, Bool.and_eq_true, Bool.not_eq_true', Bool.not_eq_true', List.any_eq_false, List.any_eq_false]
  simp only [Bool.and_eq_true, decide_eq_true_eq, Bool.not_eq_true]
  tauto

/-! ## What a save writes (R343) -/

theorem State.writeArea_mem (s : State) (p : Save) (bytes : List Byte) : (s.writeArea p bytes).mem =
    ((p.keys.zip bytes).map (fun x => (x.1, [x.2]))).foldl (fun m w => memPut m w.1 w.2) s.mem := by
  unfold State.writeArea
  rw [foldl_mem (fun _ _ => State.sendRemote_mem _ _ _ _), State.writeParts_mem]

theorem State.saveTeams_mem (s : State) (p : Save) : (s.saveTeams p).mem =
    ((p.keys.zip (s.areaBytes p.teams)).map (fun x => (x.1, [x.2]))).foldl (fun m w => memPut m w.1 w.2) s.mem := by
  unfold State.saveTeams
  rw [State.unpark_mem, State.releaseTeams_mem]
  exact s.writeArea_mem p _

theorem leBytes_length (n v : Nat) : (leBytes n v).length = n := by
  induction n generalizing v with
  | zero => rfl
  | succ n ih => rw [leBytes, List.length_cons, ih]

theorem State.areaBytes_length {s : State} {ks : List Nat} (h : 24 ≤ s.areaSize ks) : (s.areaBytes ks).length = s.areaSize ks := by
  unfold State.areaBytes
  simp only [List.length_append, leBytes_length, List.length_map, List.length_range]
  omega

/-- The first 24 bytes of an area. -/
theorem State.take_areaBytes (s : State) (ks : List Nat) :
    (s.areaBytes ks).take 24 = leBytes 8 (s.areaSize ks) ++ leBytes 8 ks.length ++ leBytes 8 s.nextId := by
  unfold State.areaBytes
  refine List.take_left' ?_
  simp only [List.length_append, leBytes_length]

theorem Team.release_status {t : Team} {held : Bool} (h : t.status = .stopped held) : t.release.status = .saved := by
  unfold Team.release
  rw [h]

theorem Team.release_release (t : Team) : t.release.release = t.release := by
  cases hs : t.status with
  | stopped held =>
    rw [Team.release.eq_def t.release, Team.release_status hs]
  | resident => rw [show t.release = t by unfold Team.release; rw [hs]]; unfold Team.release; rw [hs]
  | saved => rw [show t.release = t by unfold Team.release; rw [hs]]; unfold Team.release; rw [hs]
  | gone => rw [show t.release = t by unfold Team.release; rw [hs]]; unfold Team.release; rw [hs]

/-- A stopped team that has been saved. -/
theorem State.saveTeams_team {s : State} {p : Save} {k : Nat} {tm : Team} {held : Bool} (hk : k ∈ p.teams) (hne : k ≠ p.team)
    (ht : s.teams[k]? = some tm) (hs : tm.status = .stopped held) : ∃ t, (s.saveTeams p).teams[k]? = some t ∧ t.status = .saved := by
  have hst : (s.writeArea p (s.areaBytes p.teams)).statusOf k = some (.stopped held) := by
    rw [State.statusOf_writeArea, State.statusOf, ht, ← hs]
    rfl
  obtain ⟨x, hx, hxs⟩ := Option.map_eq_some_iff.1 hst
  refine ⟨x.release, ?_, Team.release_status hxs⟩
  unfold State.saveTeams
  rw [State.unpark_other (Ne.symm hne)]
  unfold State.releaseTeams
  rw [State.foldl_modTeam]
  refine (getElem?_foldl_modify Team.release_release p.teams _ k).trans ?_
  rw [if_pos hk]
  exact (congrArg (Option.map Team.release) hx)

/-- The context of a save. -/
def State.savedContext (s : State) (p : Save) : Context :=
  { area := s.areaBytes p.teams, teams := p.teams, fate := if p.teams.all (fun k => (s.teams[k]?).any Team.seated) then .waiting else .spent
    body := s.ctxBody p.teams }

theorem State.saveTeams_contexts (s : State) (p : Save) :
    (s.saveTeams p).contexts = s.savedContext p :: (s.writeArea p (s.areaBytes p.teams)).contexts := by
  unfold State.saveTeams
  rw [(State.kept_unpark _ _ _ _).contexts]
  unfold State.releaseTeams
  rw [State.foldl_modTeam]
  rfl

theorem State.saveTeams_saves (s : State) (p : Save) :
    (s.saveTeams p).saves = (s.writeArea p (s.areaBytes p.teams)).saves.filter (fun q => decide (q ≠ p)) := by
  unfold State.saveTeams
  rw [(State.kept_unpark _ _ _ _).saves]
  unfold State.releaseTeams
  rw [State.foldl_modTeam]

theorem State.saveTeams_cases (s : State) (p : Save) (hw : Memory.wf s.mem = true) (hn : p.keys.Nodup)
    (hl : p.keys.length = s.areaSize p.teams) (h24 : 24 ≤ p.keys.length) :
    (p.keys.take 24).map (s.saveTeams p).byte = leBytes 8 p.keys.length ++ leBytes 8 p.teams.length ++ leBytes 8 s.nextId ∧
    (∀ x, x ∉ p.keys → (s.saveTeams p).byte x = s.byte x) ∧ p ∉ (s.saveTeams p).saves ∧
    (∃ c ∈ (s.saveTeams p).contexts, c.teams = p.teams ∧ c.area = p.keys.map (s.saveTeams p).byte) ∧
    (∀ k ∈ p.teams, ∀ tm held, k ≠ p.team → s.teams[k]? = some tm → tm.status = .stopped held →
      ∃ t, (s.saveTeams p).teams[k]? = some t ∧ t.status = .saved) := by
  have hlen : p.keys.length = (s.areaBytes p.teams).length := by rw [State.areaBytes_length (by omega), hl]
  have hmap : p.keys.map (s.saveTeams p).byte = s.areaBytes p.teams := by
    unfold State.byte
    rw [State.saveTeams_mem]
    exact map_memByte_foldl_zip hw hn hlen
  refine ⟨?_, fun x hx => ?_, fun hp => ?_, ?_, fun k hk tm held hne ht hs => State.saveTeams_team hk hne ht hs⟩
  · rw [List.map_take, hmap, State.take_areaBytes, hl]
  · unfold State.byte
    rw [State.saveTeams_mem]
    refine memByte_foldl_other hw fun hm => hx ?_
    obtain ⟨q, hq, rfl⟩ := List.mem_map.1 hm
    exact (List.of_mem_zip hq).1
  · rw [State.saveTeams_saves] at hp
    exact of_decide_eq_true (List.mem_filter.1 hp).2 rfl
  · rw [State.saveTeams_contexts, hmap]
    exact ⟨_, List.mem_cons_self, rfl, rfl⟩

/-! ## A team saved and restored (R330) -/

theorem Thread.final_st (t : Thread) : t.final.st = t.st ∧ t.final.why = t.why := by
  have h : Thread.LandsTo t (t.pend.foldl Pend.apply t) := foldl_landsTo Pend.apply_landsTo _ t
  unfold Thread.final
  rw [h]
  exact ⟨rfl, rfl⟩

/-- A thread that was saved in one state goes on in it, with its results landed and its validation set stale. -/
theorem Thread.restore_save (t : Thread) :
    t.save.restore = if t.st = .exited then t else { t.final with stSaved := .active, whySaved := .none, stale := true } := by
  obtain ⟨hs, hw⟩ := t.final_st
  unfold Thread.save
  split
  · next h =>
    unfold Thread.restore
    exact if_neg (by rw [h]; exact fun k => nomatch k)
  · unfold Thread.restore
    rw [if_pos rfl]
    dsimp only
    rw [← hs, ← hw]

theorem Team.seat_saved (t : Team) (core slot : Nat) (h : t.status = .resident) :
    (Team.seat core slot false (t.stop false).release).status = .resident ∧
    (Team.seat core slot false (t.stop false).release).core = core ∧
    (Team.seat core slot false (t.stop false).release).slot = slot ∧
    (Team.seat core slot false (t.stop false).release).spad = t.spad ∧
    (Team.seat core slot false (t.stop false).release).bars = t.bars ∧
    (Team.seat core slot false (t.stop false).release).threads = t.threads.map (fun th =>
      if th.st = .exited then th else { th.final with stSaved := .active, whySaved := .none, stale := true }) := by
  have hs : t.stop false = { t with status := .stopped false, threads := t.threads.map Thread.save, queue := [] } :=
    if_neg (not_not_intro h)
  rw [hs]
  refine ⟨rfl, rfl, rfl, rfl, rfl, ?_⟩
  show (t.threads.map Thread.save).map Thread.restore = _
  rw [List.map_map]
  exact List.map_congr_left fun th _ => th.restore_save

/-! ## A restore that has room (R331, R344) -/

/-- The memory once an area's team count has become 0. -/
theorem State.resumeArea_mem (s : State) (p : LoadPlan) (ks : List Nat) : (s.resumeArea p ks).mem =
    (p.count.map (fun k => (k, [(0 : Byte)]))).foldl (fun m w => memPut m w.1 w.2) s.mem := by
  unfold State.resumeArea
  dsimp only
  rw [State.sendRemote_mem, State.writeParts_mem, State.restore_mem]

/-- Each byte of the count is 0, and no other byte changes. -/
theorem memByte_foldl_zero {count : List Nat} {m : Tab Byte} (hw : Memory.wf m = true) (x : Nat) :
    memByte ((count.map (fun k => (k, [(0 : Byte)]))).foldl (fun m w => memPut m w.1 w.2) m) x = if x ∈ count then 0 else memByte m x := by
  have e : count.map (fun k => (k, [(0 : Byte)])) = (count.map (fun k => (k, (0 : Byte)))).map (fun p => (p.1, [p.2])) := by
    rw [List.map_map]
    rfl
  have hf : (count.map (fun k => (k, (0 : Byte)))).map Prod.fst = count := by
    rw [List.map_map]
    exact List.map_id count
  rw [e]
  split
  · next h =>
    refine memByte_foldl_named hw (by rwa [hf]) fun p hp _ => ?_
    obtain ⟨k, -, rfl⟩ := List.mem_map.1 hp
    rfl
  · next h => exact memByte_foldl_other hw (by rwa [hf])

/-- A context whose area is restored is spent. -/
theorem Context.spend_spent (c : Context) : c.spend.teams = [] ∧ c.spend.fate ≠ .waiting := by
  refine ⟨rfl, ?_⟩
  unfold Context.spend
  dsimp only
  split
  · exact fun h => nomatch h
  · next h => exact h

theorem State.loadTeams_cases (s : State) (core : Nat) (p : LoadPlan) (hw : Memory.wf s.mem = true) :
    let r := (s.readKeys core p.keys).bring p.source
    let u := s.loadTeams core p
    (r.1.restoreFits (r.2.zip p.cores) p.hub = true →
      (∀ x, u.byte x = if x ∈ p.count then 0 else s.byte x) ∧
      ((∃ x ∈ p.count, s.byte x ≠ 0) → ∀ c ∈ u.contexts, c.area.drop 16 = p.area → c.teams = [] ∧ c.fate ≠ .waiting)) ∧
    (r.1.restoreFits (r.2.zip p.cores) p.hub = false → ∀ x, u.byte x = s.byte x) := by
  have hb (x : Nat) : (s.readKeys core p.keys).byte x = s.byte x := by
    unfold State.byte
    rw [State.readKeys_mem]
  have hmem : ((s.readKeys core p.keys).bring p.source).1.mem = s.mem := by rw [State.bring_mem, State.readKeys_mem]
  intro r u
  have hu : u = if p.count.all (fun k => (s.readKeys core p.keys).byte k = 0) || !r.1.restoreFits (r.2.zip p.cores) p.hub
      then s.readKeys core p.keys else r.1.resumeArea p r.2 := rfl
  refine ⟨fun hf => ?_, fun hf => ?_⟩
  · by_cases hz : p.count.all (fun k => (s.readKeys core p.keys).byte k = 0) = true
    · rw [hu, hz, Bool.true_or, if_pos rfl]
      have h0 (x : Nat) (hx : x ∈ p.count) : s.byte x = 0 := by
        rw [← hb]
        exact of_decide_eq_true (List.all_eq_true.1 hz x hx)
      refine ⟨fun x => ?_, fun ⟨x, hx, hne⟩ => absurd (h0 x hx) hne⟩
      rw [hb]
      split
      · next hx => exact h0 x hx
      · rfl
    · rw [hu, Bool.eq_false_iff.2 hz, hf, Bool.false_or, Bool.not_true, if_neg Bool.false_ne_true]
      refine ⟨fun x => ?_, fun _ c hc ha => ?_⟩
      · unfold State.byte
        rw [State.resumeArea_mem, ← hmem]
        exact memByte_foldl_zero (by rw [hmem]; exact hw) x
      · obtain ⟨y, -, rfl⟩ := List.mem_map.1 hc
        split at ha
        · next hy => rw [if_pos hy]; exact y.spend_spent
        · next hy => exact absurd ha hy
  · rw [hu, hf, Bool.not_false, Bool.or_true, if_pos rfl]
    exact hb

/-- Settles O40: the two instructions, the last step of a save, and the return of a team. -/
theorem contexts : Obligations.Contexts := by
  unfold Obligations.Contexts
  refine ⟨fun a b s ls hr hp => ?_, State.saveStep_eq, State.saveTeams_cases, Team.seat_saved, State.loadTeams_cases⟩
  obtain ⟨⟨tm, hi⟩, hc⟩ := hr
  have hpriv (l : Lane) (hl : l ∈ ls) : l.privileged = true := decide_eq_true (hp l hl)
  refine ⟨⟨fun t ht => execCtxsv_trap hi hc ht, fun p h => execCtxsv_done hi hc h, fun l hl c hcore => ⟨fun h => ?_, fun core k t hk hk' ht hh => ?_⟩,
    fun l hl ks hks ha => Lane.savePlan_misaligned (hpriv l hl) hks ha⟩, fun hh => ⟨fun t ht => execCtxld_trap hi hc hh ht,
    fun p h => execCtxld_done hi hc hh h, fun l hl hn => Lane.loadPlan_noCore (hpriv l hl) hn, fun l hl hn ha => Lane.loadPlan_misaligned (hpriv l hl) hn ha⟩⟩
  · exact Lane.savePlan_targets (hpriv l hl) (Lane.saveTargets_empty fun core e => h core (hcore.symm.trans e))
  · exact Lane.savePlan_targets (hpriv l hl) (Lane.saveTargets_own (hcore.trans hk) hk' ht hh)

end Sys2Proof.Machine
end

section
/-!
PROOFS. Packets that a thread posts or launches (R346, R347).
-/

namespace Sys2Proof.Machine

/-! ## QPOST (R346) -/

/-- What holds a `QPOST`. -/
theorem State.Alone.post_not_held {fm : Form} {s : State} {l : Lane} (h : s.Alone fm l) {a : BitVec 7} (hq : l.quiet = true)
    (hu : l.unacked = false) (ha : l.scriptAway (Script.read (l.pair a) 64) = false) (tm : Team)
    (ht : l.tm = { tm with groups := l.tm.groups }) :
    (!Lane.quiet { s := s, tm := tm, th := l.th } || Lane.unacked { s := s, tm := tm, th := l.th } ||
      Lane.scriptAway { s := s, tm := tm, th := l.th } (Script.read (Lane.pair { s := s, tm := tm, th := l.th } a) 64)) = false := by
  obtain ⟨-, hq', -, -, hu', -, -⟩ := h.same ht 0
  rw [hq', hu', h.same_pair ht, h.same_scriptAway ht, hq, hu, ha]
  rfl

/-- The word that answers a `QPOST`. -/
def postAnswer (d : BitVec 7) (f : BitVec 4) (l : Lane) (w : Word) : Done :=
  { flag := f.toNat, dst := l.dsts d 1, op := some (.ready [w]) }

/-- The read of the packet counts for the operation (R110). -/
def postNoted (a : BitVec 7) (l : Lane) (u : State) : State :=
  u.noteKeys l.tm.core (u.nextId - 1) (l.scriptKeys (Script.read (l.pair a) 64))

/-- What `QPOST` does in a thread. -/
def posts (d a b : BitVec 7) (f : BitVec 4) (l : Lane) : LaneOut × (State → State) :=
  if 64 ≤ (l.reg b).toNat then (.trap (.of .bounds), id)
  else match l.postedPacket (l.pair a) with
    | .error t => (.trap t, id)
    | .ok bs =>
      let key := deviceQueue l.tm.fn (l.reg b).toNat
      let q := l.s.queue key
      if q.full then (.done (postAnswer d f l 0xFFFFFFFF), postNoted a l)
      else match l.postSlot q with
        | .error t => (.trap t, id)
        | .ok k => if l.s.hostAway k then (.hold, id)
          else (.done (postAnswer d f l (q.tail.truncate 32)), fun s => l.postPacket key k bs (postNoted a l s))

theorem exec_qpost_eq (d a b : BitVec 7) (f : BitVec 4) (s : State) : exec (.qpost d a b f) s =
    runSeq (.qpost d a b f) s (fun l => !l.quiet || l.unacked || l.scriptAway (Script.read (l.pair a) 64)) (posts d a b f) := rfl

theorem posts_number {d a b : BitVec 7} {f : BitVec 4} {l : Lane} (h : 64 ≤ (l.reg b).toNat) :
    posts d a b f l = (.trap (.of .bounds), id) := if_pos h

theorem posts_noPacket {d a b : BitVec 7} {f : BitVec 4} {l : Lane} {t : Trap} (h : (l.reg b).toNat < 64)
    (ht : l.postedPacket (l.pair a) = .error t) : posts d a b f l = (.trap t, id) := by
  unfold posts
  rw [if_neg (Nat.not_le.2 h), ht]

/-- A queue takes no packet while it is disabled or its ring is full. -/
theorem Queue.full_iff (q : Queue) : q.full = true ↔ q.en = false ∨ q.head.toNat + 2 ^ q.log2 ≤ q.tail.toNat := by
  unfold Queue.full
  rw [Bool.or_eq_true, Bool.not_eq_true', decide_eq_true_eq]

theorem posts_full {d a b : BitVec 7} {f : BitVec 4} {l : Lane} {bs : List Byte} (h : (l.reg b).toNat < 64)
    (hb : l.postedPacket (l.pair a) = .ok bs) (hf : (l.s.queue (deviceQueue l.tm.fn (l.reg b).toNat)).full = true) :
    posts d a b f l = (.done (postAnswer d f l 0xFFFFFFFF), postNoted a l) := by
  unfold posts
  rw [if_neg (Nat.not_le.2 h), hb]
  exact if_pos hf

/-- A packet for which the ring has room, but which may not be written to the next slot. -/
theorem posts_noSlot {d a b : BitVec 7} {f : BitVec 4} {l : Lane} {bs : List Byte} {t : Trap} (h : (l.reg b).toNat < 64)
    (hb : l.postedPacket (l.pair a) = .ok bs) (hf : (l.s.queue (deviceQueue l.tm.fn (l.reg b).toNat)).full = false)
    (ht : l.postSlot (l.s.queue (deviceQueue l.tm.fn (l.reg b).toNat)) = .error t) : posts d a b f l = (.trap t, id) := by
  unfold posts
  rw [if_neg (Nat.not_le.2 h), hb]
  dsimp only
  rw [hf, if_neg Bool.false_ne_true, ht]

/-- One that goes to the next slot. -/
theorem posts_slot {d a b : BitVec 7} {f : BitVec 4} {l : Lane} {bs : List Byte} {k : Nat} (h : (l.reg b).toNat < 64)
    (hb : l.postedPacket (l.pair a) = .ok bs) (hf : (l.s.queue (deviceQueue l.tm.fn (l.reg b).toNat)).full = false)
    (hk : l.postSlot (l.s.queue (deviceQueue l.tm.fn (l.reg b).toNat)) = .ok k) (ha : l.s.hostAway k = false) :
    posts d a b f l = (.done (postAnswer d f l ((l.s.queue (deviceQueue l.tm.fn (l.reg b).toNat)).tail.truncate 32)),
      fun s => l.postPacket (deviceQueue l.tm.fn (l.reg b).toNat) k bs (postNoted a l s)) := by
  unfold posts
  rw [if_neg (Nat.not_le.2 h), hb]
  dsimp only
  rw [hf, if_neg Bool.false_ne_true, hk]
  exact if_neg (Bool.eq_false_iff.1 ha)

/-- The slot's translation is refused. -/
theorem Lane.postSlot_refused {l : Lane} {q : Queue} {c : Cause}
    (h : l.s.translate (deviceWho l.tm.fn) .store (q.base + BitVec.ofNat 64 (64 * (q.tail.toNat % 2 ^ q.log2))) 64 = .error c) :
    l.postSlot q = .error (.atAddr c (q.base + BitVec.ofNat 64 (64 * (q.tail.toNat % 2 ^ q.log2)))) := by
  unfold Lane.postSlot
  dsimp only
  rw [h]

/-- The slot lies on protected bytes of a record. -/
theorem Lane.postSlot_protected {l : Lane} {q : Queue} {k : Nat} {p : Leaf}
    (h : l.s.translate (deviceWho l.tm.fn) .store (q.base + BitVec.ofNat 64 (64 * (q.tail.toNat % 2 ^ q.log2))) 64 = .ok (k, p))
    (hu : l.th.st ≠ .trapped) (hp : l.s.seqProtected l.tm.fn (q.base + BitVec.ofNat 64 (64 * (q.tail.toNat % 2 ^ q.log2))) 64 = true) :
    l.postSlot q = .error (.atAddr .prot (q.base + BitVec.ofNat 64 (64 * (q.tail.toNat % 2 ^ q.log2)))) := by
  unfold Lane.postSlot
  dsimp only
  rw [h]
  exact if_pos (by rw [Lane.not_privileged hu, hp]; rfl)

/-- The thread may write the slot. -/
theorem Lane.postSlot_ok {l : Lane} {q : Queue} {k : Nat} {p : Leaf}
    (h : l.s.translate (deviceWho l.tm.fn) .store (q.base + BitVec.ofNat 64 (64 * (q.tail.toNat % 2 ^ q.log2))) 64 = .ok (k, p))
    (hp : l.th.st = .trapped ∨ l.s.seqProtected l.tm.fn (q.base + BitVec.ofNat 64 (64 * (q.tail.toNat % 2 ^ q.log2))) 64 = false) :
    l.postSlot q = .ok k := by
  unfold Lane.postSlot
  dsimp only
  rw [h]
  refine if_neg ?_
  rcases hp with hp | hp
  · rw [show l.privileged = true from decide_eq_true hp]
    exact Bool.false_ne_true
  · rw [hp, Bool.and_false]
    exact Bool.false_ne_true

theorem execQpost_cases (d a b : BitVec 7) (f : BitVec 4) (s : State) (l : Lane) (h : s.Alone (instrForm (.qpost d a b f)) l)
    (hq : l.quiet = true) (hu : l.unacked = false) (ha : l.scriptAway (Script.read (l.pair a) 64) = false) :
    let key := l.tm.fn * 128 + 16 + (l.reg b).toNat
    let q := l.s.queue key
    (64 ≤ (l.reg b).toNat → exec (.qpost d a b f) s = .next (s.actedTrap l (.of .bounds))) ∧
    ((l.reg b).toNat < 64 →
      (∀ t, l.postedPacket (l.pair a) = .error t → exec (.qpost d a b f) s = .next (s.actedTrap l t)) ∧
      (∀ bs, l.postedPacket (l.pair a) = .ok bs →
        (q.en = false ∨ q.head.toNat + 2 ^ q.log2 ≤ q.tail.toNat → Room f.toNat [l] →
          exec (.qpost d a b f) s = .next (s.acted l (postAnswer d f l 0xFFFFFFFF#32) (postNoted a l))) ∧
        (q.en = true → q.tail.toNat < q.head.toNat + 2 ^ q.log2 →
          let va := q.base + BitVec.ofNat 64 (64 * (q.tail.toNat % 2 ^ q.log2))
          (∀ c, l.s.translate (deviceWho l.tm.fn) .store va 64 = .error c →
            exec (.qpost d a b f) s = .next (s.actedTrap l (.atAddr c va))) ∧
          (l.th.st ≠ .trapped → l.s.seqProtected l.tm.fn va 64 = true → ∀ k p,
            l.s.translate (deviceWho l.tm.fn) .store va 64 = .ok (k, p) →
              exec (.qpost d a b f) s = .next (s.actedTrap l (.atAddr .prot va))) ∧
          (∀ k p, l.s.translate (deviceWho l.tm.fn) .store va 64 = .ok (k, p) → Room f.toNat [l] →
            l.th.st = .trapped ∨ l.s.seqProtected l.tm.fn va 64 = false → l.s.hostAway k = false →
            exec (.qpost d a b f) s = .next (s.acted l (postAnswer d f l (q.tail.truncate 32)) (fun u =>
              (((postNoted a l u).writeMem (some l.tm.core) k bs).sendRemote l.s.cur.team l.th.idx k).setQueue { (postNoted a l u).queue key with
                tail := q.tail + 1, posted := q.posted ++ [(q.tail.toNat, l.th.lclass, l.privileged)] })))))) := by
  have trap {t : Trap} (ht : posts d a b f l = (.trap t, id)) : exec (.qpost d a b f) s = .next (s.actedTrap l t) := by
    rw [exec_qpost_eq]
    exact h.trap (h.post_not_held hq hu ha) ht
  have done {w : Word} {after : State → State} (hr : Room f.toNat [l]) (hd : posts d a b f l = (.done (postAnswer d f l w), after)) :
      exec (.qpost d a b f) s = .next (s.acted l (postAnswer d f l w) after) := by
    rw [exec_qpost_eq]
    exact h.done (h.post_not_held hq hu ha) hd (hr.imp_right fun k => k l (List.mem_singleton.2 rfl))
  intro key q
  refine ⟨fun hn => trap (posts_number hn), fun hn => ⟨fun t ht => trap (posts_noPacket hn ht), fun bs hb => ⟨fun hf hr => ?_, fun he hroom => ?_⟩⟩⟩
  · exact done hr (posts_full hn hb ((Queue.full_iff _).2 hf))
  · have hf : q.full = false := by
      rw [Bool.eq_false_iff]
      intro k
      rcases (Queue.full_iff q).1 k with k | k
      · rw [he] at k; cases k
      · omega
    exact ⟨fun c hc => trap (posts_noSlot hn hb hf (Lane.postSlot_refused hc)),
      fun hst hpr k p hk => trap (posts_noSlot hn hb hf (Lane.postSlot_protected hk hst hpr)),
      fun k p hk hr hpr haway => done hr (posts_slot hn hb hf (Lane.postSlot_ok hk hpr) haway)⟩

/-! ## LAUNCH (R347) -/

theorem execLaunch_cases (d a : BitVec 7) (f : BitVec 4) (s : State) (l : Lane) (h : s.Alone (launchForm d a f) l) (hq : l.quiet = true) :
    (∀ t, l.launchPacket (l.reg a) = .error t → exec (.launch d a f) s = .next (s.actedTrap l t)) ∧
    (∀ bs, l.launchPacket (l.reg a) = .ok (some bs) → l.s.launchesOn l.tm.core < 16 → Room f.toNat [l] →
      exec (.launch d a f) s = .next (s.acted l
        { flag := f.toNat, dst := l.dsts d 1, op := some (.launch (launchQueue l.s.nextId)) }
        (fun u => u.takePacket { Queue.idle (launchQueue (u.nextId - 1)) with fn := l.tm.fn }
          (.new 0 bs (some (l.th.lclass, l.privileged)) (u.nextId - 1))))) := by
  rw [exec_launch]
  unfold execLaunch
  refine ⟨fun t ht => ?_, fun bs hb hn hr => ?_⟩
  · exact h.trap (after := id) (h.not_held hq) (by rw [ht])
  · refine h.done (h.not_held hq) ?_ (hr.imp_right fun k => k l (List.mem_singleton.2 rfl))
    rw [hb]
    exact if_neg (Nat.not_le.2 hn)

/-- Settles O41: what the two instructions do in a thread alone in its group. -/
theorem queuePosts : Obligations.QueuePosts := ⟨execQpost_cases, execLaunch_cases⟩

end Sys2Proof.Machine
end

section
/-!
PROOFS. How a group enters its bundle, and how a wait releases (R34 to R37, R324).
-/

namespace Sys2Proof.Machine

/-! ## The S-word (R34, R35) -/

theorem isData_iff (w : Word) (n : Nat) : isData w n = true ↔ fieldOf' w (2 + n) 1 = 1 := by
  unfold isData fieldOf'
  rw [BitVec.getLsbD, Nat.testBit_eq_decide_div_mod_eq]
  exact decide_eq_true_iff

/-- The faults of an S-word. -/
theorem swordBad_iff (w : Word) : swordBad w = true ↔
    fieldOf' w 0 3 ≠ 0 ∨ fieldOf' w (2 + 1) 1 = 1 ∨ (fieldOf' w 18 2 = 0 ∧ fieldOf' w 20 12 ≠ 0) ∨
      (fieldOf' w 18 2 ≠ 0 ∧ fieldOf' w (2 + fieldOf' w 18 2) 1 = 1) ∨
      (fieldOf' w (2 + 2) 1 = 1 ∧ fieldOf' w 12 3 ≠ 0) ∨ (fieldOf' w (2 + 3) 1 = 1 ∧ fieldOf' w 9 3 ≠ 0) := by
  have hwait : waitSlot w = fieldOf' w 18 2 := rfl
  have hlow : bits w.toNat 2 0 = fieldOf' w 0 3 := rfl
  have hflags : bits w.toNat 31 20 = fieldOf' w 20 12 := rfl
  have h2 : distance w 2 = fieldOf' w 12 3 := rfl
  have h3 : distance w 3 = fieldOf' w 9 3 := rfl
  unfold swordBad
  simp only [List.any_cons, List.any_nil, Bool.or_false, Bool.or_eq_true, Bool.and_eq_true, decide_eq_true_eq, isData_iff,
    hwait, hlow, hflags, h2, h3]
  tauto

/-! ## One thread enters its bundle -/

/-- Two changes of a list that agree where they are made. -/
theorem modify_congr {α : Type} {f g : α → α} {l : List α} {i : Nat} (h : ∀ x, l[i]? = some x → f x = g x) : l.modify i f = l.modify i g := by
  refine List.ext_getElem? fun n => ?_
  rw [List.getElem?_modify, List.getElem?_modify]
  by_cases hn : i = n
  · subst hn
    cases hx : l[i]? with
    | none => rfl
    | some x => simp only [if_true, Option.map_eq_map, Option.map_some, h x hx]
  · simp only [if_neg hn]

/-- Two changes of a thread that agree where they are made. -/
theorem State.modThread_congr {s : State} {k j : Nat} {th : Thread} {f g : Thread → Thread} (h : s.thread? k j = some th)
    (he : f th = g th) : s.modThread k j f = s.modThread k j g := by
  unfold State.modThread State.modTeam
  refine congrArg (fun ts => ({ s with teams := ts } : State)) (modify_congr fun t ht => ?_)
  unfold Team.modThread
  refine congrArg (fun x => ({ t with threads := x } : Team)) (modify_congr fun x hx => ?_)
  have hx' : s.thread? k j = some x := by
    unfold State.thread?
    rw [ht]
    exact hx
  cases h.symm.trans hx'
  exact he

theorem State.enterBundle_of {s : State} {k j : Nat} {tm : Team} {th : Thread} (ht : s.teams[k]? = some tm) (hj : s.thread? k j = some th)
    (hs : th.sword = none) : s.enterBundle k j = match s.fetchWord tm th (bundleOf th.pc) with
      | .error t => (s.modThread k j (fun th => { th with pc := s.swordPc tm th t.cause })).takeTrap k j t false
      | .ok (w, _) =>
        if swordBad w then
          (s.modThread k j (fun th => { th with pc := entrySlot w th.pc })).takeTrap k j (.of .illbun) false
        else if bundleOf (firstSlot w th.pc) = bundleOf th.pc then
          s.modThread k j (fun th => { th with pc := firstSlot w th.pc, sword := some w, waited := false })
        else s.modThread k j (Thread.jumpTo (firstSlot w th.pc)) := by
  unfold State.enterBundle
  rw [ht, hj]
  dsimp only
  rw [hs]
  exact if_neg Bool.false_ne_true

theorem enterBundle_cases (s : State) (k j : Nat) (tm : Team) (th : Thread) (ht : s.teams[k]? = some tm) (hj : s.thread? k j = some th)
    (hs : th.sword = none) :
    (∀ t, s.fetchWord tm th (bundleOf th.pc) = .error t →
      (t.cause ≠ .mchk → s.enterBundle k j = (s.modThread k j (fun x => { x with pc := th.pc })).takeTrap k j t false) ∧
      (t.cause = .mchk → s.enterBundle k j =
        (s.modThread k j (fun x => { x with pc := entrySlot (s.swordHeld tm th) th.pc })).takeTrap k j t false)) ∧
    (∀ (w : Word) (key : Nat), s.fetchWord tm th (bundleOf th.pc) = .ok (w, key) →
      let data (n : Nat) : Prop := fieldOf' w (2 + n) 1 = 1
      let wait := fieldOf' w 18 2
      let bad := fieldOf' w 0 3 ≠ 0 ∨ data 1 ∨ (wait = 0 ∧ fieldOf' w 20 12 ≠ 0) ∨ (wait ≠ 0 ∧ data wait) ∨
        (data 2 ∧ fieldOf' w 12 3 ≠ 0) ∨ (data 3 ∧ fieldOf' w 9 3 ≠ 0)
      (bad → s.enterBundle k j =
        (s.modThread k j (fun th => { th with pc := entrySlot w th.pc })).takeTrap k j (.of .illbun) false) ∧
      (¬bad → bundleOf (firstSlot w th.pc) = bundleOf th.pc → s.enterBundle k j =
        s.modThread k j (fun th => { th with pc := firstSlot w th.pc, sword := some w, waited := false })) ∧
      (¬bad → bundleOf (firstSlot w th.pc) ≠ bundleOf th.pc → s.enterBundle k j =
        s.modThread k j (fun x => { x with pc := firstSlot w th.pc, sword := none, waited := false }))) := by
  rw [State.enterBundle_of ht hj hs]
  refine ⟨fun t he => ⟨fun hc => ?_, fun hc => ?_⟩, fun w key hw => ⟨fun hb => ?_, fun hb hf => ?_, fun hb hf => ?_⟩⟩
  · rw [he]
    dsimp only
    rw [State.modThread_congr (g := fun x => { x with pc := th.pc }) hj]
    unfold State.swordPc
    rw [if_neg hc]
  · rw [he]
    dsimp only
    rw [State.modThread_congr (g := fun x => { x with pc := entrySlot (s.swordHeld tm th) th.pc }) hj]
    unfold State.swordPc
    rw [if_pos hc]
  · rw [hw]
    exact if_pos ((swordBad_iff w).2 hb)
  · rw [hw]
    exact (if_neg fun h => hb ((swordBad_iff w).1 h)).trans (if_pos hf)
  · rw [hw]
    exact (if_neg fun h => hb ((swordBad_iff w).1 h)).trans (if_neg hf)

/-! ## The steps of a group -/

theorem bundleEntry_cases (s : State) (k g : Nat) (t : Team) (gr : Group) (h : s.groupAt k g = some (t, gr)) :
    (t.needsEntry s.now gr = true → s.fetchAway t gr = true → exec (.bundleEntry k g) s = .next s) ∧
    (t.needsEntry s.now gr = true → s.fetchAway t gr = false → exec (.bundleEntry k g) s = .next (s.enterGroup k gr)) ∧
    (t.waitReady s.now gr = true → exec (.flagWaitRelease k g) s = .next (s.releaseGroup k gr)) := by
  rw [exec_bundleEntry, exec_flagWaitRelease]
  unfold execBundleEntry execFlagWaitRelease State.bundleEntry State.waitRelease State.entryDue
  rw [h]
  dsimp only
  refine ⟨fun hn ha => ?_, fun hn ha => ?_, fun hw => ?_⟩
  · rw [hn, ha]
    rfl
  · rw [hn, ha]
    rfl
  · rw [hw]
    rfl

theorem releaseWait_cases (s : State) (k j : Nat) (th : Thread) (h : s.thread? k j = some th) (hw : th.waitDue = true) :
    (∀ d, th.firstHeld (waitFlags (th.sword.getD 0)) = some d → s.releaseWait k j = s.deliver k j d) ∧
    (th.firstHeld (waitFlags (th.sword.getD 0)) = none →
      s.releaseWait k j = s.modThread k j (fun th => { th with waited := true })) := by
  unfold State.releaseWait
  rw [h]
  dsimp only
  rw [hw]
  exact ⟨fun d hd => by rw [hd]; rfl, fun hn => by rw [hn]; rfl⟩

/-- Settles O42: the two steps of a group, and what each does to a member. -/
theorem bundleEntryAndWaits : Obligations.BundleEntryAndWaits :=
  ⟨bundleEntry_cases, enterBundle_cases, releaseWait_cases⟩

end Sys2Proof.Machine
end

section
/-!
PROOFS. The other steps of a core: promotions, wakes and bins (R10, R14 to R16, R28, R79, R80).
-/

namespace Sys2Proof.Machine

/-! ## Wakes (R79, R80) -/

/-- A sleeping thread that meets a condition continues. -/
theorem State.wakeIf_of {s : State} {k j : Nat} {th : Thread} {p : Why → Bool} (h : s.thread? k j = some th) (hs : th.st = .sleeping)
    (hp : p th.why = true) : s.wakeIf k j p = s.release k [j] := by
  unfold State.wakeIf
  rw [h]
  exact if_pos ⟨hs, hp⟩

theorem wake_cases (s : State) (k j : Nat) (th : Thread) (h : s.thread? k j = some th) (hs : th.st = .sleeping) :
    (∀ x, th.why = .sleep 0 x → exec (.sleepWake k j) s = .next (s.release k [j])) ∧
    (∀ dl line dirty, th.why = .waitf dl line dirty →
      (dl ≤ s.now → exec (.waitfTimeout k j) s = .next (s.release k [j])) ∧
      (∀ c, dirty = some c → c + 256 ≤ s.now → exec (.waitfWriteWake k j) s = .next (s.release k [j])) ∧
      exec (.waitfEarlyWake k j) s = .next (s.release k [j])) := by
  refine ⟨fun x hx => ?_, fun dl line dirty hw => ⟨fun hd => ?_, fun c hc hd => ?_, ?_⟩⟩
  · exact congrArg _ (State.wakeIf_of h hs (by rw [hx]; rfl))
  · exact congrArg _ (State.wakeIf_of h hs (by rw [hw]; exact decide_eq_true hd))
  · exact congrArg _ (State.wakeIf_of h hs (by rw [hw, hc]; exact decide_eq_true hd))
  · exact congrArg _ (State.wakeIf_of h hs (by rw [hw]))

/-! ## Bins (R14 to R16) -/

/-- The bin that releases: it meets a condition, and no older one is due. -/
theorem State.binRelease_of {s : State} {core n : Nat} {p : State → Bin → Bool} {b : Bin} (ho : s.slotsOpen core = false)
    (hd : core ∉ s.binsDone) (hb : ((s.binsOpen core).coreBins core)[n]? = some b)
    (hold : ∀ c ∈ ((s.binsOpen core).coreBins core).take n, (s.binsOpen core).binDue c = false) (hp : p (s.binsOpen core) b = true) :
    s.binRelease core n p = (s.binsOpen core).releaseBin b := by
  have hc : s.binsDone.contains core = false := by
    rw [List.contains_eq_mem]
    exact decide_eq_false hd
  have hany : (((s.binsOpen core).coreBins core).take n).any (s.binsOpen core).binDue = false :=
    List.any_eq_false.2 fun c hm => by rw [hold c hm]; exact Bool.false_ne_true
  unfold State.binRelease
  rw [ho, hc, if_neg (by decide)]
  dsimp only
  rw [hb]
  dsimp only
  rw [hp, hany]
  rfl

/-- Once the core's bins have acted in a cycle, none releases. -/
theorem State.binRelease_done {s : State} {core n : Nat} {p : State → Bin → Bool} (h : core ∈ s.binsDone) : s.binRelease core n p = s := by
  unfold State.binRelease
  refine if_pos ?_
  rw [List.contains_eq_mem, decide_eq_true h, Bool.or_true]

theorem bin_cases (s : State) (core n : Nat) (ho : s.slotsOpen core = false) (hd : core ∉ s.binsDone) :
    let u := (s.closeCore core).fileArrivals core
    (∀ b, (u.coreBins core)[n]? = some b → (∀ c ∈ (u.coreBins core).take n, u.binDue c = false) →
      (u.binFull b = true ∨ u.binAged b = true → exec (.binAgeRelease core n) s = .next (u.releaseBin b)) ∧
      (u.binIdle b = true → exec (.binIdleRelease core n) s = .next (u.releaseBin b))) ∧
    ({ u with binsDone := core :: u.binsDone } : State).binRelease core n (fun _ _ => true) = { u with binsDone := core :: u.binsDone } ∧
    ((∀ b ∈ u.coreBins core, u.binDue b = false) → exec (.binRefill core) s =
      .next { State.refillBins 64 u core with binsDone := core :: u.binsDone }) := by
  refine ⟨fun b hb hold => ⟨fun hp => ?_, fun hp => ?_⟩, State.binRelease_done List.mem_cons_self, fun hn => ?_⟩
  · exact congrArg _ (State.binRelease_of ho hd hb hold (by rw [Bool.or_eq_true]; exact hp))
  · exact congrArg _ (State.binRelease_of ho hd hb hold hp)
  · have hc : s.binsDone.contains core = false := by
      rw [List.contains_eq_mem]
      exact decide_eq_false hd
    have hany : ((s.binsOpen core).coreBins core).any (s.binsOpen core).binDue = false :=
      List.any_eq_false.2 fun b hm => Bool.eq_false_iff.1 (hn b hm)
    rw [exec_binRefill]
    unfold execBinRefill
    rw [ho, hc, if_neg (by decide)]
    dsimp only
    rw [hany]
    rfl

/-- Settles O43: each step of the core, where its condition holds. -/
theorem coreSteps : Obligations.CoreSteps := ⟨fun _ _ _ => rfl, wake_cases, bin_cases⟩

end Sys2Proof.Machine
end

section
/-!
PROOFS. Which Pannier entries are pending while reads and stores take their place.
-/

namespace Sys2Proof.Machine

theorem foldl_pannier {α : Type} {f : State → α → State} (h : ∀ s a, (f s a).pannier = s.pannier) (xs : List α) (s : State) :
    (xs.foldl f s).pannier = s.pannier := by
  induction xs generalizing s with
  | nil => rfl
  | cons x xs ih => exact (ih _).trans (h s x)

@[simp] theorem State.l1Trim_pannier (s : State) (core : Nat) : (State.l1Trim s core).pannier = s.pannier := by
  unfold State.l1Trim; dsimp only; split <;> rfl

@[simp] theorem State.l1Fill_pannier (s : State) (core sector : Nat) : (State.l1Fill s core sector).pannier = s.pannier := by
  unfold State.l1Fill; dsimp only; split
  · rfl
  · exact State.l1Trim_pannier _ _

@[simp] theorem State.l1Refresh_pannier (s : State) (core sector : Nat) : (State.l1Refresh s core sector).pannier = s.pannier := by
  unfold State.l1Refresh; split
  · exact State.l1Fill_pannier _ _ _
  · rfl

@[simp] theorem State.served_pannier (s : State) (core ins key : Nat) (fill : Bool) :
    (State.served s core ins key fill).pannier = s.pannier := by
  unfold State.served
  repeat' first | rfl | split | simp

@[simp] theorem State.bindLoad_pannier (s : State) (o : Op) (locs : List Nat) (form : LoadForm) (bypass : Bool) (va : DWord) :
    (State.bindLoad s o locs form bypass va).pannier = s.pannier := by
  unfold State.bindLoad
  repeat' first | rfl | split | simp

@[simp] theorem State.bindLdvs_pannier (s : State) (o : Op) (loc size : Nat) (va : DWord) :
    (State.bindLdvs s o loc size va).pannier = s.pannier := by
  unfold State.bindLdvs
  repeat' first | rfl | split | simp

@[simp] theorem State.sendHost_pannier (s : State) (k : Nat) : (s.sendHost k).pannier = s.pannier := by
  unfold State.sendHost; split <;> rfl

@[simp] theorem State.sendRemote_pannier (s : State) (k j loc : Nat) : (State.sendRemote s k j loc).pannier = s.pannier := by
  unfold State.sendRemote; split
  · rfl
  · split
    · exact State.sendHost_pannier _ _
    · rfl

theorem State.noteChange_pannier (s : State) (line : Nat) : (s.noteChange line).pannier = s.pannier := rfl

@[simp] theorem State.storeBytes_pannier (core : Option Nat) (s : State) (w : Nat × List Byte) :
    (State.storeBytes core s w).pannier = s.pannier :=
  foldl_pannier State.noteChange_pannier _ s

theorem State.bumpVersion_pannier (s : State) (line : Nat) : (s.bumpVersion line).pannier = s.pannier := by
  unfold State.bumpVersion; split <;> rfl

@[simp] theorem State.writeMem_pannier (s : State) (core : Option Nat) (k : Nat) (bs : List Byte) :
    (s.writeMem core k bs).pannier = s.pannier :=
  (foldl_pannier (f := State.bumpVersion) State.bumpVersion_pannier _ _).trans (State.storeBytes_pannier core s (k, bs))

theorem State.performStore_pannier (s : State) (e : SqEntry) (loc : Nat) (bs : List Byte) :
    (s.performStore e loc bs).pannier = s.pannier := by
  unfold State.performStore; split
  · rfl
  · exact (State.sendRemote_pannier _ _ _ _).trans (State.writeMem_pannier _ _ _ _)

/-! Reads that take their place can only end entries, never open or change one. -/

theorem State.bindPlain_pannier {s s' : State} {o : Op} (e : s.bindPlain o = some s') : s'.pannier = s.pannier := by
  unfold State.bindPlain at e
  repeat' first | contradiction | (cases e; rfl) | (cases e; simp; done) | split at e

theorem State.bindPlains_pannier {os : List Op} {s s' : State} (e : State.bindPlains os s = some s') : s'.pannier = s.pannier := by
  induction os generalizing s with
  | nil => cases e; rfl
  | cons o os ih =>
    unfold State.bindPlains at e
    repeat' first | contradiction | split at e
    · next hb => exact (ih e).trans (State.bindPlain_pannier hb)
    · exact ih e
    · exact ih e

theorem State.readReqs_pannier {rs : List PannierReq} {s s' : State} (e : State.readReqs rs s = some s') : s'.pannier = s.pannier := by
  induction rs generalizing s with
  | nil => cases e; rfl
  | cons r rs ih =>
    unfold State.readReqs at e
    repeat' first | contradiction | split at e
    · exact ih e
    · next hb =>
      have hp := State.bindPlains_pannier hb
      rw [ih e]
      exact hp

theorem State.readEntry_pannier {s s' : State} {x : PannierEntry} (e : s.readEntry x = some s') : s'.pannier ⊆ s.pannier := by
  unfold State.readEntry at e
  obtain ⟨a, ha, rfl⟩ := Option.map_eq_some_iff.mp e
  rw [← State.readReqs_pannier ha]
  have hk : ((a.l1Refresh x.core x.sector).readTransaction (x.sector / 4)).pannier = a.pannier :=
    (State.readTransaction_pannier _ _).trans (State.l1Refresh_pannier _ _ _)
  rw [← hk]
  exact List.filter_subset_self _

theorem State.readEntries_pannier {es : List PannierEntry} {s s' : State} (e : State.readEntries es s = some s') :
    s'.pannier ⊆ s.pannier := by
  induction es generalizing s with
  | nil => cases e; exact List.Subset.refl _
  | cons x es ih =>
    obtain ⟨a, ha, hs⟩ := Option.bind_eq_some_iff.mp e
    exact List.Subset.trans (ih hs) (State.readEntry_pannier ha)

theorem State.serveReads_pannier {s s' : State} {core : Nat} {ids : List Nat} (e : s.serveReads core ids = some s') :
    s'.pannier ⊆ s.pannier := by
  unfold State.serveReads at e
  dsimp only at e
  split at e
  · cases e
  · exact State.readEntries_pannier e

theorem State.bindOne_pannier {s s' : State} {o : Op} {j : Nat} (e : s.bindOne o j = some s') : s'.pannier ⊆ s.pannier := by
  unfold State.bindOne at e
  split at e
  · exact State.serveReads_pannier e
  · exact fun y hy => State.bindPlain_pannier e ▸ hy

theorem State.bindAll_pannier {j : Nat} {os : List Op} {s s' : State} (e : State.bindAll j os s = some s') :
    s'.pannier ⊆ s.pannier := by
  induction os generalizing s with
  | nil => cases e; exact List.Subset.refl _
  | cons o os ih =>
    unfold State.bindAll at e
    repeat' first | contradiction | split at e
    · next hb => exact List.Subset.trans (ih e) (State.bindOne_pannier hb)
    · exact ih e
    · exact ih e

theorem State.bindReads_pannier {ds : List (Nat × Nat)} {s s' : State} (e : State.bindReads ds s = some s') :
    s'.pannier ⊆ s.pannier := by
  induction ds generalizing s with
  | nil => cases e; exact List.Subset.refl _
  | cons d ds ih =>
    unfold State.bindReads at e
    repeat' split at e
    · obtain ⟨a, ha, hs⟩ := Option.bind_eq_some_iff.mp e
      exact List.Subset.trans (ih hs) (State.bindAll_pannier ha)
    · exact ih e
    · exact ih e

theorem State.beforeStore_pannier {s s' : State} {x : SqEntry} {loc n : Nat} (e : s.beforeStore x loc n = some s') :
    s'.pannier ⊆ s.pannier := by
  unfold State.beforeStore at e
  split at e
  · cases e
  · split at e
    · cases e; exact List.Subset.refl _
    · exact State.bindReads_pannier e

end Sys2Proof.Machine
end

section
/-!
PROOFS. The steps of the store queue, the Pannier, the operations and the walks (R43, R110, R117 to R122, R195, R204).
-/

namespace Sys2Proof.Machine

/-! ## The oldest entry of a store queue -/

/-- Nothing older keeps the entry: if it is a release, it may be performed. -/
def State.LetGo (s : State) (e : SqEntry) : Prop := ∀ sc, e.release = some sc → s.releaseReady e sc = true

/-- `performHead` once the entry's release lets it go. -/
def State.performFree (s : State) (core : Nat) (begun : List Nat) (e : SqEntry) (rest : List SqEntry) : Option State :=
  match e.act with
  | .store loc bs => s.storeNext core e rest loc bs
  | .localStore .. => some ((s.popQueue core 1).performLocal e)
  | .localLoad .. => (s.bindBefore e).map (fun s => (s.popQueue core 1).performLocal e)
  | .localAtomic .. => s.atlNext core e rest
  | .rmw loc act va => s.rmwNext core e loc act va
  | .scatter w => s.scatterNext core e w (!begun.contains w)
  | .fence _ => some (s.popQueue core 1)
  | .copy => none

theorem State.performHead_free {s : State} {e : SqEntry} (h : s.LetGo e) (core : Nat) (begun : List Nat) (rest : List SqEntry) :
    s.performHead core begun e rest = s.performFree core begun e rest := by
  unfold State.performHead State.performFree
  cases hr : e.release with
  | none => rfl
  | some sc => dsimp only; rw [h sc hr] <;> rfl

/-- Where no write entry is partly performed, the store queue performs its oldest entry alone. -/
theorem State.storePerform_of {s u : State} {core : Nat} {e : SqEntry} {rest : List SqEntry} (hq : s.queueOf core = e :: rest)
    (hl : s.LetGo e) (hp : s.performFree core [] e rest = some u) (hb : u.nowBegun [] e = []) : s.storePerform core = u := by
  unfold State.storePerform
  rw [hq, List.length_cons]
  unfold State.performRun
  rw [hq]
  dsimp only
  rw [State.performHead_free hl, hp, Option.bind_some, hb]
  rfl

theorem State.storePerform_none {s : State} {core : Nat} {e : SqEntry} {rest : List SqEntry} (hq : s.queueOf core = e :: rest)
    (hl : s.LetGo e) (hp : s.performFree core [] e rest = none) : s.storePerform core = s := by
  unfold State.storePerform
  rw [hq, List.length_cons]
  unfold State.performRun
  rw [hq]
  dsimp only
  rw [State.performHead_free hl, hp]
  rfl

theorem State.nowBegun_nil {e : SqEntry} (h : ∀ w, e.act ≠ .scatter w) (s : State) (begun : List Nat) : s.nowBegun begun e = begun := by
  unfold State.nowBegun
  split
  · next w hw => exact absurd hw (h w)
  · rfl

/-- The step of an entry that is no place of a scatter. -/
theorem exec_storePerform_of {s u : State} {core : Nat} {e : SqEntry} {rest : List SqEntry} (hq : s.queueOf core = e :: rest)
    (hl : s.LetGo e) (hn : ∀ w, e.act ≠ .scatter w) (hp : s.performFree core [] e rest = some u) :
    exec (.storePerform core) s = .next u :=
  congrArg _ (State.storePerform_of hq hl hp (State.nowBegun_nil hn _ _))

theorem State.storeNext_single {s u : State} {core : Nat} {e : SqEntry} {rest : List SqEntry} {loc : Nat} {bs : List Byte}
    (hm : s.mergeNext core e rest = none) (hb : s.beforeStore e loc bs.length = some u) :
    s.storeNext core e rest loc bs = some (((u.popQueue core 1).performStore e loc bs).storeDone e loc) := by
  unfold State.storeNext
  rw [hm]
  exact congrArg (Option.map _) hb

theorem State.storeNext_merged {s v : State} {core : Nat} {e e2 : SqEntry} {rest : List SqEntry} {loc : Nat} {bs bs2 : List Byte}
    (hm : s.mergeNext core e rest = some (e2, bs2)) (hb : s.beforeStore e2 loc bs2.length = some v) :
    s.storeNext core e rest loc bs = some ((((v.popQueue core 2).performStore e2 loc bs2).storeDone e loc).storeDone e2 loc) := by
  unfold State.storeNext
  rw [hm]
  exact congrArg (Option.map _) hb

/-- Whether two adjacent stores of the same bytes merge is the device's to choose. -/
theorem State.mergeNext_cases (s : State) (core : Nat) {e e2 : SqEntry} {later : List SqEntry} {loc : Nat} {bs2 : List Byte}
    (h2 : e2.act = .store loc bs2) (hm : e.mergesWith e2 = true) (hr : e2.release = none) :
    s.mergeNext core e (e2 :: later) = none ∨ s.mergeNext core e (e2 :: later) = some (e2, bs2) := by
  unfold State.mergeNext
  dsimp only
  rw [h2]
  dsimp only
  rw [hm, hr]
  by_cases hd : s.draw core 4 % 2 = 0
  · exact .inr (if_pos (by rw [decide_eq_true hd]; rfl))
  · exact .inl (if_neg (by rw [decide_eq_false hd]; exact Bool.false_ne_true))

theorem State.rmwNext_home {s u v : State} {core : Nat} {e : SqEntry} {loc : Nat} {act : Rmw} {va : DWord}
    (hb : s.bindBefore e = some u) (hk : keyHost loc = false) (hv : u.beforeStore e loc act.size = some v) :
    s.rmwNext core e loc act va =
      some ((((v.popQueue core 1).performRmw core e.team e.thr e.op loc act va).markPassed e.team e.thr e.id).redDone e.op) := by
  have ha : ¬u.hostAway loc = true := by unfold State.hostAway; rw [hk]; exact Bool.false_ne_true
  unfold State.rmwNext
  rw [hb, Option.bind_some, if_neg ha, if_neg (Bool.eq_false_iff.1 hk), hv]
  rfl

theorem State.rmwNext_host {s u : State} {core : Nat} {e : SqEntry} {loc : Nat} {act : Rmw} {va : DWord}
    (hb : s.bindBefore e = some u) (hk : keyHost loc = true) (hl : u.hostLink ≠ none) :
    s.rmwNext core e loc act va = some (((u.popQueue core 1).setOpKind e.op (.hostAtomic loc act)).sendHost loc) := by
  have ha : ¬u.hostAway loc = true := by
    unfold State.hostAway
    rw [hk, Bool.true_and]
    exact mt Option.isNone_iff_eq_none.1 hl
  unfold State.rmwNext
  rw [hb, Option.bind_some, if_neg ha, if_pos hk]

theorem State.atlNext_of {s u : State} {core : Nat} {e : SqEntry} {rest : List SqEntry}
    (hb : State.bindBeforeAll ((e :: rest).takeWhile (fun x => x.ins = e.ins)) s = some u) :
    s.atlNext core e rest = some (((e :: rest).takeWhile (fun x => x.ins = e.ins)).foldl State.performLocal
      (u.popQueue core ((e :: rest).takeWhile (fun x => x.ins = e.ins)).length)) := by
  unfold State.atlNext
  dsimp only
  rw [hb]
  rfl

theorem queue_cases (s : State) (core : Nat) (e : SqEntry) (rest : List SqEntry) (hq : s.queueOf core = e :: rest)
    (hl : ∀ sc, e.release = some sc → s.releaseReady e sc = true) :
    (∀ loc bs u, e.act = .store loc bs → s.mergeNext core e rest = none → s.beforeStore e loc bs.length = some u →
      exec (.storePerform core) s = .next (((u.popQueue core 1).performStore e loc bs).storeDone e loc)) ∧
    (∀ loc bs e2 later bs2 u v, e.act = .store loc bs → rest = e2 :: later → e2.act = .store loc bs2 → e.mergesWith e2 = true →
      e2.release = none → s.beforeStore e loc bs.length = some u → s.beforeStore e2 loc bs2.length = some v →
      exec (.storePerform core) s = .next (((u.popQueue core 1).performStore e loc bs).storeDone e loc) ∨
      exec (.storePerform core) s = .next ((((v.popQueue core 2).performStore e2 loc bs2).storeDone e loc).storeDone e2 loc)) ∧
    (∀ loc act va u, e.act = .rmw loc act va → s.bindBefore e = some u →
      (∀ v, keyHost loc = false → u.beforeStore e loc act.size = some v → exec (.storePerform core) s =
        .next ((((v.popQueue core 1).performRmw core e.team e.thr e.op loc act va).markPassed e.team e.thr e.id).redDone e.op)) ∧
      (keyHost loc = true → u.hostLink ≠ none → exec (.storePerform core) s =
        .next (((u.popQueue core 1).setOpKind e.op (.hostAtomic loc act)).sendHost loc))) ∧
    (∀ loc c d addr u, e.act = .localAtomic loc c d addr →
      State.bindBeforeAll ((e :: rest).takeWhile (fun x => x.ins = e.ins)) s = some u →
      exec (.storePerform core) s = .next (((e :: rest).takeWhile (fun x => x.ins = e.ins)).foldl State.performLocal
        (u.popQueue core ((e :: rest).takeWhile (fun x => x.ins = e.ins)).length))) ∧
    (∀ loc bs, e.act = .localStore loc bs → exec (.storePerform core) s =
      .next ((((s.popQueue core 1).localWrite loc bs).markPassed e.team e.thr e.id).setReady e.op [] none)) ∧
    (∀ loc n addr u, e.act = .localLoad loc n addr → s.bindBefore e = some u →
      exec (.storePerform core) s = .next ((u.popQueue core 1).performLocal e)) ∧
    (∀ x, e.act = .fence x → exec (.storePerform core) s = .next (s.popQueue core 1)) := by
  refine ⟨fun loc bs u ha hm hb => ?_, fun loc bs e2 later bs2 u v ha hr h2 hm hn hu hv => ?_,
    fun loc act va u ha hb => ⟨fun v hk hv => ?_, fun hk hh => ?_⟩, fun loc c d addr u ha hb => ?_, fun loc bs ha => ?_,
    fun loc n addr u ha hb => ?_, fun x ha => ?_⟩
  · refine exec_storePerform_of hq hl (by rw [ha]; exact nofun) ?_
    unfold State.performFree
    rw [ha]
    exact State.storeNext_single hm hb
  · have hne : ∀ w, e.act ≠ .scatter w := by rw [ha]; exact nofun
    have hp : s.performFree core [] e rest = s.storeNext core e rest loc bs := by unfold State.performFree; rw [ha]
    subst hr
    obtain hs | hs := State.mergeNext_cases s core (later := later) h2 hm hn
    · exact .inl (exec_storePerform_of hq hl hne (hp.trans (State.storeNext_single hs hu)))
    · exact .inr (exec_storePerform_of hq hl hne (hp.trans (State.storeNext_merged hs hv)))
  · refine exec_storePerform_of hq hl (by rw [ha]; exact nofun) ?_
    unfold State.performFree
    rw [ha]
    exact State.rmwNext_home hb hk hv
  · refine exec_storePerform_of hq hl (by rw [ha]; exact nofun) ?_
    unfold State.performFree
    rw [ha]
    exact State.rmwNext_host hb hk hh
  · refine exec_storePerform_of hq hl (by rw [ha]; exact nofun) ?_
    unfold State.performFree
    rw [ha]
    exact State.atlNext_of hb
  · refine exec_storePerform_of hq hl (by rw [ha]; exact nofun) ?_
    unfold State.performFree State.performLocal
    rw [ha]
  · refine exec_storePerform_of hq hl (by rw [ha]; exact nofun) ?_
    unfold State.performFree
    rw [ha]
    exact congrArg (Option.map _) hb
  · refine exec_storePerform_of hq hl (by rw [ha]; exact nofun) ?_
    unfold State.performFree
    rw [ha]

/-! ## The Pannier sends and serves an entry -/

/-- No entry of its core and its sector that opened before it has still to be sent. -/
def State.FirstUnsent (s : State) (e : PannierEntry) : Prop :=
  ∀ x ∈ s.pannier, x.core = e.core → x.sent = false → x.sector = e.sector → e.id ≤ x.id

theorem State.sendable_iff (s : State) (e : PannierEntry) : s.sendable e = true ↔
    e.sent = false ∧ s.windowOver e = true ∧ s.slotsOpen e.core = false ∧ s.FirstUnsent e := by
  have hf : (s.unsent e.core).any (fun x => decide (x.sector = e.sector) && decide (x.id < e.id)) = false ↔ s.FirstUnsent e := by
    unfold State.unsent State.FirstUnsent
    rw [List.any_eq_false]
    refine ⟨fun h x hx hc hs hsec => Nat.not_lt.1 fun hlt => h x ?_ ?_, fun h x hx hlt => ?_⟩
    · exact List.mem_filter.2 ⟨hx, by rw [decide_eq_true hc, hs]; rfl⟩
    · rw [decide_eq_true hsec, decide_eq_true hlt]; rfl
    · obtain ⟨hm, hp⟩ := List.mem_filter.1 hx
      rw [Bool.and_eq_true, decide_eq_true_eq, Bool.not_eq_true'] at hp
      rw [Bool.and_eq_true, decide_eq_true_eq, decide_eq_true_eq] at hlt
      exact absurd hlt.2 (Nat.not_lt.2 (h x hm hp.1 hp.2 hlt.1))
  unfold State.sendable
  rw [Bool.and_eq_true, Bool.and_eq_true, Bool.and_eq_true, Bool.not_eq_true', Bool.not_eq_true', Bool.not_eq_true', hf, and_assoc,
    and_assoc]

theorem State.sendEntry_of {s : State} {n : Nat} {e : PannierEntry} (hf : s.pannier.find? (fun e => e.id = n) = some e) :
    s.sendEntry n = if e.sent then (s.serveEntry e).getD s
      else if s.sendable e then ((s.markSent e).serveEntry e).getD (s.markSent e) else s := by
  unfold State.sendEntry
  rw [hf]

theorem State.serveEntry_read {s : State} {e : PannierEntry} (h : e.write = false) : s.serveEntry e = s.serveReads e.core [e.id] := by
  unfold State.serveEntry
  exact if_neg (Bool.eq_false_iff.1 h)

theorem State.serveEntry_waits {s : State} {e : PannierEntry} (h : e.write = true)
    (hq : ∀ x rest, s.queueOf e.core = x :: rest → x.act ≠ .scatter e.id) : s.serveEntry e = none := by
  unfold State.serveEntry
  rw [if_pos h]
  split
  · rfl
  · next x rest hx => exact if_neg (hq x rest hx)

theorem State.serveEntry_place {s v : State} {e : PannierEntry} {x : SqEntry} {rest : List SqEntry} (h : e.write = true)
    (hq : s.queueOf e.core = x :: rest) (ha : x.act = .scatter e.id) (hs : s.serveEntry e = some v) :
    s.storePerform e.core = v := by
  unfold State.serveEntry at hs
  rw [if_pos h, hq] at hs
  dsimp only at hs
  rw [if_pos ha] at hs
  unfold State.storePerform
  rw [hq, hs]
  rfl

theorem pannier_cases (s : State) (n : Nat) (e : PannierEntry) (hf : s.pannier.find? (fun e => e.id = n) = some e) :
    let first := ∀ x ∈ s.pannier, x.core = e.core → x.sent = false → x.sector = e.sector → e.id ≤ x.id
    let u : State := { s.closeCore e.core with pannier := s.pannier.map (fun x => if x.id = n then { x with sent := true } else x) }
    (e.sent = false → s.windowOver e = false ∨ s.slotsOpen e.core = true ∨ ¬first → exec (.pannierSend n) s = .next s) ∧
    (e.sent = false → s.windowOver e = true → s.slotsOpen e.core = false → first →
      (∀ v, u.serveEntry e = some v → exec (.pannierSend n) s = .next v) ∧
      (u.serveEntry e = none → exec (.pannierSend n) s = .next u)) ∧
    (e.sent = true → (∀ v, s.serveEntry e = some v → exec (.pannierSend n) s = .next v) ∧
      (s.serveEntry e = none → exec (.pannierSend n) s = .next s)) ∧
    (e.write = false → s.serveEntry e = s.serveReads e.core [n]) ∧
    (e.write = true → (∀ h rest, s.queueOf e.core = h :: rest → h.act ≠ .scatter n) → s.serveEntry e = none) ∧
    (e.write = true → ∀ h rest, s.queueOf e.core = h :: rest → h.act = .scatter n → ∀ v, s.serveEntry e = some v →
      exec (.storePerform e.core) s = .next v) := by
  have hs := State.sendEntry_of hf
  obtain rfl : e.id = n := of_decide_eq_true (List.find?_some (p := fun x : PannierEntry => decide (x.id = n)) hf)
  refine ⟨fun hn hw => ?_, fun hn hw hc hfirst => ?_, fun ht => ?_, State.serveEntry_read, State.serveEntry_waits,
    fun hw h rest hq ha v hv => congrArg _ (State.serveEntry_place hw hq ha hv)⟩
  · have hno : ¬s.sendable e = true := by
      rw [State.sendable_iff]
      rintro ⟨-, hwin, hslots, hfst⟩
      obtain h | h | h := hw
      · exact Bool.false_ne_true (h.symm.trans hwin)
      · exact Bool.false_ne_true (hslots.symm.trans h)
      · exact h hfst
    exact congrArg _ (hs.trans ((if_neg (Bool.eq_false_iff.1 hn)).trans (if_neg hno)))
  · have hgo : s.sendEntry e.id = ((s.markSent e).serveEntry e).getD (s.markSent e) :=
      hs.trans ((if_neg (Bool.eq_false_iff.1 hn)).trans (if_pos ((State.sendable_iff s e).2 ⟨hn, hw, hc, hfirst⟩)))
    exact ⟨fun v hv => congrArg _ (hgo.trans (congrArg (Option.getD · _) hv)),
      fun hv => congrArg _ (hgo.trans (congrArg (Option.getD · _) hv))⟩
  · have hgo : s.sendEntry e.id = (s.serveEntry e).getD s := hs.trans (if_pos ht)
    exact ⟨fun v hv => congrArg _ (hgo.trans (congrArg (Option.getD · _) hv)),
      fun hv => congrArg _ (hgo.trans (congrArg (Option.getD · _) hv))⟩

/-! ## The only lane of a scatter's entry -/

theorem State.requestOf_only {s : State} {h : SqEntry} {e : PannierEntry} {r : PannierReq}
    (hf : s.pannier.find? (fun x => x.id = e.id) = some e) (hr : e.reqs = [r]) (ho : r.op = h.id) (ht : r.thr = h.thr) :
    s.requestOf h e.id = some (e, r) := by
  unfold State.requestOf
  rw [hf, Option.bind_some, hr, List.find?_cons_of_pos (by rw [decide_eq_true ho, decide_eq_true ht]; rfl)]
  rfl

theorem State.withEarlier_nil (s : State) (core n : Nat) : State.withEarlier s core n [] = [] := by
  cases n with
  | zero => rfl
  | succ n =>
    unfold State.withEarlier
    dsimp only
    refine if_pos (List.isEmpty_iff.2 (List.filter_eq_nil_iff.2 fun x _ => ?_))
    have hmine : (s.pannier.filter (fun e => decide (e.core = core) && !e.write)).filter (fun e => ([] : List Nat).contains e.id) = [] :=
      List.filter_eq_nil_iff.2 fun _ _ => Bool.false_ne_true
    rw [hmine]
    exact Bool.false_ne_true

theorem State.serveReads_nil (s : State) (core : Nat) : s.serveReads core [] = some s := by
  have hnone : s.pannier.filter (fun e => (State.withEarlier s core s.pannier.length []).contains e.id) = [] := by
    rw [State.withEarlier_nil]
    exact List.filter_eq_nil_iff.2 fun _ _ => Bool.false_ne_true
  unfold State.serveReads
  dsimp only
  rw [hnone]
  rfl

theorem State.readsAhead_nil {s : State} {e : PannierEntry}
    (h : ∀ x ∈ s.pannier, x.core = e.core → x.sector = e.sector → x.write = false → e.id ≤ x.id) : s.readsAhead e = [] := by
  refine List.filter_eq_nil_iff.2 fun x hx hp => ?_
  simp only [Bool.and_eq_true, decide_eq_true_eq, Bool.not_eq_true'] at hp
  obtain ⟨⟨⟨hc, hsec⟩, hw⟩, hlt⟩ := hp
  exact absurd hlt (Nat.not_lt.2 (h x hx hc hsec hw))

theorem State.writeLane_unsent {s : State} {e : SqEntry} {w : PannierEntry} (h : w.sent = false) (r : PannierReq) (first : Bool) :
    s.writeLane e w r first = none := by
  unfold State.writeLane
  exact if_pos (by rw [h]; rfl)

/-- The first lane of a sent entry, no read entry of its sector ahead, writes its bytes; with its only lane the entry is
gone. -/
theorem State.writeLane_only {s u : State} {h : SqEntry} {e : PannierEntry} {r : PannierReq} (hs : e.sent = true)
    (hr : e.reqs = [r]) (hu1 : ∀ x ∈ s.pannier, x.id = e.id → x = e)
    (ha : ∀ x ∈ s.pannier, x.core = e.core → x.sector = e.sector → x.write = false → e.id ≤ x.id)
    (hb : s.beforeStore h r.loc r.len = some u) (hu : u.unreachable r.loc = false) :
    ∃ v, s.writeLane h e r true = some v ∧ v.mem = memPut u.mem r.loc r.data ∧ ∀ x ∈ v.pannier, x.id ≠ e.id := by
  unfold State.writeLane
  rw [if_neg (by rw [hs]; decide), if_pos rfl, State.readsAhead_nil ha, List.map_nil, State.serveReads_nil, Option.bind_some, hb]
  refine ⟨_, rfl, ?_, fun x hx => ?_⟩
  · dsimp only
    rw [if_neg (Bool.eq_false_iff.1 hu), if_pos rfl]
    exact (State.performStore_mem hu h r.data).trans (State.writeMem_mem _ _ _ _)
  · dsimp only at hx
    rw [if_neg (Bool.eq_false_iff.1 hu), if_pos rfl, State.performStore_pannier] at hx
    obtain ⟨y, hy, hyx⟩ := List.mem_filterMap.1 hx
    by_cases hid : y.id = e.id
    · obtain rfl := hu1 y (State.beforeStore_pannier hb hy) hid
      unfold PannierEntry.without at hyx
      rw [if_neg (not_not_intro rfl), hr, List.erase_cons_head] at hyx
      cases hyx
    · unfold PannierEntry.without at hyx
      rw [if_pos hid] at hyx
      exact Option.some.inj hyx ▸ hid

theorem scatter_cases (s u : State) (core : Nat) (h : SqEntry) (rest : List SqEntry) (e : PannierEntry) (r : PannierReq)
    (hq : s.queueOf core = h :: rest) (ha : h.act = .scatter e.id) (hrel : h.release = none)
    (hf : s.pannier.find? (fun x => x.id = e.id) = some e) (hr : e.reqs = [r]) (ho : r.op = h.id) (ht : r.thr = h.thr) :
    (e.sent = false → exec (.storePerform core) s = .next s) ∧
    (e.sent = true → (∀ x ∈ s.pannier, x.id = e.id → x = e) →
      (∀ x ∈ s.pannier, x.core = e.core → x.sector = e.sector → x.write = false → e.id ≤ x.id) → s.hostAway r.loc = false →
      s.beforeStore h r.loc r.len = some u → u.unreachable r.loc = false →
      ∃ v, exec (.storePerform core) s = .next v ∧ v.mem = memPut u.mem r.loc r.data ∧ ∀ x ∈ v.pannier, x.id ≠ e.id) := by
  have hl : s.LetGo h := fun sc hsc => by rw [hrel] at hsc; cases hsc
  have hp : s.performFree core [] h rest = (s.writeLane h e r true).map (fun s => s.popQueue core 1) := by
    unfold State.performFree
    rw [ha]
    dsimp only
    unfold State.scatterNext
    rw [State.requestOf_only hf hr ho ht]
    rfl
  refine ⟨fun hs => congrArg _ (State.storePerform_none hq hl ?_), fun hs hu1 hahead _ hb hu => ?_⟩
  · rw [hp, State.writeLane_unsent hs]
    rfl
  · obtain ⟨v, hv, hmem, hgone⟩ := State.writeLane_only hs hr hu1 hahead hb hu
    refine ⟨v.popQueue core 1, congrArg _ (State.storePerform_of hq hl (hp.trans (congrArg _ hv)) ?_), hmem, hgone⟩
    unfold State.nowBegun
    rw [ha]
    dsimp only
    refine if_neg ?_
    rw [List.any_eq_true]
    rintro ⟨x, hx, hid⟩
    exact hgone x hx (of_decide_eq_true hid)

/-! ## Operations -/

theorem exec_operationComplete_of {s : State} {n : Nat} {o : Op} (h : s.op? n = some o) (hc : ∀ j, o.kind ≠ .copy j) :
    exec (.operationComplete n) s = .next (s.operationComplete n) := by
  have hz : s.isZeroing n = false := by
    unfold State.isZeroing
    rw [h]
    dsimp only
    split
    · next j hj => exact absurd hj (hc j)
    · rfl
  exact congrArg Host.Outcome.next (if_neg (Bool.eq_false_iff.1 hz))

theorem State.operationComplete_of {s : State} {n : Nat} {o : Op} (h : s.op? n = some o) :
    (∀ ws, o.kind = .ready ws → s.operationComplete n = s.completeOp o ws o.trap) ∧
    (∀ ks form acq coh va, o.kind = .load ks form acq coh va → s.operationComplete n = s.finishRead o acq) := by
  unfold State.operationComplete
  rw [h]
  exact ⟨fun ws hk => by dsimp only; rw [hk], fun ks form acq coh va hk => by dsimp only; rw [hk]⟩

theorem State.finishRead_of {s u : State} {o o' : Op} {ws : List Word} (acq : Option Nat) (hb : s.bind o o.thr = some u)
    (hu : u.op? o.id = some o') (hk : o'.kind = .ready ws) : s.finishRead o acq = (u.completeOp o' ws o'.trap).acquired o acq := by
  unfold State.finishRead
  rw [hb]
  dsimp only
  rw [hu]
  dsimp only
  rw [hk]

theorem State.atomicopDone_of {s : State} {n : Nat} {o : Op} {loc : Nat} {act : Rmw} (h : s.op? n = some o)
    (hk : o.kind = .hostAtomic loc act) (supported : Bool) : s.atomicopDone n supported =
      (if supported then s.performRmw (s.opCore o) o.team o.thr n loc act 0 else s.setReady n [] (some (.of .mchk))).redDone n := by
  unfold State.atomicopDone
  rw [h]
  dsimp only
  rw [hk]

theorem operation_cases (s : State) (n : Nat) (o : Op) (ho : s.op? n = some o) :
    (∀ ws, o.kind = .ready ws → exec (.operationComplete n) s = .next (s.completeOp o ws o.trap)) ∧
    (∀ ks form acq coh va u o' ws, o.kind = .load ks form acq coh va →
      s.bind o o.thr = some u → u.op? o.id = some o' →
      o'.kind = .ready ws → exec (.operationComplete n) s = .next ((u.completeOp o' ws o'.trap).acquired o acq)) ∧
    (∀ loc act, o.kind = .hostAtomic loc act →
      exec (.atomicopCompletion n true) s = .next ((s.performRmw (s.opCore o) o.team o.thr n loc act 0).redDone n) ∧
      exec (.atomicopCompletion n false) s = .next ((s.setReady n [] (some (.of .mchk))).redDone n)) := by
  obtain ⟨hready, hload⟩ := State.operationComplete_of ho
  exact ⟨fun ws hk => (exec_operationComplete_of ho (by rw [hk]; exact nofun)).trans (congrArg _ (hready ws hk)),
    fun ks form acq coh va u o' ws hk hb hu hk' =>
      (exec_operationComplete_of ho (by rw [hk]; exact nofun)).trans (congrArg Host.Outcome.next ((hload ks form acq coh va hk).trans (State.finishRead_of acq hb hu hk'))),
    fun loc act hk => ⟨congrArg _ (State.atomicopDone_of ho hk true), congrArg _ (State.atomicopDone_of ho hk false)⟩⟩

/-! ## Translations -/

theorem State.pageWalk_error {s : State} {fn : Nat} {va : DWord} {c : Cause} (core : Nat)
    (h : s.walk fn va (s.draw 0 0) = .error c) :
    s.pageWalk core fn va = s.cacheWalk (s.walkPath fn va (s.draw 0 0)) := by
  unfold State.pageWalk
  dsimp only
  rw [h]

/-- A filled TLB has the new entry, no more entries than it holds, and the other TLBs as they were. -/
theorem State.tlbFill_place (s : State) (e : TlbEntry) :
    (s.tlbFill e).tlb.filter (fun x => x.place = e.place) =
      (e :: s.tlb.filter (fun x => decide (x.place = e.place) && !(decide (x.fn = e.fn) && decide (x.page = e.page)))).take e.place.size := by
  have hnew : ∀ x ∈ (e :: s.tlb.filter (fun x => decide (x.place = e.place) && !(decide (x.fn = e.fn) && decide (x.page = e.page)))).take
      e.place.size, decide (x.place = e.place) = true := by
    intro x hx
    obtain rfl | hx := List.mem_cons.1 (List.mem_of_mem_take hx)
    · exact decide_eq_true rfl
    · have hp := (List.mem_filter.1 hx).2
      rw [Bool.and_eq_true] at hp
      exact hp.1
  have hold : ∀ x ∈ s.tlb.filter (fun x => decide (x.place ≠ e.place)), ¬decide (x.place = e.place) = true := fun x hx hp =>
    of_decide_eq_true (List.mem_filter.1 hx).2 (of_decide_eq_true hp)
  unfold State.tlbFill
  dsimp only
  rw [List.filter_append, List.filter_eq_self.2 hnew, List.filter_eq_nil_iff.2 hold, List.append_nil]

theorem State.tlbFill_other (s : State) (e : TlbEntry) {p : TlbPlace} (hp : p ≠ e.place) :
    (s.tlbFill e).tlb.filter (fun x => x.place = p) = s.tlb.filter (fun x => x.place = p) := by
  have hno : ∀ x ∈ (e :: s.tlb.filter (fun x => decide (x.place = e.place) && !(decide (x.fn = e.fn) && decide (x.page = e.page)))).take
      e.place.size, ¬decide (x.place = p) = true := by
    intro x hx hxp
    obtain rfl | hx := List.mem_cons.1 (List.mem_of_mem_take hx)
    · exact hp (of_decide_eq_true hxp).symm
    · have hq := (List.mem_filter.1 hx).2
      rw [Bool.and_eq_true] at hq
      exact hp ((of_decide_eq_true hxp).symm.trans (of_decide_eq_true hq.1))
  unfold State.tlbFill
  dsimp only
  rw [List.filter_append, List.filter_eq_nil_iff.2 hno, List.nil_append, List.filter_filter]
  refine List.filter_congr fun x _ => ?_
  by_cases hxp : x.place = p
  · simp [hxp, hp]
  · simp [hxp]

theorem TlbPlace.size_pos (p : TlbPlace) : 0 < p.size := by
  cases p with
  | core c => exact Nat.succ_pos 255
  | hub n => exact Nat.succ_pos 4095

theorem State.mem_tlbFill (s : State) (e : TlbEntry) : e ∈ (s.tlbFill e).tlb := by
  unfold State.tlbFill
  dsimp only
  obtain ⟨n, hn⟩ := Nat.exists_eq_succ_of_ne_zero (Nat.pos_iff_ne_zero.1 e.place.size_pos)
  rw [hn, List.take_succ_cons]
  exact List.mem_append_left _ List.mem_cons_self

theorem State.mem_tlbFill_other {s : State} {e x : TlbEntry} (hx : x ∈ s.tlb) (hp : x.place ≠ e.place) : x ∈ (s.tlbFill e).tlb :=
  List.mem_append_right _ (List.mem_filter.2 ⟨hx, decide_eq_true hp⟩)

theorem State.tlbFill_size (s : State) (e : TlbEntry) :
    ((s.tlbFill e).tlb.filter (fun x => x.place = e.place)).length ≤ e.place.size := by
  rw [State.tlbFill_place]
  exact List.length_take_le _ _

theorem walk_cases (s : State) (core fn : Nat) (va : DWord) :
    let kept := s.cacheWalk (s.walkPath fn va (s.draw 0 0))
    (∀ c, s.walk fn va (s.draw 0 0) = .error c → exec (.pageWalk core fn va) s = .next kept) ∧
    (∀ pte level, s.walk fn va (s.draw 0 0) = .ok (pte, level) →
      let entry (p : TlbPlace) : TlbEntry := { place := p, fn := fn, page := va.toNat % 2 ^ 52 / 65536, pte := pte, level := level }
      ∃ tlb, exec (.pageWalk core fn va) s = .next { kept with tlb := tlb } ∧ entry (.core core) ∈ tlb ∧
        entry (.hub (core / 4)) ∈ tlb ∧ (tlb.filter (fun x => x.place = .core core)).length ≤ 256 ∧
        (tlb.filter (fun x => x.place = .hub (core / 4))).length ≤ 4096) := by
  intro kept
  refine ⟨fun c hc => congrArg _ (State.pageWalk_error core hc), fun pte level hw => ?_⟩
  intro entry
  have hstep : s.pageWalk core fn va = (kept.tlbFill (entry (.core core))).tlbFill (entry (.hub (core / 4))) := by
    unfold State.pageWalk
    dsimp only
    rw [hw]
    rfl
  refine ⟨((kept.tlbFill (entry (.core core))).tlbFill (entry (.hub (core / 4)))).tlb, congrArg _ hstep,
    State.mem_tlbFill_other (State.mem_tlbFill _ _) (by exact nofun), State.mem_tlbFill _ _, ?_, State.tlbFill_size _ (entry (.hub (core / 4)))⟩
  rw [State.tlbFill_other _ _ (by exact nofun)]
  exact State.tlbFill_size _ (entry (.core core))

/-- Settles O44: each step of the memory side, by the act it performs. -/
theorem memorySteps : Obligations.MemorySteps :=
  ⟨queue_cases, pannier_cases, scatter_cases, operation_cases, walk_cases, fun _ _ => rfl⟩

end Sys2Proof.Machine
end

section
/-!
PROOFS. The steps of a copy in progress (R104, R177, R181, R263).
-/

namespace Sys2Proof.Machine

variable {s u : State} {n : Nat} {o : Op} {j j' : CopyJob}

theorem State.isZeroing_iff (ho : s.op? n = some o) (hk : o.kind = .copy j) : s.isZeroing n = true ↔ j.src = .zeros := by
  unfold State.isZeroing
  rw [ho]
  dsimp only
  rw [hk]
  dsimp only
  cases j.src with
  | zeros => exact ⟨fun _ => rfl, fun _ => rfl⟩
  | rows | xor | blocks => exact ⟨nofun, nofun⟩

theorem State.copyWork_ready (hr : s.copyReady o j = true) : s.copyWork o j = j.todo := by
  unfold State.copyWork
  exact if_pos hr

theorem State.copyComplete_done (ho : s.op? n = some o) (hk : o.kind = .copy j) (hr : s.copyReady o j = true)
    (hw : State.writeChunks o j.todo j s = (u, j', none)) : s.copyComplete n = u.finishCopy o j' := by
  unfold State.copyComplete
  rw [ho]
  dsimp only
  rw [hk]
  dsimp only
  rw [hr, hw]
  rfl

theorem State.copyComplete_hindered {x : CopyChunk × Hindrance} (ho : s.op? n = some o) (hk : o.kind = .copy j)
    (hr : s.copyReady o j = true) (hw : State.writeChunks o j.todo j s = (u, j', some x)) : s.copyComplete n = u := by
  unfold State.copyComplete
  rw [ho]
  dsimp only
  rw [hk]
  dsimp only
  rw [hr, hw]
  rfl

theorem State.copyFault_faults {c : CopyChunk} {f : EngFault} {off : Nat} (ho : s.op? n = some o) (hk : o.kind = .copy j)
    (hr : s.copyReady o j = true) (hw : State.writeChunks o j.todo j s = (u, j', some (c, .fault f off))) :
    s.copyFault n = u.faultCopy o j' f off := by
  unfold State.copyFault
  rw [ho]
  dsimp only
  rw [hk]
  dsimp only
  rw [State.copyWork_ready hr, hw]

/-- The chunks of a copy that fill a line of a scratchpad. -/
def CopyChunk.fills (team line : Nat) (c : CopyChunk) : Bool :=
  match c.dst with
  | .spad k off => decide (k = team) && decide (off / 128 = line)
  | .mem _ => false

theorem State.lineArrival_of {team line : Nat} (ho : s.op? n = some o) (hk : o.kind = .copy j) (hr : s.copyReady o j = true)
    (hm : (team, line) ∈ j.lines) (hw : State.writeChunks o (j.todo.filter (CopyChunk.fills team line)) j s = (u, j', none)) :
    s.lineArrival n team line =
      (u.setOpKind n (.copy { j' with lines := j'.lines.erase (team, line) })).lowerLine (team, line) := by
  have hgo : (!s.copyReady o j || !j.lines.contains (team, line)) = false := by
    rw [hr, List.contains_iff_mem.2 hm]
    rfl
  unfold State.lineArrival
  rw [ho]
  dsimp only
  rw [hk]
  refine (if_neg (Bool.eq_false_iff.1 hgo)).trans ?_
  split
  · next u' i hu => cases (show (u', i, none) = (u, j', none) from hu.symm.trans hw); rfl
  · next u' i x hu => cases (show (u', i, some x) = (u, j', none) from hu.symm.trans hw)

/-- Settles O45: what each step of a copy is, by how its chunks are written. -/
theorem copySteps : Obligations.CopySteps := by
  intro s n o j ho hk hr lowered ended
  refine ⟨fun hs => ⟨?_, ?_⟩, fun hs => ?_, fun u j' hw => State.copyComplete_done ho hk hr hw,
    fun u j' c f off hw => ⟨State.copyComplete_hindered ho hk hr hw, State.copyFault_faults ho hk hr hw⟩,
    fun u j' team line hm hw => congrArg _ (State.lineArrival_of ho hk hr hm hw)⟩
  · exact congrArg _ (if_neg (mt (State.isZeroing_iff ho hk).1 hs))
  · exact congrArg _ (if_neg (mt (State.isZeroing_iff ho hk).1 hs))
  · exact congrArg _ (if_pos ((State.isZeroing_iff ho hk).2 hs))

end Sys2Proof.Machine
end

section
/-!
PROOFS. The ends of engine operations, the retirement of tap tables and the end of a walk (R247, R274, R280 to R283, R292,
R306).
-/

namespace Sys2Proof.Machine

variable {s u : State} {n : Nat} {o : Op}

/-! ## Maintenance operations -/

theorem State.kvEnd_ok {j : KvJob} {st : KvStat} (ho : s.op? n = some o) (hk : o.kind = .kv j) (hr : s.engineReady j.core n = true)
    (ha : State.scriptAway (s.engOf o j.fn j.priv) (j.script.resume j.log) s = false)
    (hs : State.runScript (s.engOf o j.fn j.priv) (j.script.resume j.log) s = (u, .ok st)) :
    s.kvEnd n = u.completeOp o [st.word] none := by
  unfold State.kvEnd
  rw [ho]
  dsimp only
  rw [hk]
  dsimp only
  rw [hr, ha, hs]
  rfl

theorem State.kvEnd_error {j : KvJob} {f : EngFault} (ho : s.op? n = some o) (hk : o.kind = .kv j) (hr : s.engineReady j.core n = true)
    (ha : State.scriptAway (s.engOf o j.fn j.priv) (j.script.resume j.log) s = false)
    (hs : State.runScript (s.engOf o j.fn j.priv) (j.script.resume j.log) s = (u, .error f)) :
    s.kvEnd n = u.completeOp o [] (some (engineTrap j.core 0 0 4 f)) := by
  unfold State.kvEnd
  rw [ho]
  dsimp only
  rw [hk]
  dsimp only
  rw [hr, ha, hs]
  rfl

/-! ## Attention calls -/

theorem AttnJob.trapOf_eq (j : AttnJob) (e : AttnStop) : j.trapOf e = match e.fault with
    | some f => some (engineTrap j.core 0 0 3 f)
    | none => if e.status = 5 ∧ j.nanTrap = true then some { cause := .nanfirst, addr := 0, info := BitVec.ofNat 64 e.fblk } else none := by
  unfold AttnJob.trapOf
  cases e.fault with
  | some f => rfl
  | none => exact if_congr (by rw [Bool.and_eq_true, decide_eq_true_eq]) rfl rfl

theorem State.attnEnd_ok {j : AttnJob} {r : CallEnd} (ho : s.op? n = some o) (hk : o.kind = .attn j)
    (hr : s.engineReady j.core n = true) (ha : State.scriptAway (s.attnEng o j) (j.script.resume j.log) s = false)
    (hs : State.runScript (s.attnEng o j) (j.script.resume j.log) s = (u, .ok r)) :
    s.attnEnd n = u.completeOpBoth o r.words (j.trapOf r.stop) := by
  unfold State.attnEnd
  rw [ho]
  dsimp only
  rw [hk]
  dsimp only
  rw [hr, ha, hs]
  rfl

theorem State.attnEnd_error {j : AttnJob} {f : EngFault} (ho : s.op? n = some o) (hk : o.kind = .attn j)
    (hr : s.engineReady j.core n = true) (ha : State.scriptAway (s.attnEng o j) (j.script.resume j.log) s = false)
    (hs : State.runScript (s.attnEng o j) (j.script.resume j.log) s = (u, .error f)) :
    s.attnEnd n = u.completeOp o [] (some (engineTrap j.core 0 0 3 f)) := by
  unfold State.attnEnd
  rw [ho]
  dsimp only
  rw [hk]
  dsimp only
  rw [hr, ha, hs]
  rfl

/-! ## Taps -/

/-- The end of a tap whose turn has come, by how its script ends. -/
theorem State.tapEnd_of {j : TapJob} {g : TapGen} (ho : s.op? n = some o) (hk : o.kind = .tap j) (hr : s.engineReady j.core n = true)
    (hg : s.genOf j = some g) (ha : State.scriptAway (s.engOf o j.fn j.priv) ((j.script g).resume j.log) s = false) :
    (∀ u r, State.runScript (s.engOf o j.fn j.priv) ((j.script g).resume j.log) s = (u, .ok r) →
      s.tapEnd n = u.completeOp o [] (if r.nhit = 0 then none
        else some { cause := .taphit, addr := 0, info := tapInfo r.nhit j.point r.probe })) ∧
    (∀ u f, State.runScript (s.engOf o j.fn j.priv) ((j.script g).resume j.log) s = (u, .error f) →
      s.tapEnd n = u.completeOp o [] (some (engineTrap j.core 0 0 5 f))) := by
  unfold State.tapEnd
  rw [ho]
  dsimp only
  rw [hk]
  dsimp only
  rw [hr, hg]
  dsimp only
  rw [ha]
  refine ⟨fun u r hs => ?_, fun u f hs => ?_⟩
  · rw [hs]; rfl
  · rw [hs]; rfl

theorem State.tapRetire_of {new old : TapGen} (h : s.tapGens = [new, old]) :
    s.tapRetire = if s.tapRuns old.gen then s else State.tapInstall { s with tapGens := [new] } := by
  unfold State.tapRetire
  rw [h]

/-! ## Walks -/

/-- A walk that is over leaves its context: without it, and its flushed bytes counted unless a fault stopped it. -/
def State.leaveWalk (s : State) (w : Walker) : State :=
  let left : State := { s with walkers := s.walkers.filter (fun x => x.op ≠ w.op) }
  match w.obj with
  | some b => if w.stopped = none ∧ 0 < w.counted then left.barCount w.team b w.counted else left
  | none => left

theorem State.spokeComplete_of {ctx : Nat} {w : Walker} (hf : s.walkers.find? (fun w => w.ctx = ctx) = some w)
    (hend : w.halted = true ∨ w.stopped ≠ none) (hp : w.posted = []) (ho : (s.leaveWalk w).op? w.op = some o) :
    s.spokeComplete ctx = ((((s.leaveWalk w).modThread w.team w.thr (fun th =>
      { th with held := th.held ++ w.leaves.map (fun t => ({ flag := o.flag, order := o.id, trap := t } : Deferred)) })).completeOp
        o [] none).handContexts) := by
  have hover : (!(w.halted || w.stopped.isSome) || !w.posted.isEmpty) = false := by
    rw [hp, Bool.or_eq_false_iff, Bool.not_eq_false', Bool.or_eq_true, Option.isSome_iff_ne_none]
    exact ⟨hend, rfl⟩
  have hleft : (match w.obj with
      | some b => if w.stopped.isNone && decide (0 < w.counted) then
          ({ s with walkers := s.walkers.filter (fun x => x.op ≠ w.op) } : State).barCount w.team b w.counted
        else { s with walkers := s.walkers.filter (fun x => x.op ≠ w.op) }
      | none => { s with walkers := s.walkers.filter (fun x => x.op ≠ w.op) }) = s.leaveWalk w := by
    unfold State.leaveWalk
    cases w.obj with
    | none => rfl
    | some b => exact if_congr (by rw [Bool.and_eq_true, decide_eq_true_eq, Option.isNone_iff_eq_none]) rfl rfl
  unfold State.spokeComplete
  rw [hf]
  refine (if_neg (Bool.eq_false_iff.1 hover)).trans (congrArg State.handContexts ?_)
  split
  · next o' ho' =>
    have hsame : some o' = some o := ho'.symm.trans ((congrArg (State.op? · w.op) hleft).trans ho)
    cases hsame
    exact congrArg (fun v : State => (v.modThread w.team w.thr (fun th =>
      { th with held := th.held ++ w.leaves.map (fun t => ({ flag := o.flag, order := o.id, trap := t } : Deferred)) })).completeOp
        o [] none) hleft
  · next ho' =>
    have hno : none = some o := ho'.symm.trans ((congrArg (State.op? · w.op) hleft).trans ho)
    cases hno

/-- Settles O46: the end of each kind of engine operation. -/
theorem engineSteps : Obligations.EngineSteps := by
  refine ⟨fun s n o j ho hk hr ha => ⟨fun u st hs => ?_, fun u f hs => ?_⟩,
    fun s n o j ho hk hr ha => ⟨fun u r hs => ?_, fun u f hs => ?_⟩,
    fun s n o j g ho hk hr hg ha => ⟨fun u r hs => ?_, fun u f hs => ?_⟩,
    fun s new old hg => ⟨fun ht => ?_, fun ht => ?_⟩, fun s ctx w o hf hend hp ho => ?_⟩
  · exact congrArg _ (State.kvEnd_ok ho hk hr ha hs)
  · exact congrArg _ (State.kvEnd_error ho hk hr ha hs)
  · exact congrArg _ ((State.attnEnd_ok ho hk hr ha hs).trans (congrArg _ (AttnJob.trapOf_eq j r.stop)))
  · exact congrArg _ (State.attnEnd_error ho hk hr ha hs)
  · exact congrArg _ ((State.tapEnd_of ho hk hr hg ha).1 u r hs)
  · exact congrArg _ ((State.tapEnd_of ho hk hr hg ha).2 u f hs)
  · exact congrArg _ ((State.tapRetire_of hg).trans (if_pos ht))
  · exact congrArg _ ((State.tapRetire_of hg).trans (if_neg (Bool.eq_false_iff.1 ht)))
  · exact congrArg _ (State.spokeComplete_of hf hend hp ho)

end Sys2Proof.Machine
end

section
/-!
PROOFS. The steps of a matrix engine (R24, R255, R257, R259, R260, R262, R264 to R266).
-/

namespace Sys2Proof.Machine

/-! ## Grant and promotion -/

/-- A granted call reads its columns, and the entries that it passed over count it. -/
def State.granted (s : State) (c : MxCall) : MxRun :=
  let cols := c.signers.map (fun g => (g.col, s.columnOf g c.desc.nb))
  { call := { c with cols := cols.map (fun p => (p.1, p.2.getD [])) }
    buf := none, pass := 0, stop := if cols.any (fun p => p.2.isNone) then some .poison else none, status := 0 }

theorem State.mmaGrant_of {s : State} {hub : Nat} {c : MxCall} (hr : (s.engine hub).running = none)
    (hc : nextGrant (s.liveTable hub) = some c) (hready : s.callReady c = true) :
    ∃ table, s.mmaGrant hub = (
      let u := s.setEngine hub { s.engine hub with table := table, running := some (s.granted c) }
      match c.join with
      | some (h, n) => (c.signers.foldl (fun u g => u.modThread g.team g.thr (Thread.outcome n .done)) u).joinIdle h n
      | none => u) := by
  unfold State.mmaGrant
  dsimp only
  rw [hr, hc]
  dsimp only
  rw [if_neg (by rw [hready]; decide)]
  exact ⟨_, rfl⟩

theorem grant_cases (s : State) (hub : Nat) (c : MxCall) (hr : (s.engine hub).running = none)
    (hc : nextGrant (s.liveTable hub) = some c) (hready : s.callReady c = true) :
    ∃ (table : List MxCall) (run : MxRun), run.call.id = c.id ∧ run.pass = 0 ∧ run.buf = none ∧
      exec (.mmaGrant hub) s = .next (
        let u := s.setEngine hub { s.engine hub with table := table, running := some run }
        match c.join with
        | some (h, n) => (c.signers.foldl (fun u g => u.modThread g.team g.thr (Thread.outcome n .done)) u).joinIdle h n
        | none => u) := by
  obtain ⟨table, ht⟩ := State.mmaGrant_of hr hc hready
  exact ⟨table, s.granted c, rfl, rfl, rfl, congrArg Host.Outcome.next ht⟩

/-! ## The end of a call -/

theorem MxRun.over_iff (r : MxRun) : r.over' = true ↔ r.stop ≠ none ∨ r.call.desc.passes ≤ r.pass := by
  unfold MxRun.over'
  rw [Bool.or_eq_true, decide_eq_true_eq, Option.isSome_iff_ne_none]

theorem State.mmaCallEnd_of {s u : State} {hub n : Nat} {r r' : MxRun} (hr : (s.engine hub).running = some r)
    (hu : State.runPasses (r.call.desc.passes + 1) s hub = u) (hr' : (u.engine hub).running = some r') (hb : r'.buf = some n)
    (ho : r'.stop ≠ none ∨ r'.call.desc.passes ≤ r'.pass) (hs : u.statusReady r'.call = true) :
    s.mmaCallEnd hub = u.endCall hub r' n := by
  unfold State.mmaCallEnd
  rw [hr]
  dsimp only
  rw [hu, hr']
  dsimp only
  rw [hb]
  exact if_pos (by rw [Bool.and_eq_true]; exact ⟨(MxRun.over_iff r').2 ho, hs⟩)

/-- A call with `FLUSH` or a stop leaves its buffer to be flushed. -/
theorem State.endCall_flush {u : State} {r : MxRun} (h : r.call.desc.flush = true ∨ r.stop ≠ none) (hub n : Nat) :
    u.endCall hub r n = ({ u.tileFree r.call with nextId := u.nextId + 1 } : State).setEngine hub
      (({ u.engine hub with running := none } : MxEngine).modBuf n (fun b =>
        { b with phase := .flushing, order := u.nextId, ends := true, status := r.status, next := 0, stop := r.stop, call := r.call })) := by
  unfold State.endCall
  exact if_pos (by rw [Bool.or_eq_true, Option.isSome_iff_ne_none]; exact h)

/-- Any other call leaves its buffer held, and completes. -/
theorem State.endCall_held {u : State} {r : MxRun} (h : r.call.desc.flush = false) (hs : r.stop = none) (hub n : Nat) :
    u.endCall hub r n = ((({ u.tileFree r.call with nextId := u.nextId + 1 } : State).setEngine hub
      (({ u.engine hub with running := none } : MxEngine).modBuf n (fun b =>
        { b with phase := .held, order := u.nextId, ends := false, stop := none }))).orStatus r.call r.status).completeCall r.call [] true := by
  unfold State.endCall
  exact if_neg (by rw [h, hs]; decide)

theorem callEnd_cases (s : State) (hub n : Nat) (r r' : MxRun) (hr : (s.engine hub).running = some r) :
    let u := State.runPasses (r.call.desc.passes + 1) s hub
    (u.engine hub).running = some r' → r'.buf = some n → r'.stop ≠ none ∨ r'.call.desc.passes ≤ r'.pass →
    u.statusReady r'.call = true →
    let v : State := { u.tileFree r'.call with nextId := u.nextId + 1 }
    let free : MxEngine := { u.engine hub with running := none }
    (r'.call.desc.flush = true ∨ r'.stop ≠ none → exec (.mmaCallEnd hub) s = .next (v.setEngine hub (free.modBuf n (fun b =>
      { b with phase := .flushing, order := u.nextId, ends := true, status := r'.status, next := 0, stop := r'.stop, call := r'.call })))) ∧
    (r'.call.desc.flush = false → r'.stop = none → exec (.mmaCallEnd hub) s =
      .next (((v.setEngine hub (free.modBuf n (fun b => { b with phase := .held, order := u.nextId, ends := false, stop := none }))).orStatus
        r'.call r'.status).completeCall r'.call [] true)) := by
  intro u hr' hb ho hs v free
  have hend := State.mmaCallEnd_of (u := u) hr rfl hr' hb ho hs
  exact ⟨fun h => congrArg Host.Outcome.next (hend.trans (State.endCall_flush h hub n)),
    fun h hstop => congrArg Host.Outcome.next (hend.trans (State.endCall_held h hstop hub n))⟩

/-! ## Evictions and flushes -/

theorem State.evict_held {s : State} {hub n : Nat} (h : ∃ b ∈ (s.engine hub).bufs, b.id = n ∧ b.phase = .held) :
    s.evict hub n = { s.modEngine hub (fun e => e.modBuf n (MxBuf.flushFrom s.nextId false 0)) with nextId := s.nextId + 1 } := by
  obtain ⟨b, hb, hid, hp⟩ := h
  unfold State.evict
  exact if_pos (List.any_eq_true.2 ⟨b, hb, by rw [decide_eq_true hid, decide_eq_true hp]; rfl⟩)

theorem State.flushAll_eq (n : Nat) (s : State) (hub id : Nat) :
    State.flushAll n s hub id = (List.range n).foldl (fun u _ => u.flushStep hub id) s := by
  induction n generalizing s with
  | zero => rfl
  | succ n ih =>
    rw [List.range_succ_eq_map, List.foldl_cons, List.foldl_map]
    exact ih _

theorem State.flushStep_of {s : State} {hub n : Nat} {b : MxBuf} {k : Nat}
    (hf : (s.engine hub).bufs.find? (fun b => b.id = n && decide (b.phase = .flushing)) = some b) (hn : b.next < 4096)
    (hk : s.sectorFault b (b.sectorAddr b.next) = .ok k) :
    s.flushStep hub n = (s.sectorWrite b.call k (b.addSector (4 * b.next) (s.bytesAt k 32)).1).modEngine hub (fun e =>
      e.modBuf n (fun x => { x with next := x.next + 1, status := x.status ||| (b.addSector (4 * b.next) (s.bytesAt k 32)).2 })) := by
  unfold State.flushStep
  rw [hf]
  refine (if_neg (Nat.not_le.2 hn)).trans ?_
  dsimp only
  rw [hk]

/-- Settles O47: each step of a matrix engine. -/
theorem matrixSteps : Obligations.MatrixSteps :=
  ⟨grant_cases, fun _ _ _ => rfl, callEnd_cases, fun _ _ _ h => congrArg Host.Outcome.next (State.evict_held h),
    fun s hub n => congrArg Host.Outcome.next (State.flushAll_eq 4097 s hub n), fun _ _ _ _ hf hn _ hk => State.flushStep_of hf hn hk⟩

end Sys2Proof.Machine
end

section
/-!
PROOFS. Queues, packets and their examination, placement, and completion signals (R312 to R320, R347, R349, R360).
-/

namespace Sys2Proof.Machine

/-! ## Writes of a queue's registers -/

theorem onQueue_of {s : State} {key : Nat} (hk : key < 17 * 128) (hq : key % 128 < 80) (f : Queue → State) :
    onQueue s key f = .next (f (s.queue key)) := by
  unfold onQueue queueExists
  rw [decide_eq_true hk, decide_eq_true hq]
  rfl

theorem State.queueError_of {s : State} {key : Nat} (hk : key < 17 * 128) (code : BitVec 8) : s.queueError key code =
    (s.setQueue { s.queue key with err := true, ecode := code }).send (.irq (key / 128) (if key % 128 < 16 then key % 128 else 16)) := by
  unfold State.queueError State.queueIrq
  exact if_pos hk

theorem register_cases (s : State) (key : Nat) (hk : key < 17 * 128) (hx : key % 128 < 80) :
    let q := s.queue key
    let refused (code : BitVec 8) : State :=
      (s.setQueue { q with err := true, ecode := code }).send (.irq (key / 128) (if key % 128 < 16 then key % 128 else 16))
    (∀ v : DWord, (v.toNat % 64 ≠ 0 → exec (.qbaseWrite key v) s = .next (refused 0x0A#8)) ∧
      (v.toNat % 64 = 0 → exec (.qbaseWrite key v) s = .next (s.setQueue { q with base := v }))) ∧
    (∀ v : Word,
      let size := fieldOf' v 0 5
      (size < 1 ∨ 16 < size ∨ fieldOf' v 5 26 ≠ 0 → exec (.qlog2Write key v) s = .next (refused 0x0A#8)) ∧
      (1 ≤ size → size ≤ 16 → fieldOf' v 5 26 = 0 →
        exec (.qlog2Write key v) s = .next (s.setQueue { q with en := v.msb, log2 := size }))) ∧
    (q.log2 = 0 → exec (.queueEnable key) s = .next (refused 0x0A#8)) ∧
    (q.log2 ≠ 0 → exec (.queueEnable key) s = .next (s.setQueue { q with en := true })) ∧
    (∀ v : DWord,
      (v.toNat < q.tail.toNat ∨ q.head.toNat + 2 ^ q.log2 < v.toNat → exec (.qtailWrite key v) s = .next (refused 0x08#8)) ∧
      (q.tail.toNat ≤ v.toNat → v.toNat ≤ q.head.toNat + 2 ^ q.log2 →
        exec (.qtailWrite key v) s = .next (s.setQueue { q with tail := v }))) ∧
    exec (.errClear key) s = .next (s.setQueue { q with err := false }) := by
  intro q refused
  have hr (code : BitVec 8) : s.queueError key code = refused code := State.queueError_of hk code
  have hbase (v : DWord) : exec (.qbaseWrite key v) s =
      .next (if v.toNat % 64 ≠ 0 then s.queueError key 0x0A#8 else s.setQueue { q with base := v }) := by
    rw [exec_qbaseWrite]
    unfold execQbaseWrite
    exact onQueue_of hk hx _
  have hlog2 (v : Word) : exec (.qlog2Write key v) s =
      .next (if fieldOf' v 0 5 < 1 ∨ 16 < fieldOf' v 0 5 ∨ fieldOf' v 5 26 ≠ 0 then s.queueError key 0x0A#8
        else s.setQueue { q with en := v.msb, log2 := fieldOf' v 0 5 }) := by
    rw [exec_qlog2Write]
    unfold execQlog2Write
    exact onQueue_of hk hx _
  have henable : exec (.queueEnable key) s =
      .next (if q.log2 < 1 then s.queueError key 0x0A#8 else s.setQueue { q with en := true }) := by
    rw [exec_queueEnable]
    unfold execQueueEnable
    exact onQueue_of hk hx _
  have htail (v : DWord) : exec (.qtailWrite key v) s =
      .next (if v.toNat < q.tail.toNat ∨ q.head.toNat + 2 ^ q.log2 < v.toNat then s.queueError key 0x08#8
        else s.setQueue { q with tail := v }) := by
    rw [exec_qtailWrite]
    unfold execQtailWrite
    exact onQueue_of hk hx _
  refine ⟨fun v => ⟨fun h => ?_, fun h => ?_⟩, fun v => ⟨fun h => ?_, fun h1 h2 h3 => ?_⟩, fun h => ?_, fun h => ?_,
    fun v => ⟨fun h => ?_, fun h1 h2 => ?_⟩, onQueue_of hk hx (fun x => s.setQueue { x with err := false })⟩
  · rw [hbase, if_pos h, hr]
  · rw [hbase, if_neg (not_not_intro h)]
  · rw [hlog2, if_pos h, hr]
  · have hno : ¬(fieldOf' v 0 5 < 1 ∨ 16 < fieldOf' v 0 5 ∨ fieldOf' v 5 26 ≠ 0) := by
      rintro (h | h | h)
      · exact absurd h (Nat.not_lt.2 h1)
      · exact absurd h (Nat.not_lt.2 h2)
      · exact h h3
    rw [hlog2, if_neg hno]
  · rw [henable, if_pos (Nat.lt_one_iff.2 h), hr]
  · rw [henable, if_neg (mt Nat.lt_one_iff.1 h)]
  · rw [htail, if_pos h, hr]
  · rw [htail, if_neg (not_or.2 ⟨Nat.not_lt.2 h1, Nat.not_lt.2 h2⟩)]

/-! ## The next packet -/

/-- The next packet of an enabled queue without one, as it is read. -/
theorem State.packetRead_of {s : State} {key : Nat} (he : (s.queue key).en = true) (hc : (s.queue key).cur = none)
    (hx : queueExists key = true) (hn : (s.queue key).head.toNat < (s.queue key).tail.toNat) (hm : s.mgmt.state ≠ 2) :
    let q := s.queue key
    let n := q.head.toNat
    let taken : Queue := { q with head := q.head + 1, posted := q.posted.filter (fun x => x.1 ≠ n) }
    let poster := (q.posted.find? (fun x => x.1 = n)).map (fun x => (x.2.1, x.2.2))
    let slot := q.base + BitVec.ofNat 64 (64 * (n % 2 ^ q.log2))
    let v := s.askHost (s.deviceKeys q.fn slot 64)
    (s.readAway (s.deviceKeys q.fn slot 64) = true → s.packetRead key = s) ∧
    (s.readAway (s.deviceKeys q.fn slot 64) = false →
      (s.deviceRead q.fn slot 64 = none → s.packetRead key = v.reject taken (.new n (List.replicate 64 0) poster 0) 0x03#8) ∧
      (∀ bs, s.deviceRead q.fn slot 64 = some bs → s.packetRead key = v.takePacket taken (.new n bs poster 0))) := by
  have hgo : (!(s.queue key).en || (s.queue key).cur.isSome || !queueExists key ||
      decide ((s.queue key).tail.toNat ≤ (s.queue key).head.toNat) || decide (s.mgmt.state = 2)) = false := by
    rw [he, hc, hx, decide_eq_false (Nat.not_le.2 hn), decide_eq_false hm]
    rfl
  unfold State.packetRead
  dsimp only
  rw [if_neg (Bool.eq_false_iff.1 hgo)]
  refine ⟨fun h => if_pos h, fun h => ?_⟩
  rw [if_neg (Bool.eq_false_iff.1 h)]
  exact ⟨fun hd => by rw [hd] <;> rfl, fun bs hd => by rw [hd]⟩

theorem State.takePacket_error {s : State} {q : Queue} {p : Packet} {c : BitVec 8} (h : p.fieldError = some c) :
    s.takePacket q p = s.reject q p c := by
  unfold State.takePacket
  rw [h]

theorem State.takePacket_legal {s : State} {q : Queue} {p : Packet} (h : p.fieldError = none) :
    s.takePacket q p = if p.ndep = 0 then s.examineQueue q p else s.setQueue { q with cur := some p } := by
  unfold State.takePacket
  rw [h]

theorem packet_cases (s : State) (key : Nat) :
    let q := s.queue key
    let n := q.head.toNat
    let taken : Queue := { q with head := q.head + 1, posted := q.posted.filter (fun x => x.1 ≠ n) }
    let poster := (q.posted.find? (fun x => x.1 = n)).map (fun x => (x.2.1, x.2.2))
    let slot := q.base + BitVec.ofNat 64 (64 * (n % 2 ^ q.log2))
    let v := s.askHost (s.deviceKeys q.fn slot 64)
    q.en = true → q.cur = none → queueExists key = true → n < q.tail.toNat → s.mgmt.state ≠ 2 →
    (s.readAway (s.deviceKeys q.fn slot 64) = true → exec (.packetRead key) s = .next s) ∧
    (s.readAway (s.deviceKeys q.fn slot 64) = false →
    (s.deviceRead q.fn slot 64 = none →
      exec (.packetRead key) s = .next (v.reject taken (.new n (List.replicate 64 0) poster 0) 0x03#8)) ∧
    (∀ bs, s.deviceRead q.fn slot 64 = some bs →
      (∀ c, (Packet.new n bs poster 0).fieldError = some c →
        exec (.packetRead key) s = .next (v.reject taken (.new n bs poster 0) c)) ∧
      ((Packet.new n bs poster 0).fieldError = none → (Packet.new n bs poster 0).ndep ≠ 0 →
        exec (.packetRead key) s = .next (v.setQueue { taken with cur := some (.new n bs poster 0) })) ∧
      ((Packet.new n bs poster 0).fieldError = none → (Packet.new n bs poster 0).ndep = 0 →
        exec (.packetRead key) s = .next (v.examineQueue taken (.new n bs poster 0))))) := by
  intro q n taken poster slot v he hc hx hn hm
  obtain ⟨haway, hread⟩ := State.packetRead_of he hc hx hn hm
  refine ⟨fun h => congrArg Host.Outcome.next (haway h), fun h => ?_⟩
  obtain ⟨hnone, hsome⟩ := hread h
  refine ⟨fun hd => congrArg Host.Outcome.next (hnone hd), fun bs hd => ⟨fun c hf => ?_, fun hf hdep => ?_, fun hf hdep => ?_⟩⟩
  · exact congrArg Host.Outcome.next ((hsome bs hd).trans (State.takePacket_error hf))
  · exact congrArg Host.Outcome.next ((hsome bs hd).trans ((State.takePacket_legal hf).trans (if_neg hdep)))
  · exact congrArg Host.Outcome.next ((hsome bs hd).trans ((State.takePacket_legal hf).trans (if_pos hdep)))

theorem poll_of (s : State) (key : Nat) (p : Packet) (hc : (s.queue key).cur = some p) (hp : p.checked = false) :
    exec (.dependencePoll key) s = .next (s.examineQueue (s.queue key) p) := by
  rw [exec_dependencePoll]
  unfold execDependencePoll
  rw [hc]
  exact congrArg Host.Outcome.next (if_neg (Bool.eq_false_iff.1 hp))

/-! ## An examination -/

theorem State.askHost_nextId (s : State) (keys : List Nat) : (s.askHost keys).nextId = s.nextId := by
  unfold State.askHost
  generalize ((keys.filter keyHost).map (fun k => lineOf k * 128)).eraseDups = ks
  induction ks generalizing s with
  | nil => rfl
  | cons k ks ih => exact (ih _).trans (by obtain ⟨o, ho⟩ := State.sendHost_eq s k; rw [ho])

theorem State.examineQueue_ok {s : State} {q : Queue} {p p' : Packet} (ha : s.readAway (s.examineKeys q.fn p) = false)
    (he : s.examine q.fn p = .ok p') :
    s.examineQueue q p = ((s.askHost (s.examineKeys q.fn p)).holdPacket q p').placement q.key := by
  unfold State.examineQueue
  dsimp only
  rw [if_neg (Bool.eq_false_iff.1 ha), he]

theorem State.holdPacket_legal {s : State} {p : Packet} (hc : p.checked = true) (hm : p.met = none) (q : Queue) :
    s.holdPacket q p = { s.setQueue { q with cur := some { p with met := some s.nextId } } with nextId := s.nextId + 1 } := by
  unfold State.holdPacket
  exact if_pos (by rw [hc, hm]; rfl)

theorem State.holdPacket_other {s : State} {p : Packet} (h : p.checked = false ∨ p.met ≠ none) (q : Queue) :
    s.holdPacket q p = s.setQueue { q with cur := some p } := by
  unfold State.holdPacket
  refine if_neg ?_
  rw [Bool.and_eq_true, Option.isNone_iff_eq_none]
  rintro ⟨hc, hm⟩
  obtain h | h := h
  · exact Bool.false_ne_true (h.symm.trans hc)
  · exact h hm

theorem State.reject_own {s : State} {q : Queue} {p : Packet} (h : p.parent = 0) (code : BitVec 8) :
    s.reject q p code = ((s.setQueue { q with
      err := true, ecode := code, epkt := BitVec.ofNat 64 p.no, en := false, cur := none, reserved := [] }).queueIrq q.key).takeFreed := by
  unfold State.reject
  exact if_pos h

theorem State.reject_child {s : State} {q : Queue} {p : Packet} {o : Op} (h : p.parent ≠ 0) (code : BitVec 8)
    (ho : (s.dropQueue q.key).takeFreed.op? p.parent = some o) :
    s.reject q p code = (s.dropQueue q.key).takeFreed.completeOp o [code.zeroExtend 32] none := by
  unfold State.reject
  rw [if_neg h]
  dsimp only
  rw [ho]

theorem examine_cases (s : State) (q : Queue) (p : Packet) :
    let away := s.readAway (s.examineKeys q.fn p)
    let v := s.askHost (s.examineKeys q.fn p)
    (away = true → s.examineQueue q p = s.setQueue { q with cur := some p }) ∧
    (∀ c, away = false → s.examine q.fn p = .error c → s.examineQueue q p = v.reject q p c) ∧
    (∀ p', away = false → s.examine q.fn p = .ok p' →
      (p'.checked = true → p'.met = none → s.examineQueue q p = State.placement { v.setQueue { q with
        cur := some { p' with met := some s.nextId } } with nextId := s.nextId + 1 } q.key) ∧
      (p'.checked = false ∨ p'.met ≠ none →
        s.examineQueue q p = State.placement (v.setQueue { q with cur := some p' }) q.key)) ∧
    (∀ code, p.parent = 0 → s.reject q p code = ((s.setQueue { q with
      err := true, ecode := code, epkt := BitVec.ofNat 64 p.no, en := false, cur := none, reserved := [] }).queueIrq q.key).takeFreed) ∧
    (∀ code o, p.parent ≠ 0 → (s.dropQueue q.key).takeFreed.op? p.parent = some o →
      s.reject q p code = (s.dropQueue q.key).takeFreed.completeOp o [code.zeroExtend 32] none) := by
  intro away v
  refine ⟨fun ha => ?_, fun c ha he => ?_, fun p' ha he => ⟨fun hc hm => ?_, fun h => ?_⟩, fun code h => State.reject_own h code,
    fun code o h ho => State.reject_child h code ho⟩
  · unfold State.examineQueue
    exact if_pos ha
  · unfold State.examineQueue
    dsimp only
    rw [if_neg (Bool.eq_false_iff.1 ha), he]
  · rw [State.examineQueue_ok ha he, State.holdPacket_legal hc hm, State.askHost_nextId]
  · rw [State.examineQueue_ok ha he, State.holdPacket_other h]

/-! ## Placement -/

theorem State.fitsNow_of {s : State} {key : Nat} {p : Packet} (hq : (s.queue key).cur = some p) (hc : p.checked = true) :
    s.fitsNow key = s.hasRoom key p (s.physMap p.map) := by
  unfold State.fitsNow
  rw [hq]
  dsimp only
  rw [hc, Bool.true_and]

theorem State.reserve_of {s : State} {key : Nat} {p : Packet} (hq : (s.queue key).cur = some p) (hc : p.checked = true) :
    s.reserve key = s.setQueue { s.queue key with
      reserved := (s.queue key).reserved ++
        (s.physMap p.map).eraseDups.filter (fun c => !(s.queue key).reserved.contains c && !s.reservedElse key c) } := by
  unfold State.reserve
  dsimp only
  rw [hq]
  exact if_neg (by rw [hc]; decide)

theorem State.placement_of {s : State} {key : Nat} {p : Packet} (hq : (s.queue key).cur = some p) (hc : p.checked = true)
    (hm : s.mgmt.state ≠ 2) (hf : s.mgmt.fencing = []) : s.placement key =
      if s.fitsNow key then
        (if (s.waitingQueues.find? s.fitsNow) = some key then (s.place (s.queue key) p (s.physMap p.map)).takeFreed else s)
      else s.reserve key := by
  have hn : (!p.checked || s.placesNone) = false := by
    unfold State.placesNone
    rw [hc, decide_eq_false hm, hf]
    rfl
  unfold State.placement
  dsimp only
  rw [hq]
  exact if_neg (Bool.eq_false_iff.1 hn)

theorem placement_cases (s : State) (key : Nat) (p : Packet) (hq : (s.queue key).cur = some p) (hc : p.checked = true)
    (hm : s.mgmt.state ≠ 2) (hf : s.mgmt.fencing = []) :
    (s.hasRoom key p (s.physMap p.map) = true →
      (s.waitingQueues.find? s.fitsNow = some key →
        exec (.placement key) s = .next (s.place (s.queue key) p (s.physMap p.map)).takeFreed) ∧
      (s.waitingQueues.find? s.fitsNow ≠ some key → exec (.placement key) s = .next s)) ∧
    (s.hasRoom key p (s.physMap p.map) = false → exec (.placement key) s = .next (s.setQueue { s.queue key with
      reserved := (s.queue key).reserved ++
        (s.physMap p.map).eraseDups.filter (fun c => !(s.queue key).reserved.contains c && !s.reservedElse key c) })) := by
  have hstep := State.placement_of hq hc hm hf
  have hfit := State.fitsNow_of hq hc
  refine ⟨fun hr => ⟨fun h => ?_, fun h => ?_⟩, fun hr => ?_⟩
  · exact congrArg _ (hstep.trans ((if_pos (hfit.trans hr)).trans (if_pos h)))
  · exact congrArg _ (hstep.trans ((if_pos (hfit.trans hr)).trans (if_neg h)))
  · exact congrArg _ (hstep.trans ((if_neg (Bool.eq_false_iff.1 (hfit.trans hr))).trans (State.reserve_of hq hc)))

/-! ## Completion signals -/

/-- A grid is marked as ended. -/
def State.endGrid (s : State) (n : Nat) : State := { s with grids := s.grids.modify n (fun g => { g with ended := true }) }

/-- What becomes of a completed grid whose signal was written, and of one whose signal was not. -/
def State.signalled (s : State) (g : Grid) : State := if g.parent = 0 then s else s.launchDone g.parent 0x80000000#32

def State.unsignalled (s : State) (g : Grid) : State :=
  if g.parent = 0 then
    (s.setQueue { s.queue g.queue with err := true, ecode := 0x03#8, epkt := BitVec.ofNat 64 g.pktNo }).queueIrq g.queue
  else s.launchDone g.parent 0x80000003#32

theorem State.signalAway_endGrid (s : State) (n : Nat) (g : Grid) : s.signalAway g = (s.endGrid n).signalAway g := rfl

theorem State.csigWrite_of {s : State} {n : Nat} {g : Grid} (hg : s.grids[n]? = some g) (he : g.ended = false)
    (hq : s.gridQuiet g = true) : s.csigWrite n =
      if g.csig ≠ 0 ∧ (s.endGrid n).signalAway g = true then s
      else if g.csig = 0 then (s.endGrid n).signalled g
      else match (s.endGrid n).writeSignal g with
        | some u => u.signalled g
        | none => (s.endGrid n).unsignalled g := by
  have hcond : (g.ended || !s.gridQuiet g || (decide (g.csig ≠ 0) && s.signalAway g)) = true ↔
      (g.csig ≠ 0 ∧ (s.endGrid n).signalAway g = true) := by
    rw [he, hq, State.signalAway_endGrid s n, Bool.or_eq_true, Bool.and_eq_true, decide_eq_true_eq]
    exact or_iff_right Bool.false_ne_true
  unfold State.csigWrite
  rw [hg]
  exact if_congr hcond rfl rfl

theorem State.signalAway_ok {s : State} {g : Grid} {k : Nat} {leaf : Leaf}
    (h : s.translate (deviceWho g.fn) .store g.csig 8 = .ok (k, leaf)) : s.signalAway g = s.hostAway k := by
  unfold State.signalAway
  rw [h]

theorem State.signalAway_error {s : State} {g : Grid} {c : Cause}
    (h : s.translate (deviceWho g.fn) .store g.csig 8 = .error c) : s.signalAway g = false := by
  unfold State.signalAway
  rw [h]

theorem State.writeSignal_error {s : State} {g : Grid} {c : Cause}
    (h : s.translate (deviceWho g.fn) .store g.csig 8 = .error c) : s.writeSignal g = none := by
  unfold State.writeSignal
  rw [h]

theorem State.writeSignal_ok {s : State} {g : Grid} {k : Nat} {leaf : Leaf}
    (h : s.translate (deviceWho g.fn) .store g.csig 8 = .ok (k, leaf)) : s.writeSignal g =
      if (!g.priv && s.seqProtected g.fn g.csig 8) || (keyHost k && decide (s.draw 66 0 % 2 = 1)) then none
      else some ((s.writeMem none k (bytesOfPair g.cval)).sendRemote (g.teams.headD 0) 0 k) := by
  unfold State.writeSignal
  rw [h]

theorem signal_allowed {priv protected' : Bool} : priv = true ∨ protected' = false ↔ (!priv && protected') = false := by
  cases priv <;> cases protected' <;> decide

theorem signal_cases (s : State) (n : Nat) (g : Grid) (hg : s.grids[n]? = some g) (he : g.ended = false)
    (hq : s.gridQuiet g = true) :
    let u : State := { s with grids := s.grids.modify n (fun g => { g with ended := true }) }
    (g.csig = 0 → exec (.csigWrite n) s = .next (if g.parent = 0 then u else u.launchDone g.parent 0x80000000#32)) ∧
    (g.csig ≠ 0 →
      (∀ c, u.translate (deviceWho g.fn) .store g.csig 8 = .error c → exec (.csigWrite n) s = .next (
        if g.parent = 0 then
          (u.setQueue { u.queue g.queue with err := true, ecode := 0x03#8, epkt := BitVec.ofNat 64 g.pktNo }).queueIrq g.queue
        else u.launchDone g.parent 0x80000003#32)) ∧
      (∀ k p, u.translate (deviceWho g.fn) .store g.csig 8 = .ok (k, p) →
        let v := (u.writeMem none k (bytesOfPair g.cval)).sendRemote (g.teams.headD 0) 0 k
        let written := if g.parent = 0 then v else v.launchDone g.parent 0x80000000#32
        let failed := if g.parent = 0 then
            (u.setQueue { u.queue g.queue with err := true, ecode := 0x03#8, epkt := BitVec.ofNat 64 g.pktNo }).queueIrq g.queue
          else u.launchDone g.parent 0x80000003#32
        let allowed := g.priv = true ∨ u.seqProtected g.fn g.csig 8 = false
        (keyHost k = true → u.hostLink = none → exec (.csigWrite n) s = .next s) ∧
        (keyHost k = false ∨ u.hostLink ≠ none → ¬allowed → exec (.csigWrite n) s = .next failed) ∧
        (keyHost k = false → allowed → exec (.csigWrite n) s = .next written) ∧
        (keyHost k = true → u.hostLink ≠ none → allowed →
          exec (.csigWrite n) s = .next written ∨ exec (.csigWrite n) s = .next failed))) := by
  intro u
  have hstep := State.csigWrite_of hg he hq
  refine ⟨fun h0 => ?_, fun h0 => ⟨fun c ht => ?_, fun k p ht => ?_⟩⟩
  · exact congrArg _ (hstep.trans ((if_neg fun h => h.1 h0).trans (if_pos h0)))
  · have hpass : s.csigWrite n = _ :=
      hstep.trans ((if_neg fun h => Bool.false_ne_true ((State.signalAway_error ht).symm.trans h.2)).trans (if_neg h0))
    exact congrArg _ (hpass.trans (by rw [show (s.endGrid n).writeSignal g = none from State.writeSignal_error ht] <;> rfl))
  · intro v written failed allowed
    have haway : (s.endGrid n).signalAway g = u.hostAway k := State.signalAway_ok ht
    have hwrite := State.writeSignal_ok ht
    have hpass (h : u.hostAway k = false) : s.csigWrite n = match (s.endGrid n).writeSignal g with
        | some u => u.signalled g
        | none => (s.endGrid n).unsignalled g :=
      hstep.trans ((if_neg fun h' => Bool.false_ne_true (h.symm.trans (haway.symm.trans h'.2))).trans (if_neg h0))
    have hfail (h : u.hostAway k = false) (hw : u.writeSignal g = none) : exec (.csigWrite n) s = .next failed :=
      congrArg _ ((hpass h).trans (by rw [show (s.endGrid n).writeSignal g = none from hw] <;> rfl))
    have hdone (h : u.hostAway k = false) (hw : u.writeSignal g = some v) : exec (.csigWrite n) s = .next written :=
      congrArg _ ((hpass h).trans (by rw [show (s.endGrid n).writeSignal g = some v from hw] <;> rfl))
    have hnear (h : keyHost k = false ∨ u.hostLink ≠ none) : u.hostAway k = false := by
      unfold State.hostAway
      obtain h | h := h
      · rw [h, Bool.false_and]
      · rw [Option.isNone_eq_false_iff.2 (Option.isSome_iff_ne_none.2 h), Bool.and_false]
    refine ⟨fun hk hl => ?_, fun hn ha => hfail (hnear hn) ?_, fun hk ha => hdone (hnear (.inl hk)) ?_, fun hk hl ha => ?_⟩
    · refine congrArg _ (hstep.trans (if_pos ⟨h0, haway.trans ?_⟩))
      unfold State.hostAway
      rw [hk, hl]
      rfl
    · exact hwrite.trans (if_pos (by rw [Bool.or_eq_true]; exact .inl (eq_true_of_ne_false (mt signal_allowed.2 ha))))
    · exact hwrite.trans (if_neg (by rw [signal_allowed.1 ha, hk]; exact Bool.false_ne_true))
    · by_cases hd : u.draw 66 0 % 2 = 1
      · exact .inr (hfail (hnear (.inr hl)) (hwrite.trans (if_pos (by rw [hk, decide_eq_true hd, Bool.and_self, Bool.or_true]))))
      · exact .inl (hdone (hnear (.inr hl)) (hwrite.trans (if_neg (by rw [signal_allowed.1 ha, decide_eq_false hd, hk]; decide))))

/-- Settles O48: writes of the queue registers, packets from their read to their placement, and completion signals. -/
theorem queueSteps : Obligations.QueueSteps :=
  ⟨register_cases, packet_cases, poll_of, examine_cases, placement_cases, signal_cases⟩

end Sys2Proof.Machine
end

section
/-!
PROOFS. What other devices and the host do to the device's memory (R188, R202, R203, R206, R214, R349).
-/

namespace Sys2Proof.Machine

/-! ## The order of one device's writes -/

theorem half_seqSpan : seqSpan / 2 = 2 ^ 47 := by unfold seqSpan; norm_num

/-- Of the numbers of another device, the one that is next is taken, and one of the half behind it is only acknowledged. -/
theorem State.inTurn_of {s : State} {src : Nat} (ho : src ≠ s.ownNode) (hn : src ≤ 143) (seq : Nat) (f : State → State) :
    let due := Tab.get s.rxSeq src 0
    (seq = due → s.inTurn src seq f = ({ f s with rxSeq := Tab.put s.rxSeq src ((due + 1) % 2 ^ 48) 0 } : State).send (.ack src seq)) ∧
    (seq ≠ due → (due + 2 ^ 48 - seq) % 2 ^ 48 < 2 ^ 47 → s.inTurn src seq f = s.send (.ack src seq)) := by
  intro due
  have hother : ¬(src = s.ownNode ∨ 143 < src) := not_or.2 ⟨ho, Nat.not_lt.2 hn⟩
  unfold State.inTurn
  dsimp only
  rw [if_neg hother]
  refine ⟨fun h => if_pos h, fun h hlt => (if_neg h).trans (if_pos ?_)⟩
  rw [half_seqSpan]
  exact hlt

theorem State.remoteAccess_rmw {acc : AgentAccess} {act : Rmw} (h : rmwOf acc = some act) (s : State) (src seq pa : Nat) (priv : Bool) :
    s.remoteAccess src seq pa acc priv = s.inTurn src seq (fun s =>
      (s.agentRmw pa act priv).1.send (.remoteResult src ((s.agentRmw pa act priv).2.map Prod.snd))) := by
  unfold State.remoteAccess
  cases acc with
  | read n => cases h
  | atomic | cas | casv => dsimp only; rw [h]

theorem remote_cases (s : State) (src seq pa : Nat) (bytes : List Byte) (priv : Bool) (ho : src ≠ s.ownNode) (hn : src ≤ 143) :
    let due := Tab.get s.rxSeq src 0
    let counted (u : State) : State := ({ u with rxSeq := Tab.put s.rxSeq src ((due + 1) % 2 ^ 48) 0 }).send (.ack src seq)
    (seq = due → s.writeRefused pa bytes.length priv = false →
      exec (.remoteWriteArrival src seq pa bytes priv) s = .next (counted (s.writeMem none pa bytes))) ∧
    (seq = due → s.writeRefused pa bytes.length priv = true →
      exec (.remoteWriteArrival src seq pa bytes priv) s = .next (counted s)) ∧
    (seq ≠ due → (due + 2 ^ 48 - seq) % 2 ^ 48 < 2 ^ 47 →
      exec (.remoteWriteArrival src seq pa bytes priv) s = .next (s.send (.ack src seq))) ∧
    (∀ acc act, rmwOf acc = some act →
      (seq = due → exec (.remoteAccessArrival ⟨src, seq⟩ pa acc priv) s = .next (counted
        ((s.agentRmw pa act priv).1.send (.remoteResult src ((s.agentRmw pa act priv).2.map Prod.snd))))) ∧
      (seq ≠ due → (due + 2 ^ 48 - seq) % 2 ^ 48 < 2 ^ 47 →
        exec (.remoteAccessArrival ⟨src, seq⟩ pa acc priv) s = .next (s.send (.ack src seq)))) := by
  intro due counted
  have hwrite : s.remoteWrite src seq pa bytes priv =
      s.inTurn src seq (fun s => if s.writeRefused pa bytes.length priv then s else s.writeMem none pa bytes) := rfl
  refine ⟨fun hs hr => ?_, fun hs hr => ?_, fun hs hlt => ?_, fun acc act ha => ⟨fun hs => ?_, fun hs hlt => ?_⟩⟩
  · refine congrArg Host.Outcome.next ((hwrite.trans ((State.inTurn_of ho hn seq _).1 hs)).trans (congrArg counted ?_))
    exact if_neg (Bool.eq_false_iff.1 hr)
  · refine congrArg Host.Outcome.next ((hwrite.trans ((State.inTurn_of ho hn seq _).1 hs)).trans (congrArg counted ?_))
    exact if_pos hr
  · exact congrArg Host.Outcome.next (hwrite.trans ((State.inTurn_of ho hn seq _).2 hs hlt))
  · exact congrArg Host.Outcome.next ((State.remoteAccess_rmw ha s src seq pa priv).trans ((State.inTurn_of ho hn seq _).1 hs))
  · exact congrArg Host.Outcome.next ((State.remoteAccess_rmw ha s src seq pa priv).trans ((State.inTurn_of ho hn seq _).2 hs hlt))

/-! ## The host -/

theorem host_cases (s : State) (link pa : Nat) (hl : s.linkUp link = true) :
    (∀ bytes, s.writeRefused pa bytes.length true = false →
      exec (.hostWriteArrival link pa bytes) s = .next (s.writeMem none pa bytes)) ∧
    (∀ n, exec (.hostReadArrival link pa n) s = .next ((s.noteAgent pa n).send (.hostRead link (s.agentRead pa n)))) ∧
    (∀ acc act, atomicOpOf acc = some act → exec (.hostAtomicopArrival link pa acc) s =
      .next ((s.agentRmw pa act true).1.send (.hostResult link ((s.agentRmw pa act true).2.map Prod.fst)))) ∧
    (∀ acc, atomicOpOf acc = none → exec (.hostAtomicopArrival link pa acc) s = .next (s.send (.hostResult link none))) := by
  refine ⟨fun bytes hr => ?_, fun n => congrArg Host.Outcome.next (if_pos hl), fun acc act ha => ?_, fun acc ha => ?_⟩
  · exact congrArg Host.Outcome.next (if_neg (by rw [hl, hr]; decide))
  · rw [exec_hostAtomicopArrival]
    unfold execHostAtomicopArrival
    rw [hl, ha]
    rfl
  · rw [exec_hostAtomicopArrival]
    unfold execHostAtomicopArrival
    rw [hl, ha]
    rfl

theorem State.agentRmw_write {s : State} {pa : Nat} {act : Rmw} {priv : Bool} {bs : List Byte} (ha : pa % act.size = 0)
    (hr : s.writeRefused pa act.size (priv || act.fused) = false) (hp : s.poisoned pa act.size = false)
    (hw : (act.run (s.bytesAt pa act.size) (s.version (pa / 128))).write = some bs) :
    s.agentRmw pa act priv = (s.writeMem none pa bs, some (s.bytesAt pa act.size,
      (act.run (s.bytesAt pa act.size) (s.version (pa / 128))).words)) := by
  have hgo : ¬(pa % act.size ≠ 0 ∨ s.writeRefused pa act.size (priv || act.fused) = true ∨ s.poisoned pa act.size = true) := by
    rintro (h | h | h)
    · exact h ha
    · exact Bool.false_ne_true (hr.symm.trans h)
    · exact Bool.false_ne_true (hp.symm.trans h)
  unfold State.agentRmw lineOf
  dsimp only
  rw [if_neg hgo, hw]

/-- Settles O49: writes, reads and read-modify-writes of the other devices, and those of the host. -/
theorem outsideAccesses : Obligations.OutsideAccesses :=
  ⟨remote_cases, fun _ _ _ => rfl, fun _ _ _ _ _ _ => rfl, host_cases, fun _ _ _ _ _ => State.agentRmw_write⟩

end Sys2Proof.Machine
end

section
/-!
PROOFS. Snapshots, error records, failures and fencing (R112, R327, R332, R333, R349, R350, R352, R355 to R357).
-/

namespace Sys2Proof.Machine

/-! ## Snapshots and errors -/

theorem State.snapLatch_of {s : State} {h : SnapHeader} (hp : s.snap.pending = some h) (hc : h.cycle.toNat ≤ s.now) :
    s.snapLatch = { s with snap := { s.snap with pending := none, held := some (h, s.snapRegs) } } := by
  unfold State.snapLatch
  rw [hp]
  exact if_pos hc

theorem State.triggerSnap_free {s : State} (hp : s.snap.pending = none) (hh : s.snap.held = none) (source : Nat) (cause : Word)
    (core thr : Nat) : s.triggerSnap source cause core thr = { s with snap := { s.snap with pending := some {
      source := source, cycle := BitVec.ofNat 64 (s.now + 64), cause := cause, core := s.logicalCore core, thr := thr } } } := by
  unfold State.triggerSnap
  exact if_neg (by rw [hp, hh]; decide)

theorem State.triggerSnap_missed {s : State} (h : s.snap.pending ≠ none ∨ s.snap.held ≠ none) (source : Nat) (cause : Word)
    (core thr : Nat) : s.triggerSnap source cause core thr = { s with snap := { s.snap with missed := min (s.snap.missed + 1) 0xFFFF } } := by
  unfold State.triggerSnap
  exact if_pos (by rw [Bool.or_eq_true, Option.isSome_iff_ne_none, Option.isSome_iff_ne_none]; exact h)

theorem not_contains {xs : List Nat} {x : Nat} (h : x ∉ xs) : xs.contains x = false := by
  rw [List.contains_eq_mem]
  exact decide_eq_false h

theorem health_cases (s : State) :
    exec .snapread s = .next (s.send (.snapshot s.snap.held s.snap.missed)) ∧
    exec .snapRearm s = .next { s.send (.snapshot s.snap.held s.snap.missed) with snap := { s.snap with held := none, missed := 0 } } ∧
    (s.snap.pending = none → s.snap.held = none →
      let h : SnapHeader := { source := 1, cycle := BitVec.ofNat 64 (s.now + 64), cause := 0, core := s.logicalCore 0, thr := 0 }
      exec .snaptrig s = .next { s with snap := { s.snap with pending := some h } }) ∧
    (s.snap.pending ≠ none ∨ s.snap.held ≠ none → exec .snaptrig s =
      .next { s with snap := { s.snap with missed := min (s.snap.missed + 1) 0xFFFF } }) ∧
    (∀ e, exec (.correctedError e) s = .next { s with mgmt := { s.mgmt with
      corrected := s.mgmt.corrected.modify (placeNo e) (fun n => n + 1) } }) ∧
    (∀ n, inPhysical (32 * n) 32 = true → exec (.uncorrectableError (.sector n)) s =
      .next { s with poison := s.poison ++ (List.range' (32 * n) 32).filter (fun k => !s.poison.contains k) }) ∧
    (∀ k j n, exec (.uncorrectableError (.reg k j n)) s = .next (s.modThread k j (fun th =>
      if n < th.regs.length then { th with poisonRegs := addNew th.poisonRegs [n] } else th))) ∧
    (∀ k w, exec (.uncorrectableError (.spad k w)) s = .next (s.modTeam k (fun t =>
      if 4 * w + 4 ≤ t.spadBytes then { t with spadPoison := addNew t.spadPoison (List.range' (4 * w) 4) } else t))) ∧
    (∀ port, port < 16 → port ∉ s.mgmt.failedPorts →
      exec (.fabricLinkFailure port) s = .next { s with mgmt := { s.mgmt with failedPorts := s.mgmt.failedPorts ++ [port] } }) ∧
    (∀ node, node ≤ 143 → node ≠ s.ownNode → node ∉ s.mgmt.lost →
      exec (.deviceLost node) s = .next { s with mgmt := { s.mgmt with lost := s.mgmt.lost ++ [node] } }) ∧
    exec (.pcieLinkDown 0) s = .next { s with mgmt := { s.mgmt with link0Up := false } } ∧
    exec (.pcieLinkDown 1) s = .next { s with mgmt := { s.mgmt with link1Up := false } } ∧
    exec (.pcieLinkUp 0) s = .next { s with mgmt := { s.mgmt with link0Up := true } } ∧
    exec (.pcieLinkUp 1) s = .next { s with mgmt := { s.mgmt with link1Up := true } } ∧
    exec .thermalTrip s = .next { s with mgmt := { s.mgmt with state := 2, hot := true } } ∧
    exec .currentLimit s = .next ((List.range 192).foldl State.closeCore s) := by
  refine ⟨rfl, rfl, fun hp hh => ?_, fun h => ?_, fun _ => rfl, fun n hn => ?_, fun _ _ _ => rfl, fun _ _ => rfl,
    fun port hp hf => ?_, fun node hn ho hl => ?_, rfl, rfl, rfl, rfl, rfl, rfl⟩
  · exact congrArg Host.Outcome.next (State.triggerSnap_free hp hh 1 0 0 0)
  · exact congrArg Host.Outcome.next (State.triggerSnap_missed h 1 0 0 0)
  · exact congrArg Host.Outcome.next (if_pos hn)
  · exact congrArg Host.Outcome.next (if_pos ⟨hp, by rw [not_contains hf]; rfl⟩)
  · exact congrArg Host.Outcome.next (if_pos ⟨hn, ho, by rw [not_contains hl]; rfl⟩)

/-! ## The beginning of a fencing -/

theorem foldl_mgmt {α : Type} {f : State → α → State} (h : ∀ s a, (f s a).mgmt = s.mgmt) (xs : List α) (s : State) :
    (xs.foldl f s).mgmt = s.mgmt := by
  induction xs generalizing s with
  | nil => rfl
  | cons x xs ih => exact (ih _).trans (h s x)

theorem State.alertMasters_mgmt (s : State) : s.alertMasters.mgmt = s.mgmt :=
  foldl_mgmt (fun s fn => State.send_mgmt s (.irq fn 17)) _ (s.send .alert)

theorem State.alertMasters_teams (s : State) : s.alertMasters.teams = s.teams := by
  unfold State.alertMasters
  generalize List.range 17 = fns
  suffices h : ∀ u : State, (fns.foldl (fun s fn => s.send (.irq fn 17)) u).teams = u.teams from h (s.send .alert)
  induction fns with
  | nil => exact fun _ => rfl
  | cons fn fns ih => exact fun u => ih (u.send (.irq fn 17))

theorem State.stopTeams_mgmt (s : State) (ks : List Nat) (held : Bool) : (s.stopTeams ks held).mgmt = s.mgmt := by
  have hturns : (s.endTurns (fun t => ks.contains t.team)).mgmt = s.mgmt := foldl_mgmt (fun _ _ => by rfl) _ s
  refine Eq.trans ?_ hturns
  exact foldl_mgmt (fun s k => by exact State.modTeam_mgmt s k (Team.stop held)) ks
    { s.endTurns (fun t => ks.contains t.team) with turns := s.turns.filter (fun t => !ks.contains t.team) }

/-- The state in which step 1 of R356 leaves a unit to be fenced. -/
def State.toFence (s : State) (u : DeviceUnit) : State :=
  State.alertMasters { s with mgmt := { s.mgmt with
    record := s.mgmt.record ++ [u], replace := true, state := max 1 s.mgmt.state, fencing := s.mgmt.fencing ++ [u] } }

theorem State.fenceBegin_core (s : State) (n : Nat) : s.fenceBegin (.core n) =
    ((s.toFence (.core n)).setsOn n).foldl (fun s ks => s.stopTeams ks false) (s.toFence (.core n)) := rfl

theorem State.fenceBegin_other {u : DeviceUnit} (h : ∀ n, u ≠ .core n) (s : State) : s.fenceBegin u = s.toFence u := by
  cases u with
  | core n => exact absurd rfl (h n)
  | slice n | stack n => rfl

theorem State.fenceBegin_mgmt (s : State) (u : DeviceUnit) : (s.fenceBegin u).mgmt = { s.mgmt with
    record := s.mgmt.record ++ [u], replace := true, state := max 1 s.mgmt.state, fencing := s.mgmt.fencing ++ [u] } := by
  have hm : (s.toFence u).mgmt = _ := State.alertMasters_mgmt _
  cases u with
  | core n =>
    rw [State.fenceBegin_core]
    exact (foldl_mgmt (fun s ks => State.stopTeams_mgmt s ks false) _ _).trans hm
  | slice n | stack n => exact hm

/-! ## The teams of a core that fails stop with their hub sets -/

/-- Team k runs, or has been stopped where it may be restored. -/
def State.StopsOrStopped (s : State) (k : Nat) : Prop :=
  ∃ t : Team, s.teams[k]? = some t ∧ (t.status = .resident ∨ t.status = .stopped false)

def State.Stopped (s : State) (k : Nat) : Prop := ∃ t : Team, s.teams[k]? = some t ∧ t.status = .stopped false

theorem Team.stop_status {t : Team} (h : t.status = .resident ∨ t.status = .stopped false) : (t.stop false).status = .stopped false := by
  unfold Team.stop
  obtain h | h := h
  · rw [if_neg (not_not_intro h)]
  · rw [if_pos (by rw [h]; exact nofun)]
    exact h

theorem State.stopTeams_stops {s : State} {k : Nat} {ks : List Nat} (hk : k ∈ ks) (h : s.StopsOrStopped k) :
    (s.stopTeams ks false).Stopped k := by
  obtain ⟨t, ht, hs⟩ := h
  obtain ⟨g, hg⟩ := State.stopTeams_named hk ht false
  exact ⟨_, hg, Team.stop_status hs⟩

theorem State.Stopped.stopsOrStopped {s : State} {k : Nat} (h : s.Stopped k) : s.StopsOrStopped k := by
  obtain ⟨t, ht, hs⟩ := h
  exact ⟨t, ht, .inr hs⟩

theorem State.Stopped.stopTeams {s : State} {k : Nat} (h : s.Stopped k) (ks : List Nat) : (s.stopTeams ks false).Stopped k := by
  by_cases hk : k ∈ ks
  · exact State.stopTeams_stops hk h.stopsOrStopped
  · obtain ⟨t, ht, hs⟩ := h
    exact ⟨t, (State.stopTeams_other hk s false).trans ht, hs⟩

theorem State.StopsOrStopped.stopTeams {s : State} {k : Nat} (h : s.StopsOrStopped k) (ks : List Nat) :
    (s.stopTeams ks false).StopsOrStopped k := by
  by_cases hk : k ∈ ks
  · exact (State.stopTeams_stops hk h).stopsOrStopped
  · obtain ⟨t, ht, hs⟩ := h
    exact ⟨t, (State.stopTeams_other hk s false).trans ht, hs⟩

theorem State.Stopped.foldl {s : State} {k : Nat} (h : s.Stopped k) (sets : List (List Nat)) :
    (sets.foldl (fun s ks => s.stopTeams ks false) s).Stopped k := by
  induction sets generalizing s with
  | nil => exact h
  | cons ks sets ih => exact ih (h.stopTeams ks)

/-- A team that one of the stopped sets names is stopped after them all. -/
theorem State.foldl_stopTeams {s : State} {k : Nat} {sets : List (List Nat)} (h : s.StopsOrStopped k) (hk : ∃ ks ∈ sets, k ∈ ks) :
    (sets.foldl (fun s ks => s.stopTeams ks false) s).Stopped k := by
  induction sets generalizing s with
  | nil => obtain ⟨ks, hks, -⟩ := hk; cases hks
  | cons x sets ih =>
    by_cases hx : k ∈ x
    · exact (State.stopTeams_stops hx h).foldl sets
    · obtain ⟨ks, hks, hmem⟩ := hk
      obtain rfl | hks := List.mem_cons.1 hks
      · exact absurd hmem hx
      · exact ih (h.stopTeams x) ⟨ks, hks, hmem⟩

/-- The sets of a core name every team that has a slot and shares the hub set of one with a slot there. -/
theorem State.mem_setsOn {s : State} {n k : Nat} {t t' : Team} (ht : s.teams[k]? = some t) (hs : t.seated = true)
    (hm : t' ∈ s.teams) (hc : t'.core = n) (hs' : t'.seated = true) (hh : t'.hubset = t.hubset) : ∃ ks ∈ s.setsOn n, k ∈ ks := by
  have hset : t'.hubset ∈ ((s.residents n).map (fun t => t.hubset)).eraseDups :=
    List.mem_eraseDups.2 (List.mem_map.2 ⟨t', List.mem_filter.2 ⟨hm, by rw [decide_eq_true hc, hs']; rfl⟩, rfl⟩)
  refine ⟨_, List.mem_map.2 ⟨_, hset, rfl⟩, List.mem_filter.2 ⟨List.mem_range.2 (List.getElem?_eq_some_iff.1 ht).1, ?_⟩⟩
  rw [ht, hh]
  dsimp only
  rw [decide_eq_true rfl, hs]
  rfl

theorem State.fenceBegin_stops {s : State} {n k : Nat} {t t' : Team} (ht : s.teams[k]? = some t) (hr : t.status = .resident)
    (hm : t' ∈ s.teams) (hc : t'.core = n) (hs' : t'.seated = true) (hh : t'.hubset = t.hubset) :
    (s.fenceBegin (.core n)).Stopped k := by
  have hteams : (s.toFence (.core n)).teams = s.teams := State.alertMasters_teams _
  have hs : t.seated = true := by unfold Team.seated; rw [hr]
  rw [State.fenceBegin_core]
  refine State.foldl_stopTeams ⟨t, by rw [hteams]; exact ht, .inl hr⟩ (State.mem_setsOn (t' := t') ?_ hs ?_ hc hs' hh)
  · rw [hteams]; exact ht
  · rw [hteams]; exact hm

/-! ## The end of a fencing -/

theorem State.fenceReady_of {s : State} {u : DeviceUnit} (h : ∀ n, u = .core n → s.setsOn n = []) : s.fenceReady u = true := by
  cases u with
  | core n => unfold State.fenceReady; dsimp only; rw [h n rfl]; rfl
  | slice n | stack n => rfl

theorem State.fenceEnd_of {s : State} {u : DeviceUnit} (h : ∀ n, u = .core n → s.setsOn n = []) : s.fenceEnd u = (
    let m := { s.mgmt.addUnit u with fencing := s.mgmt.fencing.erase u }
    { s with queues := s.queues.map Queue.recheck, mgmt := { m with state := if m.cannotRun then 2 else m.state } }) := by
  cases u with
  | core n => unfold State.fenceEnd; dsimp only; rw [h n rfl]; rfl
  | slice n | stack n => rfl

theorem State.fenceSteps_of {s : State} {u : DeviceUnit} (hf : s.mgmt.fencing = [u]) (h : ∀ n, u = .core n → s.setsOn n = []) :
    s.fenceSteps = (
      let m := { s.mgmt.addUnit u with fencing := [] }
      { s with queues := s.queues.map Queue.recheck, mgmt := { m with state := if m.cannotRun then 2 else m.state } }) := by
  have hstep : s.fenceSteps = s.fenceEnd u := by
    unfold State.fenceSteps
    rw [hf]
    refine if_pos ?_
    rw [hf, State.fenceReady_of h, List.head?_cons, decide_eq_true rfl]
    rfl
  rw [hstep, State.fenceEnd_of h, hf, List.erase_cons_head]

theorem fence_cases (s : State) (u : DeviceUnit) (hc : s.mgmt.canFence u = true) : exec (.unitFailure u) s = exec (.fence u) s ∧
    exec (.unitFailure u) s = .next (s.fenceBegin u).fenceSteps ∧
    (s.fenceBegin u).mgmt = { s.mgmt with
      record := s.mgmt.record ++ [u], replace := true, state := max 1 s.mgmt.state, fencing := s.mgmt.fencing ++ [u] } ∧
    (∀ n, u = .core n → ∀ (k : Nat) (t t' : Team), s.teams[k]? = some t → t.status = .resident → t' ∈ s.teams → t'.core = n → t'.seated = true →
      t'.hubset = t.hubset → ∃ v : Team, (s.fenceBegin u).teams[k]? = some v ∧ v.status = .stopped false) ∧
    ((∀ n, u ≠ .core n) → s.fenceBegin u = State.alertMasters { s with mgmt := { s.mgmt with
      record := s.mgmt.record ++ [u], replace := true, state := max 1 s.mgmt.state, fencing := s.mgmt.fencing ++ [u] } }) := by
  have hfence : s.fenceUnit u = (s.fenceBegin u).fenceSteps := if_pos hc
  have hcommand : exec (.fence u) s = .next (s.fenceUnit u) := congrArg Host.Outcome.next (if_pos hc)
  refine ⟨hcommand.symm, congrArg Host.Outcome.next hfence, s.fenceBegin_mgmt u, ?_, fun h => State.fenceBegin_other h s⟩
  rintro n rfl k t t' ht hr hm hcore hs' hh
  exact State.fenceBegin_stops ht hr hm hcore hs' hh

/-- Settles O50: snapshots and error records, and the fencing of a unit from its first step to its last. -/
theorem deviceHealth : Obligations.DeviceHealth :=
  ⟨fun _ _ hp hc => congrArg Host.Outcome.next (State.snapLatch_of hp hc), health_cases, fence_cases, fun _ _ => State.fenceSteps_of⟩

end Sys2Proof.Machine
end

section
/-!
PROOFS. The management port's commands, requests, and resets (R348, R351, R353, R354, R357).
-/

namespace Sys2Proof.Machine

/-! ## Commands and requests -/

theorem command_cases (s : State) :
    (∀ n, 800 ≤ n → n ≤ 2600 → exec (.pcap n) s = .next { s with mgmt := { s.mgmt with pcap := n } }) ∧
    (∀ n, n < 800 ∨ 2600 < n → exec (.pcap n) s = .next (s.send (.refused 0x06))) ∧
    (∀ (i : FwImage) (sig : List Byte), s.mgmt.rollback ≤ i.version →
      exec (.fwupdate i sig) s = .next { s with mgmt := { s.mgmt with staged := some (i, sig) } }) ∧
    (∀ (i : FwImage) (sig : List Byte), i.version < s.mgmt.rollback → exec (.fwupdate i sig) s = .next (s.send (.refused 0x04))) ∧
    (∀ u, s.mgmt.canFence u = false → exec (.fence u) s = .next (s.send (.refused 0x07))) ∧
    (s.mgmt.attest < 2 ^ 20 → exec .attestation s =
      .next (({ s with mgmt := { s.mgmt with attest := s.mgmt.attest + 1 } } : State).send (s.attest s.mgmt.attest))) ∧
    (2 ^ 20 ≤ s.mgmt.attest → exec .attestation s = .next s) := by
  refine ⟨fun n h1 h2 => ?_, fun n h => ?_, fun i sig h => ?_, fun i sig h => ?_, fun u h => ?_, fun h => ?_, fun h => ?_⟩
  · exact congrArg Host.Outcome.next (if_pos ⟨h1, h2⟩)
  · refine congrArg Host.Outcome.next (if_neg ?_)
    rintro ⟨h1, h2⟩
    omega
  · exact congrArg Host.Outcome.next (if_pos h)
  · exact congrArg Host.Outcome.next (if_neg (Nat.not_le.2 h))
  · exact congrArg Host.Outcome.next (if_neg (Bool.eq_false_iff.1 h))
  · exact congrArg Host.Outcome.next (if_pos h)
  · exact congrArg Host.Outcome.next (if_neg (Nat.not_lt.2 h))

theorem State.barRead_health (s : State) {fn : Nat} (h : fn < 17) : s.barRead fn 0 = some s.health := by
  unfold State.barRead
  exact if_pos ⟨h, rfl⟩

theorem requestTaken_own : requestTaken 0x7F (Config.vendor 0) = true := by
  unfold requestTaken vendorMessage
  rw [decide_eq_true rfl, decide_eq_true rfl]
  rfl

theorem requestTaken_other {kind : Byte} {vendor : Word} (h : kind ≠ 0x7F#8 ∨ vendor ≠ Config.vendor 0) :
    requestTaken kind vendor = false := by
  unfold requestTaken vendorMessage
  obtain h | h := h
  · rw [show decide (kind = 127) = false from decide_eq_false h, Bool.false_and]
  · rw [decide_eq_false h, Bool.and_false]

theorem Input.row_own (cmd : Byte) (payload : List Byte) :
    (Input.request 0x7F (Config.vendor 0) cmd payload).row = commandOf cmd payload := by
  unfold Input.row
  exact if_pos requestTaken_own

theorem request_ignored (s : State) {kind : Byte} {vendor : Word} (h : kind ≠ 0x7F#8 ∨ vendor ≠ Config.vendor 0) (cmd : Byte)
    (payload : List Byte) :
    (Input.request kind vendor cmd payload).row = none ∧ s.takeInput (.request kind vendor cmd payload) = s :=
  have hno : ¬requestTaken kind vendor = true := Bool.eq_false_iff.1 (requestTaken_other h)
  ⟨if_neg hno, if_neg hno⟩

theorem command_rows (payload : List Byte) :
    let row (cmd : Byte) := (Input.request 0x7F (Config.vendor 0) cmd payload).row
    row 0x01 = some .health ∧ row 0x02 = some (if payload = [1] then .snapRearm else .snapread) ∧ row 0x03 = some .snaptrig ∧
    row 0x05 = some .reset ∧ row 0x06 = some (.pcap (leNat payload)) ∧ (payload = [0xFF] → row 0x07 = some .fenceClear) ∧
    row 0x08 = some .fwcommit := by
  intro row
  have hrow (cmd : Byte) : row cmd = commandOf cmd payload := Input.row_own cmd payload
  exact ⟨hrow _, hrow _, hrow _, hrow _, hrow _, fun h => (hrow _).trans (if_pos h), hrow _⟩

/-! ## Boot -/

/-- What fencing units again at a boot leaves of the management records. -/
def Mgmt.SameButUnits (m r : Mgmt) : Prop :=
  r.rollback = m.rollback ∧ r.attest = m.attest ∧ r.record = m.record ∧ r.running = m.running

theorem Mgmt.addUnit_same (m : Mgmt) (u : DeviceUnit) : m.SameButUnits (m.addUnit u) := by
  cases u <;> exact ⟨rfl, rfl, rfl, rfl⟩

theorem Mgmt.foldl_addUnit_same (us : List DeviceUnit) (m : Mgmt) : m.SameButUnits (us.foldl Mgmt.addUnit m) := by
  induction us generalizing m with
  | nil => exact ⟨rfl, rfl, rfl, rfl⟩
  | cons u us ih =>
    obtain ⟨hr, ha, hc, hi⟩ := ih (m.addUnit u)
    obtain ⟨hr', ha', hc', hi'⟩ := m.addUnit_same u
    exact ⟨hr.trans hr', ha.trans ha', hc.trans hc', hi.trans hi'⟩

/-- The image that runs after a boot. -/
def Mgmt.booted (m : Mgmt) : FwImage :=
  match m.staged with
  | some (i, sig) => if m.takes i sig then i else m.running
  | none => m.running

theorem Mgmt.boot_keeps (m : Mgmt) : m.boot.rollback = m.rollback ∧ m.boot.attest = m.attest ∧
    m.boot.record = (if m.clearRecord then [] else m.record) ∧ m.boot.running = m.booted := by
  unfold Mgmt.boot
  exact Mgmt.foldl_addUnit_same _ _

theorem Mgmt.boot_hot {m : Mgmt} (h : m.hot = true) : m.boot.state = 2 := by
  unfold Mgmt.boot
  exact if_pos (by rw [h, Bool.or_true])

theorem xmssVerify_length {key message signature : List Byte} (h : xmssVerify key message signature = true) :
    signature.length = 2820 := by
  unfold xmssVerify at h
  simp only [Bool.and_eq_true, decide_eq_true_eq] at h
  obtain ⟨⟨⟨hlen, -⟩, -⟩, -⟩ := h
  exact hlen

theorem Mgmt.takes_iff (m : Mgmt) (i : FwImage) (sig : List Byte) : m.takes i sig = true ↔ m.rollback ≤ i.version ∧
    xmssVerify ((List.range 64).map Config.fwKey) (Config.signedBytes i.version i.body) sig = true := by
  unfold Mgmt.takes
  rw [Bool.and_eq_true, decide_eq_true_eq]

theorem Mgmt.booted_staged {m : Mgmt} {i : FwImage} {sig : List Byte} (h : m.staged = some (i, sig)) :
    m.booted = if m.takes i sig then i else m.running := by
  unfold Mgmt.booted
  rw [h]

theorem Mgmt.boot_image {m : Mgmt} {i : FwImage} {sig : List Byte} (h : m.staged = some (i, sig)) :
    (sig.length = 2820 ∧ m.rollback ≤ i.version ∧
      xmssVerify ((List.range 64).map Config.fwKey) (Config.signedBytes i.version i.body) sig = true → m.booted = i) ∧
    (sig.length ≠ 2820 ∨ i.version < m.rollback ∨
      xmssVerify ((List.range 64).map Config.fwKey) (Config.signedBytes i.version i.body) sig = false → m.booted = m.running) := by
  refine ⟨fun ⟨_, hv, hx⟩ => (Mgmt.booted_staged h).trans (if_pos ((m.takes_iff i sig).2 ⟨hv, hx⟩)),
    fun hbad => (Mgmt.booted_staged h).trans (if_neg fun ht => ?_)⟩
  obtain ⟨hv, hx⟩ := (m.takes_iff i sig).1 ht
  obtain hbad | hbad | hbad := hbad
  · exact hbad (xmssVerify_length hx)
  · exact absurd hv (Nat.not_le.2 hbad)
  · exact Bool.false_ne_true (hbad.symm.trans hx)

theorem State.reboot_contexts (s : State) : ∀ c ∈ s.reboot.contexts, c.teams = [] := by
  intro c hc
  obtain ⟨c', -, rfl⟩ := List.mem_map.1 hc
  rfl

theorem State.reboot_mem' (s : State) : ∀ x ∈ s.reboot.mem, x ∈ s.mem ∧ 2 ^ 52 ≤ x.1 := by
  intro x hx
  obtain ⟨hm, hp⟩ := List.mem_filter.1 hx
  exact ⟨hm, of_decide_eq_true hp⟩

theorem reboot_cases (s : State) : let u := s.reboot
    u.teams = [] ∧ u.grids = [] ∧ u.queues = [] ∧ u.now = 0 ∧ u.mgmt.rollback = s.mgmt.rollback ∧ u.mgmt.attest = s.mgmt.attest ∧
    (s.mgmt.clearRecord = true → u.mgmt.record = []) ∧ (s.mgmt.clearRecord = false → u.mgmt.record = s.mgmt.record) ∧
    (s.mgmt.hot = true → u.mgmt.state = 2) ∧ (∀ c ∈ u.contexts, c.teams = []) ∧
    (∀ i sig, s.mgmt.staged = some (i, sig) →
      (sig.length = 2820 ∧ s.mgmt.rollback ≤ i.version ∧
        xmssVerify ((List.range 64).map Config.fwKey) (Config.signedBytes i.version i.body) sig = true → u.mgmt.running = i) ∧
      (sig.length ≠ 2820 ∨ i.version < s.mgmt.rollback ∨
        xmssVerify ((List.range 64).map Config.fwKey) (Config.signedBytes i.version i.body) sig = false →
        u.mgmt.running = s.mgmt.running)) ∧
    ∀ x ∈ u.mem, x ∈ s.mem ∧ 2 ^ 52 ≤ x.1 := by
  intro u
  obtain ⟨hroll, hattest, hrecord, hrun⟩ := s.mgmt.boot_keeps
  refine ⟨rfl, rfl, rfl, rfl, hroll, hattest, fun h => hrecord.trans (if_pos h),
    fun h => hrecord.trans (if_neg (Bool.eq_false_iff.1 h)), Mgmt.boot_hot, s.reboot_contexts, fun i sig h => ?_, s.reboot_mem'⟩
  obtain ⟨htakes, hkeeps⟩ := Mgmt.boot_image h
  exact ⟨fun hok => hrun.trans (htakes hok), fun hbad => hrun.trans (hkeeps hbad)⟩

/-- Settles O51: the commands, the rows that requests are, and what a reset leaves. -/
theorem managementCommands : Obligations.ManagementCommands := by
  intro s
  obtain ⟨hcap, hcap', hupdate, hupdate', hfence, hattest, hattest'⟩ := command_cases s
  exact ⟨hcap, hcap', hupdate, hupdate', rfl, rfl, hfence, hattest, hattest', rfl,
    fun fn hfn => congrArg (fun x => s.send (.register fn 0 x)) (s.barRead_health hfn),
    fun _ _ cmd payload h => request_ignored s h cmd payload, command_rows, s.reboot, rfl, rfl, rfl, reboot_cases s⟩

end Sys2Proof.Machine
end
